-- ==== Sys2Proof/Word.lean ====
section
/-! DEFINITION. The word types of the model and their plainest arithmetic. -/

namespace Sys2Proof

/-- One byte of a scratchpad, of GDDR7 or of a block on a link. -/
abbrev Byte := BitVec 8

/-- A CSR word (R509) or an FP32 lane of a vector register (R82). -/
abbrev Word32 := BitVec 32

/-- A general register of a tile, or an instruction word (R82, R85). -/
abbrev Word64 := BitVec 64

/-- Bits `hi` down to `lo` of a number, as the spec writes `[hi:lo]`. -/
def bitsOf (x hi lo : Nat) : Nat := (x / 2 ^ lo) % 2 ^ (hi - lo + 1)

/-- Bit `i` of a number. -/
def bitOf (x i : Nat) : Bool := (x / 2 ^ i) % 2 == 1

/-- The quotient of two numbers, rounded up. -/
def ceilDiv (a b : Nat) : Nat := (a + b - 1) / b

end Sys2Proof
end

