-- ==== Sys2Proof/Syntax.lean ====
section
/-! DEFINITION. The commands of the block: one constructor of `Instr` for each row of the table of operations and
events, and the operand types that the commands carry. A command stands for one step of the part: an event at a pin, on
a link, at the host interface, in firmware or in a tile. -/

namespace Sys2Proof

/-- A logical tile by its flat logical number d × 1,536 + rr × 32 + cc (R8). -/
abbrev TileId := Fin 6144

/-- An Afpen link L0–L35 (R12). -/
abbrev LinkId := Fin 36

/-- A device by its 13-bit flat ID (R11). -/
abbrev DevId := BitVec 13

/-- The two ports at which registers are reached: BAR0, or firmware (which also serves PLDM) (R515). -/
inductive Port where
  | host
  | fw
deriving DecidableEq, Repr

/-- The source device and the message number of a management message, under which a repeat is discarded (R432). -/
structure MsgId where
  src : DevId
  num : BitVec 16
deriving DecidableEq, Repr

/-- A packet of the fabric: the 16 B header (R195), the relay word of a relayed packet (R276), the payload bytes, and
the indices of the payload's 8 B words that are marked as poison (R104). Of a packet that arrives with a header check that
fails, `seenAt` is the position of the router that finds it out (R196): none for the destination's own. -/
structure Pkt where
  hdr : BitVec 128
  relay : Option (BitVec 128)
  data : List Byte
  bad : List Nat
  seenAt : Option (Fin 6336) := none
deriving DecidableEq, Repr

/-- An epoch record, CTYPE 1 (R38, R322). -/
structure EpochRec where
  num : BitVec 16
  gen : BitVec 8
  start : Word64
  table : BitVec 8
deriving DecidableEq, Repr

/-- A release record (R60, R323): the hall tack, its round parity, the commit decision and the start bit (H7 only) and
the carried bits [21:6] of s. -/
structure ReleaseRec where
  h : Fin 8
  parity : Bool
  commit : Bool
  start : Bool
  s : BitVec 16
deriving DecidableEq, Repr

/-- A hold record (R244, R323). -/
structure HoldRec where
  h : Fin 8
  parity : Bool
  span : Fin 32
  hseq : Fin 16
deriving DecidableEq, Repr

/-- A resume or abort record (R246, R248, R323): the carried bits [21:6] of its AT. -/
structure GridRec where
  h : Fin 8
  parity : Bool
  r : BitVec 16
deriving DecidableEq, Repr

/-- A parameter record, CTYPE 2 (R72, R322). -/
structure ParamRec where
  step : Word64
  mbCount : BitVec 8
  lane3 : Bool
deriving DecidableEq, Repr

/-- A 256 B block as it arrives at the deserialiser: its bytes, whether every codeword that it touches was correctable
(R318), the codewords that ended with it and were corrected or were uncorrectable, and the arrival instant of its first
bit: the AT nanosecond and the fraction in 2^-16 ns (R26).
(DESIGN CHOICE, log entry 17; DESIGN CHOICE, log entry 17) -/
structure RxBlock where
  bytes : List Byte
  fecOk : Bool
  corr : Nat
  uncorr : Nat
  arrNs : Nat
  arrFrac : BitVec 16
deriving DecidableEq, Repr

/-- What a scalar instruction does. The opcodes are listed outside the spec (R87), so the command names the operation:
integer arithmetic, a compare into a predicate, a select by a predicate, a branch, a call or a return; `imm` says that
the instruction has format I, and not format S. `unlisted` is an opcode that the reference does not list. -/
inductive ScalarOp where
  | unlisted
  | arith (imm : Bool)
  | compare (imm : Bool) (p : Fin 8)
  | select (imm : Bool) (p : Fin 8)
  | branch (imm : Bool)
  | call (imm : Bool)
  | ret
deriving DecidableEq, Repr

/-- A load or a store, of a g or of a v register (R86); the opcodes are listed outside the spec (R87), and `listed` says
whether the word's is. -/
structure MemOp where
  listed : Bool
  store : Bool
  vec : Bool
deriving DecidableEq, Repr

/-- The relations of a vector compare (R148). -/
inductive CmpRel where
  | eq | ne | lt | le | gt | ge
deriving DecidableEq, Repr

/-- What a vector instruction does on each lane (R148); the opcodes are listed outside the spec (R87). `fma c` adds the
product of the two sources to register c; `other` is an operation that the spec leaves to the Ralek reference, and
`unlisted` an opcode that the reference does not list. -/
inductive VecKind where
  | unlisted
  | add | mul | min | max
  | fma (c : Fin 32)
  | cmp (rel : CmpRel)
  | other
deriving DecidableEq, Repr

/-- A vector operation and whether it has heritage semantics (R155). -/
structure VecOp where
  kind : VecKind
  her : Bool
deriving DecidableEq, Repr

/-- The direction of a convert that its opcode selects (R139): `inReg` narrows and widens again within v registers;
`listed` says whether the reference lists the opcode (R87). -/
structure CvtArgs where
  listed : Bool
  inReg : Bool
deriving DecidableEq, Repr

/-- The bit errors that have struck a tile since its last patrol event (R103, R118): the scratchpad words of 8 B with a
single-bit error and those with an uncorrectable one, by word number; the registers with a parity error (g0–g31 as 0–31,
v0–v31 as 32–63, p0–p7 as 64–71); the PCs of the buffered instruction words with one; and whether the pattern store has one.
(DESIGN CHOICE, log entry 69) -/
structure TileUpsets where
  single : List (Fin 24576)
  multi : List (Fin 24576)
  regs : List (Fin 72)
  buffer : List (BitVec 18)
  pattern : Bool
deriving DecidableEq, Repr

/-- One try of an access to a block (R297–R299): how often in a row the transfer fails its link CRC, and which bits of the
block come back wrong, 0 to 2,047 of the data and 2,048 to 2,079 of the check word. -/
structure MemTry where
  link : Nat
  flips : List (Fin 2080)
deriving DecidableEq, Repr

/-- What goes wrong with the accesses to a 256 B block of storage, reads or writes, try by try; further tries are clean. -/
structure BlockErr where
  block : Nat
  write : Bool
  tries : List MemTry
deriving DecidableEq, Repr

/-- What the memory devices, a peer or the host answer to one access of an engine: the errors of the blocks (R298, R299), the
data that a peer or the host returned, the blocks of it that came poisoned, and whether that transfer
succeeded.
(DESIGN CHOICE, log entry 17) -/
structure MemEnv where
  errs : List BlockErr
  ext : List Byte
  extBad : List Nat
  extOk : Bool
deriving DecidableEq, Repr

/-- A part of a pattern set that the loader fills (R221): a tile's half, an X die's half or routing table, or the Seam
descriptor. -/
inductive PatPart where
  | tile (t : TileId)
  | xhalf (x : Fin 2)
  | routes (x : Fin 2)
  | desc
deriving DecidableEq, Repr

/-- The identity that a link peer presents in AUTH (R340): its nonce, flat ID, domain ID, link number and the digest of
its identity certificate chain. -/
structure AuthPeer where
  nonce : List Byte
  dev : DevId
  domain : Nat
  link : LinkId
  digest : List Byte
deriving DecidableEq, Repr

/-- An identity certificate chain as the security engine sees it (R340, R493): its bytes, the flat ID and public key of
its leaf, and the keys and signatures of the certificates above it. -/
structure CertChain where
  bytes : List Byte
  key : List Byte
deriving DecidableEq, Repr

/-- The calibration of a link (R27, R339): the measured transmit and receive pipeline latencies of both ends, in 2^-16 ns,
and how long the training took in µs. -/
structure LinkCal where
  t : Int
  rx : Int
  peerT : Int
  peerRx : Int
  micros : Nat
deriving DecidableEq, Repr

/-- The symbol errors of each lane over the last 1 ms (R342). -/
abbrev LaneErrs := Vector Nat 4

/-- The stage of link training that fails (R339). -/
inductive TrainFail where
  | phy
  | absent
  | lock
  | cal
deriving DecidableEq, Repr

/-- A vector of the norm exchange (R364): the round, the device in whose place it is sent (R409), and the tap and noise
values, as FP64 bit patterns, in the order of the job image's norm list. -/
structure NormVec where
  round : Nat
  place : DevId
  vals : List Word64
deriving DecidableEq, Repr

/-- A Hem fold message (R378). -/
structure Fold where
  step : Word32
  count : Nat
  sent : Word64
  recv : Word64
  done : Bool
  fault : Bool
  lane3 : Bool
deriving DecidableEq, Repr

/-- A fault record as `JB_RCV_LAST` holds it (R389): layer, code, class H, device, logical and physical tile, link and
the AT of detection. -/
structure FaultRec where
  layer : Nat
  code : Nat
  classH : Bool
  dev : DevId
  ltile : Nat
  ptile : Nat
  link : Nat
  at_ : Nat
deriving DecidableEq, Repr

/-- The manager's answer to a decision request (R407). -/
structure DecisionRep where
  step : Word64
  commit : Bool
  mbCount : BitVec 8
  hem : Word64
  s : Word64
  parity : Bool
  start : Bool
deriving DecidableEq, Repr

/-- A tile and the ring of a tile on this or another device, as the mutual-wait search names them (R280). -/
structure MwPair where
  tile : TileId
  dev : DevId
  peer : TileId
  confirmed : Bool
deriving DecidableEq, Repr

/-- The qualified input conditions that end in an input fault (R445, R446). -/
inductive InputKind where
  | underVoltage
  | overVoltage
  | overCurrent
deriving DecidableEq, Repr

/-- Temperature readings in °C (R453, R457), filtered and range-checked: the sensors' medians of each die C0–C3, M0, M1, X0,
X1, the GDDR7 devices, the coolant inlet and outlet and the hottest regulator. -/
structure TempReadings where
  dies : List (List Nat)
  gddr : List Nat
  inlet : Nat
  outlet : Nat
  regulator : Nat
deriving DecidableEq, Repr

/-- What the sensors report at an evaluation (R451, R457): the power of the dies C0–C3, M0, M1, X0, X1 in mW, each a mean over
the compute cycles of the preceding 1,000 ns, and the input voltage in 10 mV, current in 10 mA and power in W. -/
structure PowerSample where
  dies : Vector Nat 8
  volts : Nat
  amps : Nat
  watts : Nat
deriving DecidableEq, Repr

/-- A reading of the module (R457, R462). Dies are numbered C0–C3, M0, M1, X0, X1. -/
inductive SensorId where
  | volts
  | amps
  | watts
  | diePower (d : Fin 8)
  | dieTemp (d : Fin 8)
  | gddr
  | inlet
  | outlet
  | powerState
deriving DecidableEq, Repr

/-- The kinds of test unit (R469). -/
inductive UnitKind where
  | tile
  | router
  | paths (row : Fin 48)
  | mUnit
  | xLink (n : LinkId)
  | xWindow
  | core
deriving DecidableEq, Repr

/-- The result of a unit test (R469–R476): the unit as R483 encodes it and its kind, what failed, whether spare rows
repaired it and how many, and the failing word, macro and bit or the signature. -/
structure TestResult where
  unit : BitVec 20
  kind : UnitKind
  logicFail : Bool
  memFail : Bool
  repaired : Bool
  spares : Nat
  address : Nat
  macro_ : Nat
  bit : Nat
  signature : Word64
deriving DecidableEq, Repr

/-- The blocks that have a snapshot set (R515). -/
inductive SnapBlock where
  | at_
  | tk
  | mn
  | bb
  | sp (m : Fin 2)
  | sq (m : Fin 2)
  | hv (m : Fin 2)
  | pw
  | sc
deriving DecidableEq, Repr

/-- The parameters of a timing table (R236). -/
structure TimingTable where
  id : BitVec 8
  rank : Nat
  txLat : Nat
  rxLat : Nat
  sbLat : Nat
deriving DecidableEq, Repr

/-- The LINKMAP entry of one link (R418, R344). -/
structure LinkCfg where
  en : Bool
  peerDev : DevId
  peerLink : LinkId
  level : Fin 4
  port : LinkId
  ladj : BitVec 16
deriving DecidableEq, Repr

/-- The contents of a configuration record (R418), section by section. `sound` says that its header and the lengths of its
sections check, that every TYPE is known, and that the ROLE, LINKMAP and TIMING sections are there. The POWER section gives
`PW_CTL`, `PW_LIMIT`, `PW_ALLOW` and `PW_THERM` (R448, R464); `biCtl` and `scCtl` are the values of `BI_CTL` and `SC_CTL`
(R483, R502).
(DESIGN CHOICE, log entry 12) -/
structure ConfigRec where
  sound : Bool
  gen : Nat
  devId : DevId
  domain : Nat
  role : Fin 4
  manager : DevId
  standby : DevId
  devices : List DevId
  links : List LinkCfg
  routes : List Nat
  spareMode : Bool
  pwCtl : Word32
  pwLimit : Word32
  pwAllow : Word32
  pwTherm : Word32
  biCtl : Word32
  scCtl : Word32
  tables : List TimingTable
  regInit : List (Nat × Word32)
  normGroups : List (List DevId)
  wdog : List Nat
deriving DecidableEq, Repr

/-- A signer certificate, a TYPE 5 object (R486): its header, its payload and its two signatures. -/
structure SignerCert where
  head : List Byte
  payload : List Byte
  sigE : List Byte
  sigL : List Byte
deriving DecidableEq, Repr

/-- A signed object (R486): the header, the payload, the embedded certificate and the two signatures. `cfg` is what the
payload of a TYPE 2 object holds, section by section.
(DESIGN CHOICE, log entry 12) -/
structure SignedObj where
  head : List Byte
  payload : List Byte
  cert : Option SignerCert
  sigE : List Byte
  sigL : List Byte
  cfg : Option ConfigRec
deriving DecidableEq, Repr

/-- A PLDM firmware update (R492): the image that is not running, or configuration copy `copy`. -/
structure UpdateObj where
  image : Bool
  copy : Fin 2
  obj : SignedObj
deriving DecidableEq, Repr

/-- An SPDM request (R493): the versions that the requester offers, or what it asks for, with the transcript that a signature
covers. -/
inductive SpdmReq where
  | version (offered : List Nat)
  | capabilities
  | algorithms
  | certificate (slot : Fin 8)
  | challenge (slot : Fin 8) (transcript : List Byte)
  | measurements (index : Nat) (signed : Bool) (transcript : List Byte)
  | keyExchange (transcript : List Byte)
  | finish (ok : Bool)
  | endSession
  | other
deriving DecidableEq, Repr

/-- A debug token as the UNLOCK request submits it (R499). -/
structure DebugToken where
  obj : SignedObj
deriving DecidableEq, Repr

/-- A request of IDE_KM (R497): the keys of stream 0, the link stream, or of selective stream 1 or 2 are set, or the stream
ends. -/
structure IdeReq where
  stream : Fin 3
  on : Bool
deriving DecidableEq, Repr

/-- What an external programmer has put into NVM before a boot (R418, R489, R496): the firmware images A and B, the two
configuration copies, the identity object, and the index of the journal record with the highest valid MAC.
(DESIGN CHOICE, log entry 6) -/
structure Flash where
  images : Vector (Option SignedObj) 2
  configs : Vector (Option SignedObj) 2
  ident : Option SignedObj
  journal : Option Nat
deriving DecidableEq, Repr

/-- What a boot meets (R417, R469–R475, R295): NVM contents that were programmed from outside since the last boot, the
results of the self-test that show a failure, the die of an edge that fails to train, the die whose fuses hold no signature
for a unit kind, and the GDDR7 devices that fail to train.
(DESIGN CHOICE, log entry 6) -/
structure BootEnv where
  flash : Option Flash
  tests : List TestResult
  edge : Option (Fin 8)
  noSig : Option (Fin 8)
  gddr : List (Fin 32)
deriving DecidableEq, Repr

/-- A window constraint of a span (R237, R240). -/
structure SpanCon where
  anchor : Nat
  off : Nat
  blocks : Nat
deriving DecidableEq, Repr

/-- A span of a Seam descriptor (R240). -/
structure SpanDesc where
  len : Nat
  cons : List SpanCon
deriving DecidableEq, Repr

/-- A Seam descriptor (R240). -/
structure SeamDesc where
  pid : BitVec 16
  hall : Bool
  spans : List SpanDesc
deriving DecidableEq, Repr

/-- A phase of a step (R49): the codes of `TK_STAT.PHASE`. -/
inductive PhaseKind where
  | forward | backward | update
deriving DecidableEq, Repr

/-- A MARK that the step description names for a round (R291, R361): of a Harvest stream, or of the stream of a tile's
spool. -/
inductive MarkRef where
  | harvest (m : Fin 2) (index : Nat)
  | spool (m : Fin 2) (tile : TileId) (spool : Fin 4) (index : Nat)
deriving DecidableEq, Repr

/-- One superstep of the step description (R49, R50): its phase, the tree that closes it, its pattern set, whether its
Seam is a digest Seam (R377), and, for each chip round with an M die as engine member, in the order of the rounds of its tree,
the MARKs that the M dies must have reached (R291, R361). -/
structure Superstep where
  phase : PhaseKind
  tree : Fin 32
  pid : BitVec 16
  digest : Bool
  marks : List (Fin 32 × List MarkRef)
deriving DecidableEq, Repr

/-- A binding of a chip tree (R76): its kind, its hall tack and its engine members, as the codes of `TK_BIND_n`. -/
structure TreeBind where
  tree : Fin 32
  kind : Fin 4
  hall : Nat
  eng : Nat
deriving DecidableEq, Repr

/-- The program of a tile (R402): its step entry PC and its resident image, as runs of bytes at scratchpad addresses. -/
structure TileProg where
  tile : TileId
  entry : Nat
  resident : List (Nat × List Byte)
deriving DecidableEq, Repr

/-- A pattern set (R224, R240): its ID, the tile halves, the two X-die halves and the Seam descriptor, as they are
stored. -/
structure PatSet where
  pid : BitVec 16
  tiles : List (TileId × List Byte)
  xhalf : List (List Byte)
  desc : List Byte
deriving DecidableEq, Repr

/-- A spool stream and its binding (R287): the tile's spool, the M die and the device address of its descriptors. -/
structure SpoolBind where
  tile : TileId
  spool : Fin 4
  m : Fin 2
  base : Nat
deriving DecidableEq, Repr

/-- The Harvest part of a job image for one M die (R353, R357–R360, R371): the banked pages and the mirror pages with
their TIDs, and the values of the base, offset and rank registers. -/
structure HarvestImg where
  banked : List (Nat × Nat)
  mirror : List (Nat × Nat)
  cmd : Nat
  tdesc : Nat
  sched : Nat
  schedLen : Nat
  schedOff : Nat
  p : Nat
  b : Nat
  boff : Nat
  moff : Nat
deriving DecidableEq, Repr

/-- The contents of a job image (R428), section by section. `sound` says that its header, its CRC and the CRCs of its
sections check, and that its format is known; `digest` is the DDIGEST of the header and `hash` the SHA-384 digest of the image;
`blobs` are the tables that lie in GDDR7 (spool descriptors, Harvest commands, tensor descriptors, schedule), as runs of bytes at device addresses.
`serving`, `heritage` and `offload` say that the job needs the features 2, 5 and 3 of R423.
(DESIGN CHOICE, log entry 12) -/
structure JobImage where
  sound : Bool
  jobId : Word64
  dev : DevId
  serving : Bool
  digest : List Byte
  hash : List Byte
  steps : List Superstep
  binds : List TreeBind
  tiles : List TileProg
  patterns : List PatSet
  routes : List (PhaseKind × List Nat)
  spools : List SpoolBind
  harvest : List HarvestImg
  norm : List Nat
  regions : List (Nat × Nat)
  batches : List (Nat × Nat)
  hostLen : Nat
  overrides : List (Nat × Word32)
  seed : Word64
  mbMin : Nat
  mbMax : Nat
  idle : List DevId
  blobs : List (Nat × List Byte)
  heritage : Bool
  offload : Bool := false
deriving DecidableEq, Repr

/-- The commands: one constructor for each row of the table of operations and events. The comment before each
constructor gives the row and its rule. -/
inductive Instr where
  -- AT_START (R37)
  | atStart
  -- PPS_EDGE (R22)
  | ppsEdge (frac : BitVec 16) (ref10 : Bool)
  -- PPS_TIMEOUT (R22)
  | ppsTimeout
  -- REF10_LOSS (R22)
  | ref10Loss
  -- PPS_OUT (R25)
  | ppsOut
  -- BLOCK_SLOT (R325)
  | blockSlot (link : LinkId) (frac : BitVec 16)
  -- BLOCK_RECEIVE (R324)
  | blockReceive (link : LinkId) (rx : RxBlock)
  -- TIME_WINDOW (R29)
  | timeWindow (link : LinkId) (freq : Int)
  -- LOCK_ACHIEVED (R37)
  | lockAchieved
  -- LOCK_TIMEOUT (R37)
  | lockTimeout
  -- PARENT_LOSS_TIMEOUT (R41)
  | parentLossTimeout
  -- HOLDOVER_TIMEOUT (R37)
  | holdoverTimeout (estErr : BitVec 8)
  -- ROOT_LOSS_TIMEOUT (R44)
  | rootLossTimeout
  -- READY (R241)
  | ready (msg : MsgId) (native : BitVec 8) (tables : List (BitVec 8))
  -- FORMATION_TIMEOUT (R38)
  | formationTimeout
  -- EPOCH_RECORD (R40)
  | epochRecord (link : LinkId) (rc : EpochRec)
  -- EPOCH_START (R38)
  | epochStart
  -- COUNT_HOLD_END (R59)
  | countHoldEnd
  -- TMASK (R52)
  | tmask (tile : TileId) (iw : Word64)
  -- TSET (R54)
  | tset (tile : TileId) (iw : Word64)
  -- TWAIT (R54)
  | twait (tile : TileId) (iw : Word64)
  -- TSEAM (R55)
  | tseam (tile : TileId) (iw : Word64)
  -- CHIP_ROUND_COMPLETE (R53)
  | chipRoundComplete (tree : Fin 32)
  -- TACK_RAIL_FAULT (R56)
  | tackRailFault (tree : Fin 32)
  -- PHASE_WATCHDOG (R68)
  | phaseWatchdog
  -- LEND_ENTRY (R66)
  | lendEntry (tile : TileId)
  -- HALL_ROUND_COMPLETE (R60)
  | hallRoundComplete (h : Fin 8)
  -- RELEASE_RECORD (R60)
  | releaseRecord (link : LinkId) (rc : ReleaseRec)
  -- SEAM_START (R223)
  | seamStart
  -- SPAN_START (R216)
  | spanStart
  -- WINDOW_CHECK (R243)
  | windowCheck (span : Fin 32)
  -- HOLD_RECORD (R245)
  | holdRecord (link : LinkId) (rc : HoldRec)
  -- PAUSE (R245)
  | pause
  -- RESUME_RECORD (R246)
  | resumeRecord (link : LinkId) (rc : GridRec)
  -- SEAM_RESUME (R246)
  | seamResume
  -- HOLD_LIMIT (R248)
  | holdLimit
  -- ABORT_RECORD (R248)
  | abortRecord (link : LinkId) (rc : GridRec)
  -- HOLD_ABORT (R248)
  | holdAbort
  -- SEAM_END (R239)
  | seamEnd
  -- HEM (R71)
  | hem
  -- POLICY_DEADLINE (R72)
  | policyDeadline
  -- PARAMETER_RECORD (R72)
  | parameterRecord (link : LinkId) (rc : ParamRec)
  -- STEP_START (R521)
  | stepStart
  -- SCALAR_OP (R89)
  | scalarOp (tile : TileId) (iw : Word64) (op : ScalarOp)
  -- LOAD_STORE (R90)
  | loadStore (tile : TileId) (iw : Word64) (op : MemOp)
  -- VECTOR_OP (R148)
  | vectorOp (tile : TileId) (iw : Word64) (op : VecOp)
  -- CONVERT_WIDEN (R140)
  | convertWiden (tile : TileId) (iw : Word64) (cv : CvtArgs)
  -- CONVERT_NARROW (R141)
  | convertNarrow (tile : TileId) (iw : Word64) (cv : CvtArgs)
  -- MMA_START (R111)
  | mmaStart (tile : TileId) (iw : Word64)
  -- MMA_ACC (R111)
  | mmaAcc (tile : TileId) (iw : Word64)
  -- MMA_DRAIN (R166)
  | mmaDrain (tile : TileId) (iw : Word64)
  -- DRAIN_COMPLETE (R168)
  | drainComplete (tile : TileId) (slot : Fin 8)
  -- XWAIT (R111)
  | xwait (tile : TileId) (iw : Word64)
  -- FILL (R98)
  | fill (tile : TileId) (iw : Word64)
  -- COPY (R98)
  | copy (tile : TileId) (iw : Word64)
  -- MOVER_COMPLETE (R99)
  | moverComplete (tile : TileId)
  -- MWAIT (R99)
  | mwait (tile : TileId) (iw : Word64)
  -- FENCE (R100)
  | fence (tile : TileId) (iw : Word64)
  -- MNON (R114)
  | mnon (tile : TileId) (iw : Word64)
  -- MNOFF (R114)
  | mnoff (tile : TileId) (iw : Word64)
  -- ACCRD (R183)
  | accrd (tile : TileId) (iw : Word64)
  -- PLEAT_IDLE_FLUSH (R107)
  | pleatIdleFlush (tile : TileId) (row : Fin 3072)
  -- PATROL_SCRUB (R105)
  | patrolScrub (tile : TileId) (ups : TileUpsets)
  -- TILE_WINDOW_READ (R120)
  | tileWindowRead (port : Port) (addr : Nat) (len : Nat)
  -- TILE_WINDOW_WRITE (R120)
  | tileWindowWrite (port : Port) (addr : Nat) (data : List Byte)
  -- WRITE (R199)
  | write (pkt : Pkt)
  -- RDREQ (R201)
  | rdreq (pkt : Pkt)
  -- RDRSP (R201)
  | rdrsp (pkt : Pkt)
  -- MSG (R262)
  | msg (pkt : Pkt)
  -- ADD (R273)
  | add (pkt : Pkt)
  -- ACK (R200)
  | ack (pkt : Pkt)
  -- ADD_MERGE (R209)
  | addMerge (router : Fin 6336) (a : Pkt) (b : Pkt)
  -- PACKET_FORWARD (R335)
  | packetForward (x : Fin 2) (pkt : Pkt)
  -- ROW_MAP_WRITE (R213)
  | rowMapWrite (value : Word32)
  -- PATTERN_HALF_LOADED (R221)
  | patternHalfLoaded (part : PatPart) (data : List Byte)
  -- BCFG (R257)
  | bcfg (tile : TileId) (iw : Word64)
  -- BCFG_UNCONFIGURE (R257)
  | bcfgUnconfigure (tile : TileId) (iw : Word64)
  -- TREQ_MESSAGE (R261)
  | treqMessage (tile : TileId) (iw : Word64)
  -- TREQ_COMBINING (R266)
  | treqCombining (tile : TileId) (iw : Word64)
  -- TREQ_WRITE (R266)
  | treqWrite (tile : TileId) (iw : Word64)
  -- TREQ_READ (R201)
  | treqRead (tile : TileId) (iw : Word64)
  -- BSEND (R268)
  | bsend (tile : TileId) (iw : Word64)
  -- BWAIT (R263)
  | bwait (tile : TileId) (iw : Word64)
  -- BWAIT_THIMBLE (R269)
  | bwaitThimble (tile : TileId) (iw : Word64)
  -- BADV (R263)
  | badv (tile : TileId) (iw : Word64)
  -- THIMBLE_REQUEST (R266)
  | thimbleRequest (pkt : Pkt)
  -- THIMBLE_GRANT (R265)
  | thimbleGrant (pkt : Pkt)
  -- THIMBLE_RELEASE (R262)
  | thimbleRelease (pkt : Pkt)
  -- THIMBLE_REFUSE (R267)
  | thimbleRefuse (pkt : Pkt)
  -- THIMBLE_ABANDONED (R265)
  | thimbleAbandoned (pkt : Pkt)
  -- THIMBLE_RETRY (R267)
  | thimbleRetry (pkt : Pkt)
  -- THIMBLE_REREQUEST (R267)
  | thimbleRerequest (tile : TileId) (reg : Fin 8)
  -- SPUSH (R97)
  | spush (tile : TileId) (iw : Word64)
  -- SPOP (R284)
  | spop (tile : TileId) (iw : Word64)
  -- SWAIT (R285)
  | swait (tile : TileId) (iw : Word64)
  -- SPOOL_DATA (R285)
  | spoolData (pkt : Pkt)
  -- SPOOL_CREDIT (R286)
  | spoolCredit (pkt : Pkt)
  -- SPOOL_STOPPED (R292)
  | spoolStopped (pkt : Pkt)
  -- RD (R289)
  | rd (tile : TileId) (spool : Fin 4) (env : MemEnv)
  -- RDP (R310)
  | rdp (tile : TileId) (spool : Fin 4) (env : MemEnv)
  -- WR (R289)
  | wr (tile : TileId) (spool : Fin 4) (env : MemEnv)
  -- WRP (R312)
  | wrp (tile : TileId) (spool : Fin 4) (env : MemEnv)
  -- SPOOL_MARK (R291)
  | spoolMark (tile : TileId) (spool : Fin 4) (env : MemEnv)
  -- SPOOL_END (R287)
  | spoolEnd (tile : TileId) (spool : Fin 4) (env : MemEnv)
  -- DESCRIPTOR_COMPLETE (R290)
  | descriptorComplete (tile : TileId) (spool : Fin 4)
  -- STALE_TAIL_FLUSH (R293)
  | staleTailFlush (tile : TileId) (spool : Fin 4) (env : MemEnv)
  -- STALE_READ_PERIOD (R293)
  | staleReadPeriod (tile : TileId) (spool : Fin 4)
  -- MEMORY_PATROL (R302)
  | memoryPatrol (m : Fin 2) (block : Nat) (env : MemEnv)
  -- ZERO_START (R304)
  | zeroStart (m : Fin 2)
  -- ZERO_DONE (R304)
  | zeroDone (m : Fin 2)
  -- BAR2_READ (R303)
  | bar2Read (off : Nat) (len : Nat) (size : Fin 8) (env : MemEnv)
  -- BAR2_WRITE (R303)
  | bar2Write (off : Nat) (data : List Byte) (size : Fin 8) (env : MemEnv)
  -- SQ_WRITE (R309)
  | sqWrite (m : Fin 2)
  -- SQ_FREE (R309)
  | sqFree (m : Fin 2)
  -- SQ_SETLEN (R309)
  | sqSetlen (m : Fin 2)
  -- LINK_ENABLE (R339)
  | linkEnable (link : LinkId)
  -- LINK_PHY_DONE (R339)
  | linkPhyDone (link : LinkId) (lanes : List (Fin 4))
  -- LINK_LOCK_DONE (R339)
  | linkLockDone (link : LinkId) (nonce : Vector Byte 48)
  -- AUTH_NONCE (R340)
  | authNonce (link : LinkId) (peer : AuthPeer)
  -- AUTH_SIGNATURE (R340)
  | authSignature (link : LinkId) (sig : List Byte) (cert : CertChain)
  -- LINK_UP (R339)
  | linkUp (link : LinkId) (cal : LinkCal)
  -- LINK_RETRY_TIMER (R339)
  | linkRetryTimer (link : LinkId)
  -- LOSS_OF_LOCK (R318)
  | lossOfLock (link : LinkId)
  -- LANE_LOSS (R342)
  | laneLoss (link : LinkId) (lanes : List (Fin 4))
  -- LANE_ERROR_THRESHOLD (R342)
  | laneErrorThreshold (link : LinkId) (errs : LaneErrs)
  -- RETRAIN_DONE (R342)
  | retrainDone (link : LinkId) (cal : LinkCal)
  -- LINK_GIVE_UP (R331)
  | linkGiveUp (link : LinkId) (errs : LaneErrs)
  -- LINK_RETRAIN (R342)
  | linkRetrain (link : LinkId)
  -- LINK_RESET (R350)
  | linkReset (link : LinkId)
  -- XARM_ARM (R350)
  | xarmArm (link : LinkId)
  -- XARM_DONE (R350)
  | xarmDone (link : LinkId)
  -- TAP (R363)
  | tap (m : Fin 2) (env : MemEnv)
  -- NORM (R364)
  | norm (m : Fin 2) (env : MemEnv)
  -- NORM_VECTOR (R364)
  | normVector (msg : MsgId) (vec : NormVec)
  -- UPDATE (R368)
  | update (m : Fin 2) (env : MemEnv)
  -- THIN (R373)
  | thin (m : Fin 2) (env : MemEnv)
  -- NOISE (R375)
  | noise (m : Fin 2) (env : MemEnv)
  -- TOUCH (R356)
  | touch (m : Fin 2) (env : MemEnv)
  -- SYNC (R360)
  | sync (m : Fin 2) (env : MemEnv)
  -- HARVEST_MARK (R361)
  | harvestMark (m : Fin 2) (env : MemEnv)
  -- HARVEST_END (R361)
  | harvestEnd (m : Fin 2) (env : MemEnv)
  -- MIRROR_WRITE (R371)
  | mirrorWrite (addr : Nat) (data : List Byte) (src : DevId)
  -- FOLD_SEND (R378)
  | foldSend
  -- HEM_FOLD (R378)
  | hemFold (msg : MsgId) (fold : Fold)
  -- FAULT_REPORT (R395)
  | faultReport (msg : MsgId) (step : Word64) (rc : FaultRec)
  -- REWIND_DONE (R398)
  | rewindDone
  -- REWIND_TIMEOUT (R398)
  | rewindTimeout
  -- DECISION_REQ (R407)
  | decisionReq (msg : MsgId) (step : Word64)
  -- DECISION_REPLY (R407)
  | decisionReply (msg : MsgId) (rep : DecisionRep)
  -- THAW_WINDOW_EXPIRY (R393)
  | thawWindowExpiry (core : Fin 20) (resumed : Bool)
  -- INPUT_QUALIFIED (R443)
  | inputQualified
  -- BULK_CHARGED (R444)
  | bulkCharged (boot : BootEnv)
  -- ENABLE_CONTACT_BREAK (R443)
  | enableContactBreak
  -- INPUT_FAULT (R446)
  | inputFault (kind : InputKind)
  -- SHORT_CIRCUIT (R445)
  | shortCircuit
  -- INPUT_GLITCH (R445)
  | inputGlitch
  -- POWER_EVALUATION (R451)
  | powerEvaluation (sample : PowerSample)
  -- THERMAL_CHECK (R452)
  | thermalCheck (temps : TempReadings)
  -- THERMAL_TRIP (R453)
  | thermalTrip (temps : TempReadings)
  -- SENSOR_TIMEOUT (R457)
  | sensorTimeout (sensor : SensorId)
  -- LOWFLOW (R459)
  | lowflow
  -- POWER_LIMIT_WRITE (R448)
  | powerLimitWrite (value : Word32)
  -- POWER_STATE_REQUEST (R455)
  | powerStateRequest
  -- POWER_TRANSITION_DONE (R454)
  | powerTransitionDone
  -- WARM_RESET (R465)
  | warmReset (value : Word32) (boot : BootEnv)
  -- PLDM_RESET (R465)
  | pldmReset (boot : BootEnv)
  -- PCIE_RESET (R465)
  | pcieReset
  -- PCIE_XARM (R481)
  | pcieXarm
  -- PCIE_XARM_DONE (R481)
  | pcieXarmDone
  -- ONDEMAND_TEST (R476)
  | ondemandTest
  -- ONDEMAND_TEST_DONE (R476)
  | ondemandTestDone (res : TestResult)
  -- CORE_WATCHDOG (R420)
  | coreWatchdog (core : Fin 20)
  -- CORE_THAW_DONE (R420)
  | coreThawDone (core : Fin 20)
  -- ATTACH (R423)
  | attach
  -- DETACH (R424)
  | detach
  -- HEARTBEAT_LOST (R424)
  | heartbeatLost
  -- STATUS_BEAT (R436)
  | statusBeat
  -- LOAD (R428)
  | load (slot : Fin 16) (img : JobImage)
  -- JOB_DIGEST (R428)
  | jobDigest (msg : MsgId) (jobId : Word64) (digest : List Byte)
  -- LOAD_OK (R428)
  | loadOk (msg : MsgId) (jobId : Word64)
  -- LOAD_CHECK (R428)
  | loadCheck (msg : MsgId) (jobId : Word64)
  -- LOAD_DIGEST_TIMEOUT (R428)
  | loadDigestTimeout
  -- RUN (R427)
  | run (slot : Fin 16)
  -- BATCH (R427)
  | batch (slot : Fin 16)
  -- BATCH_FILLED (R430)
  | batchFilled (data : List Byte)
  -- PARK (R427)
  | park (slot : Fin 16)
  -- JOB_RESUME (R427)
  | jobResume (slot : Fin 16)
  -- STOP (R427)
  | stop (slot : Fin 16)
  -- ADOPT (R433)
  | adopt (slot : Fin 16)
  -- ADOPTED (R433)
  | adopted (msg : MsgId) (jobId : Word64)
  -- SCRUB (R434)
  | scrub (slot : Fin 16)
  -- SCRUB_DONE (R434)
  | scrubDone
  -- SEQ (R427)
  | seq (slot : Fin 16)
  -- PARK_REQ (R431)
  | parkReq (msg : MsgId) (reason : BitVec 3)
  -- PARK_RECORD (R431)
  | parkRecord (link : LinkId) (msg : MsgId) (step : Word64) (kind : Bool)
  -- MW_QUERY (R280)
  | mwQuery (msg : MsgId) (q : MwPair)
  -- MW_REPLY (R280)
  | mwReply (msg : MsgId) (q : MwPair)
  -- REVOCATION_ORDER (R488)
  | revocationOrder (ord : SignedObj)
  -- PLDM_FW_UPDATE (R492)
  | pldmFwUpdate (up : UpdateObj)
  -- PLDM_SENSOR_READ (R462)
  | pldmSensorRead (sensor : SensorId)
  -- SPDM_REQUEST (R493)
  | spdmRequest (rq : SpdmReq)
  -- CSIGN (R494)
  | csign (msg : List Byte)
  -- DEBUG_NONCE_REQUEST (R499)
  | debugNonceRequest
  -- UNLOCK (R499)
  | unlock (tok : DebugToken)
  -- RELOCK (R499)
  | relock
  -- SCAN_EN (R500)
  | scanEn
  -- IDE_KM (R497)
  | ideKm (rq : IdeReq)
  -- AT_SNAP (R46)
  | atSnap (port : Port)
  -- TK_SNAP (R80)
  | tkSnap (port : Port)
  -- MN_SNAP (R157)
  | mnSnap (port : Port)
  -- BB_SNAP (R281)
  | bbSnap (port : Port)
  -- SP_SNAP (R313)
  | spSnap (port : Port) (m : Fin 2)
  -- SQ_SNAP (R315)
  | sqSnap (port : Port) (m : Fin 2)
  -- HV_SNAP (R384)
  | hvSnap (port : Port) (m : Fin 2)
  -- PW_SNAP (R464)
  | pwSnap (port : Port)
  -- SC_SNAP (R502)
  | scSnap (port : Port)
  -- SNAPSHOT_READY (R480)
  | snapshotReady (blk : SnapBlock) (port : Port)
  -- RC_FIELD_READ (R514)
  | rcFieldRead (port : Port) (addr : Nat)
  -- REGISTER_WRITE (R14)
  | registerWrite (port : Port) (addr : Nat) (size : Nat) (value : Word32)
  -- SLOT_ZEROED (R272)
  | slotZeroed (tile : TileId) (ring : Fin 8) (slot : Fin 64)
  -- TRIP_RELEASE (R453)
  | tripRelease (temps : TempReadings) (boot : BootEnv)
  -- TRAINING_STAGE_FAIL (R339)
  | trainingStageFail (link : LinkId) (stage : TrainFail)
  -- OFFLOAD_PEER_ACCESS (R305)
  | offloadPeerAccess (m : Fin 2) (addr : Nat) (len : Nat) (data : Option (List Byte)) (env : MemEnv)
deriving DecidableEq, Repr

end Sys2Proof
end

