-- ==== Sys2Proof/Decode.lean ====
section
/-! DEFINITION. Reading a command from a word. The table of operations and events gives none of its rows any bits: a
command is an event of the part and no word of a program. -/

namespace Sys2Proof

/-- The command that a word spells by the bits of the table's rows. No row has bits, so no word spells a command.
(DESIGN CHOICE, log entry 3) -/
def decodeTableWord (_nbits _w : Nat) : Option Instr := none

end Sys2Proof
end

