-- ==== Sys2Proof/Machine/State.lean ====
section
/-! DEFINITION. The state of the module as plain data: every register, store, queue, counter, mode and pin that the spec
gives it, and the queue of the commands that wait. The fields of the register tables are stored in `State.regs` (their
list is `Sys2Proof.Machine.Reg.all`); what the spec names outside the register tables has fields of its own here. -/

namespace Sys2Proof.Machine

/-- A sparse store: pairs of a key and a value, in rising order of the keys. -/
abbrev SMap (α : Type) := List (Nat × α)

/-- The reasons for which a command of the block is no step of the part.
(DEDUCED, log entry 16) -/
inductive Fault where
  /-- Raised by a command whose operands are not those of its row: an instruction word of another instruction, a packet
  of another kind, a field outside its range. Safe: no such step of the part exists. -/
  | malformed
  /-- Raised by a command that names a logical tile which the row map in force does not hold (R8). Safe: no such tile
  exists. -/
  | noSuchTile
deriving DecidableEq, Repr

/-- The reasons for which a command has no meaning in the model. -/
inductive Refusal where
  /-- Raised by `exec` for a row that has no meaning yet. Safe: the machine stops. -/
  | notModelled (mnemonic : String)
deriving DecidableEq, Repr

/-- What the device sends out: to a link, to the fabric, to the host, to NVM, or at a pin.
(DESIGN CHOICE, log entry 11) -/
inductive Out where
  /-- A block that departs on a link (R319). -/
  | block (link : Nat) (bytes : List Byte)
  /-- A packet injected into the on-chip fabric (R195). -/
  | packet (p : Pkt)
  /-- A posted write into host memory. -/
  | hostWrite (addr : Nat) (data : List Byte)
  /-- A read of host memory (R290, R305). -/
  | hostRead (addr : Nat) (len : Nat)
  /-- The answer to a read or to a request, on the port that asked. -/
  | answer (port : Port) (data : List Byte) (poisoned : Bool)
  /-- A management message to a device (R432): its type and its body words. -/
  | mgmt (dst : Nat) (type : Nat) (body : List Nat)
  /-- The AUTH message of a link (R340): own nonce, device, domain, link number and digest of the certificate chain. -/
  | auth (link : Nat) (nonce : List Byte) (dev domain own : Nat) (digest : List Byte)
  /-- The AUTH signature of a link (R340). -/
  | authSig (link : Nat) (sig : List Byte)
  /-- A management message flooded on every link (R431). -/
  | flood (type : Nat) (body : List Nat)
  /-- The 1PPS output pulse (R25). -/
  | pps
  /-- The MGMT_ALERT# line is asserted (R461). -/
  | alert
  /-- A mirror write to a device (R371): the address there and the data. -/
  | mirror (dev : Nat) (addr : Nat) (data : List Byte)
  /-- An off-load access to a bolt peer's GDDR7 (R305): device, address, length, and the data of a write; none of a read. -/
  | peerAccess (dev : Nat) (addr : Nat) (len : Nat) (data : List Byte)
  /-- The answer to a bolt peer's off-load access (R305): accepted or not, the data and its poisoned blocks. -/
  | peerAnswer (ok : Bool) (data : List Byte) (bad : List Nat)
  /-- An answer of the security engine to a request. -/
  | reply (code : Nat) (data : List Byte)
deriving DecidableEq, Repr

/-- Time and formation state (R21–R45, R59). Times are AT nanoseconds; `theta` is in 2^-16 ns; `phase` and `slew` in
1/64 ns. -/
structure TimeSt where
  running : Bool := false
  theta : Int := 0
  phase : Nat := 0
  freq : Int := 0
  slew : Int := 0
  slewAt : Nat := 0
  wasRoot : Bool := false
  windows : Nat := 0
  badWindows : Nat := 0
  alignRun : Nat := 0
  lockSince : Nat := 0
  holdSince : Nat := 0
  holdDepth : Nat := 15
  holdGen : Nat := 0
  elapsed : Nat := 0
  estErr : Nat := 0
  freqHist : List Int := []
  ppsRun : Nat := 0
  ppsRejRun : Nat := 0
  ppsLast : Nat := 0
  ppsWait : Bool := false
  ref10 : Bool := false
  rootSeen : Nat := 0
  mgrDownSince : Option Nat := none
  formSince : Option Nat := none
  readyDevs : List (DevId × BitVec 8) := []
  epochStart : Nat := 0
  epochHeld : Bool := false
  table : Nat := 0
  pendingAdmit : Bool := false
  admitted : Nat := 0
  newlyAdmitted : Nat := 0
  scrubbed : Bool := false
  count : Nat := 0
  countAt : Nat := 0
  countHeld : Bool := false
deriving DecidableEq, Repr

/-- The class of a device's state as the TREE field carries it (R36, R323). -/
inductive TreeClass where
  | other | ready | run | root
deriving DecidableEq, Repr

/-- The content of a TREE field (R323). -/
structure TreeField where
  depth : Nat := 15
  cls : TreeClass := .other
  gen : Nat := 0
  count : Nat := 0
deriving DecidableEq, Repr

/-- One two-way time sample (R26): the four instants in 2^-16 ns. -/
structure Sample where
  t1 : Int
  t2 : Int
  t3 : Int
  t4 : Int
deriving DecidableEq, Repr

/-- A record that rides in the sideband (R323): its SBK and its SBW. -/
structure SideRec where
  sbk : Nat
  sbw : Nat
deriving DecidableEq, Repr

/-- A record due on a link (R325): the record, the sequenced block that first carried it, and the number of the block
slot of its last copy. -/
structure DueRec where
  rc : SideRec
  seq : Option Nat := none
  lastSlot : Option Nat := none
  until_ : Nat := 0
deriving DecidableEq, Repr

/-- An entry of the replay buffer (R329). -/
structure ReplayEnt where
  seq : Nat
  kind : Nat
  side : Option SideRec
  payload : List Byte
deriving DecidableEq, Repr

/-- The re-send budget of a failed block (R331): a sequenced block by its number, or a window block by ordinal × 256 +
index; the re-sends so far, the AT of the first NAK, and the AT of the last re-send. -/
structure Budget where
  win : Bool
  id : Nat
  resends : Nat
  firstNak : Nat
  last : Nat
deriving DecidableEq, Repr

/-- A window block that the receiver has to NAK (R328): ordinal and index, and when the NAK was last sent. -/
structure NakRec where
  ord : Nat
  k : Nat
  sentAt : Option Nat := none
deriving DecidableEq, Repr

/-- The state of one link outside its registers (R26–R29, R324–R342). -/
structure LinkSt where
  rxUp : Nat := 0
  tree : TreeField := {}
  lastTime : Nat := 0
  tcoarse : Option (Nat × Nat) := none
  thigh : Option Nat := none
  echo : Option (Nat × Nat) := none
  echoSent : Option Nat := none
  techo : Option Nat := none
  samples : List Sample := []
  d : Int := 0
  alpha : Int := 0
  theta : Int := 0
  ownTRx : Int := 0
  peerTRx : Int := 0
  pipe : Int := 0
  cableDue : Bool := false
  rxLat : Int := 0
  corr : Nat := 0
  winSince : Nat := 0
  rej : Nat := 0
  ladj : BitVec 16 := 0
  windows : Nat := 0
  nextS : Nat := 0
  replay : List ReplayEnt := []
  resend : List Nat := []
  winResend : List (Nat × Nat) := []
  winSide : SMap SideRec := []
  budgets : List Budget := []
  due : List DueRec := []
  slot : Nat := 0
  rotAt : Nat := 0
  rotLeft : List Nat := []
  treeSent : Option TreeField := none
  credSent : List Nat := [0, 0, 0]
  credVc : Nat := 0
  expS : Nat := 0
  nakS : Bool := false
  nakAt : Option Nat := none
  rxHeld : SMap (Nat × List Byte) := []
  winNaks : List NakRec := []
  freed : List Nat := [0, 0, 0]
  peerFreed : List Nat := [0, 0, 0]
  used : List Nat := [0, 0, 0]
  pktQ : List Pkt := []
  txStream : List Byte := []
  ctlQ : List (List Byte) := []
  rxStream : List Byte := []
  rxPkts : List Pkt := []
  frags : List (List Byte) := []
  msgs : List (List Byte) := []
  tries : Nat := 0
  retryAt : Option Nat := none
  trainSince : Nat := 0
  lanes : List (Fin 4) := []
  spared : Option Nat := none
  foldOk : Bool := false
  uncRun : Nat := 0
  ownNonce : List Byte := []
  peer : Option AuthPeer := none
  arming : Bool := false
  crcAt : Option Nat := none
  rsnAt : Option Nat := none
deriving DecidableEq, Repr

/-- The state of one chip tree outside its members' flags (R53, R65): whether its round has completed and holds the up
level, when it completed, and whether it is abandoned until the next Hem. -/
structure TackSt where
  done : Bool := false
  doneAt : Nat := 0
  abandoned : Bool := false
deriving DecidableEq, Repr

/-- What a phase watchdog fault names (R68): the tree that closes the phase, its lowest-numbered holdout tile, and, where no
tile holds out, its first engine holdout (0 M0, 1 M1, 2 X0, 3 X1). -/
structure WdogRec where
  tree : Nat
  tile : Option Nat
  eng : Option Nat
deriving DecidableEq, Repr

/-- Step, Hem and start-round state (R49–R72, R428–R431). `round` holds the round parities and `held` the hall tacks whose up
level stays 0 until the next Hem (R65), bit h for Hh; `hemAt` is the Hem instant H, and `hemDue` the AT at which the Hem is
carried out (R397); `nextOld` is what `TK_NEXT` held before a write, with the AT of the write (R72); `pool` counts the tiles of
each compute die whose share of the current allowance is in the die's pool (R66); `latched` is the step number of the last Hem
(R158). -/
structure StepSt where
  idx : Nat := 0
  steps : List Superstep := []
  phaseSince : Nat := 0
  wdogMore : Nat := 0
  timed : Bool := false
  hemAt : Option Nat := none
  hemDue : Nat := 0
  hemCommit : Bool := false
  startAt : Option Nat := none
  winOpen : Bool := false
  winLen : Nat := 0
  captured : Bool := false
  param : Option ParamRec := none
  parkNotice : Option Bool := none
  relAccepted : List Nat := []
  round : Nat := 0
  held : Nat := 0
  nextOld : Option (Nat × Nat × Bool) := none
  wdog : Option WdogRec := none
  pool : List Nat := [0, 0, 0, 0]
  mbMin : Nat := 1
  mbMax : Nat := 255
  lendNs : Nat := 0
  waitNs : Nat := 0
  limitStaged : Option Nat := none
  latched : Nat := 0
  roundsDone : SMap Nat := []
deriving DecidableEq, Repr

/-- A half of a pattern store (R221–R225): its pattern ID, its 64-bit records, whether it has loaded and checked, and its
ready bit. -/
structure PatHalf where
  pid : Nat := 0
  recs : List Word64 := []
  loaded : Bool := false
  ready : Bool := false
deriving DecidableEq, Repr

/-- A link window of the running Seam (R229–R234): its physical link, its ordinal, the AT of its anchor, its length in
data blocks, its place in the buffer, its ingress span, the data blocks received, those whose slot has come, and those that
have entered the sent digest (R377). -/
structure WinSt where
  link : Nat
  ord : Nat
  anchor : Nat
  blocks : Nat
  base : Nat
  ingress : Nat
  got : List Nat := []
  sent : List Nat := []
  hashed : List Nat := []
deriving DecidableEq, Repr

/-- A stitch: 64 bytes, and the 8 B words of it that are marked as poison (R104). -/
structure Stitch where
  data : List Byte
  bad : List Nat
deriving DecidableEq, Repr

/-- The Seam controller and the pattern stores of the X dies (R216–R253). `slotNext` is the first slot of the running span that
has not passed, and `sent` holds the rows that were sent in the slots before it; `failed` names the parts of the pattern set
that failed a second time as they were loaded. -/
structure SeamSt where
  pidNext : Nat := 0
  desc : Option SeamDesc := none
  descNext : Option SeamDesc := none
  xhalf : List PatHalf := [{}, {}]
  xhalfNext : List PatHalf := [{}, {}]
  routes : List (List Nat) := [[], []]
  routesNext : List (Option (List Nat)) := [none, none]
  routesReady : List Bool := [false, false]
  reloaded : List Nat := []
  failed : List Nat := []
  seamAt : Option Nat := none
  seamHall : Option Nat := none
  parity : Bool := false
  tree : Nat := 0
  s : Nat := 0
  starts : List Nat := []
  seamEnd : Nat := 0
  span : Nat := 0
  slotNext : Nat := 0
  sent : SMap Stitch := []
  shifts : List (Nat × Nat) := []
  pausedAt : Option Nat := none
  holds : List (Nat × Nat) := []
  holdsSeen : List (Nat × Nat) := []
  ownHold : Bool := false
  resumeAt : Option Nat := none
  abortAt : Option Nat := none
  limitMore : Option Nat := none
  digestSeam : Bool := false
  index : Nat := 0
  txWins : List WinSt := []
  rxWins : List WinSt := []
  txBuf : List (Nat × SMap Byte) := []
  rxBuf : List (Nat × SMap Byte) := []
  raised : Nat := 0
  pauses : Nat := 0
  holdNs : Nat := 0
  darnUsed : Nat := 0
  checked : List Nat := []
deriving DecidableEq, Repr

/-- The state of a tile as `MN_TILE_STAT.STATE` reads it (R521). -/
inductive TileMode where
  | idle | run | wait | seam | lend | stop
deriving DecidableEq, Repr

/-- The state of an accumulator slot (R111). -/
inductive SlotMode where
  | empty | opened | draining
deriving DecidableEq, Repr

/-- An accumulator slot (R111, R112, R154): its state, its kind, its product count and its cells: 768 W40 values, or
FP32 values in a heritage slot; no cell is listed for a zeroed slot. -/
structure SlotSt where
  mode : SlotMode := .empty
  heritage : Bool := false
  count : Nat := 0
  cells : List Nat := []
deriving DecidableEq, Repr

/-- An entry of the pleat buffer (R106): the row, the bytes gathered by offset, and the AT of the last store to it. -/
structure PleatEnt where
  row : Nat
  bytes : SMap Byte
  last : Nat
deriving DecidableEq, Repr

/-- A queued FILL or COPY (R98, R99). -/
structure MoverOp where
  copy : Bool
  dst : Nat
  src : Nat
  len : Nat
  value : Word32
  pc : Nat
  iw : Word64
deriving DecidableEq, Repr

/-- A DRAIN that has issued and has not completed (R166, R168). -/
structure DrainOp where
  slot : Nat
  dst : Nat
  mode : Nat
  pc : Nat
  iw : Word64
deriving DecidableEq, Repr

/-- A monitor channel (R114). -/
structure MonChan where
  base : Nat
  len : Nat
  tid : Nat
deriving DecidableEq, Repr

/-- The counts of a tensor ID (R149). -/
structure MonCounts where
  total : Nat := 0
  zero : Nat := 0
  sat : Nat := 0
  nonfin : Nat := 0
  hist : List Nat := [0, 0, 0, 0, 0, 0, 0, 0, 0, 0, 0, 0, 0, 0, 0, 0]
deriving DecidableEq, Repr

/-- A word of a spool (R284): 64 B, its end mark, and its poisoned 8 B words. -/
structure SpoolWord where
  data : List Byte
  last : Bool
  bad : List Nat
deriving DecidableEq, Repr

/-- A spool of a tile (R282–R286): its words oldest first, whether it is unbound or its stream has stopped, the landing
space that a write spool may use, when it was last popped, whether its idle period has been counted (R293), the words
that the SPUSH in progress has moved, and the words that came into entries, and those that the engine took from a full spool,
with the cycles in which that happened last (R294). -/
structure SpoolSt where
  words : List SpoolWord := []
  stopped : Bool := true
  credit : Nat := 0
  last : Nat := 0
  counted : Bool := false
  done : Nat := 0
  newAt : Nat := 0
  newN : Nat := 0
  goneAt : Nat := 0
  goneN : Nat := 0
deriving DecidableEq, Repr

/-- A record, a marker or a granted range that is still open in a message ring (R262), with its length in 16 B units:
whether it is a marker, and one from unused credit, whether it is complete and since when, and the sender (remote, device,
tile, thimble register) and the tag of the record. -/
structure RingRec where
  units : Nat
  marker : Bool
  rel : Bool := false
  done : Bool
  remote : Bool := false
  sdev : Nat := 0
  stile : Nat := 0
  reg : Nat := 0
  utag : Nat := 0
  doneAt : Nat := 0
deriving DecidableEq, Repr

/-- The state of a combining slot (R270–R275). -/
inductive CombMode where
  | idle | zeroing | armed | complete
deriving DecidableEq, Repr

/-- A combining slot: its state, its round, the contributions expected and arrived, and the ADD packets held for it. -/
structure CombSt where
  mode : CombMode := .idle
  round : Nat := 0
  expected : Nat := 0
  arrived : Nat := 0
  held : List Pkt := []
deriving DecidableEq, Repr

/-- A write thimble that a window has granted (R266, R271): its sender, and the units not yet written. -/
structure GrantSt where
  remote : Bool
  sdev : Nat
  stile : Nat
  reg : Nat
  left : Nat
deriving DecidableEq, Repr

/-- A bobbin ring of a tile (R256–R263): kind 0 message, 1 combining, 2 write window, 3 not configured; `size`, `slotSz` and `etype` as the codes of R257;
`rp`, `resv` and `wp` with their wrap bit, modulo twice the ring size. -/
structure RingSt where
  kind : Nat := 3
  size : Nat := 0
  slotSz : Nat := 0
  etype : Nat := 0
  base : Nat := 0
  rp : Nat := 0
  resv : Nat := 0
  wp : Nat := 0
  seq : Nat := 0
  recs : List RingRec := []
  credit : Nat := 0
  landed : Nat := 0
  slots : SMap CombSt := []
  grants : List GrantSt := []
deriving DecidableEq, Repr

/-- The state of a thimble register (R264). -/
inductive ThimMode where
  | free | requested | held | draining
deriving DecidableEq, Repr

/-- A thimble register of a tile (R264–R269): its state, what it asked for, the credit and the next address that remain
(of a combining thimble, the slot's start, its units and its element type), the ACKs outstanding, and the TREQ's PC and
word. -/
structure ThimSt where
  mode : ThimMode := .free
  form : Nat := 0
  tile : Nat := 0
  dev : Nat := 0
  remote : Bool := false
  ring : Nat := 0
  units : Nat := 0
  off : Nat := 0
  round : Nat := 0
  left : Nat := 0
  addr : Nat := 0
  span : Nat := 0
  etype : Nat := 0
  acks : Nat := 0
  granted : Bool := false
  abandoned : Bool := false
  retryAt : Option Nat := none
  pc : Nat := 0
  iw : Word64 := 0
deriving DecidableEq, Repr

/-- The fault record of a tile (R115–R118). -/
structure FaultSt where
  valid : Bool := false
  code : Nat := 0
  cls : Nat := 0
  hw : Bool := false
  again : Bool := false
  async : Bool := false
  ltile : Nat := 0
  ptile : Nat := 0
  pc : Nat := 0
  iw : Word64 := 0
  at_ : Nat := 0
  detail : Nat := 0
deriving DecidableEq, Repr

/-- A write that the scratchpad took in a cycle (R109): the AT of the cycle, its port (none for a local write), and the bytes
that it wrote with what each held before. -/
structure CycWrite where
  at_ : Nat
  port : Option Nat
  cells : List Host.Cell
deriving DecidableEq, Repr

/-- A tile (R82). `memberOld` is the membership mask that counts until the cycle after a change, with the AT of the change
(R52). The scratchpad lists the bytes that differ from 0 by address; `poison` lists the poisoned 8 B words by
word number, with whether the poison came from the fabric, and `soft` the words with a bit error that no read has found yet,
with whether it is uncorrectable (R103). `cyc` lists the writes of the cycle and of the later cycles of the running span, and
`cycRows` the rows with a counted collision (R109); `scrubNext` is the row of the next patrol read (R105); `badRegs`, `badBuf` and `badPat` are the
registers, buffered words and idle pattern half with a parity error (R118), and `patDead` the AT from which the tile's router drives
nothing in the running Seam (R219).
(DESIGN CHOICE, log entry 8; DESIGN CHOICE, log entry 19; DESIGN CHOICE, log entry 69) -/
structure Tile where
  mode : TileMode := .idle
  pc : Nat := 0
  entry : Nat := 0
  g : SMap Word64 := []
  p : Nat := 0
  v : SMap Word32 := []
  mem : List Host.Cell := []
  poison : SMap Bool := []
  soft : SMap Bool := []
  cyc : List CycWrite := []
  cycRows : List (Nat × Nat) := []
  pleat : List PleatEnt := []
  mover : List MoverOp := []
  slots : List SlotSt := [{}, {}, {}, {}, {}, {}, {}, {}]
  drains : List DrainOp := []
  spools : List SpoolSt := [{}, {}, {}, {}]
  rings : List RingSt := [{}, {}, {}, {}, {}, {}, {}, {}]
  reqs : List Pkt := []
  thims : List ThimSt := [{}, {}, {}, {}, {}, {}, {}, {}]
  mon : List (Option MonChan) := [none, none, none, none]
  counts : SMap MonCounts := []
  longsum : Nat := 0
  nonfin : Nat := 0
  fault : FaultSt := {}
  member : Nat := 0
  memberOld : Option (Nat × Nat) := none
  flags : Nat := 0
  blocked : Option Word64 := none
  since : Nat := 0
  counted : Nat := 0
  lendSince : Option Nat := none
  regs : SMap Nat := []
  patIdle : PatHalf := {}
  patActive : PatHalf := {}
  ibuf : SMap Word64 := []
  scrubAt : Nat := 0
  scrubNext : Nat := 0
  badRegs : List Nat := []
  badBuf : List Nat := []
  badPat : Bool := false
  patDead : Option Nat := none
deriving DecidableEq, Repr

/-- A merged ADD packet at a router (R209): the packets whose senders its ACK is fanned out to. -/
structure MergeEnt where
  router : Nat
  mid : Nat
  parts : List Pkt
deriving DecidableEq, Repr

/-- The fabric outside the tiles (R190–R215): the row maps, and the dies whose map the self-test has built; the staged spare claims, the merge tables, the flit counts of the edges,
the window reads held until the Seam ends, the physical rows with a failed router, and the counts of the running step that
the `BB_CNT_` registers take at a Hem (R281), the logical tiles that a spare claim has moved (R213), how many of the
outputs left before the last reset of the fabric, the packets that have arrived or were discarded since (R199), and the
spools, by position and number, whose waits are looked at again in the next cycle (R294). -/
structure FabricSt where
  rows : SMap Nat := []
  built : List Nat := []
  staged : List (Nat × Nat) := []
  merges : List MergeEnt := []
  edges : List Nat := [0, 0, 0, 0, 0, 0, 0, 0, 0, 0, 0, 0]
  heldReads : List (Port × Nat × Nat) := []
  routerFail : List Nat := []
  ringCounts : List Nat := [0, 0, 0, 0, 0]
  moved : List Nat := []
  outBase : Nat := 0
  landed : List Pkt := []
  wakes : List (Nat × Nat) := []
deriving DecidableEq, Repr

/-- A short tail in a landing buffer (R293): bytes of one 256 B block that wait to be written, the address of the first, the
8 B words of them that are poisoned, and the words of the landing buffer that they fill. -/
structure TailSt where
  addr : Nat
  bytes : List Byte
  bad : List Nat
  words : Nat
deriving DecidableEq, Repr

/-- A descriptor stream (R287–R293): its M die and base, the index of its descriptor, its state (0 unbound, 1 running,
3 stopped, 4 ended), its index at the start of the step, the MARKs reached and not yet used by a round, the descriptor in
progress, the words still to send and those on their way, the credit for the tile's entries, the landing buffer, the tails
that wait to be written, the words taken so far, and when a word last came in. -/
structure StreamSt where
  m : Nat := 0
  base : Nat := 0
  idx : Nat := 0
  state : Nat := 0
  startIdx : Nat := 0
  marks : List Nat := []
  desc : List Word64 := []
  buf : List SpoolWord := []
  flight : Nat := 0
  credit : Nat := 0
  landing : List SpoolWord := []
  tails : List TailSt := []
  pos : Nat := 0
  last : Nat := 0
deriving DecidableEq, Repr

/-- An entry of the sequence table (R307): its four 64-bit words. -/
structure SeqEnt where
  w0 : Word64 := 0
  w1 : Word64 := 0
  w2 : Word64 := 0
  w3 : Word64 := 0
deriving DecidableEq, Repr

/-- A sequence command that waits for H + W (R309). -/
structure SeqCmd where
  cmd : Nat
  slot : Nat
  ent : SeqEnt
deriving DecidableEq, Repr

/-- One M die's memory engines outside the registers (R304, R309): the ranges being zeroed in 256 B blocks, the commands that wait for
H + W, and the stale events and saturations of the running step (R293, R306). -/
structure MDieSt where
  zero : List (Nat × Nat) := []
  waiting : List SeqCmd := []
  staleWr : Nat := 0
  staleRd : Nat := 0
  offSat : Nat := 0
deriving DecidableEq, Repr

/-- One M die's Harvest engine (R352–R384). -/
structure HarvestSt where
  banked : SMap Nat := []
  mirror : SMap Nat := []
  gen : List Nat := []
  touched : List Nat := []
  frost : List Nat := []
  idx : Nat := 0
  state : Nat := 0
  marks : List Nat := []
  ended : Bool := false
  err : Bool := false
  taps : SMap (Nat × Nat × Nat) := []
  tapSum : SMap (Nat × Int) := []
  tapBad : List Nat := []
  tapCount : SMap Nat := []
  noise : SMap Int := []
  noiseBad : List Nat := []
  normed : Bool := false
  normAb : Bool := false
  nsum : SMap Word64 := []
  ssum : SMap Word64 := []
  nLast : SMap Word64 := []
  sLast : SMap Word64 := []
  kappa : SMap Word32 := []
  fallback : SMap Nat := []
  syncWait : Option (Nat × Nat) := none
  cntFrost : Nat := 0
  cntGood : Nat := 0
  cntFail : Nat := 0
  cntNorm : Nat := 0
  cntW : Nat := 0
deriving DecidableEq, Repr

/-- Digest, fold and norm-exchange state of the device (R364, R377–R379). -/
structure CommitSt where
  sent : Word64 := 0
  recv : Word64 := 0
  folds : SMap Fold := []
  own : Option Fold := none
  ownFrom : List Nat := []
  ownTo : Option Nat := none
  ownSeq : Option (Nat × Nat) := none
  acked : Bool := false
  normRound : Nat := 0
  normVals : List Word64 := []
  normGot : List (Nat × DevId × List Word64) := []
  noise : Word32 := 0x7FC00000
deriving DecidableEq, Repr

/-- A Hem in the decision log (R406). -/
structure Decision where
  step : Word64
  commit : Bool
  mbCount : BitVec 8
  hem : Nat
  s : Nat
  parity : Bool
deriving DecidableEq, Repr

/-- Recovery state (R386–R416): the first open fault and all that have opened since the last roll-back, the decision log,
the reports of the step and the step that the manager has ended by a forced roll-back, the
AT at which the rewind must be complete and whether it has been extended, whether the H7 release of the step was missed, the
class H faults by position and committed step, and the count of committed steps. -/
structure RecoverySt where
  fault : Option FaultRec := none
  opens : List FaultRec := []
  log : List Decision := []
  reports : List FaultRec := []
  reportStep : Option Nat := none
  rewindMore : Bool := false
  rewindBy : Nat := 0
  missed : Bool := false
  history : List (Nat × Nat) := []
  committed : Nat := 0
deriving DecidableEq, Repr

/-- A firmware core (R420): its watchdog limit in ms, its state, its thaw counts and the AT of recent thaws, when it was last
re-armed, and whether its thaw window has been extended (R388). -/
structure CoreSt where
  limit : Nat := 100
  state : Nat := 0
  thaws : Nat := 0
  recent : List Nat := []
  armedAt : Nat := 0
  thawAt : Option Nat := none
  thawMore : Bool := false
deriving DecidableEq, Repr

/-- Firmware, host interface and job state (R417–R440): the cores; the words of BAR4; since when the driver has been attached
with its heartbeat, the beat count, and the address, period and last AT of the beat; a loss that the next scan finds; the AT of
the last heartbeat; the job image in force and the one that loads with its slot; the host window and the address of the image;
RUN and its limit; the filled batches and the fill in progress (slot, step, length); the park requests that the manager holds
and the own ones; the JOB_DIGEST messages in; the messages seen; log and message numbers; the slots whose LOAD waits, the slot
that scrubs and since when; an attach or detach request; the features agreed; the configuration record; the cores whose T reset
waits for the end of a scrub (R467). -/
structure HostSt where
  heldT : List Nat := []
  cores : List CoreSt := List.replicate 20 {}
  bar4 : SMap Word32 := []
  beatSince : Option Nat := none
  beatSeq : Nat := 0
  beatAfterF : Bool := false
  lossDue : Bool := false
  hbAt : Nat := 0
  img : Option JobImage := none
  loading : Option Nat := none
  winBase : Nat := 0
  winLen : Nat := 0
  imgAddr : Nat := 0
  runDone : Bool := false
  stepLimit : Nat := 0
  batches : List (Option Nat) := [none, none]
  batchFill : Option (Nat × Nat × Nat) := none
  scrubSlot : Option Nat := none
  staged : Option JobImage := none
  request : Nat := 0
  beatAddr : Nat := 0
  beatUs : Nat := 0
  beatLast : Option Nat := none
  parkHeld : List (Nat × Nat) := []
  ownPark : List Nat := []
  digests : List (DevId × Word64 × List Byte) := []
  digestSince : Option Nat := none
  seen : List (Nat × Nat) := []
  floods : List (Nat × Nat × Nat) := []
  logSeq : Nat := 0
  msgNum : Nat := 0
  queued : List Nat := []
  scrubSince : Nat := 0
  features : Nat := 0
  cfg : Option ConfigRec := none
deriving DecidableEq, Repr

/-- Power, input and cooling state (R441–R463): the switch, the bulk capacitance, the enable contact and whether the last
opening was an input fault; the credits lent (lender, borrower, mW); the last die powers in mW and the AT of the last
evaluation; the stutter of the compute dies and their thermal reductions in steps of 5 %; the last readings; the input energy in
µJ and the suppressed cycles since the last Hem; the power state that a transition leads to; the cause record; a thermal trip
and a W reset that it holds back. -/
structure PowerSt where
  closed : Bool := false
  bulk : Bool := false
  mated : Bool := false
  afterFault : Bool := false
  credits : List (Nat × Nat × Nat) := []
  power : List Nat := [0, 0, 0, 0, 0, 0, 0, 0]
  evalAt : Option Nat := none
  stutter : List Nat := [0, 0, 0, 0]
  reduced : List Nat := [0, 0, 0, 0]
  temps : TempReadings := ⟨[], [], 0, 0, 0⟩
  volts : Nat := 0
  amps : Nat := 0
  watts : Nat := 0
  energy : Nat := 0
  suppressed : Nat := 0
  target : Option Nat := none
  cause : List Nat := []
  trip : Bool := false
  heldW : Bool := false
deriving DecidableEq, Repr

/-- Self-test, NVM and crossing state (R469–R483): the bad-position record, the units that soft repair has repaired, the bad
positions in force, the unit under test and since when, whether the PCIe crossings are being armed, and the AT of the last event
of the PCIe counter (R478). -/
structure TestSt where
  nvm : List Nat := []
  softRows : List Nat := []
  bad : List Nat := []
  running : Option Nat := none
  since : Nat := 0
  pcieArming : Bool := false
  dropAt : Option Nat := none
deriving DecidableEq, Repr

/-- The identity fuses of a die (R498, R503).
(DESIGN CHOICE, log entry 5) -/
structure DieFuses where
  lot : Nat := 0
  wafer : Nat := 1
  x : Nat := 0
  y : Nat := 0
  step : Nat := 1
deriving DecidableEq, Repr

/-- Fuses, NVM objects, measurements and security state (R484–R503): the SVN counters, revocations, marks, grade, capacity and
identity of the fuses; the images, configuration copies and the identity object in NVM; the measurements 1 to 5; the next HSS
index, the last journal record and the AT of the last CSIGN; the debug nonce and the scope of an unlock; the versions that
run; the IDE streams; whether an SPDM session is up, and the number of nonces drawn.
(DESIGN CHOICE, log entry 5) -/
structure SecSt where
  fwSvn : Nat := 0
  cfgSvn : Nat := 0
  revoked : Nat := 0
  mark : Nat := 0
  gradeB : Bool := false
  capacity : Nat := 128
  dies : List DieFuses := [{}, {}, {}, {}, {}, {}, {}, {}]
  serial : Nat := 0
  images : List (Option SignedObj) := [none, none]
  configs : List (Option SignedObj) := [none, none]
  ident : Option SignedObj := none
  measurements : List (List Byte) := []
  lmsIdx : Nat := 0
  journal : Option Nat := none
  lastSign : Option Nat := none
  nonce : List Byte := []
  unlocked : Option Nat := none
  runSvn : Nat := 0
  runCfgSvn : Nat := 0
  ide : List Nat := []
  session : Bool := false
  nonces : Nat := 0
deriving DecidableEq, Repr

/-- A capture of a snapshot set that is on its way to a port (R480): the block, the port, the captured values as key, value and
reset value of the fields that take them, and the AT of the capture. -/
structure SnapPend where
  blk : SnapBlock
  port : Port
  vals : List (Nat × Nat × Nat)
  at_ : Nat := 0
deriving DecidableEq, Repr

/-- The state of the block. `now` is AT in nanoseconds; `fresh` counts the free values that have been drawn; `out` lists
what the device has sent, oldest first; `mem` is GDDR7 by device address with the bytes that differ from 0, and
`poison` its poisoned 256 B blocks. -/
structure State where
  pending : List Instr := []
  regs : SMap Nat := []
  now : Nat := 0
  fresh : Nat := 0
  out : List Out := []
  time : TimeSt := {}
  links : SMap LinkSt := []
  tacks : SMap TackSt := []
  step : StepSt := {}
  seam : SeamSt := {}
  tiles : SMap Tile := []
  fab : FabricSt := {}
  streams : SMap StreamSt := []
  mem : List Host.Cell := []
  poison : List Nat := []
  mdies : List MDieSt := [{}, {}]
  seqs : SMap SeqEnt := []
  harvest : List HarvestSt := [{}, {}]
  commit : CommitSt := {}
  monitors : SMap (Nat × MonCounts) := []
  rcv : RecoverySt := {}
  host : HostSt := {}
  power : PowerSt := {}
  test : TestSt := {}
  sec : SecSt := {}
  snaps : List SnapPend := []
deriving DecidableEq, Repr

/-- The machine right after reset: the P reset that the closing of the hot-swap switch applies (R443, R465).
(DESIGN CHOICE, log entry 4; DESIGN CHOICE, log entry 7) -/
def State.reset : State := { power := { closed := true, mated := true } }

end Sys2Proof.Machine
end

