-- ==== Sys2Proof/Machine/SMap.lean ====
section
/-! DEFINITION. The operations of the sparse stores and of byte memories: a store lists its keys in strictly rising
order; `smSet` keeps out the entries that equal what an unlisted key reads as, so that equal contents are equal data. -/

namespace Sys2Proof.Machine

/-- The value listed under a key. -/
def smFind {α : Type} : SMap α → Nat → Option α
  | [], _ => none
  | (k, v) :: m, q => if k = q then some v else smFind m q

/-- The value of a key, where an unlisted key reads as `d`. -/
def smGet {α : Type} (m : SMap α) (k : Nat) (d : α) : α := (smFind m k).getD d

/-- List a value under a key, in place of what was listed. -/
def smPut {α : Type} : SMap α → Nat → α → SMap α
  | [], q, w => [(q, w)]
  | (k, v) :: m, q, w =>
    if q < k then (q, w) :: (k, v) :: m
    else if q = k then (q, w) :: m
    else (k, v) :: smPut m q w

/-- Remove what is listed under a key. -/
def smDel {α : Type} : SMap α → Nat → SMap α
  | [], _ => []
  | (k, v) :: m, q => if k = q then smDel m q else (k, v) :: smDel m q

/-- Give a key a value, listing it only where it differs from what an unlisted key reads as. -/
def smSet {α : Type} [DecidableEq α] (m : SMap α) (k : Nat) (v d : α) : SMap α :=
  if v = d then smDel m k else smPut m k v

/-- The keys lie above `lo` and rise strictly. -/
def smSorted {α : Type} : Nat → SMap α → Bool
  | _, [] => true
  | lo, (k, _) :: m => decide (lo ≤ k) && smSorted (k + 1) m

/-- The canonical form of a store whose unlisted keys read as `d`: rising keys, and no entry equal to `d`. -/
def smWf {α : Type} [DecidableEq α] (m : SMap α) (d : α) : Bool :=
  smSorted 0 m && m.all (fun e => decide (e.2 ≠ d))

/-- One byte of a memory whose unlisted bytes read as 0.
(DESIGN CHOICE, log entry 7) -/
def Memory.read (m : List Host.Cell) (a : Nat) : Byte := smGet m a 0

/-- Write one byte of a memory. -/
def Memory.write (m : List Host.Cell) (a : Nat) (b : Byte) : List Host.Cell := smSet m a b 0

/-- The canonical form of a memory: addresses strictly rising and no byte listed that reads as 0. -/
def Memory.wf (m : List Host.Cell) : Bool := smWf m 0

/-- `n` bytes from an address up. -/
def Memory.readN (m : List Host.Cell) (a : Nat) : Nat → List Byte
  | 0 => []
  | n + 1 => Memory.read m a :: Memory.readN m (a + 1) n

/-- Write bytes from an address up. -/
def Memory.writeN (m : List Host.Cell) (a : Nat) : List Byte → List Host.Cell
  | [] => m
  | b :: bs => Memory.writeN (Memory.write m a b) (a + 1) bs

/-- The number that bytes spell, the first byte least significant.
(DEDUCED, log entry 65) -/
def leNat : List Byte → Nat
  | [] => 0
  | b :: bs => b.toNat + 256 * leNat bs

/-- The `n` bytes that spell a number, least significant first.
(DEDUCED, log entry 65) -/
def natLe (x : Nat) : Nat → List Byte
  | 0 => []
  | n + 1 => BitVec.ofNat 8 x :: natLe (x / 256) n

/-- Remove the keys of a range from a store. -/
def smDelRange {α : Type} (m : SMap α) (lo n : Nat) : SMap α := m.filter (fun e => decide (e.1 < lo ∨ lo + n ≤ e.1))

/-- Whether a bit of a mask is set. -/
def hasBit (m i : Nat) : Bool := m.testBit i

/-- A mask with a bit set. -/
def setBit (m i : Nat) : Nat := m ||| (1 <<< i)

/-- A mask with a bit cleared. -/
def clrBit (m i : Nat) : Nat := if m.testBit i then m - (1 <<< i) else m

/-- The element of a list at an index, or `d` beyond its end. -/
def nth {α : Type} (l : List α) (i : Nat) (d : α) : α := (l[i]?).getD d

/-- Replace the element of a list at an index by a function of it. -/
def modNth {α : Type} (l : List α) (i : Nat) (f : α → α) : List α := l.modify i f

end Sys2Proof.Machine
end

