-- ==== Sys2Proof/Machine/Crc.lean ====
section
/-! DEFINITION. The cyclic redundancy checks of the spec: CRC-32C of pattern halves, descriptors and check words (R224,
R240, R299), CRC-32 of a block (R319) and CRC-16 of a packet header (R195). All are in reflected form. -/

namespace Sys2Proof.Machine

/-- One bit enters a reflected register. -/
def crcBit (poly r : Nat) (b : Bool) : Nat :=
  if (r % 2 == 1) != b then (r / 2) ^^^ poly else r / 2

/-- `n` bits of a number enter a register, bit 0 first. -/
def crcBits (poly : Nat) : Nat → Nat → Nat → Nat
  | 0, _, r => r
  | n + 1, x, r => crcBits poly n (x / 2) (crcBit poly r (x % 2 == 1))

/-- A 32-bit CRC of bytes, with initial value and final XOR of all ones. -/
def crc32With (poly : Nat) (bs : List Byte) : Nat :=
  (bs.foldl (fun r b => crcBits poly 8 b.toNat r) 0xFFFFFFFF) ^^^ 0xFFFFFFFF

/-- CRC-32C. -/
def crc32c (bs : List Byte) : Nat := crc32With 0x82F63B78 bs

/-- The CRC-32 of IEEE 802.3 (R319). -/
def crc32 (bs : List Byte) : Nat := crc32With 0xEDB88320 bs

/-- HCHK over the header bits 0 to 111 (R195). -/
def crc16Header (hdr : Nat) : Nat := crcBits 0x8408 112 hdr 0xFFFF

end Sys2Proof.Machine
end

