-- ==== Sys2Proof/Config.lean ====
section
/-! DEFINITION. What the spec leaves to an outside reference, to a cryptographic standard or open: functions and values
without a body, about which nothing can be proved but that they are the same wherever they are asked the same. -/

namespace Sys2Proof

/-- A free value: the value that the spec leaves open at the `n`th place where a run meets one.
(DESIGN CHOICE, log entry 13) -/
opaque Config.freeValue : Nat → Nat

/-- The result of an integer instruction of the scalar class, whose opcodes the Ralek reference lists (R87): opcode,
function bits and the two source values.
(DESIGN CHOICE, log entry 9) -/
opaque Config.scalarArith : Nat → Nat → Word64 → Word64 → Word64

/-- The result of a compare of the scalar class (R87).
(DESIGN CHOICE, log entry 9) -/
opaque Config.scalarCompare : Nat → Nat → Word64 → Word64 → Bool

/-- The target of a branch or of a call (R87): opcode, fields [49:0], the PC and the value of register A.
(DESIGN CHOICE, log entry 9) -/
opaque Config.branchTarget : Nat → Nat → Nat → Word64 → Nat

/-- The upper half of a general register after a 4 B load, which the opcode of the load decides (R87).
(DESIGN CHOICE, log entry 9) -/
opaque Config.loadUpper : Nat → Word32 → Word32

/-- A lane of a vector operation outside R148, which the Ralek reference defines: opcode, fields [49:0], lane number
and the source lanes.
(DESIGN CHOICE, log entry 9) -/
opaque Config.vectorOther : Nat → Nat → Nat → Word32 → Word32 → Word32

/-- The lane value that a vector compare writes for false and for true, which the spec does not give.
(DESIGN CHOICE, log entry 9) -/
opaque Config.laneMask : Bool → Word32

/-- SHA-384, of an outside standard.
(DESIGN CHOICE, log entry 10) -/
opaque Config.sha384 : List Byte → List Byte

/-- SHA-256, of an outside standard.
(DESIGN CHOICE, log entry 10) -/
opaque Config.sha256 : List Byte → List Byte

/-- HMAC-SHA-384 of a key and a text, of an outside standard.
(DESIGN CHOICE, log entry 10) -/
opaque Config.hmac384 : List Byte → List Byte → List Byte

/-- Whether an ECDSA P-384 signature of a message verifies under a public key.
(DESIGN CHOICE, log entry 10) -/
opaque Config.ecdsaVerify : List Byte → List Byte → List Byte → Bool

/-- The device's ECDSA P-384 signature of a message under its identity key.
(DESIGN CHOICE, log entry 10) -/
opaque Config.ecdsaSign : List Byte → List Byte

/-- Whether an LMS or HSS signature of a message verifies under a public key.
(DESIGN CHOICE, log entry 10) -/
opaque Config.lmsVerify : List Byte → List Byte → List Byte → Bool

/-- The device's HSS signature of a message at an index.
(DESIGN CHOICE, log entry 10) -/
opaque Config.hssSign : Nat → List Byte → List Byte

/-- The public keys of the root slots (R484): of slot `n`, key 2n is the ECDSA key and key 2n + 1 the LMS key.
(DESIGN CHOICE, log entry 10) -/
opaque Config.rootKey : Nat → List Byte

/-- The version of the boot ROM, with which measurement 1 is extended (R490).
(DESIGN CHOICE, log entry 10) -/
opaque Config.romVersion : List Byte

/-- The device's own IDK public key (R485), and the public key that a DER certificate holds (R489).
(DESIGN CHOICE, log entry 10) -/
opaque Config.idkPublic : List Byte

/-- The public key that a certificate carries.
(DESIGN CHOICE, log entry 10) -/
opaque Config.certKey : List Byte → List Byte

/-- The device's own identity certificate chain (R340, R493).
(DESIGN CHOICE, log entry 10) -/
opaque Config.ownChain : List Byte

/-- Whether a certificate chain leads to a key that the device trusts.
(DESIGN CHOICE, log entry 10) -/
opaque Config.chainTrusted : List Byte → Bool

/-- The flash page key under which the HSS journal is authenticated.
(DESIGN CHOICE, log entry 10) -/
opaque Config.journalKey : List Byte

/-- A byte of the `n`th random nonce.
(DESIGN CHOICE, log entry 10) -/
opaque Config.nonceByte : Nat → Nat → Byte

end Sys2Proof
end

