-- ==== Sys2Proof/Machine/RegTable.lean ====
section
/-! DEFINITION. The register fields of the device, one definition per field, as the register tables of the chapters give
them (R14, R15) at the offsets of R508 and R519: where the field lies, its type, its reset value and the resets it
survives. The fields themselves are stored in `State.regs` (or, for the `MN_TILE_` and `MN_FREC_` registers of a tile,
in the tile's own record). -/

namespace Sys2Proof.Machine

/-- The type of a register field (R14). -/
inductive RegTy where
  | rw | ro | w1c | wo | rc | rwl
deriving DecidableEq, Repr

/-- The resets that a field survives, beside P and W, which none survives (R15). -/
structure Kept where
  f : Bool
  j : Bool
  t : Bool
  d : Bool
deriving DecidableEq, Repr

/-- One register field: the BAR0 offset of its register (R508; for a tile register the offset in the tile window,
R119), its lowest bit, its width, its type, its reset value, the resets it survives, and whether a copy of it exists
for each port (R515). -/
structure Fld where
  addr : Nat
  lo : Nat
  width : Nat
  ty : RegTy
  reset : Nat
  kept : Kept
  dual : Bool
deriving DecidableEq, Repr

def kNone : Kept := ⟨false, false, false, false⟩
def kFJTD : Kept := ⟨true, true, true, true⟩
def kFJT : Kept := ⟨true, true, true, false⟩
def kFTD : Kept := ⟨true, false, true, true⟩
def kFT : Kept := ⟨true, false, true, false⟩
def kT : Kept := ⟨false, false, true, false⟩
def kJTD : Kept := ⟨false, true, true, true⟩
def kFJD : Kept := ⟨true, true, false, true⟩

/-- The key under which a field is stored: its register's offset and its lowest bit. -/
def Fld.key (f : Fld) : Nat := f.addr * 32 + f.lo

/-- The key of the host port's copy of a field of which each port has one (R515). -/
def Fld.hostKey (f : Fld) : Nat := f.key + 0x20000000

def Reg.AT_CTL_DISC_EN : Fld := ⟨0x0, 0, 1, .rwl, 0, kFJTD, false⟩
def Reg.AT_CTL_PPS_ALIGN : Fld := ⟨0x0, 1, 1, .rwl, 0, kFJTD, false⟩
def Reg.AT_CTL_PPS_OUT_EN : Fld := ⟨0x0, 2, 1, .rwl, 1, kFJTD, false⟩
def Reg.AT_CTL_ROLE : Fld := ⟨0x0, 3, 2, .rwl, 0, kFJTD, false⟩
def Reg.AT_CTL_START : Fld := ⟨0x0, 5, 1, .wo, 0, kNone, false⟩
def Reg.AT_CTL_LOCK : Fld := ⟨0x0, 31, 1, .rwl, 0, kFJTD, false⟩
def Reg.AT_STAT_STATE : Fld := ⟨0x4, 0, 4, .ro, 0x0, kFJTD, false⟩
def Reg.AT_STAT_PARENT : Fld := ⟨0x4, 4, 6, .ro, 63, kFJTD, false⟩
def Reg.AT_STAT_DEPTH : Fld := ⟨0x4, 10, 4, .ro, 15, kFJTD, false⟩
def Reg.AT_STAT_REF_OK : Fld := ⟨0x4, 14, 1, .ro, 0, kFJTD, false⟩
def Reg.AT_STAT_ALIGNED : Fld := ⟨0x4, 15, 1, .ro, 0, kFJTD, false⟩
def Reg.AT_STAT_HOLD_LIMIT : Fld := ⟨0x4, 16, 1, .w1c, 0, kFJTD, false⟩
def Reg.AT_STAT_TAKEOVER : Fld := ⟨0x4, 17, 1, .w1c, 0, kFJTD, false⟩
def Reg.AT_SNAP_SNAP : Fld := ⟨0x8, 0, 1, .wo, 0, kNone, true⟩
def Reg.AT_SNAP_READY : Fld := ⟨0x8, 1, 1, .ro, 0, kNone, true⟩
def Reg.AT_NOW_LO_VALUE : Fld := ⟨0xC, 0, 32, .ro, 0, kFJTD, true⟩
def Reg.AT_NOW_HI_VALUE : Fld := ⟨0x10, 0, 32, .ro, 0, kFJTD, true⟩
def Reg.AT_EPOCH_START_LO_VALUE : Fld := ⟨0x18, 0, 32, .ro, 0, kFJTD, false⟩
def Reg.AT_EPOCH_START_HI_VALUE : Fld := ⟨0x1C, 0, 32, .ro, 0, kFJTD, false⟩
def Reg.AT_PPS_CAP_LO_VALUE : Fld := ⟨0x44, 0, 32, .ro, 0, kFJTD, false⟩
def Reg.AT_PPS_CAP_HI_VALUE : Fld := ⟨0x48, 0, 32, .ro, 0, kFJTD, false⟩
def Reg.AT_BASE_LO_VALUE : Fld := ⟨0x54, 0, 32, .rwl, 0, kFJTD, false⟩
def Reg.AT_BASE_HI_VALUE : Fld := ⟨0x58, 0, 32, .rwl, 0, kFJTD, false⟩
def Reg.AT_EPOCH_NUM : Fld := ⟨0x14, 0, 16, .ro, 0, kFJTD, false⟩
def Reg.AT_EPOCH_GEN : Fld := ⟨0x14, 16, 8, .ro, 0, kFJTD, false⟩
def Reg.AT_OFFSET_THETA : Fld := ⟨0x20, 0, 32, .ro, 0, kFJTD, true⟩
def Reg.AT_TRIM_PHASE : Fld := ⟨0x24, 0, 6, .ro, 0, kFJTD, true⟩
def Reg.AT_TRIM_FREQ : Fld := ⟨0x24, 8, 24, .ro, 0, kFJTD, true⟩
def Reg.AT_HOLD_ELAPSED : Fld := ⟨0x28, 0, 24, .ro, 0, kFJTD, true⟩
def Reg.AT_HOLD_EST_ERR : Fld := ⟨0x28, 24, 8, .ro, 0, kFJTD, true⟩
def Reg.AT_LIMIT_ALIGN : Fld := ⟨0x2C, 0, 8, .rwl, 5, kFJTD, false⟩
def Reg.AT_LIMIT_HOLD_ERR : Fld := ⟨0x2C, 8, 8, .rwl, 20, kFJTD, false⟩
def Reg.AT_LIMIT_PARENT_LOSS : Fld := ⟨0x2C, 16, 8, .rwl, 5, kFJTD, false⟩
def Reg.AT_LIMIT_ROOT_LOSS : Fld := ⟨0x2C, 24, 8, .rwl, 20, kFJTD, false⟩
def Reg.AT_LSEL_LINK : Fld := ⟨0x30, 0, 6, .rw, 0, kFJTD, true⟩
def Reg.AT_LDELAY_DELAY : Fld := ⟨0x34, 0, 32, .ro, 0, kFJTD, false⟩
def Reg.AT_LASYM_ASYM : Fld := ⟨0x38, 0, 20, .ro, 0, kFJTD, false⟩
def Reg.AT_LADJ_ADJ : Fld := ⟨0x3C, 0, 16, .rwl, 0, kFJTD, false⟩
def Reg.AT_LSTAT_REJ : Fld := ⟨0x40, 0, 16, .rc, 0, kFJTD, false⟩
def Reg.AT_LSTAT_PEER_DEPTH : Fld := ⟨0x40, 16, 4, .ro, 15, kFJTD, false⟩
def Reg.AT_LSTAT_PEER_GEN : Fld := ⟨0x40, 20, 8, .ro, 0, kFJTD, false⟩
def Reg.AT_LSTAT_IS_PARENT : Fld := ⟨0x40, 28, 1, .ro, 0, kFJTD, false⟩
def Reg.AT_PPS_FRAC_FRAC : Fld := ⟨0x4C, 0, 16, .ro, 0, kFJTD, false⟩
def Reg.AT_PPS_STAT_ACC : Fld := ⟨0x50, 0, 16, .rc, 0, kFJTD, false⟩
def Reg.AT_PPS_STAT_REJ : Fld := ⟨0x50, 16, 16, .rc, 0, kFJTD, false⟩

/-- The fields of the AT_ registers. -/
def Reg.blockAT : List Fld :=
  [Reg.AT_CTL_DISC_EN,
    Reg.AT_CTL_PPS_ALIGN,
    Reg.AT_CTL_PPS_OUT_EN,
    Reg.AT_CTL_ROLE,
    Reg.AT_CTL_START,
    Reg.AT_CTL_LOCK,
    Reg.AT_STAT_STATE,
    Reg.AT_STAT_PARENT,
    Reg.AT_STAT_DEPTH,
    Reg.AT_STAT_REF_OK,
    Reg.AT_STAT_ALIGNED,
    Reg.AT_STAT_HOLD_LIMIT,
    Reg.AT_STAT_TAKEOVER,
    Reg.AT_SNAP_SNAP,
    Reg.AT_SNAP_READY,
    Reg.AT_NOW_LO_VALUE] ++
  [Reg.AT_NOW_HI_VALUE,
    Reg.AT_EPOCH_START_LO_VALUE,
    Reg.AT_EPOCH_START_HI_VALUE,
    Reg.AT_PPS_CAP_LO_VALUE,
    Reg.AT_PPS_CAP_HI_VALUE,
    Reg.AT_BASE_LO_VALUE,
    Reg.AT_BASE_HI_VALUE,
    Reg.AT_EPOCH_NUM,
    Reg.AT_EPOCH_GEN,
    Reg.AT_OFFSET_THETA,
    Reg.AT_TRIM_PHASE,
    Reg.AT_TRIM_FREQ,
    Reg.AT_HOLD_ELAPSED,
    Reg.AT_HOLD_EST_ERR,
    Reg.AT_LIMIT_ALIGN,
    Reg.AT_LIMIT_HOLD_ERR] ++
  [Reg.AT_LIMIT_PARENT_LOSS,
    Reg.AT_LIMIT_ROOT_LOSS,
    Reg.AT_LSEL_LINK,
    Reg.AT_LDELAY_DELAY,
    Reg.AT_LASYM_ASYM,
    Reg.AT_LADJ_ADJ,
    Reg.AT_LSTAT_REJ,
    Reg.AT_LSTAT_PEER_DEPTH,
    Reg.AT_LSTAT_PEER_GEN,
    Reg.AT_LSTAT_IS_PARENT,
    Reg.AT_PPS_FRAC_FRAC,
    Reg.AT_PPS_STAT_ACC,
    Reg.AT_PPS_STAT_REJ]

def Reg.TK_CTL_LEND_EN : Fld := ⟨0x10000, 0, 1, .rwl, 1, kFJTD, false⟩
def Reg.TK_CTL_WDOG_EN : Fld := ⟨0x10000, 1, 1, .rwl, 1, kFJTD, false⟩
def Reg.TK_CTL_LOCK : Fld := ⟨0x10000, 31, 1, .rwl, 0, kFJTD, false⟩
def Reg.TK_STAT_PHASE : Fld := ⟨0x10004, 0, 3, .ro, 0, kFTD, false⟩
def Reg.TK_STAT_ADMITTED : Fld := ⟨0x10004, 3, 1, .ro, 0, kFTD, false⟩
def Reg.TK_STAT_IN_SEAM : Fld := ⟨0x10004, 4, 1, .ro, 0, kFTD, false⟩
def Reg.TK_STAT_LAST_COMMIT : Fld := ⟨0x10004, 5, 1, .ro, 0, kFTD, false⟩
def Reg.TK_STAT_MB : Fld := ⟨0x10004, 8, 8, .ro, 0, kFTD, false⟩
def Reg.TK_STAT_MB_COUNT : Fld := ⟨0x10004, 16, 8, .ro, 0, kFTD, false⟩
def Reg.TK_LEAD_HALL : Fld := ⟨0x10008, 0, 16, .rw, 512, kFJTD, false⟩
def Reg.TK_LEAD_LOCAL : Fld := ⟨0x10008, 16, 16, .rw, 64, kFJTD, false⟩
def Reg.TK_HEM_WIN : Fld := ⟨0x1000C, 0, 16, .rw, 128, kFJTD, false⟩
def Reg.TK_HEM_DEADLINE : Fld := ⟨0x1000C, 16, 16, .rw, 64, kFJTD, false⟩
def Reg.TK_WDOG_LIMIT : Fld := ⟨0x10010, 0, 20, .rw, 100000, kFJTD, false⟩
def Reg.TK_STEP_LO_VALUE : Fld := ⟨0x10014, 0, 32, .ro, 0, kFTD, true⟩
def Reg.TK_STEP_HI_VALUE : Fld := ⟨0x10018, 0, 32, .ro, 0, kFTD, true⟩
def Reg.TK_HEM_AT_LO_VALUE : Fld := ⟨0x1001C, 0, 32, .ro, 0, kFTD, true⟩
def Reg.TK_HEM_AT_HI_VALUE : Fld := ⟨0x10020, 0, 32, .ro, 0, kFTD, true⟩
def Reg.TK_HALL_UP : Fld := ⟨0x10024, 0, 8, .ro, 0, kFTD, false⟩
def Reg.TK_HALL_ROUND : Fld := ⟨0x10024, 8, 8, .ro, 0, kFTD, false⟩
def Reg.TK_HALL_LATE : Fld := ⟨0x10024, 16, 8, .w1c, 0, kFTD, false⟩
def Reg.TK_PEND_PEND : Fld := ⟨0x10028, 0, 32, .ro, 0, kFTD, false⟩
def Reg.TK_SEL_TREE : Fld := ⟨0x1002C, 0, 5, .rw, 0, kFJTD, true⟩
def Reg.TK_HOLDOUT_FIRST : Fld := ⟨0x10030, 0, 13, .ro, 0x1FFF, kFTD, false⟩
def Reg.TK_HOLDOUT_COUNT : Fld := ⟨0x10030, 13, 13, .ro, 0, kFTD, false⟩
def Reg.TK_HOLDOUT_ENG : Fld := ⟨0x10030, 26, 4, .ro, 0, kFTD, false⟩
def Reg.TK_NEXT_MB_COUNT : Fld := ⟨0x10034, 0, 8, .rw, 0, kFTD, false⟩
def Reg.TK_NEXT_VALID : Fld := ⟨0x10034, 31, 1, .rw, 0, kFTD, false⟩
def Reg.TK_CNT_LEND_VALUE : Fld := ⟨0x10038, 0, 32, .ro, 0, kFTD, false⟩
def Reg.TK_CNT_WAIT_VALUE : Fld := ⟨0x1003C, 0, 32, .ro, 0, kFTD, false⟩
def Reg.TK_FLT_WDOG : Fld := ⟨0x10040, 0, 1, .w1c, 0, kFTD, false⟩
def Reg.TK_FLT_LATE : Fld := ⟨0x10040, 1, 1, .w1c, 0, kFTD, false⟩
def Reg.TK_FLT_RAIL : Fld := ⟨0x10040, 2, 1, .w1c, 0, kFTD, false⟩
def Reg.TK_FLT_PARAM : Fld := ⟨0x10040, 3, 1, .w1c, 0, kFTD, false⟩
def Reg.TK_FLT_ABANDON : Fld := ⟨0x10040, 4, 1, .w1c, 0, kFTD, false⟩
def Reg.TK_SNAP_SNAP : Fld := ⟨0x10044, 0, 1, .wo, 0, kNone, true⟩
def Reg.TK_SNAP_READY : Fld := ⟨0x10044, 1, 1, .ro, 0, kNone, true⟩
def Reg.TK_BIND_KIND (k : Nat) : Fld := ⟨0x10100 + 4 * k, 0, 2, .rw, 0, kFTD, false⟩
def Reg.TK_BIND_HALL (k : Nat) : Fld := ⟨0x10100 + 4 * k, 2, 3, .rw, 0, kFTD, false⟩
def Reg.TK_BIND_ENG (k : Nat) : Fld := ⟨0x10100 + 4 * k, 5, 4, .rw, 0, kFTD, false⟩

/-- The fields of the TK_ registers. -/
def Reg.blockTK : List Fld :=
  [Reg.TK_CTL_LEND_EN,
    Reg.TK_CTL_WDOG_EN,
    Reg.TK_CTL_LOCK,
    Reg.TK_STAT_PHASE,
    Reg.TK_STAT_ADMITTED,
    Reg.TK_STAT_IN_SEAM,
    Reg.TK_STAT_LAST_COMMIT,
    Reg.TK_STAT_MB,
    Reg.TK_STAT_MB_COUNT,
    Reg.TK_LEAD_HALL,
    Reg.TK_LEAD_LOCAL,
    Reg.TK_HEM_WIN,
    Reg.TK_HEM_DEADLINE,
    Reg.TK_WDOG_LIMIT,
    Reg.TK_STEP_LO_VALUE,
    Reg.TK_STEP_HI_VALUE] ++
  [Reg.TK_HEM_AT_LO_VALUE,
    Reg.TK_HEM_AT_HI_VALUE,
    Reg.TK_HALL_UP,
    Reg.TK_HALL_ROUND,
    Reg.TK_HALL_LATE,
    Reg.TK_PEND_PEND,
    Reg.TK_SEL_TREE,
    Reg.TK_HOLDOUT_FIRST,
    Reg.TK_HOLDOUT_COUNT,
    Reg.TK_HOLDOUT_ENG,
    Reg.TK_NEXT_MB_COUNT,
    Reg.TK_NEXT_VALID,
    Reg.TK_CNT_LEND_VALUE,
    Reg.TK_CNT_WAIT_VALUE,
    Reg.TK_FLT_WDOG,
    Reg.TK_FLT_LATE] ++
  [Reg.TK_FLT_RAIL,
    Reg.TK_FLT_PARAM,
    Reg.TK_FLT_ABANDON,
    Reg.TK_SNAP_SNAP,
    Reg.TK_SNAP_READY] ++
  (List.range 32).map (fun k => Reg.TK_BIND_KIND k) ++
  (List.range 32).map (fun k => Reg.TK_BIND_HALL k) ++
  (List.range 32).map (fun k => Reg.TK_BIND_ENG k)

def Reg.MN_SR_SEED_LO_VALUE : Fld := ⟨0x20000, 0, 32, .rw, 0, kFTD, false⟩
def Reg.MN_SR_SEED_HI_VALUE : Fld := ⟨0x20004, 0, 32, .rw, 0, kFTD, false⟩
def Reg.MN_SNAP_SNAP : Fld := ⟨0x20008, 0, 1, .wo, 0, kNone, true⟩
def Reg.MN_SNAP_READY : Fld := ⟨0x20008, 1, 1, .ro, 0, kNone, true⟩
def Reg.MN_TSEL_TID : Fld := ⟨0x2000C, 0, 14, .rw, 0, kFJTD, true⟩
def Reg.MN_T_STEP_LO_VALUE : Fld := ⟨0x20010, 0, 32, .ro, 0, kFTD, true⟩
def Reg.MN_T_STEP_HI_VALUE : Fld := ⟨0x20014, 0, 32, .ro, 0, kFTD, true⟩
def Reg.MN_T_TOTAL_COUNT : Fld := ⟨0x20018, 0, 32, .ro, 0, kFTD, true⟩
def Reg.MN_T_ZERO_COUNT : Fld := ⟨0x2001C, 0, 32, .ro, 0, kFTD, true⟩
def Reg.MN_T_SAT_COUNT : Fld := ⟨0x20020, 0, 32, .ro, 0, kFTD, true⟩
def Reg.MN_T_NONFIN_COUNT : Fld := ⟨0x20024, 0, 32, .ro, 0, kFTD, true⟩
def Reg.MN_T_HIST_COUNT (k : Nat) : Fld := ⟨0x20040 + 4 * k, 0, 32, .ro, 0, kFTD, true⟩
def Reg.MN_NUM_CTL_LIMIT : Fld := ⟨0x20080, 0, 5, .rw, 22, kFTD, false⟩
def Reg.MN_NUM_LONGSUM_COUNT : Fld := ⟨0x20084, 0, 32, .ro, 0, kFTD, false⟩
def Reg.MN_NUM_NONFIN_COUNT : Fld := ⟨0x20088, 0, 32, .ro, 0, kFTD, false⟩
def Reg.MN_NUM_FIRST_LTILE : Fld := ⟨0x2008C, 0, 13, .ro, 0, kFTD, false⟩
def Reg.MN_NUM_FIRST_VALID : Fld := ⟨0x2008C, 31, 1, .ro, 0, kFTD, false⟩
def Reg.MN_FAB_CTL_SIDE_EN : Fld := ⟨0x200C0, 0, 1, .rwl, 1, kFJTD, false⟩
def Reg.MN_FAB_CTL_MERGE_EN : Fld := ⟨0x200C0, 1, 1, .rwl, 1, kFJTD, false⟩
def Reg.MN_FAB_CTL_LOCK : Fld := ⟨0x200C0, 31, 1, .rwl, 0, kFJTD, false⟩
def Reg.MN_FAB_STAT_HDR_ERR : Fld := ⟨0x200C4, 0, 1, .w1c, 0, kFJTD, false⟩
def Reg.MN_FAB_STAT_MAP_ERR : Fld := ⟨0x200C4, 1, 1, .w1c, 0, kFJTD, false⟩
def Reg.MN_FAB_STAT_DROPS : Fld := ⟨0x200C4, 16, 16, .rc, 0, kFJTD, false⟩
def Reg.MN_FAB_ROWSEL_DIE : Fld := ⟨0x200C8, 0, 2, .rw, 0, kFJTD, true⟩
def Reg.MN_FAB_ROWSEL_PROW : Fld := ⟨0x200C8, 2, 6, .rw, 0, kFJTD, true⟩
def Reg.MN_FAB_ROW_MODE : Fld := ⟨0x200CC, 0, 2, .rw, 0, kFJTD, false⟩
def Reg.MN_FAB_ROW_BAD : Fld := ⟨0x200CC, 2, 6, .rw, 0, kFJTD, false⟩
def Reg.MN_FAB_ROW_LROW : Fld := ⟨0x200CC, 8, 6, .ro, 63, kFJTD, false⟩
def Reg.MN_FAB_ROW_RTR_FAIL : Fld := ⟨0x200CC, 14, 1, .ro, 0, kFJTD, false⟩
def Reg.MN_FAB_EDGE_WORDS (k : Nat) : Fld := ⟨0x20100 + 4 * k, 0, 32, .ro, 0, kFTD, false⟩
def Reg.MN_TWIN_SEL_TILE (k : Nat) : Fld := ⟨0x20200 + 4 * k, 0, 13, .rw, 0, kJTD, false⟩
def Reg.MN_TWIN_SEL_LOGICAL (k : Nat) : Fld := ⟨0x20200 + 4 * k, 31, 1, .rw, 0, kJTD, false⟩

/-- The fields of the MN_ registers. -/
def Reg.blockMN : List Fld :=
  [Reg.MN_SR_SEED_LO_VALUE,
    Reg.MN_SR_SEED_HI_VALUE,
    Reg.MN_SNAP_SNAP,
    Reg.MN_SNAP_READY,
    Reg.MN_TSEL_TID,
    Reg.MN_T_STEP_LO_VALUE,
    Reg.MN_T_STEP_HI_VALUE,
    Reg.MN_T_TOTAL_COUNT,
    Reg.MN_T_ZERO_COUNT,
    Reg.MN_T_SAT_COUNT,
    Reg.MN_T_NONFIN_COUNT,
    Reg.MN_NUM_CTL_LIMIT,
    Reg.MN_NUM_LONGSUM_COUNT,
    Reg.MN_NUM_NONFIN_COUNT,
    Reg.MN_NUM_FIRST_LTILE,
    Reg.MN_NUM_FIRST_VALID] ++
  [Reg.MN_FAB_CTL_SIDE_EN,
    Reg.MN_FAB_CTL_MERGE_EN,
    Reg.MN_FAB_CTL_LOCK,
    Reg.MN_FAB_STAT_HDR_ERR,
    Reg.MN_FAB_STAT_MAP_ERR,
    Reg.MN_FAB_STAT_DROPS,
    Reg.MN_FAB_ROWSEL_DIE,
    Reg.MN_FAB_ROWSEL_PROW,
    Reg.MN_FAB_ROW_MODE,
    Reg.MN_FAB_ROW_BAD,
    Reg.MN_FAB_ROW_LROW,
    Reg.MN_FAB_ROW_RTR_FAIL] ++
  (List.range 16).map (fun k => Reg.MN_T_HIST_COUNT k) ++
  (List.range 12).map (fun k => Reg.MN_FAB_EDGE_WORDS k) ++
  (List.range 16).map (fun k => Reg.MN_TWIN_SEL_TILE k) ++
  (List.range 16).map (fun k => Reg.MN_TWIN_SEL_LOGICAL k)

def Reg.PT_SET_ACTIVE : Fld := ⟨0x30000, 0, 16, .ro, 0, kFT, false⟩
def Reg.PT_SET_NEXT : Fld := ⟨0x30000, 16, 16, .ro, 0, kFT, false⟩
def Reg.PT_STAT_LOADER : Fld := ⟨0x30004, 0, 2, .ro, 0, kFT, false⟩
def Reg.PT_STAT_XREADY : Fld := ⟨0x30004, 2, 1, .ro, 0, kFT, false⟩
def Reg.PT_STAT_DREADY : Fld := ⟨0x30004, 3, 1, .ro, 0, kFT, false⟩
def Reg.PT_STAT_RELOADS : Fld := ⟨0x30004, 16, 16, .rc, 0, kFJTD, false⟩
def Reg.PT_NR_FIRST : Fld := ⟨0x30008, 0, 13, .ro, 0x1FFF, kFT, false⟩
def Reg.PT_NR_COUNT : Fld := ⟨0x30008, 13, 13, .ro, 0, kFT, false⟩
def Reg.PT_ERR_CODE : Fld := ⟨0x3000C, 0, 4, .ro, 0, kFT, false⟩
def Reg.PT_ERR_WHERE : Fld := ⟨0x3000C, 4, 13, .ro, 0, kFT, false⟩
def Reg.PT_ERR_VALID : Fld := ⟨0x3000C, 31, 1, .w1c, 0, kFT, false⟩

/-- The fields of the PT_ registers. -/
def Reg.blockPT : List Fld :=
  [Reg.PT_SET_ACTIVE,
    Reg.PT_SET_NEXT,
    Reg.PT_STAT_LOADER,
    Reg.PT_STAT_XREADY,
    Reg.PT_STAT_DREADY,
    Reg.PT_STAT_RELOADS,
    Reg.PT_NR_FIRST,
    Reg.PT_NR_COUNT,
    Reg.PT_ERR_CODE,
    Reg.PT_ERR_WHERE,
    Reg.PT_ERR_VALID]

def Reg.SM_CTL_PITCH : Fld := ⟨0x40000, 0, 8, .rwl, 32, kFJTD, false⟩
def Reg.SM_CTL_LOCK : Fld := ⟨0x40000, 31, 1, .rwl, 0, kFJTD, false⟩
def Reg.SM_CFG_CABLE : Fld := ⟨0x40004, 0, 8, .rwl, 20, kFJTD, false⟩
def Reg.SM_CFG_DIAM : Fld := ⟨0x40004, 8, 3, .rwl, 4, kFJTD, false⟩
def Reg.SM_CFG_REACH : Fld := ⟨0x40004, 16, 16, .rwl, 576, kFJTD, false⟩
def Reg.SM_HOLD_LIM_LIMIT : Fld := ⟨0x40008, 0, 20, .rwl, 1000, kFJTD, false⟩
def Reg.SM_TT_NATIVE : Fld := ⟨0x4000C, 0, 8, .ro, 0, kNone, false⟩
def Reg.SM_TT_SEL : Fld := ⟨0x4000C, 8, 8, .ro, 0, kFJTD, false⟩
def Reg.SM_TT_LANE3 : Fld := ⟨0x4000C, 16, 1, .ro, 0, kFJTD, false⟩
def Reg.SM_TT_LANE3_REQ : Fld := ⟨0x4000C, 17, 1, .ro, 0, kFJTD, false⟩
def Reg.SM_STAT_STATE : Fld := ⟨0x40010, 0, 3, .ro, 0, kFTD, false⟩
def Reg.SM_STAT_SPAN : Fld := ⟨0x40010, 3, 5, .ro, 0, kFTD, false⟩
def Reg.SM_STAT_HALL : Fld := ⟨0x40010, 8, 1, .ro, 0, kFTD, false⟩
def Reg.SM_STAT_HSEQ : Fld := ⟨0x40010, 9, 4, .ro, 0, kFTD, false⟩
def Reg.SM_FLT_LATE_HOLD : Fld := ⟨0x40014, 0, 1, .w1c, 0, kFTD, false⟩
def Reg.SM_FLT_LATE_RESUME : Fld := ⟨0x40014, 1, 1, .w1c, 0, kFTD, false⟩
def Reg.SM_FLT_HOLD_LIMIT : Fld := ⟨0x40014, 2, 1, .w1c, 0, kFTD, false⟩
def Reg.SM_FLT_CABLE : Fld := ⟨0x40014, 3, 1, .w1c, 0, kFTD, false⟩
def Reg.SM_FLT_TT_MISSING : Fld := ⟨0x40014, 4, 1, .w1c, 0, kFTD, false⟩
def Reg.SM_FLT_TT_SLOW : Fld := ⟨0x40014, 5, 1, .w1c, 0, kFTD, false⟩
def Reg.SM_HOLD_CNT_RAISED : Fld := ⟨0x40018, 0, 16, .ro, 0, kFTD, false⟩
def Reg.SM_HOLD_CNT_PAUSES : Fld := ⟨0x40018, 16, 16, .ro, 0, kFTD, false⟩
def Reg.SM_HOLD_NS_VALUE : Fld := ⟨0x4001C, 0, 32, .ro, 0, kFTD, false⟩
def Reg.SM_DARN_USED_VALUE : Fld := ⟨0x40024, 0, 32, .ro, 0, kFTD, false⟩
def Reg.SM_LAST_LEN_VALUE : Fld := ⟨0x40028, 0, 32, .ro, 0, kFTD, false⟩
def Reg.SM_HOLD_SRC_LINK : Fld := ⟨0x40020, 0, 6, .ro, 0, kFTD, false⟩
def Reg.SM_HOLD_SRC_SPAN : Fld := ⟨0x40020, 6, 5, .ro, 0, kFTD, false⟩
def Reg.SM_HOLD_SRC_VALID : Fld := ⟨0x40020, 31, 1, .w1c, 0, kFTD, false⟩

/-- The fields of the SM_ registers. -/
def Reg.blockSM : List Fld :=
  [Reg.SM_CTL_PITCH,
    Reg.SM_CTL_LOCK,
    Reg.SM_CFG_CABLE,
    Reg.SM_CFG_DIAM,
    Reg.SM_CFG_REACH,
    Reg.SM_HOLD_LIM_LIMIT,
    Reg.SM_TT_NATIVE,
    Reg.SM_TT_SEL,
    Reg.SM_TT_LANE3,
    Reg.SM_TT_LANE3_REQ,
    Reg.SM_STAT_STATE,
    Reg.SM_STAT_SPAN,
    Reg.SM_STAT_HALL,
    Reg.SM_STAT_HSEQ,
    Reg.SM_FLT_LATE_HOLD,
    Reg.SM_FLT_LATE_RESUME] ++
  [Reg.SM_FLT_HOLD_LIMIT,
    Reg.SM_FLT_CABLE,
    Reg.SM_FLT_TT_MISSING,
    Reg.SM_FLT_TT_SLOW,
    Reg.SM_HOLD_CNT_RAISED,
    Reg.SM_HOLD_CNT_PAUSES,
    Reg.SM_HOLD_NS_VALUE,
    Reg.SM_DARN_USED_VALUE,
    Reg.SM_LAST_LEN_VALUE,
    Reg.SM_HOLD_SRC_LINK,
    Reg.SM_HOLD_SRC_SPAN,
    Reg.SM_HOLD_SRC_VALID]

def Reg.BB_CTL_REMOTE_EN : Fld := ⟨0x50000, 0, 1, .rwl, 1, kFJTD, false⟩
def Reg.BB_CTL_MW_EN : Fld := ⟨0x50000, 1, 1, .rwl, 1, kFJTD, false⟩
def Reg.BB_CTL_RETRY : Fld := ⟨0x50000, 8, 8, .rwl, 16, kFJTD, false⟩
def Reg.BB_CTL_LOCK : Fld := ⟨0x50000, 31, 1, .rwl, 0, kFJTD, false⟩
def Reg.BB_SEL_TILE : Fld := ⟨0x50004, 0, 13, .rw, 0, kFJTD, true⟩
def Reg.BB_SEL_RING : Fld := ⟨0x50004, 13, 3, .rw, 0, kFJTD, true⟩
def Reg.BB_SNAP_SNAP : Fld := ⟨0x50008, 0, 1, .wo, 0, kNone, true⟩
def Reg.BB_SNAP_READY : Fld := ⟨0x50008, 1, 1, .ro, 0, kNone, true⟩
def Reg.BB_RCFG_KIND : Fld := ⟨0x5000C, 0, 2, .ro, 3, kFT, true⟩
def Reg.BB_RCFG_SIZE : Fld := ⟨0x5000C, 2, 4, .ro, 0, kFT, true⟩
def Reg.BB_RCFG_SLOT : Fld := ⟨0x5000C, 6, 3, .ro, 0, kFT, true⟩
def Reg.BB_RCFG_ETYPE : Fld := ⟨0x5000C, 9, 2, .ro, 0, kFT, true⟩
def Reg.BB_RCFG_BASE : Fld := ⟨0x5000C, 12, 18, .ro, 0, kFT, true⟩
def Reg.BB_RPTR_A : Fld := ⟨0x50010, 0, 13, .ro, 0, kFT, true⟩
def Reg.BB_RPTR_AW : Fld := ⟨0x50010, 13, 1, .ro, 0, kFT, true⟩
def Reg.BB_RPTR_B : Fld := ⟨0x50010, 14, 13, .ro, 0, kFT, true⟩
def Reg.BB_RPTR_BW : Fld := ⟨0x50010, 27, 1, .ro, 0, kFT, true⟩
def Reg.BB_RQ_RESV : Fld := ⟨0x50014, 0, 13, .ro, 0, kFT, true⟩
def Reg.BB_RQ_RW : Fld := ⟨0x50014, 13, 1, .ro, 0, kFT, true⟩
def Reg.BB_RQ_QUEUED : Fld := ⟨0x50014, 14, 7, .ro, 0, kFT, true⟩
def Reg.BB_THIM_STATE : Fld := ⟨0x50018, 0, 16, .ro, 0, kFT, true⟩
def Reg.BB_CNT_MSG_COUNT : Fld := ⟨0x5001C, 0, 32, .ro, 0, kFTD, false⟩
def Reg.BB_CNT_ADD_COUNT : Fld := ⟨0x50020, 0, 32, .ro, 0, kFTD, false⟩
def Reg.BB_CNT_RELAY_COUNT : Fld := ⟨0x50024, 0, 32, .ro, 0, kFTD, false⟩
def Reg.BB_CNT_RETRY_COUNT : Fld := ⟨0x50028, 0, 32, .ro, 0, kFTD, false⟩
def Reg.BB_CNT_ABANDON_COUNT : Fld := ⟨0x5002C, 0, 32, .ro, 0, kFTD, false⟩
def Reg.BB_MW_LOCAL_TILE : Fld := ⟨0x50030, 0, 13, .ro, 0, kFT, false⟩
def Reg.BB_MW_LOCAL_DEV : Fld := ⟨0x50030, 13, 13, .ro, 0, kFT, false⟩
def Reg.BB_MW_LOCAL_VALID : Fld := ⟨0x50030, 31, 1, .w1c, 0, kFT, false⟩
def Reg.BB_MW_PEER_TILE : Fld := ⟨0x50034, 0, 13, .ro, 0, kFT, false⟩
def Reg.BB_MW_PEER_DEV : Fld := ⟨0x50034, 13, 13, .ro, 0, kFT, false⟩
def Reg.BB_MW_PEER_VALID : Fld := ⟨0x50034, 31, 1, .w1c, 0, kFT, false⟩

/-- The fields of the BB_ registers. -/
def Reg.blockBB : List Fld :=
  [Reg.BB_CTL_REMOTE_EN,
    Reg.BB_CTL_MW_EN,
    Reg.BB_CTL_RETRY,
    Reg.BB_CTL_LOCK,
    Reg.BB_SEL_TILE,
    Reg.BB_SEL_RING,
    Reg.BB_SNAP_SNAP,
    Reg.BB_SNAP_READY,
    Reg.BB_RCFG_KIND,
    Reg.BB_RCFG_SIZE,
    Reg.BB_RCFG_SLOT,
    Reg.BB_RCFG_ETYPE,
    Reg.BB_RCFG_BASE,
    Reg.BB_RPTR_A,
    Reg.BB_RPTR_AW,
    Reg.BB_RPTR_B] ++
  [Reg.BB_RPTR_BW,
    Reg.BB_RQ_RESV,
    Reg.BB_RQ_RW,
    Reg.BB_RQ_QUEUED,
    Reg.BB_THIM_STATE,
    Reg.BB_CNT_MSG_COUNT,
    Reg.BB_CNT_ADD_COUNT,
    Reg.BB_CNT_RELAY_COUNT,
    Reg.BB_CNT_RETRY_COUNT,
    Reg.BB_CNT_ABANDON_COUNT,
    Reg.BB_MW_LOCAL_TILE,
    Reg.BB_MW_LOCAL_DEV,
    Reg.BB_MW_LOCAL_VALID,
    Reg.BB_MW_PEER_TILE,
    Reg.BB_MW_PEER_DEV,
    Reg.BB_MW_PEER_VALID]

def Reg.HV_DG_SENT_LO_VALUE : Fld := ⟨0x60100, 0, 32, .ro, 0, kFTD, false⟩
def Reg.HV_DG_SENT_HI_VALUE : Fld := ⟨0x60104, 0, 32, .ro, 0, kFTD, false⟩
def Reg.HV_DG_RECV_LO_VALUE : Fld := ⟨0x60108, 0, 32, .ro, 0, kFTD, false⟩
def Reg.HV_DG_RECV_HI_VALUE : Fld := ⟨0x6010C, 0, 32, .ro, 0, kFTD, false⟩
def Reg.HV_COMMIT_COMMIT : Fld := ⟨0x60110, 0, 1, .ro, 0, kFTD, false⟩
def Reg.HV_COMMIT_DG_EQ : Fld := ⟨0x60110, 1, 1, .ro, 0, kFTD, false⟩
def Reg.HV_COMMIT_DONE : Fld := ⟨0x60110, 2, 1, .ro, 0, kFTD, false⟩
def Reg.HV_COMMIT_FAULT : Fld := ⟨0x60110, 3, 1, .ro, 0, kFTD, false⟩
def Reg.HV_COMMIT_COUNT_OK : Fld := ⟨0x60110, 4, 1, .ro, 0, kFTD, false⟩
def Reg.HV_COMMIT_ROLLBACKS : Fld := ⟨0x60110, 16, 16, .rc, 0, kFTD, false⟩
def Reg.HV_NOISE_VALUE : Fld := ⟨0x60114, 0, 32, .ro, 0x7FC00000, kFTD, false⟩

/-- The fields of the device part of the HV_ registers. -/
def Reg.blockHVD : List Fld :=
  [Reg.HV_DG_SENT_LO_VALUE,
    Reg.HV_DG_SENT_HI_VALUE,
    Reg.HV_DG_RECV_LO_VALUE,
    Reg.HV_DG_RECV_HI_VALUE,
    Reg.HV_COMMIT_COMMIT,
    Reg.HV_COMMIT_DG_EQ,
    Reg.HV_COMMIT_DONE,
    Reg.HV_COMMIT_FAULT,
    Reg.HV_COMMIT_COUNT_OK,
    Reg.HV_COMMIT_ROLLBACKS,
    Reg.HV_NOISE_VALUE]

def Reg.SP_CTL_STALE (m : Nat) : Fld := ⟨0x100000 + 0x80000 * m, 0, 16, .rwl, 256, kFJTD, false⟩
def Reg.SP_CTL_LOCK (m : Nat) : Fld := ⟨0x100000 + 0x80000 * m, 31, 1, .rwl, 0, kFJTD, false⟩
def Reg.SP_SEL_TILE (m : Nat) : Fld := ⟨0x100004 + 0x80000 * m, 0, 13, .rw, 0, kFJTD, true⟩
def Reg.SP_SEL_SPOOL (m : Nat) : Fld := ⟨0x100004 + 0x80000 * m, 13, 2, .rw, 0, kFJTD, true⟩
def Reg.SP_SNAP_SNAP (m : Nat) : Fld := ⟨0x100008 + 0x80000 * m, 0, 1, .wo, 0, kNone, true⟩
def Reg.SP_SNAP_READY (m : Nat) : Fld := ⟨0x100008 + 0x80000 * m, 1, 1, .ro, 0, kNone, true⟩
def Reg.SP_STAT_WORDS (m : Nat) : Fld := ⟨0x10000C + 0x80000 * m, 0, 6, .ro, 0, kFT, true⟩
def Reg.SP_STAT_PKTS (m : Nat) : Fld := ⟨0x10000C + 0x80000 * m, 6, 6, .ro, 0, kFT, true⟩
def Reg.SP_STAT_STREAM (m : Nat) : Fld := ⟨0x10000C + 0x80000 * m, 12, 3, .ro, 0, kFT, true⟩
def Reg.SP_STAT_DIDX (m : Nat) : Fld := ⟨0x10000C + 0x80000 * m, 15, 16, .ro, 0, kFT, true⟩
def Reg.SP_ERR_CODE (m : Nat) : Fld := ⟨0x100010 + 0x80000 * m, 0, 4, .ro, 0, kFT, false⟩
def Reg.SP_ERR_TILE (m : Nat) : Fld := ⟨0x100010 + 0x80000 * m, 4, 13, .ro, 0, kFT, false⟩
def Reg.SP_ERR_SPOOL (m : Nat) : Fld := ⟨0x100010 + 0x80000 * m, 17, 2, .ro, 0, kFT, false⟩
def Reg.SP_ERR_VALID (m : Nat) : Fld := ⟨0x100010 + 0x80000 * m, 31, 1, .w1c, 0, kFT, false⟩
def Reg.SP_ERR_IDX_INDEX (m : Nat) : Fld := ⟨0x100014 + 0x80000 * m, 0, 32, .ro, 0, kFT, false⟩
def Reg.SP_CNT_STALE_WR (m : Nat) : Fld := ⟨0x100018 + 0x80000 * m, 0, 16, .ro, 0, kFTD, false⟩
def Reg.SP_CNT_STALE_RD (m : Nat) : Fld := ⟨0x100018 + 0x80000 * m, 16, 16, .ro, 0, kFTD, false⟩
def Reg.SP_CNT_OFFSAT_COUNT (m : Nat) : Fld := ⟨0x10001C + 0x80000 * m, 0, 32, .ro, 0, kFTD, false⟩

/-- The fields of the SP_ registers. -/
def Reg.blockSP (m : Nat) : List Fld :=
  [Reg.SP_CTL_STALE m,
    Reg.SP_CTL_LOCK m,
    Reg.SP_SEL_TILE m,
    Reg.SP_SEL_SPOOL m,
    Reg.SP_SNAP_SNAP m,
    Reg.SP_SNAP_READY m,
    Reg.SP_STAT_WORDS m,
    Reg.SP_STAT_PKTS m,
    Reg.SP_STAT_STREAM m,
    Reg.SP_STAT_DIDX m,
    Reg.SP_ERR_CODE m,
    Reg.SP_ERR_TILE m,
    Reg.SP_ERR_SPOOL m,
    Reg.SP_ERR_VALID m,
    Reg.SP_ERR_IDX_INDEX m,
    Reg.SP_CNT_STALE_WR m] ++
  [Reg.SP_CNT_STALE_RD m,
    Reg.SP_CNT_OFFSAT_COUNT m]

def Reg.MM_CTL_LRETRY (m : Nat) : Fld := ⟨0x110000 + 0x80000 * m, 0, 3, .rwl, 4, kFJTD, false⟩
def Reg.MM_CTL_PATROL_EN (m : Nat) : Fld := ⟨0x110000 + 0x80000 * m, 3, 1, .rwl, 1, kFJTD, false⟩
def Reg.MM_CTL_PATROL (m : Nat) : Fld := ⟨0x110000 + 0x80000 * m, 4, 16, .rwl, 4096, kFJTD, false⟩
def Reg.MM_CTL_LOCK (m : Nat) : Fld := ⟨0x110000 + 0x80000 * m, 31, 1, .rwl, 0, kFJTD, false⟩
def Reg.MM_STAT_DEV_OK (m : Nat) : Fld := ⟨0x110004 + 0x80000 * m, 0, 16, .ro, 0, kFJTD, false⟩
def Reg.MM_STAT_STATE (m : Nat) : Fld := ⟨0x110004 + 0x80000 * m, 16, 2, .ro, 0, kFJT, false⟩
def Reg.MM_STAT_SELFREF (m : Nat) : Fld := ⟨0x110004 + 0x80000 * m, 18, 1, .ro, 0, kFJT, false⟩
def Reg.MM_CNT_LINK_COUNT (m : Nat) : Fld := ⟨0x110008 + 0x80000 * m, 0, 32, .rc, 0, kFJTD, false⟩
def Reg.MM_CNT_CRC_TRANSIENT (m : Nat) : Fld := ⟨0x11000C + 0x80000 * m, 0, 12, .rc, 0, kFJTD, false⟩
def Reg.MM_CNT_CRC_PERSIST (m : Nat) : Fld := ⟨0x11000C + 0x80000 * m, 12, 10, .rc, 0, kFJTD, false⟩
def Reg.MM_CNT_CRC_POISON (m : Nat) : Fld := ⟨0x11000C + 0x80000 * m, 22, 10, .rc, 0, kFJTD, false⟩
def Reg.MM_ERR_LO_ADDR (m : Nat) : Fld := ⟨0x110010 + 0x80000 * m, 0, 32, .ro, 0, kFJTD, false⟩
def Reg.MM_ERR_HI_ADDR (m : Nat) : Fld := ⟨0x110014 + 0x80000 * m, 0, 8, .ro, 0, kFJTD, false⟩
def Reg.MM_ERR_HI_PATROL (m : Nat) : Fld := ⟨0x110014 + 0x80000 * m, 8, 1, .ro, 0, kFJTD, false⟩
def Reg.MM_ERR_HI_WRITE (m : Nat) : Fld := ⟨0x110014 + 0x80000 * m, 9, 1, .ro, 0, kFJTD, false⟩
def Reg.MM_ERR_HI_VALID (m : Nat) : Fld := ⟨0x110014 + 0x80000 * m, 31, 1, .w1c, 0, kFJTD, false⟩
def Reg.MM_ZBASE_PAGES (m : Nat) : Fld := ⟨0x110018 + 0x80000 * m, 0, 20, .rw, 0, kFTD, false⟩
def Reg.MM_ZLEN_PAGES (m : Nat) : Fld := ⟨0x11001C + 0x80000 * m, 0, 20, .rw, 0, kFTD, false⟩
def Reg.MM_ZCTL_START (m : Nat) : Fld := ⟨0x110020 + 0x80000 * m, 0, 1, .wo, 0, kNone, false⟩
def Reg.MM_ZCTL_BUSY (m : Nat) : Fld := ⟨0x110020 + 0x80000 * m, 1, 1, .ro, 0, kFT, false⟩
def Reg.MM_ZCTL_RD_PEND (m : Nat) : Fld := ⟨0x110020 + 0x80000 * m, 16, 16, .rc, 0, kFT, false⟩

/-- The fields of the MM_ registers. -/
def Reg.blockMM (m : Nat) : List Fld :=
  [Reg.MM_CTL_LRETRY m,
    Reg.MM_CTL_PATROL_EN m,
    Reg.MM_CTL_PATROL m,
    Reg.MM_CTL_LOCK m,
    Reg.MM_STAT_DEV_OK m,
    Reg.MM_STAT_STATE m,
    Reg.MM_STAT_SELFREF m,
    Reg.MM_CNT_LINK_COUNT m,
    Reg.MM_CNT_CRC_TRANSIENT m,
    Reg.MM_CNT_CRC_PERSIST m,
    Reg.MM_CNT_CRC_POISON m,
    Reg.MM_ERR_LO_ADDR m,
    Reg.MM_ERR_HI_ADDR m,
    Reg.MM_ERR_HI_PATROL m,
    Reg.MM_ERR_HI_WRITE m,
    Reg.MM_ERR_HI_VALID m] ++
  [Reg.MM_ZBASE_PAGES m,
    Reg.MM_ZLEN_PAGES m,
    Reg.MM_ZCTL_START m,
    Reg.MM_ZCTL_BUSY m,
    Reg.MM_ZCTL_RD_PEND m]

def Reg.SQ_SEL_SLOT (m : Nat) : Fld := ⟨0x120000 + 0x80000 * m, 0, 12, .rw, 0, kFJTD, true⟩
def Reg.SQ_SNAP_SNAP (m : Nat) : Fld := ⟨0x120004 + 0x80000 * m, 0, 1, .wo, 0, kNone, true⟩
def Reg.SQ_SNAP_READY (m : Nat) : Fld := ⟨0x120004 + 0x80000 * m, 1, 1, .ro, 0, kNone, true⟩
def Reg.SQ_CMD_CMD (m : Nat) : Fld := ⟨0x120008 + 0x80000 * m, 0, 2, .wo, 0, kNone, false⟩
def Reg.SQ_STAT_BUSY (m : Nat) : Fld := ⟨0x12000C + 0x80000 * m, 0, 12, .ro, 0, kFTD, false⟩
def Reg.SQ_STAT_QUEUED (m : Nat) : Fld := ⟨0x12000C + 0x80000 * m, 12, 9, .ro, 0, kFTD, false⟩
def Reg.SQ_STAT_ERR (m : Nat) : Fld := ⟨0x12000C + 0x80000 * m, 21, 1, .w1c, 0, kFTD, false⟩
def Reg.SQ_ENT_VALUE (m : Nat) (k : Nat) : Fld := ⟨0x120010 + 0x80000 * m + 4 * k, 0, 32, .rw, 0, kFTD, true⟩

/-- The fields of the SQ_ registers. -/
def Reg.blockSQ (m : Nat) : List Fld :=
  [Reg.SQ_SEL_SLOT m,
    Reg.SQ_SNAP_SNAP m,
    Reg.SQ_SNAP_READY m,
    Reg.SQ_CMD_CMD m,
    Reg.SQ_STAT_BUSY m,
    Reg.SQ_STAT_QUEUED m,
    Reg.SQ_STAT_ERR m] ++
  (List.range 8).map (fun k => Reg.SQ_ENT_VALUE m k)

def Reg.HV_CTL_ITERS (m : Nat) : Fld := ⟨0x130000 + 0x80000 * m, 0, 6, .rwl, 24, kFJTD, false⟩
def Reg.HV_CTL_TOL (m : Nat) : Fld := ⟨0x130000 + 0x80000 * m, 6, 6, .rwl, 10, kFJTD, false⟩
def Reg.HV_CTL_LOCK (m : Nat) : Fld := ⟨0x130000 + 0x80000 * m, 31, 1, .rwl, 0, kFJTD, false⟩
def Reg.HV_STAT_STATE (m : Nat) : Fld := ⟨0x130004 + 0x80000 * m, 0, 3, .ro, 0, kFTD, false⟩
def Reg.HV_STAT_CIDX (m : Nat) : Fld := ⟨0x130004 + 0x80000 * m, 3, 16, .ro, 0, kFTD, false⟩
def Reg.HV_CMD_LO_VALUE (m : Nat) : Fld := ⟨0x130008 + 0x80000 * m, 0, 32, .rw, 0, kFTD, false⟩
def Reg.HV_CMD_HI_VALUE (m : Nat) : Fld := ⟨0x13000C + 0x80000 * m, 0, 8, .rw, 0, kFTD, false⟩
def Reg.HV_TDESC_LO_VALUE (m : Nat) : Fld := ⟨0x130010 + 0x80000 * m, 0, 32, .rw, 0, kFTD, false⟩
def Reg.HV_TDESC_HI_VALUE (m : Nat) : Fld := ⟨0x130014 + 0x80000 * m, 0, 8, .rw, 0, kFTD, false⟩
def Reg.HV_SCHED_LO_VALUE (m : Nat) : Fld := ⟨0x130018 + 0x80000 * m, 0, 32, .rw, 0, kFTD, false⟩
def Reg.HV_SCHED_HI_VALUE (m : Nat) : Fld := ⟨0x13001C + 0x80000 * m, 0, 8, .rw, 0, kFTD, false⟩
def Reg.HV_MOFF_LO_VALUE (m : Nat) : Fld := ⟨0x130030 + 0x80000 * m, 0, 32, .rw, 0, kFTD, false⟩
def Reg.HV_MOFF_HI_VALUE (m : Nat) : Fld := ⟨0x130034 + 0x80000 * m, 0, 8, .rw, 0, kFTD, false⟩
def Reg.HV_SCHED_LEN_VALUE (m : Nat) : Fld := ⟨0x130020 + 0x80000 * m, 0, 32, .rw, 0, kFTD, false⟩
def Reg.HV_SCHED_OFF_VALUE (m : Nat) : Fld := ⟨0x130024 + 0x80000 * m, 0, 32, .rw, 0, kFTD, false⟩
def Reg.HV_DPR_P (m : Nat) : Fld := ⟨0x130028 + 0x80000 * m, 0, 16, .rw, 1, kFTD, false⟩
def Reg.HV_DPR_B (m : Nat) : Fld := ⟨0x130028 + 0x80000 * m, 16, 16, .rw, 1, kFTD, false⟩
def Reg.HV_BOFF_PAGES (m : Nat) : Fld := ⟨0x13002C + 0x80000 * m, 0, 20, .rw, 0, kFTD, false⟩
def Reg.HV_ERR_CODE (m : Nat) : Fld := ⟨0x130038 + 0x80000 * m, 0, 4, .ro, 0, kFT, false⟩
def Reg.HV_ERR_TID (m : Nat) : Fld := ⟨0x130038 + 0x80000 * m, 4, 14, .ro, 0, kFT, false⟩
def Reg.HV_ERR_VALID (m : Nat) : Fld := ⟨0x130038 + 0x80000 * m, 31, 1, .w1c, 0, kFT, false⟩
def Reg.HV_CNT_FROST_COUNT (m : Nat) : Fld := ⟨0x13003C + 0x80000 * m, 0, 32, .ro, 0, kFTD, false⟩
def Reg.HV_CNT_ROOT_GOOD (m : Nat) : Fld := ⟨0x130040 + 0x80000 * m, 0, 16, .ro, 0, kFTD, false⟩
def Reg.HV_CNT_ROOT_FAILED (m : Nat) : Fld := ⟨0x130040 + 0x80000 * m, 16, 16, .ro, 0, kFTD, false⟩
def Reg.HV_CNT_NONFIN_NORM (m : Nat) : Fld := ⟨0x130044 + 0x80000 * m, 0, 12, .ro, 0, kFTD, false⟩
def Reg.HV_CNT_NONFIN_W (m : Nat) : Fld := ⟨0x130044 + 0x80000 * m, 12, 20, .ro, 0, kFTD, false⟩
def Reg.HV_TSEL_TID (m : Nat) : Fld := ⟨0x130048 + 0x80000 * m, 0, 14, .rw, 0, kFJTD, true⟩
def Reg.HV_SNAP_SNAP (m : Nat) : Fld := ⟨0x13004C + 0x80000 * m, 0, 1, .wo, 0, kNone, true⟩
def Reg.HV_SNAP_READY (m : Nat) : Fld := ⟨0x13004C + 0x80000 * m, 1, 1, .ro, 0, kNone, true⟩
def Reg.HV_T_STAT_GEN (m : Nat) : Fld := ⟨0x130050 + 0x80000 * m, 0, 1, .ro, 0, kFTD, true⟩
def Reg.HV_T_STAT_FROST (m : Nat) : Fld := ⟨0x130050 + 0x80000 * m, 1, 1, .ro, 0, kFTD, true⟩
def Reg.HV_T_STAT_TOUCHED (m : Nat) : Fld := ⟨0x130050 + 0x80000 * m, 2, 1, .ro, 0, kFTD, true⟩
def Reg.HV_T_STAT_FALLBACK (m : Nat) : Fld := ⟨0x130050 + 0x80000 * m, 4, 20, .ro, 0, kFTD, true⟩
def Reg.HV_T_N_LO_VALUE (m : Nat) : Fld := ⟨0x130054 + 0x80000 * m, 0, 32, .ro, 0, kFTD, true⟩
def Reg.HV_T_N_HI_VALUE (m : Nat) : Fld := ⟨0x130058 + 0x80000 * m, 0, 32, .ro, 0, kFTD, true⟩
def Reg.HV_T_S_LO_VALUE (m : Nat) : Fld := ⟨0x13005C + 0x80000 * m, 0, 32, .ro, 0, kFTD, true⟩
def Reg.HV_T_S_HI_VALUE (m : Nat) : Fld := ⟨0x130060 + 0x80000 * m, 0, 32, .ro, 0, kFTD, true⟩
def Reg.HV_T_KAPPA_VALUE (m : Nat) : Fld := ⟨0x130064 + 0x80000 * m, 0, 32, .ro, 0, kFTD, true⟩

/-- The fields of the HV_ registers. -/
def Reg.blockHV (m : Nat) : List Fld :=
  [Reg.HV_CTL_ITERS m,
    Reg.HV_CTL_TOL m,
    Reg.HV_CTL_LOCK m,
    Reg.HV_STAT_STATE m,
    Reg.HV_STAT_CIDX m,
    Reg.HV_CMD_LO_VALUE m,
    Reg.HV_CMD_HI_VALUE m,
    Reg.HV_TDESC_LO_VALUE m,
    Reg.HV_TDESC_HI_VALUE m,
    Reg.HV_SCHED_LO_VALUE m,
    Reg.HV_SCHED_HI_VALUE m,
    Reg.HV_MOFF_LO_VALUE m,
    Reg.HV_MOFF_HI_VALUE m,
    Reg.HV_SCHED_LEN_VALUE m,
    Reg.HV_SCHED_OFF_VALUE m,
    Reg.HV_DPR_P m] ++
  [Reg.HV_DPR_B m,
    Reg.HV_BOFF_PAGES m,
    Reg.HV_ERR_CODE m,
    Reg.HV_ERR_TID m,
    Reg.HV_ERR_VALID m,
    Reg.HV_CNT_FROST_COUNT m,
    Reg.HV_CNT_ROOT_GOOD m,
    Reg.HV_CNT_ROOT_FAILED m,
    Reg.HV_CNT_NONFIN_NORM m,
    Reg.HV_CNT_NONFIN_W m,
    Reg.HV_TSEL_TID m,
    Reg.HV_SNAP_SNAP m,
    Reg.HV_SNAP_READY m,
    Reg.HV_T_STAT_GEN m,
    Reg.HV_T_STAT_FROST m,
    Reg.HV_T_STAT_TOUCHED m] ++
  [Reg.HV_T_STAT_FALLBACK m,
    Reg.HV_T_N_LO_VALUE m,
    Reg.HV_T_N_HI_VALUE m,
    Reg.HV_T_S_LO_VALUE m,
    Reg.HV_T_S_HI_VALUE m,
    Reg.HV_T_KAPPA_VALUE m]

def Reg.LK_CTL_EN (n : Nat) : Fld := ⟨0x200000 + 0x1000 * n + 0x0, 0, 1, .rwl, 0, kFJTD, false⟩
def Reg.LK_CTL_SPARE_EN (n : Nat) : Fld := ⟨0x200000 + 0x1000 * n + 0x0, 1, 1, .rwl, 1, kFJTD, false⟩
def Reg.LK_CTL_AUTH_EN (n : Nat) : Fld := ⟨0x200000 + 0x1000 * n + 0x0, 2, 1, .rwl, 1, kFJTD, false⟩
def Reg.LK_CTL_RETRAIN (n : Nat) : Fld := ⟨0x200000 + 0x1000 * n + 0x0, 3, 1, .wo, 0, kNone, false⟩
def Reg.LK_CTL_RESET (n : Nat) : Fld := ⟨0x200000 + 0x1000 * n + 0x0, 4, 1, .wo, 0, kNone, false⟩
def Reg.LK_CTL_SPARE_THR (n : Nat) : Fld := ⟨0x200000 + 0x1000 * n + 0x0, 8, 8, .rwl, 64, kFJTD, false⟩
def Reg.LK_CTL_LOCK (n : Nat) : Fld := ⟨0x200000 + 0x1000 * n + 0x0, 31, 1, .rwl, 0, kFJTD, false⟩
def Reg.LK_MAP_PEER_DEV (n : Nat) : Fld := ⟨0x200000 + 0x1000 * n + 0x4, 0, 13, .rwl, 0, kFJTD, false⟩
def Reg.LK_MAP_PEER_LINK (n : Nat) : Fld := ⟨0x200000 + 0x1000 * n + 0x4, 13, 6, .rwl, 0, kFJTD, false⟩
def Reg.LK_MAP_LEVEL (n : Nat) : Fld := ⟨0x200000 + 0x1000 * n + 0x4, 19, 2, .rwl, 0, kFJTD, false⟩
def Reg.LK_MAP_PORT (n : Nat) : Fld := ⟨0x200000 + 0x1000 * n + 0x4, 21, 6, .rwl, n, kFJTD, false⟩
def Reg.LK_STAT_STATE (n : Nat) : Fld := ⟨0x200000 + 0x1000 * n + 0x8, 0, 4, .ro, 0x0, kFJTD, false⟩
def Reg.LK_STAT_LANES (n : Nat) : Fld := ⟨0x200000 + 0x1000 * n + 0x8, 4, 3, .ro, 0, kFJTD, false⟩
def Reg.LK_STAT_SPARED (n : Nat) : Fld := ⟨0x200000 + 0x1000 * n + 0x8, 7, 2, .ro, 0, kFJTD, false⟩
def Reg.LK_STAT_AUTH_OK (n : Nat) : Fld := ⟨0x200000 + 0x1000 * n + 0x8, 9, 1, .ro, 0, kFJTD, false⟩
def Reg.LK_STAT_MAP_ERR (n : Nat) : Fld := ⟨0x200000 + 0x1000 * n + 0x8, 10, 1, .w1c, 0, kFJTD, false⟩
def Reg.LK_STAT_AUTH_FAIL (n : Nat) : Fld := ⟨0x200000 + 0x1000 * n + 0x8, 11, 1, .w1c, 0, kFJTD, false⟩
def Reg.LK_STAT_GAVE_UP (n : Nat) : Fld := ⟨0x200000 + 0x1000 * n + 0x8, 12, 1, .w1c, 0, kFJTD, false⟩
def Reg.LK_STAT_LEFT_UP (n : Nat) : Fld := ⟨0x200000 + 0x1000 * n + 0x8, 13, 1, .w1c, 0, kFJTD, false⟩
def Reg.LK_PEER_DEV (n : Nat) : Fld := ⟨0x200000 + 0x1000 * n + 0xC, 0, 13, .ro, 0, kFJTD, false⟩
def Reg.LK_PEER_LINK (n : Nat) : Fld := ⟨0x200000 + 0x1000 * n + 0xC, 13, 6, .ro, 0, kFJTD, false⟩
def Reg.LK_PEER_VALID (n : Nat) : Fld := ⟨0x200000 + 0x1000 * n + 0xC, 31, 1, .ro, 0, kFJTD, false⟩
def Reg.LK_BUDGET_RESENDS (n : Nat) : Fld := ⟨0x200000 + 0x1000 * n + 0x10, 0, 4, .rwl, 8, kFJTD, false⟩
def Reg.LK_BUDGET_TIME (n : Nat) : Fld := ⟨0x200000 + 0x1000 * n + 0x10, 16, 16, .rwl, 2000, kFJTD, false⟩
def Reg.LK_RETRY_RESENT (n : Nat) : Fld := ⟨0x200000 + 0x1000 * n + 0x14, 0, 16, .rc, 0, kFJTD, false⟩
def Reg.LK_RETRY_GIVEUPS (n : Nat) : Fld := ⟨0x200000 + 0x1000 * n + 0x14, 16, 8, .rc, 0, kFJTD, false⟩
def Reg.LK_CRC_COUNT (n : Nat) : Fld := ⟨0x200000 + 0x1000 * n + 0x18, 0, 32, .rc, 0, kFJTD, false⟩
def Reg.LK_FEC_CORR (n : Nat) : Fld := ⟨0x200000 + 0x1000 * n + 0x1C, 0, 16, .rc, 0, kFJTD, false⟩
def Reg.LK_FEC_UNCORR (n : Nat) : Fld := ⟨0x200000 + 0x1000 * n + 0x1C, 16, 16, .rc, 0, kFJTD, false⟩
def Reg.LK_LANE_SER (n : Nat) : Fld := ⟨0x200000 + 0x1000 * n + 0x20, 0, 32, .ro, 0, kFJTD, false⟩
def Reg.LK_TRAIN_RESULT (n : Nat) : Fld := ⟨0x200000 + 0x1000 * n + 0x24, 0, 4, .ro, 0, kFJTD, false⟩
def Reg.LK_TRAIN_TIME (n : Nat) : Fld := ⟨0x200000 + 0x1000 * n + 0x24, 4, 20, .ro, 0, kFJTD, false⟩
def Reg.LK_TRAIN_COUNT (n : Nat) : Fld := ⟨0x200000 + 0x1000 * n + 0x24, 24, 8, .rc, 0, kFJTD, false⟩
def Reg.LK_XARM_ARM (n : Nat) : Fld := ⟨0x200000 + 0x1000 * n + 0x28, 0, 1, .wo, 0, kNone, false⟩
def Reg.LK_XARM_DONE (n : Nat) : Fld := ⟨0x200000 + 0x1000 * n + 0x28, 1, 1, .ro, 1, kFJTD, false⟩
def Reg.LK_XARM_OVR (n : Nat) : Fld := ⟨0x200000 + 0x1000 * n + 0x28, 2, 1, .w1c, 0, kFJTD, false⟩

/-- The fields of the LK_nn_ registers. -/
def Reg.blockLK (n : Nat) : List Fld :=
  [Reg.LK_CTL_EN n,
    Reg.LK_CTL_SPARE_EN n,
    Reg.LK_CTL_AUTH_EN n,
    Reg.LK_CTL_RETRAIN n,
    Reg.LK_CTL_RESET n,
    Reg.LK_CTL_SPARE_THR n,
    Reg.LK_CTL_LOCK n,
    Reg.LK_MAP_PEER_DEV n,
    Reg.LK_MAP_PEER_LINK n,
    Reg.LK_MAP_LEVEL n,
    Reg.LK_MAP_PORT n,
    Reg.LK_STAT_STATE n,
    Reg.LK_STAT_LANES n,
    Reg.LK_STAT_SPARED n,
    Reg.LK_STAT_AUTH_OK n,
    Reg.LK_STAT_MAP_ERR n] ++
  [Reg.LK_STAT_AUTH_FAIL n,
    Reg.LK_STAT_GAVE_UP n,
    Reg.LK_STAT_LEFT_UP n,
    Reg.LK_PEER_DEV n,
    Reg.LK_PEER_LINK n,
    Reg.LK_PEER_VALID n,
    Reg.LK_BUDGET_RESENDS n,
    Reg.LK_BUDGET_TIME n,
    Reg.LK_RETRY_RESENT n,
    Reg.LK_RETRY_GIVEUPS n,
    Reg.LK_CRC_COUNT n,
    Reg.LK_FEC_CORR n,
    Reg.LK_FEC_UNCORR n,
    Reg.LK_LANE_SER n,
    Reg.LK_TRAIN_RESULT n,
    Reg.LK_TRAIN_TIME n] ++
  [Reg.LK_TRAIN_COUNT n,
    Reg.LK_XARM_ARM n,
    Reg.LK_XARM_DONE n,
    Reg.LK_XARM_OVR n]

def Reg.JB_RCV_CTL_RWIN : Fld := ⟨0x300200, 0, 16, .rwl, 960, kFJTD, false⟩
def Reg.JB_RCV_CTL_MAXREP : Fld := ⟨0x300200, 16, 4, .rwl, 3, kFJTD, false⟩
def Reg.JB_RCV_CTL_REMAP_EN : Fld := ⟨0x300200, 20, 1, .rwl, 1, kFJTD, false⟩
def Reg.JB_RCV_CTL_HWIN : Fld := ⟨0x300200, 21, 8, .rwl, 16, kFJTD, false⟩
def Reg.JB_RCV_CTL_LOCK : Fld := ⟨0x300200, 31, 1, .rwl, 0, kFJTD, false⟩
def Reg.JB_RCV_STAT_STATE : Fld := ⟨0x300204, 0, 3, .rw, 0, kFTD, false⟩
def Reg.JB_RCV_STAT_REPLAYS : Fld := ⟨0x300204, 3, 4, .ro, 0, kFTD, false⟩
def Reg.JB_RCV_CNT_REPLAYS : Fld := ⟨0x300208, 0, 16, .rc, 0, kFTD, false⟩
def Reg.JB_RCV_CNT_REMAPS : Fld := ⟨0x300208, 16, 8, .rc, 0, kFTD, false⟩
def Reg.JB_RCV_CNT_RESTORES : Fld := ⟨0x300208, 24, 8, .rc, 0, kFTD, false⟩
def Reg.JB_RCV_LAST_0_LAYER : Fld := ⟨0x30020C, 0, 4, .rw, 0, kFTD, false⟩
def Reg.JB_RCV_LAST_0_CODE : Fld := ⟨0x30020C, 4, 8, .rw, 0, kFTD, false⟩
def Reg.JB_RCV_LAST_0_CLASS_H : Fld := ⟨0x30020C, 12, 1, .rw, 0, kFTD, false⟩
def Reg.JB_RCV_LAST_0_ENDED : Fld := ⟨0x30020C, 13, 1, .rw, 0, kFTD, false⟩
def Reg.JB_RCV_LAST_0_DEV : Fld := ⟨0x30020C, 14, 13, .rw, 0, kFTD, false⟩
def Reg.JB_RCV_LAST_0_VALID : Fld := ⟨0x30020C, 31, 1, .rw, 0, kFTD, false⟩
def Reg.JB_RCV_LAST_1_LTILE : Fld := ⟨0x300210, 0, 13, .rw, 0x1FFF, kFTD, false⟩
def Reg.JB_RCV_LAST_1_PTILE : Fld := ⟨0x300210, 13, 13, .rw, 0x1FFF, kFTD, false⟩
def Reg.JB_RCV_LAST_1_LINK : Fld := ⟨0x300210, 26, 6, .rw, 63, kFTD, false⟩
def Reg.JB_RCV_LAST_2_VALUE : Fld := ⟨0x300214, 0, 32, .rw, 0, kFTD, false⟩
def Reg.JB_RCV_LAST_3_VALUE : Fld := ⟨0x300218, 0, 32, .rw, 0, kFTD, false⟩
def Reg.JB_CTL_GRACE : Fld := ⟨0x300000, 0, 8, .rwl, 10, kFJTD, false⟩
def Reg.JB_CTL_UNATTENDED : Fld := ⟨0x300000, 8, 1, .rwl, 0, kFJTD, false⟩
def Reg.JB_CTL_LOCK : Fld := ⟨0x300000, 31, 1, .rwl, 0, kFJTD, false⟩
def Reg.JB_STAT_STATE : Fld := ⟨0x300004, 0, 3, .ro, 0, kFTD, false⟩
def Reg.JB_STAT_SLOT : Fld := ⟨0x300004, 3, 4, .ro, 0, kFTD, false⟩
def Reg.JB_STAT_ATTACHED : Fld := ⟨0x300004, 7, 1, .ro, 0, kJTD, false⟩
def Reg.JB_STAT_HB_LOST : Fld := ⟨0x300004, 8, 1, .ro, 0, kFJTD, false⟩
def Reg.JB_STAT_PARKREQ : Fld := ⟨0x300004, 9, 3, .ro, 0, kFTD, false⟩
def Reg.JB_STAT_BATCH_OK : Fld := ⟨0x300004, 12, 1, .ro, 0, kFTD, false⟩
def Reg.JB_ID_LO_VALUE : Fld := ⟨0x300008, 0, 32, .ro, 0, kFTD, false⟩
def Reg.JB_ID_HI_VALUE : Fld := ⟨0x30000C, 0, 32, .ro, 0, kFTD, false⟩
def Reg.JB_HB_AGE_MS : Fld := ⟨0x300010, 0, 32, .ro, 0, kFJTD, false⟩
def Reg.JB_SCRUB_TILES_DONE : Fld := ⟨0x300014, 0, 1, .ro, 0, kFTD, false⟩
def Reg.JB_SCRUB_GDDR_DONE : Fld := ⟨0x300014, 1, 1, .ro, 0, kFTD, false⟩
def Reg.JB_SCRUB_MS : Fld := ⟨0x300014, 16, 16, .ro, 0, kFTD, false⟩

/-- The fields of the JB_ registers. -/
def Reg.blockJB : List Fld :=
  [Reg.JB_RCV_CTL_RWIN,
    Reg.JB_RCV_CTL_MAXREP,
    Reg.JB_RCV_CTL_REMAP_EN,
    Reg.JB_RCV_CTL_HWIN,
    Reg.JB_RCV_CTL_LOCK,
    Reg.JB_RCV_STAT_STATE,
    Reg.JB_RCV_STAT_REPLAYS,
    Reg.JB_RCV_CNT_REPLAYS,
    Reg.JB_RCV_CNT_REMAPS,
    Reg.JB_RCV_CNT_RESTORES,
    Reg.JB_RCV_LAST_0_LAYER,
    Reg.JB_RCV_LAST_0_CODE,
    Reg.JB_RCV_LAST_0_CLASS_H,
    Reg.JB_RCV_LAST_0_ENDED,
    Reg.JB_RCV_LAST_0_DEV,
    Reg.JB_RCV_LAST_0_VALID] ++
  [Reg.JB_RCV_LAST_1_LTILE,
    Reg.JB_RCV_LAST_1_PTILE,
    Reg.JB_RCV_LAST_1_LINK,
    Reg.JB_RCV_LAST_2_VALUE,
    Reg.JB_RCV_LAST_3_VALUE,
    Reg.JB_CTL_GRACE,
    Reg.JB_CTL_UNATTENDED,
    Reg.JB_CTL_LOCK,
    Reg.JB_STAT_STATE,
    Reg.JB_STAT_SLOT,
    Reg.JB_STAT_ATTACHED,
    Reg.JB_STAT_HB_LOST,
    Reg.JB_STAT_PARKREQ,
    Reg.JB_STAT_BATCH_OK,
    Reg.JB_ID_LO_VALUE,
    Reg.JB_ID_HI_VALUE] ++
  [Reg.JB_HB_AGE_MS,
    Reg.JB_SCRUB_TILES_DONE,
    Reg.JB_SCRUB_GDDR_DONE,
    Reg.JB_SCRUB_MS]

def Reg.FW_STAT_STAGE : Fld := ⟨0x310000, 0, 4, .ro, 1, kFJTD, false⟩
def Reg.FW_STAT_IMAGE : Fld := ⟨0x310000, 4, 1, .ro, 0, kFJTD, false⟩
def Reg.FW_STAT_CFG_COPY : Fld := ⟨0x310000, 5, 1, .ro, 0, kFJTD, false⟩
def Reg.FW_STAT_BOOT_ERR : Fld := ⟨0x310000, 8, 8, .ro, 0, kFJTD, false⟩
def Reg.FW_CORE_SEL_CORE : Fld := ⟨0x310004, 0, 5, .rw, 0, kFJTD, true⟩
def Reg.FW_CORE_WDOG_LIMIT : Fld := ⟨0x310008, 0, 10, .ro, 100, kFJTD, false⟩
def Reg.FW_CORE_STAT_STATE : Fld := ⟨0x31000C, 0, 2, .ro, 0, kFJD, false⟩
def Reg.FW_CORE_STAT_THAWS : Fld := ⟨0x31000C, 16, 16, .rc, 0, kFJTD, false⟩
def Reg.FW_LOG_WP_SEQ : Fld := ⟨0x310010, 0, 32, .ro, 0, kFJTD, false⟩
def Reg.FW_CNT_RANGE_HOST : Fld := ⟨0x310014, 0, 16, .rc, 0, kFJTD, false⟩
def Reg.FW_CNT_RANGE_MGMT : Fld := ⟨0x310014, 16, 16, .rc, 0, kFJTD, false⟩
def Reg.FW_CNT_LOGDROP_COUNT : Fld := ⟨0x310018, 0, 32, .rc, 0, kFJTD, false⟩
def Reg.FW_TRACE_EN_EN (k : Nat) : Fld := ⟨0x310040 + 4 * k, 0, 32, .rw, (if k = 0 then 0xFFFF else 0), kFJTD, false⟩
def Reg.FW_BAR2_BASE_BASE : Fld := ⟨0x310020, 0, 7, .rw, 0, kJTD, false⟩

/-- The fields of the FW_ registers. -/
def Reg.blockFW : List Fld :=
  [Reg.FW_STAT_STAGE,
    Reg.FW_STAT_IMAGE,
    Reg.FW_STAT_CFG_COPY,
    Reg.FW_STAT_BOOT_ERR,
    Reg.FW_CORE_SEL_CORE,
    Reg.FW_CORE_WDOG_LIMIT,
    Reg.FW_CORE_STAT_STATE,
    Reg.FW_CORE_STAT_THAWS,
    Reg.FW_LOG_WP_SEQ,
    Reg.FW_CNT_RANGE_HOST,
    Reg.FW_CNT_RANGE_MGMT,
    Reg.FW_CNT_LOGDROP_COUNT,
    Reg.FW_BAR2_BASE_BASE] ++
  (List.range 8).map (fun k => Reg.FW_TRACE_EN_EN k)

def Reg.PW_CTL_LEND_EN : Fld := ⟨0x380000, 0, 1, .rwl, 1, kFJTD, false⟩
def Reg.PW_CTL_STUT_EN : Fld := ⟨0x380000, 1, 1, .rwl, 1, kFJTD, false⟩
def Reg.PW_CTL_MARGIN : Fld := ⟨0x380000, 2, 8, .rwl, 10, kFJTD, false⟩
def Reg.PW_CTL_LOCK : Fld := ⟨0x380000, 31, 1, .rwl, 0, kFJTD, false⟩
def Reg.PW_LIMIT_MODULE : Fld := ⟨0x380004, 0, 12, .rw, 2600, kFJTD, false⟩
def Reg.PW_ALLOW_C : Fld := ⟨0x380008, 0, 10, .rwl, 430, kFJTD, false⟩
def Reg.PW_ALLOW_M : Fld := ⟨0x380008, 10, 8, .rwl, 85, kFJTD, false⟩
def Reg.PW_ALLOW_X : Fld := ⟨0x380008, 18, 8, .rwl, 150, kFJTD, false⟩
def Reg.PW_THERM_THROTTLE : Fld := ⟨0x38000C, 0, 8, .rwl, 95, kFJTD, false⟩
def Reg.PW_THERM_GDDR : Fld := ⟨0x38000C, 8, 8, .rwl, 90, kFJTD, false⟩
def Reg.PW_REQ_STATE : Fld := ⟨0x380010, 0, 2, .rw, 0, kFJT, false⟩
def Reg.PW_STAT_STATE : Fld := ⟨0x380014, 0, 2, .ro, 0, kFJTD, false⟩
def Reg.PW_STAT_TRANS : Fld := ⟨0x380014, 2, 1, .ro, 0, kFJTD, false⟩
def Reg.PW_STAT_REFUSED : Fld := ⟨0x380014, 3, 1, .w1c, 0, kFJTD, false⟩
def Reg.PW_STAT_THERM : Fld := ⟨0x380014, 4, 1, .w1c, 0, kFJTD, false⟩
def Reg.PW_STAT_LOWFLOW : Fld := ⟨0x380014, 5, 1, .w1c, 0, kFJTD, false⟩
def Reg.PW_STAT_STALE : Fld := ⟨0x380014, 6, 1, .w1c, 0, kFJTD, false⟩
def Reg.PW_EVT_GLITCH : Fld := ⟨0x380018, 0, 8, .rc, 0, kFJTD, false⟩
def Reg.PW_EVT_PREV : Fld := ⟨0x380018, 8, 3, .ro, 0, kFJTD, false⟩
def Reg.PW_EVT_TRIP : Fld := ⟨0x380018, 11, 1, .ro, 0, kFJTD, false⟩
def Reg.PW_IN_V_VALUE : Fld := ⟨0x38001C, 0, 16, .ro, 0, kFJTD, true⟩
def Reg.PW_IN_I_VALUE : Fld := ⟨0x380020, 0, 16, .ro, 0, kFJTD, true⟩
def Reg.PW_IN_P_VALUE : Fld := ⟨0x380024, 0, 16, .ro, 0, kFJTD, true⟩
def Reg.PW_TEMP_C_T : Fld := ⟨0x380028, 0, 32, .ro, 0, kFJTD, true⟩
def Reg.PW_TEMP_MX_T : Fld := ⟨0x38002C, 0, 32, .ro, 0, kFJTD, true⟩
def Reg.PW_TEMP_AUX_T : Fld := ⟨0x380030, 0, 32, .ro, 0, kFJTD, true⟩
def Reg.PW_STUT_N : Fld := ⟨0x380034, 0, 32, .ro, 0, kFJTD, true⟩
def Reg.PW_DIE_P_POWER (k : Nat) : Fld := ⟨0x380040 + 4 * k, 0, 12, .ro, 0, kFJTD, true⟩
def Reg.PW_DIE_P_ALLOW (k : Nat) : Fld := ⟨0x380040 + 4 * k, 12, 12, .ro, 0, kFJTD, true⟩
def Reg.PW_E_STEP_LO_VALUE : Fld := ⟨0x380060, 0, 32, .ro, 0, kFTD, false⟩
def Reg.PW_E_STEP_HI_VALUE : Fld := ⟨0x380064, 0, 32, .ro, 0, kFTD, false⟩
def Reg.PW_CNT_STUT_COUNT : Fld := ⟨0x380068, 0, 32, .ro, 0, kFTD, false⟩
def Reg.PW_SNAP_SNAP : Fld := ⟨0x38006C, 0, 1, .wo, 0, kNone, true⟩
def Reg.PW_SNAP_READY : Fld := ⟨0x38006C, 1, 1, .ro, 0, kNone, true⟩

/-- The fields of the PW_ registers. -/
def Reg.blockPW : List Fld :=
  [Reg.PW_CTL_LEND_EN,
    Reg.PW_CTL_STUT_EN,
    Reg.PW_CTL_MARGIN,
    Reg.PW_CTL_LOCK,
    Reg.PW_LIMIT_MODULE,
    Reg.PW_ALLOW_C,
    Reg.PW_ALLOW_M,
    Reg.PW_ALLOW_X,
    Reg.PW_THERM_THROTTLE,
    Reg.PW_THERM_GDDR,
    Reg.PW_REQ_STATE,
    Reg.PW_STAT_STATE,
    Reg.PW_STAT_TRANS,
    Reg.PW_STAT_REFUSED,
    Reg.PW_STAT_THERM,
    Reg.PW_STAT_LOWFLOW] ++
  [Reg.PW_STAT_STALE,
    Reg.PW_EVT_GLITCH,
    Reg.PW_EVT_PREV,
    Reg.PW_EVT_TRIP,
    Reg.PW_IN_V_VALUE,
    Reg.PW_IN_I_VALUE,
    Reg.PW_IN_P_VALUE,
    Reg.PW_TEMP_C_T,
    Reg.PW_TEMP_MX_T,
    Reg.PW_TEMP_AUX_T,
    Reg.PW_STUT_N,
    Reg.PW_E_STEP_LO_VALUE,
    Reg.PW_E_STEP_HI_VALUE,
    Reg.PW_CNT_STUT_COUNT,
    Reg.PW_SNAP_SNAP,
    Reg.PW_SNAP_READY] ++
  (List.range 8).map (fun k => Reg.PW_DIE_P_POWER k) ++
  (List.range 8).map (fun k => Reg.PW_DIE_P_ALLOW k)

def Reg.BI_CTL_SOFTREP_EN : Fld := ⟨0x390000, 0, 1, .rwl, 1, kFJTD, false⟩
def Reg.BI_CTL_LOCK : Fld := ⟨0x390000, 31, 1, .rwl, 0, kFJTD, false⟩
def Reg.BI_RST_WARM : Fld := ⟨0x390004, 0, 1, .wo, 0, kNone, false⟩
def Reg.BI_RST_KEY : Fld := ⟨0x390004, 16, 16, .wo, 0, kNone, false⟩
def Reg.BI_CAUSE_KIND : Fld := ⟨0x390008, 0, 1, .ro, 0, kFJTD, false⟩
def Reg.BI_CAUSE_CAUSE : Fld := ⟨0x390008, 1, 3, .ro, 0, kFJTD, false⟩
def Reg.BI_REQ_UNIT : Fld := ⟨0x39000C, 0, 20, .rw, 0, kFJTD, false⟩
def Reg.BI_REQ_TEST : Fld := ⟨0x39000C, 20, 2, .rw, 0, kFJTD, false⟩
def Reg.BI_REQ_START : Fld := ⟨0x39000C, 31, 1, .wo, 0, kNone, false⟩
def Reg.BI_STAT_STATE : Fld := ⟨0x390010, 0, 2, .ro, 0, kFJTD, false⟩
def Reg.BI_STAT_STOP : Fld := ⟨0x390010, 8, 4, .ro, 0, kFJTD, false⟩
def Reg.BI_STAT_DIE : Fld := ⟨0x390010, 12, 4, .ro, 0, kFJTD, false⟩
def Reg.BI_FAIL_UNIT_UNIT : Fld := ⟨0x390014, 0, 20, .ro, 0, kFJTD, false⟩
def Reg.BI_FAIL_UNIT_LOGIC : Fld := ⟨0x390014, 20, 1, .ro, 0, kFJTD, false⟩
def Reg.BI_FAIL_UNIT_REPAIRED : Fld := ⟨0x390014, 21, 1, .ro, 0, kFJTD, false⟩
def Reg.BI_FAIL_UNIT_VALID : Fld := ⟨0x390014, 31, 1, .w1c, 0, kFJTD, false⟩
def Reg.BI_FAIL_ADDR_ADDR : Fld := ⟨0x390018, 0, 18, .ro, 0, kFJTD, false⟩
def Reg.BI_FAIL_ADDR_MACRO : Fld := ⟨0x390018, 18, 6, .ro, 0, kFJTD, false⟩
def Reg.BI_FAIL_BIT_BIT : Fld := ⟨0x39001C, 0, 7, .ro, 0, kFJTD, false⟩
def Reg.BI_SIG_LO_VALUE : Fld := ⟨0x390020, 0, 32, .ro, 0, kFJTD, false⟩
def Reg.BI_SIG_HI_VALUE : Fld := ⟨0x390024, 0, 32, .ro, 0, kFJTD, false⟩
def Reg.BI_REPAIR_SPARES : Fld := ⟨0x390028, 0, 16, .ro, 0, kFJTD, false⟩
def Reg.BI_REPAIR_UNUSABLE : Fld := ⟨0x390028, 16, 12, .ro, 0, kFJTD, false⟩
def Reg.BI_XARM_PCIE : Fld := ⟨0x39002C, 0, 1, .wo, 0, kNone, false⟩
def Reg.BI_XARM_DONE : Fld := ⟨0x39002C, 1, 1, .ro, 1, kJTD, false⟩
def Reg.BI_XARM_OVR : Fld := ⟨0x39002C, 2, 1, .w1c, 0, kFJTD, false⟩
def Reg.BI_NVREC_COUNT : Fld := ⟨0x390030, 0, 7, .ro, 0, kFJTD, false⟩
def Reg.BI_NVREC_FULL : Fld := ⟨0x390030, 7, 1, .ro, 0, kFJTD, false⟩

/-- The fields of the BI_ registers. -/
def Reg.blockBI : List Fld :=
  [Reg.BI_CTL_SOFTREP_EN,
    Reg.BI_CTL_LOCK,
    Reg.BI_RST_WARM,
    Reg.BI_RST_KEY,
    Reg.BI_CAUSE_KIND,
    Reg.BI_CAUSE_CAUSE,
    Reg.BI_REQ_UNIT,
    Reg.BI_REQ_TEST,
    Reg.BI_REQ_START,
    Reg.BI_STAT_STATE,
    Reg.BI_STAT_STOP,
    Reg.BI_STAT_DIE,
    Reg.BI_FAIL_UNIT_UNIT,
    Reg.BI_FAIL_UNIT_LOGIC,
    Reg.BI_FAIL_UNIT_REPAIRED,
    Reg.BI_FAIL_UNIT_VALID] ++
  [Reg.BI_FAIL_ADDR_ADDR,
    Reg.BI_FAIL_ADDR_MACRO,
    Reg.BI_FAIL_BIT_BIT,
    Reg.BI_SIG_LO_VALUE,
    Reg.BI_SIG_HI_VALUE,
    Reg.BI_REPAIR_SPARES,
    Reg.BI_REPAIR_UNUSABLE,
    Reg.BI_XARM_PCIE,
    Reg.BI_XARM_DONE,
    Reg.BI_XARM_OVR,
    Reg.BI_NVREC_COUNT,
    Reg.BI_NVREC_FULL]

def Reg.SC_CTL_LMS_INT : Fld := ⟨0x3A0000, 0, 8, .rwl, 30, kFJTD, false⟩
def Reg.SC_CTL_LOCK : Fld := ⟨0x3A0000, 31, 1, .rwl, 0, kFJTD, false⟩
def Reg.SC_STAT_SLOT : Fld := ⟨0x3A0004, 0, 2, .ro, 0, kFJTD, false⟩
def Reg.SC_STAT_CFG_OK : Fld := ⟨0x3A0004, 2, 1, .ro, 0, kFJTD, false⟩
def Reg.SC_STAT_IDCERT_OK : Fld := ⟨0x3A0004, 3, 1, .ro, 0, kFJTD, false⟩
def Reg.SC_STAT_SVN_PEND : Fld := ⟨0x3A0004, 4, 1, .ro, 0, kFJTD, false⟩
def Reg.SC_FUSE_FW_SVN : Fld := ⟨0x3A0008, 0, 7, .ro, 0, kNone, false⟩
def Reg.SC_FUSE_CFG_SVN : Fld := ⟨0x3A0008, 7, 7, .ro, 0, kNone, false⟩
def Reg.SC_FUSE_REVOKED : Fld := ⟨0x3A0008, 14, 4, .ro, 0, kNone, false⟩
def Reg.SC_LMS_IDX_NEXT : Fld := ⟨0x3A000C, 0, 30, .ro, 0, kFJTD, false⟩
def Reg.SC_LMS_MARK_MARK : Fld := ⟨0x3A0010, 0, 15, .ro, 0, kNone, false⟩
def Reg.SC_LMS_MARK_RESTORES : Fld := ⟨0x3A0010, 15, 16, .rc, 0, kFJTD, false⟩
def Reg.SC_LMS_MARK_EXHAUSTED : Fld := ⟨0x3A0010, 31, 1, .ro, 0, kNone, false⟩
def Reg.SC_DBG_CTL_REQ : Fld := ⟨0x3A0014, 0, 1, .wo, 0, kNone, false⟩
def Reg.SC_DBG_CTL_SCAN_EN : Fld := ⟨0x3A0014, 1, 1, .wo, 0, kNone, false⟩
def Reg.SC_DBG_CTL_RELOCK : Fld := ⟨0x3A0014, 2, 1, .wo, 0, kNone, false⟩
def Reg.SC_DBG_STAT_STATE : Fld := ⟨0x3A0018, 0, 2, .ro, 0, kT, false⟩
def Reg.SC_DBG_STAT_SCOPE : Fld := ⟨0x3A0018, 2, 6, .ro, 0, kT, false⟩
def Reg.SC_DBG_STAT_TOKEN_FAIL : Fld := ⟨0x3A0018, 8, 1, .w1c, 0, kFJTD, false⟩
def Reg.SC_DBG_STAT_SCAN : Fld := ⟨0x3A0018, 9, 1, .ro, 0, kFJTD, false⟩
def Reg.SC_DBG_STAT_ZERO_DONE : Fld := ⟨0x3A0018, 10, 1, .ro, 0, kFJTD, false⟩
def Reg.SC_DBG_NONCE_VALUE (k : Nat) : Fld := ⟨0x3A0020 + 4 * k, 0, 32, .ro, 0, kT, false⟩
def Reg.SC_MSEL_INDEX : Fld := ⟨0x3A0030, 0, 3, .rw, 1, kFJTD, true⟩
def Reg.SC_SNAP_SNAP : Fld := ⟨0x3A0034, 0, 1, .wo, 0, kNone, true⟩
def Reg.SC_SNAP_READY : Fld := ⟨0x3A0034, 1, 1, .ro, 0, kNone, true⟩
def Reg.SC_MDATA_VALUE (k : Nat) : Fld := ⟨0x3A0040 + 4 * k, 0, 32, .ro, 0, kFJTD, true⟩
def Reg.SC_IDE_LINK : Fld := ⟨0x3A0070, 0, 1, .ro, 0, kJTD, false⟩
def Reg.SC_IDE_SEL : Fld := ⟨0x3A0070, 1, 2, .ro, 0, kJTD, false⟩
def Reg.SC_IDE_DROP : Fld := ⟨0x3A0070, 16, 16, .rc, 0, kFJTD, false⟩

/-- The fields of the SC_ registers. -/
def Reg.blockSC : List Fld :=
  [Reg.SC_CTL_LMS_INT,
    Reg.SC_CTL_LOCK,
    Reg.SC_STAT_SLOT,
    Reg.SC_STAT_CFG_OK,
    Reg.SC_STAT_IDCERT_OK,
    Reg.SC_STAT_SVN_PEND,
    Reg.SC_FUSE_FW_SVN,
    Reg.SC_FUSE_CFG_SVN,
    Reg.SC_FUSE_REVOKED,
    Reg.SC_LMS_IDX_NEXT,
    Reg.SC_LMS_MARK_MARK,
    Reg.SC_LMS_MARK_RESTORES,
    Reg.SC_LMS_MARK_EXHAUSTED,
    Reg.SC_DBG_CTL_REQ,
    Reg.SC_DBG_CTL_SCAN_EN,
    Reg.SC_DBG_CTL_RELOCK] ++
  [Reg.SC_DBG_STAT_STATE,
    Reg.SC_DBG_STAT_SCOPE,
    Reg.SC_DBG_STAT_TOKEN_FAIL,
    Reg.SC_DBG_STAT_SCAN,
    Reg.SC_DBG_STAT_ZERO_DONE,
    Reg.SC_MSEL_INDEX,
    Reg.SC_SNAP_SNAP,
    Reg.SC_SNAP_READY,
    Reg.SC_IDE_LINK,
    Reg.SC_IDE_SEL,
    Reg.SC_IDE_DROP] ++
  (List.range 4).map (fun k => Reg.SC_DBG_NONCE_VALUE k) ++
  (List.range 12).map (fun k => Reg.SC_MDATA_VALUE k)

def Reg.ID_SEL_DIE : Fld := ⟨0x3B0000, 0, 3, .rw, 0, kFJTD, true⟩
def Reg.ID_DIE_LOT_LOT : Fld := ⟨0x3B0004, 0, 32, .ro, 0, kNone, false⟩
def Reg.ID_DIE_POS_WAFER : Fld := ⟨0x3B0008, 0, 5, .ro, 0, kNone, false⟩
def Reg.ID_DIE_POS_X : Fld := ⟨0x3B0008, 5, 8, .ro, 0, kNone, false⟩
def Reg.ID_DIE_POS_Y : Fld := ⟨0x3B0008, 13, 8, .ro, 0, kNone, false⟩
def Reg.ID_DIE_POS_TYPE : Fld := ⟨0x3B0008, 21, 2, .ro, 0, kNone, false⟩
def Reg.ID_DIE_POS_STEP : Fld := ⟨0x3B0008, 23, 4, .ro, 0, kNone, false⟩
def Reg.ID_MOD_SER_LO_VALUE : Fld := ⟨0x3B000C, 0, 32, .ro, 0, kNone, false⟩
def Reg.ID_MOD_SER_HI_VALUE : Fld := ⟨0x3B0010, 0, 32, .ro, 0, kNone, false⟩
def Reg.ID_MOD_GRADE : Fld := ⟨0x3B0014, 0, 1, .ro, 0, kNone, false⟩
def Reg.ID_MOD_GRADE_NOW : Fld := ⟨0x3B0014, 1, 1, .ro, 0, kFJTD, false⟩
def Reg.ID_MOD_CAP : Fld := ⟨0x3B0014, 2, 8, .ro, 0, kNone, false⟩

/-- The fields of the ID_ registers. -/
def Reg.blockID : List Fld :=
  [Reg.ID_SEL_DIE,
    Reg.ID_DIE_LOT_LOT,
    Reg.ID_DIE_POS_WAFER,
    Reg.ID_DIE_POS_X,
    Reg.ID_DIE_POS_Y,
    Reg.ID_DIE_POS_TYPE,
    Reg.ID_DIE_POS_STEP,
    Reg.ID_MOD_SER_LO_VALUE,
    Reg.ID_MOD_SER_HI_VALUE,
    Reg.ID_MOD_GRADE,
    Reg.ID_MOD_GRADE_NOW,
    Reg.ID_MOD_CAP]

def Reg.MN_TILE_STAT_STATE : Fld := ⟨0x3F000, 0, 3, .ro, 0, kFT, false⟩
def Reg.MN_TILE_STAT_HOST_WR : Fld := ⟨0x3F000, 3, 1, .w1c, 0, kFT, false⟩
def Reg.MN_TILE_STAT_SPARED : Fld := ⟨0x3F000, 4, 1, .ro, 0, kFJTD, false⟩
def Reg.MN_TILE_STAT_PC : Fld := ⟨0x3F000, 5, 18, .ro, 0, kFT, false⟩
def Reg.MN_TILE_STAT_WIN_POISON : Fld := ⟨0x3F000, 23, 1, .w1c, 0, kFT, false⟩
def Reg.MN_TILE_ECC_CE : Fld := ⟨0x3F004, 0, 12, .rc, 0, kFJT, false⟩
def Reg.MN_TILE_ECC_LATENT : Fld := ⟨0x3F004, 12, 1, .w1c, 0, kFJT, false⟩
def Reg.MN_TILE_ECC_LATENT_ROW : Fld := ⟨0x3F004, 13, 12, .ro, 0, kFJT, false⟩
def Reg.MN_TILE_COLL_COUNT : Fld := ⟨0x3F008, 0, 24, .rc, 0, kFT, false⟩
def Reg.MN_TILE_DBG_ACC_EN : Fld := ⟨0x3F00C, 0, 1, .rw, 0, kT, false⟩
def Reg.MN_TILE_SCRUB_INTERVAL : Fld := ⟨0x3F010, 0, 16, .rw, 1024, kFJT, false⟩
def Reg.MN_FREC_0_CODE : Fld := ⟨0x3F020, 0, 8, .ro, 0, kFT, false⟩
def Reg.MN_FREC_0_CLASS : Fld := ⟨0x3F020, 8, 4, .ro, 0, kFT, false⟩
def Reg.MN_FREC_0_HW : Fld := ⟨0x3F020, 12, 1, .ro, 0, kFT, false⟩
def Reg.MN_FREC_0_OVER : Fld := ⟨0x3F020, 13, 1, .ro, 0, kFT, false⟩
def Reg.MN_FREC_0_ASYNC : Fld := ⟨0x3F020, 14, 1, .ro, 0, kFT, false⟩
def Reg.MN_FREC_0_VALID : Fld := ⟨0x3F020, 31, 1, .w1c, 0, kFT, false⟩
def Reg.MN_FREC_1_LTILE : Fld := ⟨0x3F024, 0, 13, .ro, 0, kFT, false⟩
def Reg.MN_FREC_1_PTILE : Fld := ⟨0x3F024, 13, 13, .ro, 0, kFT, false⟩
def Reg.MN_FREC_2_PC : Fld := ⟨0x3F028, 0, 18, .ro, 0, kFT, false⟩
def Reg.MN_FREC_3_VALUE : Fld := ⟨0x3F02C, 0, 32, .ro, 0, kFT, false⟩
def Reg.MN_FREC_4_VALUE : Fld := ⟨0x3F030, 0, 32, .ro, 0, kFT, false⟩
def Reg.MN_FREC_5_VALUE : Fld := ⟨0x3F034, 0, 32, .ro, 0, kFT, false⟩
def Reg.MN_FREC_6_VALUE : Fld := ⟨0x3F038, 0, 32, .ro, 0, kFT, false⟩
def Reg.MN_FREC_7_DETAIL : Fld := ⟨0x3F03C, 0, 32, .ro, 0, kFT, false⟩

/-- The fields of the tile window's registers. -/
def Reg.blockTILE : List Fld :=
  [Reg.MN_TILE_STAT_STATE,
    Reg.MN_TILE_STAT_HOST_WR,
    Reg.MN_TILE_STAT_SPARED,
    Reg.MN_TILE_STAT_PC,
    Reg.MN_TILE_STAT_WIN_POISON,
    Reg.MN_TILE_ECC_CE,
    Reg.MN_TILE_ECC_LATENT,
    Reg.MN_TILE_ECC_LATENT_ROW,
    Reg.MN_TILE_COLL_COUNT,
    Reg.MN_TILE_DBG_ACC_EN,
    Reg.MN_TILE_SCRUB_INTERVAL,
    Reg.MN_FREC_0_CODE,
    Reg.MN_FREC_0_CLASS,
    Reg.MN_FREC_0_HW,
    Reg.MN_FREC_0_OVER,
    Reg.MN_FREC_0_ASYNC] ++
  [Reg.MN_FREC_0_VALID,
    Reg.MN_FREC_1_LTILE,
    Reg.MN_FREC_1_PTILE,
    Reg.MN_FREC_2_PC,
    Reg.MN_FREC_3_VALUE,
    Reg.MN_FREC_4_VALUE,
    Reg.MN_FREC_5_VALUE,
    Reg.MN_FREC_6_VALUE,
    Reg.MN_FREC_7_DETAIL]

/-- The fields of the block that holds a BAR0 offset (R508). -/
def Reg.blockAt (a : Nat) : List Fld :=
  match a / 0x10000 with
  | 0x00 => Reg.blockAT
  | 0x01 => Reg.blockTK
  | 0x02 => Reg.blockMN
  | 0x03 => Reg.blockPT
  | 0x04 => Reg.blockSM
  | 0x05 => Reg.blockBB
  | 0x06 => Reg.blockHVD
  | 0x10 => Reg.blockSP 0
  | 0x11 => Reg.blockMM 0
  | 0x12 => Reg.blockSQ 0
  | 0x13 => Reg.blockHV 0
  | 0x18 => Reg.blockSP 1
  | 0x19 => Reg.blockMM 1
  | 0x1A => Reg.blockSQ 1
  | 0x1B => Reg.blockHV 1
  | 0x20 | 0x21 | 0x22 => if (a - 0x200000) / 0x1000 < 36 then Reg.blockLK ((a - 0x200000) / 0x1000) else []
  | 0x30 => Reg.blockJB
  | 0x31 => Reg.blockFW
  | 0x38 => Reg.blockPW
  | 0x39 => Reg.blockBI
  | 0x3A => Reg.blockSC
  | 0x3B => Reg.blockID
  | _ => []

/-- The fields of the register at a BAR0 offset; none for an offset between registers (R16, R508). -/
def Reg.fieldsAt (a : Nat) : List Fld := (Reg.blockAt a).filter (fun f => f.addr == a)

/-- Every field of the CSR space, once each. -/
def Reg.all : List Fld :=
  Reg.blockAT ++ Reg.blockTK ++ Reg.blockMN ++ Reg.blockPT ++ Reg.blockSM ++ Reg.blockBB ++ Reg.blockHVD ++
  Reg.blockSP 0 ++ Reg.blockMM 0 ++ Reg.blockSQ 0 ++ Reg.blockHV 0 ++
  Reg.blockSP 1 ++ Reg.blockMM 1 ++ Reg.blockSQ 1 ++ Reg.blockHV 1 ++
  (List.range 36).flatMap Reg.blockLK ++ Reg.blockJB ++ Reg.blockFW ++ Reg.blockPW ++ Reg.blockBI ++
  Reg.blockSC ++ Reg.blockID

end Sys2Proof.Machine
end

