-- ==== Sys2Proof/Machine/Flags.lean ====
section
/-! DEFINITION. Reading and writing the register fields of the state, and what the device itself does to them: setting a
sticky flag, counting with saturation, and taking the Reset column at a reset (R14, R15). -/

namespace Sys2Proof.Machine

/-- The value of a field; of a field with a copy for each port, the firmware's copy (R515). -/
def State.rd (s : State) (f : Fld) : Nat := smGet s.regs f.key f.reset

/-- The field is set to a value, cut to its width. -/
def State.wr (s : State) (f : Fld) (v : Nat) : State :=
  { s with regs := smSet s.regs f.key (v % 2 ^ f.width) f.reset }

/-- The host port's copy of a field that has one for each port (R515). -/
def State.rdHost (s : State) (f : Fld) : Nat := smGet s.regs f.hostKey f.reset

def State.wrHost (s : State) (f : Fld) (v : Nat) : State :=
  { s with regs := smSet s.regs f.hostKey (v % 2 ^ f.width) f.reset }

/-- A port's copy of a field that has one for each port. -/
def State.rdPort (s : State) (p : Port) (f : Fld) : Nat :=
  match p with
  | .host => s.rdHost f
  | .fw => s.rd f

def State.wrPort (s : State) (p : Port) (f : Fld) (v : Nat) : State :=
  match p with
  | .host => s.wrHost f v
  | .fw => s.wr f v

/-- A field of a snapshot set that is read only: each port holds its own captured value, apart from the live one (R17, R515). -/
def Fld.isSnap (f : Fld) : Bool := f.dual && f.ty == .ro && f.kept != kNone

/-- The key of what a port holds of a field. -/
def Fld.portKey (f : Fld) (p : Port) : Nat :=
  match p with
  | .host => f.hostKey
  | .fw => if f.isSnap then f.key + 0x40000000 else f.key

/-- A field as a port reads its stored value. -/
def State.rdAt (s : State) (p : Port) (f : Fld) : Nat :=
  smGet s.regs (if f.dual then f.portKey p else f.key) f.reset

/-- Whether a one-bit field is 1. -/
def State.on (s : State) (f : Fld) : Bool := s.rd f == 1

/-- A counter field counts `n` events; it stays at its largest value once it reaches it.
(DESIGN CHOICE, log entry 19) -/
def State.bump (s : State) (f : Fld) (n : Nat) : State := s.wr f (min (s.rd f + n) (2 ^ f.width - 1))

/-- A one-bit field is set to 1. -/
def State.flag (s : State) (f : Fld) : State := s.wr f 1

/-- A signed value in a field of a given width, as two's complement, saturated to the field. -/
def toSigned (w : Nat) (x : Int) : Nat :=
  let lo : Int := -(2 ^ (w - 1) : Int)
  let hi : Int := 2 ^ (w - 1) - 1
  let y := if x < lo then lo else if hi < x then hi else x
  (y % (2 ^ w : Int)).toNat

/-- The signed value that a field of a given width holds. -/
def ofSigned (w x : Nat) : Int := if 2 ^ (w - 1) ≤ x then (x : Int) - 2 ^ w else x

/-- The bounds of a field: a value outside acts as the nearer bound (R254, R80). -/
def clamp (lo hi x : Nat) : Nat := if x < lo then lo else if hi < x then hi else x

/-- The reset letters of R15 that keep the device powered: a PCIe reset, a job scrub, a thaw and a Drowse exit, and the
resets P and W, which no field survives. -/
inductive ResetKind where
  | p | w | f | j | t | d
deriving DecidableEq, Repr

/-- Whether a field survives a reset (R15). -/
def Kept.survives (k : Kept) : ResetKind → Bool
  | .p => false
  | .w => false
  | .f => k.f
  | .j => k.j
  | .t => k.t
  | .d => k.d

/-- A field takes its Reset value at a reset that it does not survive. -/
def resetField (k : ResetKind) (f : Fld) (m : SMap Nat) : SMap Nat :=
  let m1 := if f.kept.survives k then m else if f.isSnap then smDel (smDel m f.key) (f.portKey .fw) else smDel m f.key
  -- the host copy of a select register or of a snapshot set takes its Reset value at F and keeps it through J, T and D
  if f.dual then (match k with
    | .p | .w | .f => smDel m1 f.hostKey
    | .j | .t | .d => m1)
  else m1

/-- Every field of a list takes its Reset value at a reset that it does not survive (R15). -/
def resetFields (k : ResetKind) : List Fld → SMap Nat → SMap Nat
  | [], m => m
  | f :: fs, m => resetFields k fs (resetField k f m)

/-- The register part of a reset of the whole device. -/
def State.resetRegs (s : State) (k : ResetKind) : State := { s with regs := resetFields k Reg.all s.regs }

end Sys2Proof.Machine
end

