-- ==== Sys2Proof/Machine/Operands.lean ====
section
/-! DEFINITION. The fields of a tile's instruction word (R85–R88) and the checks of its reserved fields. -/

namespace Sys2Proof.Machine

/-- Bits `hi` down to `lo` of an instruction word. -/
def iwBits (iw : Word64) (hi lo : Nat) : Nat := bitsOf iw.toNat hi lo

/-- CLASS, OP, GN and GP (R85). -/
def iwClass (iw : Word64) : Nat := iwBits iw 63 60
def iwOp (iw : Word64) : Nat := iwBits iw 59 54
def iwGN (iw : Word64) : Bool := bitOf iw.toNat 53
def iwGP (iw : Word64) : Nat := iwBits iw 52 50

/-- The registers D, A and B of formats S, I, M and X (R86). -/
def iwD (iw : Word64) : Nat := iwBits iw 49 45
def iwA (iw : Word64) : Nat := iwBits iw 44 40
def iwB (iw : Word64) : Nat := iwBits iw 39 35

/-- The function bits of format S. -/
def iwFn (iw : Word64) : Nat := iwBits iw 34 0

/-- The signed 40-bit immediate of format I, as a 64-bit value. -/
def iwImm40 (iw : Word64) : Word64 := (BitVec.ofNat 40 (iwBits iw 39 0)).signExtend 64

/-- SIZE and OFF of format M. -/
def iwSize (iw : Word64) : Nat := iwBits iw 39 37
def iwOff (iw : Word64) : Nat := iwBits iw 17 0

/-- The bytes that a SIZE code of format M moves: 4, 8, 16, 64 or 128; codes 5–7 are reserved. -/
def sizeBytes : Nat → Option Nat
  | 0 => some 4
  | 1 => some 8
  | 2 => some 16
  | 3 => some 64
  | 4 => some 128
  | _ => none

/-- SLOT, MODE, FA, FB, SPARSE, K and DMODE of format X. -/
def iwSlot (iw : Word64) : Nat := iwBits iw 49 47
def iwMode (iw : Word64) : Nat := iwBits iw 46 45
def iwFA (iw : Word64) : Nat := iwBits iw 34 31
def iwFB (iw : Word64) : Nat := iwBits iw 30 27
def iwSparse (iw : Word64) : Bool := bitOf iw.toNat 26
def iwK (iw : Word64) : Nat := iwBits iw 25 13
def iwDMode (iw : Word64) : Nat := iwBits iw 34 33

/-- PS, OBJ and IMM of format W. -/
def iwPS (iw : Word64) : Nat := iwBits iw 47 45
def iwObj (iw : Word64) : Nat := iwBits iw 39 32
def iwImm (iw : Word64) : Nat := iwBits iw 31 0

/-- The reserved bits [49:48] of format W are 0. -/
def wFormOk (iw : Word64) : Bool := iwBits iw 49 48 == 0

/-- Whether an instruction word belongs to a class and an opcode. -/
def isOp (iw : Word64) (cls op : Nat) : Bool := iwClass iw == cls && iwOp iw == op

/-- The fault codes of a tile (R118). -/
def fcIllegal : Nat := 0x01
def fcRange : Nat := 0x02
def fcAlign : Nat := 0x03
def fcSlot : Nat := 0x04
def fcChunk : Nat := 0x05
def fcTackEmpty : Nat := 0x06
def fcTackDouble : Nat := 0x07
def fcTackBound : Nat := 0x08
def fcRing : Nat := 0x09
def fcMsgSize : Nat := 0x0A
def fcSpoolDir : Nat := 0x0B
def fcMover : Nat := 0x0C
def fcDebug : Nat := 0x0D
def fcMonitor : Nat := 0x0E
def fcEcc : Nat := 0x10
def fcParity : Nat := 0x11
def fcMutual : Nat := 0x12
def fcPort : Nat := 0x13

/-- Whether a tile fault code is of class H (R118). -/
def tileClassH (c : Nat) : Bool := c == fcEcc || c == fcParity || c == fcPort

/-- The bytes of a scratchpad (R101). -/
def scratchBytes : Nat := 196608

end Sys2Proof.Machine
end

