-- ==== Sys2Proof/Machine/Ops.lean ====
section
/-! DEFINITION. The operations that the meanings of several families share: links, tiles and their row map, what is sent
out, faults handed to the recovery layer, the tack tree's levels and counts, abandonment, and records flooded on the
links. -/

namespace Sys2Proof.Machine

/-- What a command answers. -/
abbrev Res := Host.Outcome State Fault Refusal

/-- Send something out.
(DESIGN CHOICE, log entry 11) -/
def State.emit (s : State) (o : Out) : State := { s with out := s.out ++ [o] }

/-- The configuration record in use, if stage 3 has read one (R418). -/
def State.cfg (s : State) : Option ConfigRec := s.host.cfg

/-- The device's own flat ID (R11, R418); 0 before a configuration record is read. -/
def State.devId (s : State) : DevId := match s.cfg with
  | some c => c.devId
  | none => 0

/-- The manager and the standby manager that the configuration record names. -/
def State.managerId (s : State) : DevId := match s.cfg with
  | some c => c.manager
  | none => 0

def State.standbyId (s : State) : DevId := match s.cfg with
  | some c => c.standby
  | none => 0

/-- The native timing table (R236): the higher-ranked one where the X dies differ in stepping. -/
def State.nativeTable (s : State) : Nat := if (s.sec.dies.drop 6).all (fun d => decide (4 ≤ d.step)) then 2 else 1

/-- A management message leaves for a device, under the next message number (R432).
(DESIGN CHOICE, log entry 11; DESIGN CHOICE, log entry 43) -/
def State.sendMsg (s : State) (dst : DevId) (type : Nat) (body : List Nat) : State :=
  { s.emit (.mgmt dst.toNat type (s.host.msgNum :: body)) with
    host := { s.host with msgNum := (s.host.msgNum + 1) % 2 ^ 16 } }

/-- The device to which messages for the manager go: the standby once the root generation has changed (R408). -/
def State.rootId (s : State) : DevId := if s.rd Reg.AT_EPOCH_GEN = 0 then s.managerId else s.standbyId

def State.sendRoot (s : State) (type : Nat) (body : List Nat) : State := s.sendMsg s.rootId type body

/-- A message number already received from the same source is a repeat, which is discarded (R432). -/
def State.msgSeen (s : State) (m : MsgId) : Bool := s.host.seen.contains (m.src.toNat, m.num.toNat)

def State.noteMsg (s : State) (m : MsgId) : State :=
  { s with host := { s.host with seen := (m.src.toNat, m.num.toNat) :: s.host.seen } }

/-- Take in a routed message once: a repeat changes nothing but the count of discarded messages (R432, R439).
(DESIGN CHOICE, log entry 43) -/
def State.takeMsg (s : State) (m : MsgId) (f : State → State) : State :=
  if s.msgSeen m then s.bump Reg.FW_CNT_RANGE_MGMT 1 else f (s.noteMsg m)

/-- The log ring (R438). -/
def logBase : Nat := 0x1F7FC00000

/-- The core that writes the records of a trace point (R419, R437).
(DESIGN CHOICE, log entry 84) -/
def logCore (point : Nat) : Nat := nth [3, 12, 2, 6, 6, 2, 12, 7] point 2

/-- The core of a compute die that writes of its tiles' faults and of its remaps (R419).
(DESIGN CHOICE, log entry 84) -/
def dieCore (d : Nat) : Nat := 12 + 2 * d

/-- The 64 bytes of a log record (R437): its head, and 48 B of payload. -/
def logBytes (at_ core level point code seq : Nat) (payload : List Nat) : List Byte :=
  natLe at_ 8 ++ natLe (core % 2 ^ 5 + 2 ^ 5 * (level % 2 ^ 3) + 2 ^ 8 * (point % 2 ^ 8) + 2 ^ 16 * code) 4 ++ natLe seq 4 ++
    (payload.flatMap (fun w => natLe w 4) ++ List.replicate 48 0).take 48

/-- A log record is written to the ring of device memory at a trace point that is enabled (R437); while M1 has no trained
memory to take it, it is dropped and counted.
(DESIGN CHOICE, log entry 84) -/
def State.logRec (s : State) (level point code : Nat) (payload : List Nat := []) (core : Nat := logCore point) : State :=
  if point < 16 ∨ hasBit (s.rd (Reg.FW_TRACE_EN_EN (point / 32))) (point % 32) then
    if s.rd (Reg.MM_STAT_STATE 1) = 2 then
      let q := s.host.logSeq
      { s with mem := Memory.writeN s.mem (logBase + 64 * (q % 65536)) (logBytes s.now core level point code q payload),
               host := { s.host with logSeq := q + 1 } }.wr Reg.FW_LOG_WP_SEQ (q + 1)
    else s.bump Reg.FW_CNT_LOGDROP_COUNT 1
  else s

/-- A free value is drawn: the next place's value, which nothing constrains.
(DESIGN CHOICE, log entry 13) -/
def State.draw (s : State) : Nat × State := (Config.freeValue s.fresh, { s with fresh := s.fresh + 1 })

/-- A list of free values is drawn.
(DESIGN CHOICE, log entry 13) -/
def State.drawN (s : State) (n : Nat) : List Nat × State :=
  ((List.range n).map (fun i => Config.freeValue (s.fresh + i)), { s with fresh := s.fresh + n })

/- ### Links -/

/-- A link outside its registers. -/
def State.link (s : State) (n : Nat) : LinkSt := smGet s.links n {}

def State.setLink (s : State) (n : Nat) (l : LinkSt) : State := { s with links := smPut s.links n l }

def State.modLink (s : State) (n : Nat) (f : LinkSt → LinkSt) : State := s.setLink n (f (s.link n))

/-- The link states of R338. -/
def lkDown : Nat := 0
def lkPhy : Nat := 1
def lkLock : Nat := 2
def lkAuth : Nat := 3
def lkCal : Nat := 4
def lkUp : Nat := 5
def lkRetrain : Nat := 6
def lkFailed : Nat := 7

def State.lkState (s : State) (n : Nat) : Nat := s.rd (Reg.LK_STAT_STATE n)

def State.linkUp (s : State) (n : Nat) : Bool := s.lkState n == lkUp

/-- The links that are UP, in rising order. -/
def State.upLinks (s : State) : List Nat := (List.range 36).filter s.linkUp

/- ### Time states and the time tree -/

/-- The time states of R35. -/
def tsOff : Nat := 0
def tsIsolated : Nat := 1
def tsMeasure : Nat := 2
def tsLock : Nat := 3
def tsAlign : Nat := 4
def tsReady : Nat := 5
def tsRun : Nat := 6
def tsHoldover : Nat := 7
def tsRoot : Nat := 8
def tsPending : Nat := 9

def State.tstate (s : State) : Nat := s.rd Reg.AT_STAT_STATE

/-- The roles of `AT_CTL.ROLE`. -/
def roleManager : Nat := 1
def roleStandby : Nat := 2

def State.isRoot (s : State) : Bool := s.tstate == tsRoot || s.tstate == tsPending

/-- The parent link, if the device has a parent. -/
def State.parent (s : State) : Option Nat :=
  if s.rd Reg.AT_STAT_PARENT < 36 then some (s.rd Reg.AT_STAT_PARENT) else none

/-- The TREE field that a link's peer advertised last; nothing of a link that is not UP. -/
def State.peerTree (s : State) (n : Nat) : TreeField := if s.linkUp n then (s.link n).tree else {}

/-- The depth that the device advertises (R36). -/
def State.advDepth (s : State) : Nat :=
  if s.isRoot then 0
  else if s.tstate = tsReady ∨ s.tstate = tsRun then
    match s.parent with
    | some n => min 15 ((s.link n).tree.depth + 1)
    | none => 15
  else if s.tstate = tsHoldover then s.time.holdDepth
  else 15

/-- The state class that the device advertises (R36). -/
def State.advClass (s : State) : TreeClass :=
  if s.isRoot then .root
  else if s.tstate = tsReady then .ready
  else if s.tstate = tsRun then .run
  else .other

/-- The root generation that the device advertises (R36). -/
def State.advGen (s : State) : Nat :=
  if s.isRoot then s.rd Reg.AT_EPOCH_GEN
  else if s.tstate = tsReady ∨ s.tstate = tsRun then
    match s.parent with
    | some n => (s.link n).tree.gen
    | none => s.rd Reg.AT_EPOCH_GEN
  else if s.tstate = tsHoldover then s.time.holdGen
  else s.rd Reg.AT_EPOCH_GEN

/-- Generation `g` is newer than `h`: their difference modulo 256 lies in 1–127 (R36). -/
def genNewer (g h : Nat) : Bool := let d := (g + 256 - h % 256) % 256; decide (1 ≤ d ∧ d ≤ 127)

/-- A peer qualifies as a parent (R36). -/
def TreeField.qualifies (t : TreeField) : Bool := decide (t.depth < 15) && t.cls != .other

def State.admitted (s : State) : Bool := s.on Reg.TK_STAT_ADMITTED

/-- The current child links: links that are UP, that are not the parent link, and whose peer sends a subtree count up
them (R58, R59). A device sends its count up its parent link only.
(DEDUCED, log entry 22) -/
def State.childLinks (s : State) : List Nat :=
  s.upLinks.filter (fun n => s.parent != some n && decide (0 < (s.link n).tree.count))

/-- The subtree count (R59).
(DEDUCED, log entry 22) -/
def State.subtreeCount (s : State) : Nat :=
  (s.childLinks.map (fun n => (s.link n).tree.count)).foldl (· + ·) (if s.admitted then 1 else 0)

/-- The subtree count is taken anew; a change holds the up levels at 0 for 1,024 ns (R59). The advertised depth follows
the parent's (R36).
(DEDUCED, log entry 22) -/
def State.refresh (s : State) : State :=
  let s1 := s.wr Reg.AT_STAT_DEPTH s.advDepth
  let c := s1.subtreeCount
  if c = s1.time.count then s1
  else { s1 with time := { s1.time with count := c, countAt := s1.now, countHeld := true } }

/-- The TREE field that the device sends on a link (R323): the subtree count goes up the parent link (R59). -/
def State.ownTree (s : State) (n : Nat) : TreeField :=
  { depth := s.advDepth, cls := s.advClass, gen := s.advGen, count := if s.parent = some n then s.time.count else 0 }

def treeClassCode : TreeClass → Nat
  | .other => 0
  | .ready => 1
  | .run => 2
  | .root => 3

def treeClassOf : Nat → TreeClass
  | 0 => .other
  | 1 => .ready
  | 2 => .run
  | _ => .root

/- ### Chip trees and up levels -/

def State.tack (s : State) (t : Nat) : TackSt := smGet s.tacks t {}

def State.setTack (s : State) (t : Nat) (k : TackSt) : State := { s with tacks := smPut s.tacks t k }

/-- The kinds of a tree (R53, `TK_BIND_n.KIND`). -/
def tkPlain : Nat := 0
def tkLocal : Nat := 1
def tkHall : Nat := 2
def tkHem : Nat := 3

def State.bindKind (s : State) (t : Nat) : Nat := s.rd (Reg.TK_BIND_KIND t)

/-- The tree bound to a program hall tack h, if there is one (R58). -/
def State.hallTree (s : State) (h : Nat) : Option Nat :=
  (List.range 32).find? (fun t => s.bindKind t == tkHall && s.rd (Reg.TK_BIND_HALL t) == h)

/-- The tree of kind Hem (R76). -/
def State.hemTree (s : State) : Option Nat := (List.range 32).find? (fun t => s.bindKind t == tkHem)

/-- The states of a job (R429). -/
def jbEmpty : Nat := 0
def jbLoading : Nat := 1
def jbLoaded : Nat := 2
def jbRunning : Nat := 3
def jbParked : Nat := 4
def jbEnded : Nat := 5
def jbScrubbing : Nat := 6

def State.jobState (s : State) : Nat := s.rd Reg.JB_STAT_STATE

/-- The phases of `TK_STAT.PHASE`. -/
def phIdle : Nat := 0
def phHem : Nat := 4

def State.phase (s : State) : Nat := s.rd Reg.TK_STAT_PHASE

/-- The step number (R51). -/
def State.stepNo (s : State) : Nat := s.rd Reg.TK_STEP_LO_VALUE + 2 ^ 32 * s.rd Reg.TK_STEP_HI_VALUE

def State.setStepNo (s : State) (n : Nat) : State :=
  (s.wr Reg.TK_STEP_LO_VALUE n).wr Reg.TK_STEP_HI_VALUE (n / 2 ^ 32)

/-- The batch of a step is filled, or the job has no batch buffers (R430). -/
def State.batchReady (s : State) (step : Nat) : Bool := match s.host.img with
  | some g => g.batches.isEmpty || nth s.host.batches (step % 2) none == some step
  | none => true

/-- The device is ready for a start round (R430, R455): the job is loaded with RUN done, or parked; the batch of the next
step is filled, or the job has no batch buffers; the device holds no park request of reason HOST, DRIVER or BATCH; and it is
in the Active state. -/
def State.startReady (s : State) : Bool :=
  s.rd Reg.PW_STAT_STATE == 0 && ((s.jobState == jbLoaded && s.host.runDone) || s.jobState == jbParked) && s.batchReady s.stepNo &&
    s.host.ownPark.all (fun r => !(r == 1 || r == 2 || r == 3))

/-- The device's own contribution to H7 (R69, R378, R383, R398, R430): its fold is acknowledged, and the child links whose folds
it holds are child links still. -/
def State.hemUp (s : State) : Bool :=
  if s.rd Reg.JB_RCV_STAT_STATE = 4 then true
  else if s.rd Reg.JB_RCV_STAT_STATE = 2 ∨ s.rd Reg.JB_RCV_STAT_STATE = 3 then false
  else if s.jobState = jbRunning then
    match s.hemTree with
    | some t => (s.tack t).done && !(s.tack t).abandoned && s.commit.acked && s.commit.ownFrom.all (fun n => (s.link n).foldOk)
    | none => false
  else s.startReady

/-- The device's own contribution to hall tack h (R58, R65, R244). The level of a tack whose tree is abandoned is held at 0
until the next Hem, also where the device has left the domain.
(DESIGN CHOICE, log entry 68) -/
def State.ownLevel (s : State) (h : Nat) : Bool :=
  if hasBit s.step.held h then false
  else if !s.admitted then true
  else if h = 6 then !s.seam.ownHold
  else if h = 7 then s.hemUp
  else match s.hallTree h with
    | some t => (s.tack t).done && !(s.tack t).abandoned
    | none => true

/-- The up level of hall tack h: the own contribution and the levels of the current child links; 0 while a change of the
subtree count is held (R58, R59). -/
def State.upLevel (s : State) (h : Nat) : Bool :=
  !s.time.countHeld && s.ownLevel h && s.childLinks.all (fun n => hasBit (s.link n).rxUp h)

/-- The up levels of all eight hall tacks, bit h for Hh; 0 while AT does not run, as after a reset.
(DEDUCED, log entry 24) -/
def State.upLevels (s : State) : Nat :=
  if s.tstate = tsOff then 0 else (List.range 8).foldl (fun m h => if s.upLevel h then setBit m h else m) 0

/- ### Records on links -/

/-- A record is queued on a link that is UP, to be repeated until an AT (R60, R325). -/
def State.queueRec (s : State) (n : Nat) (r : SideRec) (until_ : Nat) : State :=
  if s.linkUp n then s.modLink n (fun l => { l with due := l.due ++ [{ rc := r, until_ := until_ }] }) else s

/-- A record is flooded on all links (R60).
(DESIGN CHOICE, log entry 11) -/
def State.floodRec (s : State) (r : SideRec) (until_ : Nat) : State :=
  (List.range 36).foldl (fun s n => s.queueRec n r until_) s

/-- A control record is queued as a CTL block on a link that is UP (R322). -/
def State.queueCtl (s : State) (n : Nat) (payload : List Byte) : State :=
  if s.linkUp n then s.modLink n (fun l => { l with ctlQ := l.ctlQ ++ [payload] }) else s

/-- A control record is flooded on all links (R322).
(DESIGN CHOICE, log entry 11; DESIGN CHOICE, log entry 43) -/
def State.floodCtl (s : State) (payload : List Byte) : State :=
  (List.range 36).foldl (fun s n => s.queueCtl n payload) s

/-- The CTL payload of an epoch record (R322). -/
def epochPayload (r : EpochRec) : List Byte :=
  1 :: (natLe r.num.toNat 2 ++ natLe r.gen.toNat 1 ++ natLe r.start.toNat 8 ++ natLe r.table.toNat 1)

/-- The CTL payload of a parameter record (R322). -/
def paramPayload (r : ParamRec) : List Byte :=
  2 :: (natLe r.step.toNat 8 ++ natLe r.mbCount.toNat 1 ++ natLe (if r.lane3 then 1 else 0) 1)

/-- The sideband words of the flooded records (R323). -/
def b2n (b : Bool) : Nat := if b then 1 else 0

def relRec (r : ReleaseRec) : SideRec :=
  ⟨7, r.h.val + 8 * b2n r.parity + 16 * b2n r.commit + 32 * b2n r.start + 64 * r.s.toNat⟩

def holdRec (r : HoldRec) : SideRec :=
  ⟨8, r.h.val + 8 * b2n r.parity + 16 * r.span.val + 512 * r.hseq.val⟩

def resumeRec (r : GridRec) : SideRec := ⟨9, r.h.val + 8 * b2n r.parity + 16 * r.r.toNat⟩

def abortRec (r : GridRec) : SideRec := ⟨10, r.h.val + 8 * b2n r.parity + 16 * r.r.toNat⟩

/-- The AT that a record's bits [21:6] stand for: the multiple of 64 with those bits that lies within 2^21 ns of the own
AT (R324). -/
def gridAt (now : Nat) (bits : Nat) : Nat :=
  let low := bits * 64
  let base := 2 ^ 22 * (now / 2 ^ 22)
  let c := base + low
  if now + 2 ^ 21 < c then c - 2 ^ 22
  else if c + 2 ^ 21 ≤ now then c + 2 ^ 22
  else c

/-- The bits [21:6] of an AT that is a multiple of 64. -/
def gridBits (t : Nat) : BitVec 16 := BitVec.ofNat 16 (t / 64)

/-- The first multiple of 64 at least `lead` after an AT (R57, R60). -/
def gridAfter (a lead : Nat) : Nat := 64 * ceilDiv (a + lead) 64

/-- A lead register in ns: rounded up to a multiple of 64, within its bounds. -/
def leadNs (lo v : Nat) : Nat := clamp lo 65472 (64 * ceilDiv v 64)

def State.hallLead (s : State) : Nat := leadNs 256 (s.rd Reg.TK_LEAD_HALL)

def State.localLead (s : State) : Nat := leadNs 64 (s.rd Reg.TK_LEAD_LOCAL)

/- ### Faults handed to the recovery layer -/

/-- Whether the recovery record of a fault reads class H (R522). -/
def recClassH (layer code : Nat) : Bool :=
  if layer = 4 then tileClassH code
  else if layer = 5 then code == 5
  else if layer = 6 then code == 4 || code == 5 || code == 7
  else if layer = 7 then code == 1
  else layer == 1 || layer == 2 || layer == 3 || layer == 8 || layer == 9 || layer == 10

/-- The four words of `JB_RCV_LAST` (R389, R416). -/
def State.writeLast (s : State) (r : FaultRec) (ended : Bool) : State :=
  let s := ((s.wr Reg.JB_RCV_LAST_0_LAYER r.layer).wr Reg.JB_RCV_LAST_0_CODE r.code).wr
    Reg.JB_RCV_LAST_0_CLASS_H (b2n r.classH)
  let s := ((s.wr Reg.JB_RCV_LAST_0_DEV r.dev.toNat).wr Reg.JB_RCV_LAST_1_LTILE r.ltile).wr
    Reg.JB_RCV_LAST_1_PTILE r.ptile
  let s := ((s.wr Reg.JB_RCV_LAST_1_LINK r.link).wr Reg.JB_RCV_LAST_2_VALUE r.at_).wr
    Reg.JB_RCV_LAST_3_VALUE (r.at_ / 2 ^ 32)
  (s.wr Reg.JB_RCV_LAST_0_ENDED (b2n ended)).wr Reg.JB_RCV_LAST_0_VALID 1

/-- A fault record at this device and this AT. -/
def State.faultRec (s : State) (layer code : Nat) : FaultRec :=
  { layer := layer, code := code, classH := recClassH layer code, dev := s.devId, ltile := 0x1FFF, ptile := 0x1FFF,
    link := 63, at_ := s.now }

/-- A fault report for the current step goes to the manager (R389, R408). -/
def State.reportFault (s : State) (r : FaultRec) : State :=
  s.sendRoot 3 [s.stepNo, r.dev.toNat, r.layer, r.code, b2n r.classH, r.ltile, r.ptile, r.link, r.at_]

/-- A layer hands a fault to the recovery layer: the fault is open until the next Hem that rolls back, `JB_RCV_LAST`
takes it unless VALID is 1, and a fault report goes to the manager (R389). A fault that opens after the device's rewind, before
the step starts again, joins that rewind (R411, R415).
(DEDUCED, log entry 49) -/
def State.openFault (s : State) (r : FaultRec) : State :=
  let s1 := if s.on Reg.JB_RCV_LAST_0_VALID then s else s.writeLast r false
  let s2 := if s1.rd Reg.JB_RCV_STAT_STATE = 0 then s1.wr Reg.JB_RCV_STAT_STATE 1
    else if s1.rd Reg.JB_RCV_STAT_STATE = 4 ∧ s1.step.startAt = none then s1.wr Reg.JB_RCV_STAT_STATE 3
    else s1
  let s3 := { s2 with rcv := { s2.rcv with fault := some (s2.rcv.fault.getD r), opens := s2.rcv.opens ++ [r] } }
  s3.reportFault r

/-- The job ends visibly (R414): the ending fault is in `JB_RCV_LAST` with ENDED set, and the job state is ENDED. -/
def State.endVisibly (s : State) (r : FaultRec) : State :=
  ((s.writeLast r true).wr Reg.JB_RCV_STAT_STATE 5).wr Reg.JB_STAT_STATE jbEnded

/- ### Tiles and the row map -/

/-- The mode and the bad column of a physical row: MODE in bits [1:0], BAD above (R213).
(DEDUCED, log entry 16) -/
def State.rowWord (s : State) (d r : Nat) : Nat := smGet s.fab.rows (d * 48 + r) 0

def State.rowMode (s : State) (d r : Nat) : Nat := s.rowWord d r % 4

def State.rowBad (s : State) (d r : Nat) : Nat := s.rowWord d r / 4

/-- The enabled physical rows of a die in ascending order: their positions are the logical rows (R7). -/
def State.enabledRows (s : State) (d : Nat) : List Nat := (List.range 48).filter (fun r => s.rowMode d r != 2)

/-- The flat physical number of the position that holds a logical tile (R8, R9); there are four dies of them.
(DEDUCED, log entry 16) -/
def State.physOf (s : State) (t : Nat) : Option Nat :=
  let d := t / 1536
  let rr := t % 1536 / 32
  let c := t % 32
  if 4 ≤ d then none
  else match (s.enabledRows d)[rr]? with
  | none => none
  | some r =>
    let col := if s.rowMode d r = 1 ∧ s.rowBad d r ≤ c then c + 1 else c
    some (d * 1584 + r * 33 + col)

/-- The flat logical number of a physical position, if a logical tile lies there. -/
def State.logicalOf (s : State) (p : Nat) : Option Nat :=
  let d := p / 1584
  let r := p % 1584 / 33
  let c := p % 33
  let rows := s.enabledRows d
  if rows.contains r then
    let rr := rows.idxOf r
    if s.rowMode d r = 1 then
      if c = s.rowBad d r then none
      else some (d * 1536 + rr * 32 + (if s.rowBad d r < c then c - 1 else c))
    else if c < 32 then some (d * 1536 + rr * 32 + c) else none
  else none

/-- The tile at a physical position. -/
def State.tile (s : State) (p : Nat) : Tile := smGet s.tiles p {}

def State.setTile (s : State) (p : Nat) (t : Tile) : State := { s with tiles := smPut s.tiles p t }

def State.modTile (s : State) (p : Nat) (f : Tile → Tile) : State := s.setTile p (f (s.tile p))

/-- The physical positions of the logical tiles, in rising order of the logical number. -/
def State.allTiles (s : State) : List Nat := (List.range 6144).filterMap s.physOf

/-- Apply a function to every tile position that the state lists. -/
def State.mapTiles (s : State) (f : Nat → Tile → Tile) : State :=
  { s with tiles := s.tiles.map (fun e => (e.1, f e.1 e.2)) }

/-- A general register; g0 reads as 0 (R83). -/
def Tile.reg (t : Tile) (i : Nat) : Word64 := if i = 0 then 0 else smGet t.g i 0

/-- A register has been written: its parity is good again. Registers are numbered g0–g31, v0–v31, p0–p7 from 0 up. -/
def Tile.mended (t : Tile) (i : Nat) : List Nat := t.badRegs.filter (fun r => r != i)

/-- Writing a general register; a write to g0 is discarded (R83). -/
def Tile.setReg (t : Tile) (i : Nat) (v : Word64) : Tile :=
  if i = 0 then t else { t with g := smSet t.g i v 0, badRegs := t.mended i }

/-- A predicate; p0 reads as 1 (R83). -/
def Tile.pred (t : Tile) (i : Nat) : Bool := if i = 0 then true else hasBit t.p i

/-- Writing a predicate; a write to p0 is discarded (R83). -/
def Tile.setPred (t : Tile) (i : Nat) (b : Bool) : Tile :=
  if i = 0 then t else { t with p := if b then setBit t.p i else clrBit t.p i, badRegs := t.mended (64 + i) }

/-- A field of a tile's own registers (R119). -/
def Tile.rd (t : Tile) (f : Fld) : Nat := smGet t.regs f.key f.reset

def Tile.wr (t : Tile) (f : Fld) (v : Nat) : Tile :=
  { t with regs := smSet t.regs f.key (v % 2 ^ f.width) f.reset }

def Tile.bump (t : Tile) (f : Fld) (n : Nat) : Tile := t.wr f (min (t.rd f + n) (2 ^ f.width - 1))

/-- Lane `l` of vector register `i`. -/
def Tile.lane (t : Tile) (i l : Nat) : Word32 := smGet t.v (i * 32 + l) 0

def Tile.setLane (t : Tile) (i l : Nat) (w : Word32) : Tile := { t with v := smSet t.v (i * 32 + l) w 0 }

/-- The 32 lanes of a vector register. -/
def Tile.lanes (t : Tile) (i : Nat) : List Word32 := (List.range 32).map (t.lane i)

/-- Writing the lanes of a vector register from lane 0 up; the other lanes keep their values, and a parity error, if any. -/
def Tile.setLanes (t : Tile) (i : Nat) (ws : List Word32) : Tile :=
  (ws.zipIdx).foldl (fun t e => t.setLane i e.2 e.1) (if ws.length = 32 then { t with badRegs := t.mended (32 + i) } else t)

/-- A tile is a member of a tree, and its flag for a tree is set (R52, R54). -/
def Tile.isMember (t : Tile) (k : Nat) : Bool := hasBit t.member k

/-- The mask that counts in a cycle: a change takes effect on the cycle after the instruction (R52). -/
def Tile.maskAt (t : Tile) (now : Nat) : Nat := match t.memberOld with
  | some (a, m) => if a = now then m else t.member
  | none => t.member

def Tile.memberAt (t : Tile) (now k : Nat) : Bool := hasBit (t.maskAt now) k

def Tile.flagSet (t : Tile) (k : Nat) : Bool := hasBit t.flags k

/-- Reads of 8 B words from their bank (R103): a single-bit error is corrected, written back and counted, and a word with an
uncorrectable error is marked as poisoned. -/
def Tile.sense (t : Tile) (f : Nat → Bool) : Tile :=
  match t.soft.filter (fun e => f e.1) with
  | [] => t
  | e :: es =>
    let t1 := t.bump Reg.MN_TILE_ECC_CE ((e :: es).countP (fun e => !e.2))
    { t1 with soft := t.soft.filter (fun e => !f e.1),
              poison := (e :: es).foldl (fun m e => if e.2 && (smFind m e.1).isNone then smPut m e.1 false else m) t.poison }

/-- The words that a range of bytes touches are read. -/
def Tile.senseRange (t : Tile) (a n : Nat) : Tile := t.sense (fun w => decide (w * 8 < a + n ∧ a < w * 8 + 8))

/-- An access to the scratchpad: the present AT, the AT of the cycle in which it takes place, and the port at which it comes in;
a local access has no port (R109, R110). -/
structure Access where
  now : Nat
  cycle : Nat
  port : Option Nat

/-- A local access of the present cycle, and one through the mesh port. -/
def localAt (now : Nat) : Access := ⟨now, now, none⟩
def meshAt (now : Nat) : Access := ⟨now, now, some 0⟩

/-- A write from port `q` and a later one of the same cycle from port `r` collide; the earlier one is kept where it comes from the
fabric and the later does not, or has the lower port number (R109). -/
def collides : Option Nat → Option Nat → Bool
  | none, none => false
  | some q, some r => q != r
  | _, _ => true

def keepsOver : Option Nat → Option Nat → Bool
  | some _, none => true
  | some q, some r => decide (q < r)
  | none, _ => false

/-- The write of a cycle that a byte holds, and what the byte held before it. -/
def Tile.owner (t : Tile) (cycle a : Nat) : Option (Option Nat × Byte) :=
  t.cyc.findSome? (fun w => if w.at_ = cycle then (smFind w.cells a).map (fun b => (w.port, b)) else none)

/-- The bytes of a write that take effect, and the rows of its collisions that the cycle has not counted yet (R109). -/
def Tile.winning (t : Tile) (x : Access) (cells : List Host.Cell) : List Host.Cell :=
  cells.filter (fun c => match t.owner x.cycle c.1 with
    | some w => !keepsOver w.1 x.port
    | none => true)

def Tile.collisions (t : Tile) (x : Access) (cells : List Host.Cell) : List (Nat × Nat) :=
  ((cells.filterMap (fun c => match t.owner x.cycle c.1 with
    | some w => if collides w.1 x.port then some (x.cycle, c.1 / 64) else none
    | none => none)).eraseDups).filter (fun r => !t.cycRows.contains r)

/-- Bytes are written to their banks (R103, R104, R109): each takes effect unless another write of the cycle is kept over it; a
word that is written in part is read first, and one that is written in full loses its errors.
(DEDUCED, log entry 78) -/
def Tile.putCells (t : Tile) (x : Access) (cells : List Host.Cell) : Tile :=
  let won := t.winning x cells
  let rows := t.collisions x cells
  let full := fun w => (List.range 8).all (fun i => won.any (fun c => c.1 == w * 8 + i))
  let t1 := t.sense (fun w => won.any (fun c => c.1 / 8 == w) && !full w)
  let t2 := if rows = [] then t1 else t1.bump Reg.MN_TILE_COLL_COUNT rows.length
  { t2 with
    mem := won.foldl (fun m c => Memory.write m c.1 c.2) t.mem
    poison := t2.poison.filter (fun e => !full e.1)
    soft := t2.soft.filter (fun e => !full e.1)
    cyc := ⟨x.cycle, x.port, won.map (fun c => (c.1, match t.owner x.cycle c.1 with
      | some w => w.2
      | none => Memory.read t.mem c.1))⟩ :: t.cyc.filter (fun w => w.at_ == x.cycle || decide (x.now ≤ w.at_))
    cycRows := t.cycRows.filter (fun r => r.1 == x.cycle || decide (x.now ≤ r.1)) ++ rows }

/-- A byte goes back to what it held before a write of the other side in the cycle. -/
def Tile.unwritten (t : Tile) (x : Access) (m : List Host.Cell) (c : Host.Cell) : List Host.Cell :=
  match t.owner x.cycle c.1 with
  | some o => if o.1.isSome != x.port.isSome then Memory.write m c.1 o.2 else m
  | none => m

/-- The scratchpad as an access of a cycle reads it: a write of the other side in that cycle has not taken effect yet (R109). -/
def Tile.seen (t : Tile) (x : Access) : Tile :=
  match t.cyc.filter (fun w => w.at_ == x.cycle && w.port.isSome != x.port.isSome) with
  | [] => t
  | w :: ws => { t with mem := ((w :: ws).flatMap (fun w => w.cells)).foldl (t.unwritten x) t.mem }

/-- The bytes of an entry of the pleat buffer, by scratchpad address. -/
def PleatEnt.cells (e : PleatEnt) : List Host.Cell := e.bytes.map (fun b => (e.row * 64 + b.1, b.2))

/-- Every entry of the pleat buffer is written to its bank, oldest first (R107, R108). -/
def Tile.flushPleat (t : Tile) (now : Nat) : Tile :=
  t.pleat.foldl (fun t e => t.putCells (localAt now) e.cells) { t with pleat := [] }

/-- A scratchpad byte as the program reads it: the pleat buffer holds the most recent narrow stores (R90). -/
def Tile.byte (t : Tile) (a : Nat) : Byte :=
  match t.pleat.find? (fun e => e.row == a / 64) with
  | some e => smGet e.bytes (a % 64) (Memory.read t.mem a)
  | none => Memory.read t.mem a

def Tile.bytes (t : Tile) (a n : Nat) : List Byte := (List.range n).map (fun i => t.byte (a + i))

/-- The addresses of bytes that lie one after the other. -/
def cellsFrom (a : Nat) (bs : List Byte) : List Host.Cell := bs.zipIdx.map (fun b => (a + b.2, b.1))

/-- Bytes written by an engine, a wide store or the fabric, past the pleat buffer (R106). -/
def Tile.writeMem (t : Tile) (x : Access) (a : Nat) (bs : List Byte) : Tile := t.putCells x (cellsFrom a bs)

/-- The first poisoned word that a range of bytes touches. -/
def Tile.poisonIn (t : Tile) (a n : Nat) : Option (Nat × Bool) :=
  t.poison.find? (fun e => decide (e.1 * 8 < a + n ∧ a < e.1 * 8 + 8))

/-- Words of a write that carry poison are stored so that they decode as uncorrectable (R104). -/
def Tile.addPoison (t : Tile) (words : List Nat) (fromFabric : Bool) : Tile :=
  { t with poison := words.foldl (fun m w => smPut m w fromFabric) t.poison }

/- ### Waiting tiles -/

/-- The tree that a tile waits on: in TWAIT or TSEAM, while its own flag of the tree is set (R54, R55, R66). -/
def Tile.waitsTack (t : Tile) : Option Nat := match t.blocked with
  | some iw =>
    if ((isOp iw 7 2 && t.mode != .stop) || (isOp iw 7 3 && t.mode == .seam)) && t.flagSet (iwObj iw) then some (iwObj iw)
    else none
  | none => none

/-- The time that a tile has spent waiting on a tack, and in lend state, since it was last counted (R67). -/
def Tile.tackNs (t : Tile) (now : Nat) : Nat := if t.waitsTack.isSome then now - max t.since t.counted else 0

def Tile.lentNs (t : Tile) (now : Nat) : Nat := match t.lendSince with
  | some a => now - max a t.counted
  | none => 0

/-- The shares of the current allowance in the pool of each compute die: those of its tiles that are in lend state (R66).
(DEDUCED, log entry 82) -/
def lentShares (tiles : SMap Tile) : List Nat :=
  (List.range 4).map (fun d => (tiles.filter (fun e => e.1 / 1584 == d && e.2.lendSince.isSome)).length)

def State.notePool (s : State) : State := { s with step := { s.step with pool := lentShares s.tiles } }

/-- An instruction that has issued retires: issue goes on behind it. If it waited on a tack, the time spent waiting and
the time spent in lend state are counted (R66, R67).
(DESIGN CHOICE, log entry 14) -/
def State.retire (s : State) (p : Nat) : State :=
  let t := s.tile p
  let s1 := s.setTile p { t with
    blocked := none, mode := if t.mode = .stop then .stop else .run, pc := (t.pc + 8) % 2 ^ 18, lendSince := none }
  { s1 with step := { s1.step with
    waitNs := s1.step.waitNs + t.tackNs s.now, lendNs := s1.step.lendNs + t.lentNs s.now, pool := lentShares s1.tiles } }

/-- A wait ends: its status goes to p[PS], and the instruction retires (R92). -/
def State.endWait (s : State) (p : Nat) (ok : Bool) : State :=
  match (s.tile p).blocked with
  | none => s
  | some iw => (s.modTile p (fun t => t.setPred (iwPS iw) ok)).retire p

/-- An instruction that stopped issue for want of something may issue again. -/
def State.wake (s : State) (p : Nat) : State :=
  s.modTile p (fun t => if t.mode = .wait then { t with blocked := none, mode := .run } else t)

/-- The tiles that wait in an instruction that satisfies a condition. -/
def State.waiters (s : State) (f : Nat → Tile → Word64 → Bool) : List Nat :=
  s.tiles.filterMap (fun e => match e.2.blocked with
    | some iw => if f e.1 e.2 iw then some e.1 else none
    | none => none)

/-- End the waits of a list of tiles. -/
def State.endWaits (s : State) (ps : List Nat) (ok : Bool) : State := ps.foldl (fun s p => s.endWait p ok) s

/-- The tiles that wait in TWAIT on a tree. -/
def State.twaiters (s : State) (k : Nat) : List Nat :=
  s.waiters (fun _ _ iw => isOp iw 7 2 && iwObj iw == k)

/-- The hall tack that a tree is bound to (R58). A tree of kind Hem counts by its own mark: the H7 level of a start round is
stated apart (R430). -/
def State.hallOf (s : State) (k : Nat) : Option Nat :=
  if s.bindKind k = tkHall then some (s.rd (Reg.TK_BIND_HALL k)) else none

/-- A tree is abandoned: its waiters are released with ABANDONED, and its up level stays 0 until the next Hem (R65). A
tile in TSEAM goes on waiting for the recovery. -/
def State.abandonTree (s : State) (k : Nat) : State :=
  let s0 := (s.setTack k { s.tack k with abandoned := true }).flag Reg.TK_FLT_ABANDON
  let s1 := match s0.hallOf k with
    | some h => { s0 with step := { s0.step with held := setBit s0.step.held h } }
    | none => s0
  s1.endWaits (s1.twaiters k) false

def State.abandonTrees (s : State) (mask : Nat) : State :=
  (List.range 32).foldl (fun s k => if hasBit mask k then s.abandonTree k else s) s

/-- The trees that have a member tile. -/
def State.memberMask (s : State) : Nat := s.tiles.foldl (fun m e => m ||| e.2.member) 0

end Sys2Proof.Machine
end

