-- ==== Sys2Proof/Machine/Packets.lean ====
section
/-! DEFINITION. Packets of the fabric: the header (R195) and the relay word (R276), their checks, the edges that a packet
crosses (R190, R197, R215), and the routes between devices (R335, R344, R345). -/

namespace Sys2Proof.Machine

/- ### Headers -/

def pkWrite : Nat := 0
def pkRdreq : Nat := 1
def pkRdrsp : Nat := 2
def pkMsg : Nat := 3
def pkAdd : Nat := 4
def pkAck : Nat := 5
def pkThimble : Nat := 6
def pkSpool : Nat := 7
def pkCtl : Nat := 8

/-- The sub-kinds of THIMBLE (R270). -/
def suRequest : Nat := 0
def suGrant : Nat := 1
def suRelease : Nat := 2
def suRefuse : Nat := 3
def suAbandoned : Nat := 4
def suRetry : Nat := 5

/-- The fields of a packet header (R195); a field that a packet does not use is 0. -/
structure PktHdr where
  kind : Nat
  dest : Nat := 0
  src : Nat := 0
  addr : Nat := 0
  len : Nat := 0
  tag : Nat := 0
  etype : Nat := 0
  ring : Nat := 0
  cnt : Nat := 0
  sub : Nat := 0
  raddr : Nat := 0
  mrg : Bool := false
  mid : Nat := 0
deriving DecidableEq, Repr

/-- A 128-bit word whose bits [127:112] are the CRC-16 of the bits below (R195, R276). -/
def crcWord (body : Nat) : BitVec 128 := BitVec.ofNat 128 (body + 2 ^ 112 * crc16Header body)

/-- The header flit of a packet. -/
def PktHdr.word (h : PktHdr) : BitVec 128 :=
  crcWord (h.kind + 2 ^ 4 * h.dest + 2 ^ 17 * h.src + 2 ^ 30 * h.addr + 2 ^ 48 * h.len + 2 ^ 56 * h.tag + 2 ^ 64 * h.etype
    + 2 ^ 66 * h.ring + 2 ^ 69 * h.cnt + 2 ^ 77 * h.sub + 2 ^ 80 * h.raddr + 2 ^ 98 * b2n h.mrg + 2 ^ 99 * h.mid)

def pkBits (p : Pkt) (hi lo : Nat) : Nat := bitsOf p.hdr.toNat hi lo

def pkKind (p : Pkt) : Nat := pkBits p 3 0
def pkDest (p : Pkt) : Nat := pkBits p 16 4
def pkSrc (p : Pkt) : Nat := pkBits p 29 17
def pkAddr (p : Pkt) : Nat := pkBits p 47 30
def pkLen (p : Pkt) : Nat := pkBits p 55 48
def pkTag (p : Pkt) : Nat := pkBits p 63 56
def pkEtype (p : Pkt) : Nat := pkBits p 65 64
def pkRing (p : Pkt) : Nat := pkBits p 68 66
def pkCnt (p : Pkt) : Nat := pkBits p 76 69
def pkSub (p : Pkt) : Nat := pkBits p 79 77
def pkRaddr (p : Pkt) : Nat := pkBits p 97 80
def pkMrg (p : Pkt) : Bool := pkBits p 98 98 == 1
def pkMid (p : Pkt) : Nat := pkBits p 102 99

/-- All header fields of a packet. -/
def pkFields (p : Pkt) : PktHdr :=
  { kind := pkKind p, dest := pkDest p, src := pkSrc p, addr := pkAddr p, len := pkLen p, tag := pkTag p,
    etype := pkEtype p, ring := pkRing p, cnt := pkCnt p, sub := pkSub p, raddr := pkRaddr p, mrg := pkMrg p,
    mid := pkMid p }

/-- Units, form and offset or slot of a thimble request (R270). -/
def pkUnits (p : Pkt) : Nat := pkBits p 91 80 + 1
def pkForm (p : Pkt) : Nat := pkBits p 93 92

/-- A word's CRC-16 fits. -/
def crcWordOk (w : BitVec 128) : Bool := crc16Header (w.toNat % 2 ^ 112) == w.toNat / 2 ^ 112

/-- HCHK fits, and RCHK where the packet carries a relay word (R196, R276). -/
def pkChecks (p : Pkt) : Bool := crcWordOk p.hdr && (match p.relay with
  | some w => crcWordOk w
  | none => true)

/-- The kinds whose packets carry a payload of LEN + 1 units (R194); SPOOL words have their own count. -/
def pkHasData (p : Pkt) : Bool := pkKind p == pkWrite || pkKind p == pkRdrsp || pkKind p == pkMsg || pkKind p == pkAdd

/-- The payload has the length that the header gives, and its poison marks lie in it. -/
def pkSized (p : Pkt) : Bool :=
  p.data.length == (if pkHasData p then 16 * (pkLen p + 1) else 0) && p.bad.all (fun w => decide (w < p.data.length / 8))

/- ### Virtual channels and order -/

/-- The virtual channel of a packet (R194). -/
def pkVc (q : Pkt) : Nat :=
  let k := pkKind q
  if k = pkRdrsp ∨ k = pkAck then 1
  else if k = pkThimble then (if pkSub q = suRequest ∨ pkSub q = suRelease then 0 else 1)
  else if k = pkSpool then (if pkSrc q = 0x1800 ∨ pkSrc q = 0x1801 then 1 else 0)
  else if k = pkCtl then 2 else 0

/-- Two packets travel on one VC from one source to one destination (R199). -/
def sameWay (a b : Pkt) : Bool := pkSrc a == pkSrc b && pkDest a == pkDest b && pkVc a == pkVc b

/-- The packet that an output of the block is. -/
def Out.pkt? : Out → Option Pkt
  | .packet q => some q
  | _ => none

/-- The packets on their way in the fabric, in the order in which they were sent. -/
def State.flights (s : State) : List Pkt :=
  s.fab.landed.foldl (fun l q => l.erase q) ((s.out.drop s.fab.outBase).filterMap Out.pkt?)

/-- A packet can be the next to arrive (R199): of those on their way on its VC from its source to its destination it is the
first. One that no output of the block has sent comes from a unit whose packets the model does not record.
(DESIGN CHOICE, log entry 20) -/
def State.inOrder (s : State) (q : Pkt) : Bool := match s.flights.find? (sameWay q) with
  | some f => f == q
  | none => true

/-- A packet is on its way no longer. -/
def State.land (s : State) (q : Pkt) : State :=
  if s.flights.contains q then { s with fab := { s.fab with landed := s.fab.landed ++ [q] } } else s

/-- The packet that was sent, where one with a damaged header is found: the first of the header's way with the same payload,
or else the first with the same payload.
(DESIGN CHOICE, log entry 20) -/
def State.sentAs (s : State) (q : Pkt) : Pkt :=
  let like := fun (f : Pkt) => f.data == q.data && f.bad == q.bad
  ((s.flights.find? (fun f => sameWay q f && like f)).orElse (fun _ => s.flights.find? like)).getD q

/- ### Relay words -/

/-- The relay word of a packet that crosses devices (R276). -/
def relayWord (ddev dtile sdev stile : Nat) (resp : Bool) : BitVec 128 :=
  crcWord (ddev + 2 ^ 13 * dtile + 2 ^ 26 * sdev + 2 ^ 39 * stile + 2 ^ 52 * b2n resp)

def rlBits (w : BitVec 128) (hi lo : Nat) : Nat := bitsOf w.toNat hi lo

def rlDdev (w : BitVec 128) : Nat := rlBits w 12 0
def rlDtile (w : BitVec 128) : Nat := rlBits w 25 13
def rlSdev (w : BitVec 128) : Nat := rlBits w 38 26
def rlStile (w : BitVec 128) : Nat := rlBits w 51 39
def rlResp (w : BitVec 128) : Bool := rlBits w 52 52 == 1

/-- The same relay word on the way back to the sender. -/
def relayBack (w : BitVec 128) : BitVec 128 := relayWord (rlDdev w) (rlDtile w) (rlSdev w) (rlStile w) true

/-- The device and the tile that a relayed packet travels to: back to the sender where RESP is 1. -/
def rlTarget (w : BitVec 128) : Nat × Nat := if rlResp w then (rlSdev w, rlStile w) else (rlDdev w, rlDtile w)

/-- The codes of the X dies and M dies in DEST and SRC (R195). -/
def mCode (m : Nat) : Nat := 0x1800 + m
def xCode (x : Nat) : Nat := 0x1802 + x

/-- The sender of a packet that has arrived at a tile: whether it is on another device, its device and its tile (R276). -/
def State.pktSender (s : State) (p : Pkt) : Bool × Nat × Nat :=
  match p.relay with
  | some w => (true, rlSdev w, rlStile w)
  | none => (false, s.devId.toNat, pkSrc p)

/- ### Edges -/

/-- The edges that a packet crosses from a tile or die to a tile or die, both by their codes (R190, R197); `col` is the
half of the module that a packet between the X dies runs in (R336).
(DEDUCED, log entry 35) -/
def packetEdges (src dest col : Nat) : List Nat :=
  let ds := src / 1536
  let dd := dest / 1536
  if src < 0x1800 ∧ dest < 0x1800 then
    (if ds % 2 = dd % 2 then [] else [ds / 2]) ++ (if ds / 2 = dd / 2 then [] else [2 + dd % 2])
  else if src < 0x1800 ∧ dest < 0x1802 then
    let m := dest - 0x1800
    (if ds % 2 = m then [] else [ds / 2]) ++ [4 + 2 * m + ds / 2]
  else if src < 0x1800 then
    let x := dest - 0x1802
    (if ds / 2 = x then [] else [2 + ds % 2]) ++ [8 + 2 * x + ds % 2]
  else if src < 0x1802 then
    let m := src - 0x1800
    (4 + 2 * m + dd / 2) :: (if dd % 2 = m then [] else [dd / 2])
  else if dest < 0x1800 then
    let x := src - 0x1802
    (8 + 2 * x + dd % 2) :: (if dd / 2 = x then [] else [2 + dd % 2])
  else [8 + 2 * (src - 0x1802) + col, 2 + col, 8 + 2 * (dest - 0x1802) + col]

/-- Flits that cross an edge are counted (R215).
(DEDUCED, log entry 35) -/
def State.countEdge (s : State) (e n : Nat) : State :=
  { s with fab := { s.fab with edges := modNth s.fab.edges e (· + n) } }

/-- The flits of a packet: the header flit and its data flits. -/
def pkFlits (p : Pkt) : Nat := 1 + ceilDiv p.data.length 64

/-- `n` flits cross the edges from a tile or die to a tile or die. -/
def State.countFlits (s : State) (src dest col n : Nat) : State :=
  (packetEdges src dest col).foldl (fun s e => s.countEdge e n) s

/-- The half of the module that a packet between the X dies runs in (R336). -/
def pkCol (p : Pkt) : Nat := match p.relay with
  | some w => (rlTarget w).1 % 64 / 32
  | none => 0

/-- A packet that has arrived has crossed its edges. -/
def State.countPacket (s : State) (p : Pkt) : State := s.countFlits (pkSrc p) (pkDest p) (pkCol p) (pkFlits p)

/-- A packet that a router discards has crossed the edges on its way there; `dest` is a tile of the router's die.
(DEDUCED, log entry 35) -/
def State.countPart (s : State) (p : Pkt) (dest : Nat) : State := s.countFlits (pkSrc p) dest (pkCol p) (pkFlits p)

/-- A CTL packet between the control path and a tile (R194): the host's accesses come in and go out at X0; those of the
firmware stay on the tile's die. `n` is its payload in bytes.
(DEDUCED, log entry 35) -/
def State.countCtl (s : State) (port : Port) (p n : Nat) (toTile : Bool) : State := match port with
  | .host =>
    let tile := p / 1584 * 1536
    let flits := 1 + ceilDiv n 64
    if toTile then s.countFlits 0x1802 tile 0 flits else s.countFlits tile 0x1802 0 flits
  | .fw => s

/- ### Routes between devices -/

/-- The link from position `x` to position `y` of a level with a base (R344). -/
def levelLink (base x y : Nat) : Nat := base + (if y < x then y else y - 1)

/-- The next hop in the reference map: the highest field in which the device differs from the target is corrected
(R345). -/
def refRoute (own dst : Nat) : Option Nat :=
  let b := fun (d : Nat) => d / 1024 % 8
  let p := fun (d : Nat) => d / 128 % 8
  let o := fun (d : Nat) => d / 8 % 16
  let t := fun (d : Nat) => d % 8
  if b own ≠ b dst then some (levelLink 29 (b own) (b dst))
  else if p own ≠ p dst then some (levelLink 22 (p own) (p dst))
  else if o own ≠ o dst then some (levelLink 7 (o own) (o dst))
  else if t own ≠ t dst then some (levelLink 0 (t own) (t dst))
  else none

/-- The outgoing link to a device: the route table's entry, where 63 is unreachable, or the reference map's (R335). -/
def State.routeTo (s : State) (dev : Nat) : Option Nat :=
  match s.cfg with
  | none => none
  | some c =>
    if c.routes = [] then refRoute s.devId.toNat dev
    else if nth c.routes dev 63 < 36 then some (nth c.routes dev 63) else none

/-- The X die of a link: connector ports 0–17 are on X0 and 18–35 on X1 (R3, R344). -/
def State.xOf (s : State) (n : Nat) : Nat :=
  match s.cfg with
  | none => n / 18
  | some c => match c.links[n]? with
    | some l => l.port.val / 18
    | none => n / 18

/-- The code of the X die that holds the packet route to a device; X0 where there is none, which refuses (R276). -/
def State.routeCode (s : State) (dev : Nat) : Nat :=
  match s.routeTo dev with
  | some n => xCode (s.xOf n)
  | none => xCode 0

/-- The 16 B units of a packet on a link (R333). -/
def pkWire (q : Pkt) : Nat := 2 + q.data.length / 16

end Sys2Proof.Machine
end

