-- ==== Sys2Proof/Machine/Rings.lean ====
section
/-! DEFINITION. The ring manager of a tile and its thimble registers: reservations, records and their headers
(R259–R263), grants and refusals (R261, R266, R267), releases (R262, R265, R271), waits on rings (R263, R269, R271,
R274), and what the stop of a tile does to them (R279). -/

namespace Sys2Proof.Machine

/- ### Rings -/

def rkMessage : Nat := 0
def rkCombining : Nat := 1
def rkWindow : Nat := 2
def rkNone : Nat := 3

/-- The size of a ring in 16 B units and in bytes (R257). -/
def RingSt.units (r : RingSt) : Nat := if r.kind = rkNone then 0 else 16 * 2 ^ r.size
def RingSt.bytes (r : RingSt) : Nat := 16 * r.units

/-- The size of a combining slot in 16 B units, and the number of slots (R257, R272). -/
def RingSt.slotUnits (r : RingSt) : Nat := 4 * 2 ^ r.slotSz
def RingSt.slotCount (r : RingSt) : Nat := r.units / r.slotUnits

/-- A combining slot. -/
def RingSt.comb (r : RingSt) (j : Nat) : CombSt := smGet r.slots j {}

/-- The distance from pointer `b` up to pointer `a`, modulo twice the ring size (R259). -/
def RingSt.dist (r : RingSt) (a b : Nat) : Nat := (a + 2 * r.units - b) % (2 * r.units)

/-- The ring counts events of the step (R281): 0 records, 1 contributions, 2 relayed packets, 3 RETRY answers,
4 abandoned waits. -/
def State.countRing (s : State) (k n : Nat) : State :=
  { s with fab := { s.fab with ringCounts := modNth s.fab.ringCounts k (fun c => min (c + n) 0xFFFFFFFF) } }

def Tile.ring (t : Tile) (k : Nat) : RingSt := nth t.rings k {}

def Tile.setRing (t : Tile) (k : Nat) (r : RingSt) : Tile := { t with rings := modNth t.rings k (fun _ => r) }

def Tile.thim (t : Tile) (k : Nat) : ThimSt := nth t.thims k {}

def Tile.setThim (t : Tile) (k : Nat) (h : ThimSt) : Tile := { t with thims := modNth t.thims k (fun _ => h) }

/-- The header of a record or a marker (R260): a marker names no sender. -/
def RingRec.header (x : RingRec) (seq : Nat) : List Byte :=
  let w0 := if x.marker then 2 + 4 * x.units + 2 ^ 42 * b2n x.rel
    else 1 + 4 * x.units + 2 ^ 15 * b2n x.remote + 2 ^ 16 * x.stile + 2 ^ 29 * x.sdev + 2 ^ 48 * x.utag
  natLe w0 8 ++ natLe (seq + 2 ^ 16 * (x.doneAt % 2 ^ 32)) 8

/-- WP passes complete records and markers, and writes the header of each with the next sequence number (R262); the ring manager
writes at the mesh port (R109, R110).
(DEDUCED, log entry 78) -/
def passRecs (now : Nat) : List RingRec → RingSt → Tile → RingSt × Tile
  | [], r, t => ({ r with recs := [] }, t)
  | x :: xs, r, t =>
    if x.done then
      passRecs now xs { r with wp := (r.wp + x.units) % (2 * r.units), seq := (r.seq + 1) % 2 ^ 16 }
        (t.writeMem (meshAt now) (r.base + r.wp % r.units * 16) (x.header r.seq))
    else ({ r with recs := x :: xs }, t)

/-- WP of a message ring advances as far as it can (R262). -/
def Tile.advance (t : Tile) (now k : Nat) : Tile :=
  let r := t.ring k
  let a := passRecs now r.recs r t
  a.2.setRing k a.1

/-- The pad that a reservation needs (R261). -/
def RingSt.pad (r : RingSt) (u : Nat) : Nat := let e := r.units - r.resv % r.units; if u ≤ e then 0 else e

/- ### Requests -/

/-- What a ring manager finds of a request (R261, R266). -/
inductive Verdict where
  | grant | refuse | wait
deriving DecidableEq, Repr

/-- A request held against its ring (R261, R266). -/
def RingSt.verdict (r : RingSt) (q : Pkt) : Verdict :=
  let u := pkUnits q
  if r.kind = rkNone ∨ pkForm q ≠ r.kind then .refuse
  else if r.kind = rkMessage then
    if u < 2 ∨ r.units < 2 * u then .refuse
    else if r.pad u + u ≤ r.units - r.dist r.resv r.rp then .grant else .wait
  else if r.kind = rkWindow then
    if r.units < pkAddr q / 16 + u then .refuse else if u ≤ r.credit then .grant else .wait
  else
    let j := pkAddr q
    let c := r.comb j
    let ahead := (pkCnt q + 256 - c.round) % 256
    if r.slotCount ≤ j ∨ r.slotUnits < u ∨ 128 ≤ ahead then .refuse
    else if ahead = 0 ∧ (c.mode = .armed ∨ c.mode = .zeroing) then .grant else .wait

/-- A ring manager, or an X die, answers a packet: back to where it came from, with its relay word (R276). -/
def State.replyTo (s : State) (own : Nat) (q : Pkt) (h : PktHdr) : State :=
  s.emit (.packet { hdr := { h with dest := pkSrc q, src := own, tag := pkTag q, ring := pkRing q }.word,
                    relay := q.relay.map relayBack, data := [], bad := [] })

/-- The grant of a request (R261, R266): the reservation is made, and the sender is told its start. -/
def State.grantReq (s : State) (p own : Nat) (q : Pkt) : State :=
  let t := s.tile p
  let k := pkRing q
  let r := t.ring k
  let u := pkUnits q
  let who := s.pktSender q
  if r.kind = rkMessage then
    let pad := r.pad u
    let mark : List RingRec := if pad = 0 then [] else [{ units := pad, marker := true, done := true, doneAt := s.now }]
    let open_ : RingRec := { units := u, marker := false, done := false, remote := who.1, sdev := who.2.1, stile := who.2.2,
                             reg := pkTag q }
    let start := (r.resv + pad) % r.units
    let r1 := { r with recs := r.recs ++ mark ++ [open_], resv := (r.resv + pad + u) % (2 * r.units) }
    (s.setTile p ((t.setRing k r1).advance s.now k)).replyTo own q
      { kind := pkThimble, sub := suGrant, addr := r.base + start * 16 }
  else if r.kind = rkWindow then
    let g : GrantSt := { remote := who.1, sdev := who.2.1, stile := who.2.2, reg := pkTag q, left := u }
    (s.setTile p (t.setRing k { r with credit := r.credit - u, grants := r.grants ++ [g] })).replyTo own q
      { kind := pkThimble, sub := suGrant, addr := r.base + pkAddr q }
  else
    s.replyTo own q { kind := pkThimble, sub := suGrant, etype := r.etype,
                      addr := r.base + pkAddr q * r.slotUnits * 16 }

/-- The queue of a ring manager is gone through in order (R266, R279): a message or write request that waits holds back
the later ones of its ring; a tile that has stopped answers ABANDONED where it cannot grant. -/
def serveReqs (p own : Nat) (stopped : Bool) : List Pkt → List Nat → List Pkt → State → State
  | [], _, keep, s => s.modTile p (fun t => { t with reqs := keep })
  | q :: qs, held, keep, s =>
    let k := pkRing q
    let fifo := pkForm q != rkCombining
    let v := if fifo && held.contains k then .wait else ((s.tile p).ring k).verdict q
    match v with
    | .grant => serveReqs p own stopped qs held keep (s.grantReq p own q)
    | .refuse => serveReqs p own stopped qs held keep (s.replyTo own q { kind := pkThimble, sub := suRefuse })
    | .wait =>
      if stopped then
        serveReqs p own stopped qs held keep (s.replyTo own q { kind := pkThimble, sub := suAbandoned })
      else serveReqs p own stopped qs (if fifo then k :: held else held) (keep ++ [q]) s

/-- The queued requests of a tile are evaluated. -/
def State.serve (s : State) (p : Nat) : State :=
  let t := s.tile p
  serveReqs p ((s.logicalOf p).getD 0) (decide (t.mode = .stop)) t.reqs [] [] s

/-- A request arrives (R266, R267, R279): it is granted, refused, queued behind what waits, abandoned by a stopped tile, or
answered with RETRY where 64 requests are queued. -/
def State.request (s : State) (p : Nat) (q : Pkt) : State :=
  let t := s.tile p
  let own := (s.logicalOf p).getD 0
  let k := pkRing q
  let v : Verdict := if pkForm q ≠ rkCombining ∧ t.reqs.any (fun x => pkRing x == k && pkForm x != rkCombining) then
      (match (t.ring k).verdict q with
      | .refuse => .refuse
      | _ => .wait)
    else (t.ring k).verdict q
  match v with
  | .grant => s.grantReq p own q
  | .refuse => s.replyTo own q { kind := pkThimble, sub := suRefuse }
  | .wait =>
    if t.mode = .stop then s.replyTo own q { kind := pkThimble, sub := suAbandoned }
    else if 64 ≤ t.reqs.length then (s.replyTo own q { kind := pkThimble, sub := suRetry }).countRing 3 1
    else s.setTile p { t with reqs := t.reqs ++ [q] }

/-- An open range becomes a REL marker (R262). -/
def closeRange (now : Nat) (remote : Bool) (sdev stile reg : Nat) (x : RingRec) : RingRec :=
  if !x.done && x.remote == remote && x.sdev == sdev && x.stile == stile && x.reg == reg then
    { units := x.units, marker := true, rel := true, done := true, doneAt := now }
  else x

/-- A release arrives (R262, R265, R271): unused credit becomes a REL marker or goes back to the window, and the queue is
evaluated (R275). -/
def State.releaseArrives (s : State) (p : Nat) (q : Pkt) : State :=
  let t := s.tile p
  let k := pkRing q
  let r := t.ring k
  let who := s.pktSender q
  let s1 :=
    if r.kind = rkMessage then
      s.setTile p ((t.setRing k { r with
        recs := r.recs.map (closeRange s.now who.1 who.2.1 who.2.2 (pkTag q)) }).advance s.now k)
    else if r.kind = rkWindow then
      let mine := fun (g : GrantSt) => g.remote == who.1 && g.sdev == who.2.1 && g.stile == who.2.2 && g.reg == pkTag q
      let back := ((r.grants.filter mine).map (fun g => g.left)).foldl (· + ·) 0
      s.setTile p (t.setRing k { r with credit := r.credit + back, grants := r.grants.filter (fun g => !mine g) })
    else s
  s1.serve p

/- ### Thimble registers -/

/-- A packet that a thimble register sends (R264, R276): to its tile, or to the X die that holds the route to its
device. -/
def State.thimPacket (s : State) (p : Nat) (h : ThimSt) (f : PktHdr) (data : List Byte) (bad : List Nat) : Pkt :=
  let own := (s.logicalOf p).getD 0
  if h.remote then
    { hdr := { f with dest := s.routeCode h.dev, src := own }.word,
      relay := some (relayWord h.dev h.tile s.devId.toNat own false), data := data, bad := bad }
  else { hdr := { f with dest := h.tile, src := own }.word, relay := none, data := data, bad := bad }

/-- A register sends its request (R264, R270). -/
def State.sendRequest (s : State) (p k : Nat) : State :=
  let h := (s.tile p).thim k
  let addr := if h.form = rkWindow then h.off * 16 else if h.form = rkCombining then h.off else 0
  s.emit (.packet (s.thimPacket p h
    { kind := pkThimble, sub := suRequest, ring := h.ring, tag := k, addr := addr,
      raddr := h.units - 1 + 2 ^ 12 * h.form, cnt := if h.form = rkCombining then h.round else 0 } [] []))

/-- A HELD register is released (R265): the release packet follows its data; with nothing outstanding the register is
FREE. -/
def State.releaseThim (s : State) (p k : Nat) : State :=
  let h := (s.tile p).thim k
  let s1 := s.emit (.packet (s.thimPacket p h { kind := pkThimble, sub := suRelease, ring := h.ring, tag := k } [] []))
  s1.modTile p (fun t => t.setThim k { h with mode := if h.acks = 0 then .free else .draining, left := 0 })

/- ### Waits -/

/-- The condition of a BWAIT on a ring, a window or a combining slot (R263, R271, R274). -/
def Tile.ringReady (t : Tile) (k imm : Nat) : Bool :=
  let r := t.ring k
  if r.kind = rkMessage then decide (imm % 2 ^ 13 ≤ r.dist r.wp r.rp)
  else if r.kind = rkWindow then decide (imm % 2 ^ 13 ≤ r.landed)
  else if r.kind = rkCombining then (r.comb (imm % 64)).mode == .complete
  else false

/-- How a BWAIT on a thimble register ends, if it ends now (R269). -/
def Tile.thimReady (t : Tile) (k imm : Nat) : Option Bool :=
  let h := t.thim k
  if h.abandoned then some false
  else if imm = 0 then (if h.granted then some true else none)
  else if h.mode = .free then some true else none

/-- A ring or a thimble register of a tile has changed: a BWAIT that the tile is blocked in returns if its condition
holds, and a TREQ that stopped issue may issue again. -/
def State.ringWake (s : State) (p : Nat) : State :=
  let t := s.tile p
  match t.blocked with
  | none => s
  | some iw =>
    if t.mode ≠ .wait then s
    else if isOp iw 6 2 then
      if iwObj iw < 8 then (if t.ringReady (iwObj iw) (iwImm iw) then s.endWait p true else s)
      else match t.thimReady (iwObj iw - 8) (iwImm iw) with
        | some ok => (if ok then s else s.countRing 4 1).endWait p ok
        | none => s
    else if isOp iw 6 0 then s.wake p
    else s

/-- A tile stops (R279): its HELD thimbles are released, and its ring manager grants or abandons what is queued. -/
def State.stopBobbins (s : State) (p : Nat) : State :=
  ((List.range 8).foldl (fun s k => if ((s.tile p).thim k).mode = .held then s.releaseThim p k else s) s).serve p

end Sys2Proof.Machine
end

