-- ==== Sys2Proof/Machine/TileFaults.lean ====
section
/-! DEFINITION. Tile faults (R115–R118): the fault record, the stop of the tile, and what the stop does to its pleat
buffer, trees, thimbles and rings (R65, R116, R279). -/

namespace Sys2Proof.Machine

/-- The fault record of a tile (R117, R118): the first fault is kept; a later one in a stopped tile sets OVER.
(DEDUCED, log entry 28) -/
def State.recordFault (s : State) (p : Nat) (code detail pc : Nat) (iw : Word64) (async : Bool) : State :=
  let t := s.tile p
  if t.fault.valid then s.setTile p { t with fault := { t.fault with again := true } }
  else s.setTile p { t with fault :=
    { valid := true, code := code, cls := iwClass iw, hw := tileClassH code, again := false, async := async,
      ltile := (s.logicalOf p).getD 0x1FFF, ptile := p, pc := pc, iw := iw, at_ := s.now, detail := detail } }

/-- A word of the fault record (R119).
(DEDUCED, log entry 70) -/
def frecWord (f : FaultSt) (k : Nat) : Nat :=
  if !f.valid then 0 else match k with
  | 0 => f.code + 2 ^ 8 * f.cls + 2 ^ 12 * b2n f.hw + 2 ^ 13 * b2n f.again + 2 ^ 14 * b2n f.async + 2 ^ 31
  | 1 => f.ltile + 2 ^ 13 * f.ptile
  | 2 => f.pc
  | 3 => f.iw.toNat % 2 ^ 32
  | 4 => f.iw.toNat / 2 ^ 32
  | 5 => f.at_ % 2 ^ 32
  | 6 => f.at_ / 2 ^ 32
  | _ => f.detail % 2 ^ 32

/-- The stop of a tile (R65, R115, R116, R279): the pleat buffer is flushed, issue ends, the trees that the tile belongs to are
abandoned, and its thimbles and rings follow R279. A SPUSH in progress goes on moving its words.
(DEDUCED, log entry 70) -/
def State.stopTile (s : State) (p : Nat) : State :=
  let t := s.tile p
  let pushing := match t.blocked with
    | some iw => isOp iw 5 0
    | none => false
  ((s.setTile p { t.flushPleat s.now with
      mode := .stop, blocked := if pushing then t.blocked else none, lendSince := none }).abandonTrees t.member).stopBobbins p

/-- A fault of a tile (R115–R118, R121): it is recorded, the tile stops, firmware copies the record into its log, and the tile layer
hands the fault to the recovery layer. While the record holds a fault of a tile that has stopped, only OVER can change.
(DEDUCED, log entry 70) -/
def State.tileFault (s : State) (p : Nat) (code detail pc : Nat) (iw : Word64) (async : Bool) : State :=
  let t := s.tile p
  let s1 := s.recordFault p code detail pc iw async
  if t.mode = .stop ∧ t.fault.valid = true then s1
  else
    let s2 := if t.mode = .stop then s1 else s1.stopTile p
    let r := { s2.faultRec 4 code with ltile := (s2.logicalOf p).getD 0x1FFF, ptile := p }
    (s2.openFault r).logRec 0 1 code ((List.range 8).map (frecWord (s1.tile p).fault)) (dieCore (p / 1584))

/-- The active pattern half of a tile has a parity error (R118, R219): the tile faults, and its router drives nothing for the
rest of the Seam.
(DEDUCED, log entry 78) -/
def State.patternFault (s : State) (p : Nat) : State :=
  (s.modTile p (fun t => { t with badPat := false, patDead := some s.now })).tileFault p fcParity 2 0 0 true

end Sys2Proof.Machine
end

