-- ==== Sys2Proof/Machine/Issue.lean ====
section
/-! DEFINITION. The issue of one instruction of a tile program (R84, R85, R115, R520): fetch, the faults that every
instruction can meet, the guard, and what becomes of the instruction. -/

namespace Sys2Proof.Machine

/-- What becomes of an instruction that executes: it retires, it retires to another PC, it stops issue and is to issue
again, it stops issue in TSEAM, or it faults with a code and a detail; `faultIn` is a fault that its reads have found. -/
inductive Issued where
  | done (s : State)
  | goto (s : State) (pc : Nat)
  | stall (s : State)
  | seam (s : State)
  | fault (code detail : Nat)
  | faultIn (s : State) (code detail : Nat)
deriving DecidableEq, Repr

/-- The word that fetch gives at a PC: the instruction buffer's, or else the scratchpad's (R84).
(DEDUCED, log entry 15) -/
def Tile.fetch (t : Tile) (now pc : Nat) : Word64 :=
  match smFind t.ibuf pc with
  | some w => w
  | none => BitVec.ofNat 64 (leNat (Memory.readN (t.seen (localAt now)).mem pc 8))

/-- What fetch reads from the scratchpad at a PC is checked there; a buffered word is not read again (R84, R103). -/
def Tile.fetchSense (t : Tile) (pc : Nat) : Tile := if (smFind t.ibuf pc).isSome then t else t.senseRange pc 8

/-- The hardware fault that fetch finds at a PC: a parity error of the buffered word, or a poisoned word of the scratchpad (R104,
R118, R520). -/
def Tile.fetchFault (t : Tile) (pc : Nat) : Option (Nat × Nat) :=
  if (smFind t.ibuf pc).isSome then (if t.badBuf.contains pc then some (fcParity, 1) else none)
  else (t.poisonIn pc 8).map (fun e => (fcEcc, e.1 * 8 + (if e.2 then 2 ^ 31 else 0)))

/-- The instruction buffer is discarded (R100). -/
def Tile.dropBuffer (t : Tile) : Tile := { t with ibuf := [], badBuf := [] }

/-- A word that has been fetched stays in the instruction buffer, which holds 64 words (R84).
(DEDUCED, log entry 15) -/
def Tile.buffer (t : Tile) (pc : Nat) (iw : Word64) : Tile :=
  if t.ibuf.length < 64 ∨ (smFind t.ibuf pc).isSome then { t with ibuf := smPut t.ibuf pc iw }
  else { t.dropBuffer with ibuf := [(pc, iw)] }

/-- The outcome of an instruction takes effect on its tile.
(DESIGN CHOICE, log entry 14) -/
def State.settle (s : State) (p : Nat) (iw : Word64) (r : Issued) : State :=
  match r with
  | .done s1 => s1.retire p
  | .goto s1 pc => (s1.retire p).modTile p (fun t => { t with pc := pc })
  | .stall s1 => s1.modTile p (fun t =>
      if t.blocked = none then { t with blocked := some iw, mode := .wait, since := s1.now } else t)
  | .seam s1 => s1.modTile p (fun t => { t with blocked := some iw, mode := .seam, since := s1.now })
  | .fault c d => s.tileFault p c d (s.tile p).pc iw false
  | .faultIn s1 c d => s1.tileFault p c d (s1.tile p).pc iw false

/-- The guard of an instruction (R85). -/
def Tile.guard (t : Tile) (iw : Word64) : Bool := t.pred (iwGP iw) != iwGN iw

/-- A parity error in a register that the instruction reads: its guard predicate, or, where the guard is true, a source (R118,
R520). g0 and p0 hold nothing.
(DEDUCED, log entry 78) -/
def Tile.parityBad (t : Tile) (iw : Word64) (reads : List Nat) : Bool :=
  t.badRegs.contains (64 + iwGP iw) || (t.guard iw && reads.any (fun r => t.badRegs.contains r))

/-- One instruction issues at a tile. A tile that does not run issues nothing; one that stopped issue in this very
instruction tries it again. The faults come in the order of R520; ILLEGAL_OP is raised whatever the guard.
(DESIGN CHOICE, log entry 14) -/
def State.issueAt (s : State) (p : Nat) (iw : Word64) (reads : List Nat) (illegal : Bool) (body : State → Nat → Issued) :
    State :=
  let t := s.tile p
  if t.mode = .run then
    if t.pc % 8 ≠ 0 then s.tileFault p fcAlign t.pc t.pc iw false
    else if scratchBytes ≤ t.pc then s.tileFault p fcRange t.pc t.pc iw false
    else
      let t1 := t.fetchSense t.pc
      match t1.fetchFault t.pc with
      | some e => (s.setTile p t1).tileFault p e.1 e.2 t.pc iw false
      | none =>
        let s1 := s.setTile p (t1.buffer t.pc iw)
        if t.parityBad iw reads then s1.tileFault p fcParity 0 t.pc iw false
        else if illegal then s1.tileFault p fcIllegal 0 t.pc iw false
        else if t.guard iw then s1.settle p iw (body s1 p)
        else s1.retire p
  else if t.mode = .wait ∧ t.blocked = some iw then s.settle p iw (body s p)
  else s

/-- An opcode that the class map lists for a class (R87); the scalar, load/store, vector and convert opcodes are listed
outside the spec.
(DESIGN CHOICE, log entry 9) -/
def listedOp (cls op : Nat) : Bool :=
  match cls with
  | 0x3 => op == 0 || op == 2
  | 0x5 => decide (op ≤ 2)
  | 0x6 => decide (op ≤ 4)
  | 0x7 => decide (op ≤ 3)
  | 0x8 => decide (op ≤ 2)
  | 0x9 => decide (op ≤ 2)
  | 0xA => op == 0
  | c => decide (c ≤ 4)

/-- The word that a tile command carries must be the word that the tile fetches at its PC, if the tile is about to
issue.
(DESIGN CHOICE, log entry 14) -/
def State.fetches (s : State) (p : Nat) (iw : Word64) : Bool :=
  (s.tile p).mode != .run || (s.tile p).fetch s.now (s.tile p).pc == iw

/-- A word of a reserved class (R87). It is the word of no instruction: any command of the tile rows can carry it, and it is
ILLEGAL_OP there. -/
def classReserved (iw : Word64) : Bool := decide (0xB ≤ iwClass iw)

/-- A command of the tile rows: the instruction `iw` issues at a logical tile. `row` says that the word belongs to the
row; a word of the row's class whose OP is not listed, and one of a reserved class, is an ILLEGAL_OP of that row. `reads` are the
registers that the instruction reads, and `illegal` its reserved values.
(DESIGN CHOICE, log entry 14) -/
def issue (t : TileId) (iw : Word64) (row : Bool) (reads : List Nat) (illegal : Bool) (body : State → Nat → Issued) (s : State) :
    Res :=
  match s.physOf t.val with
  | none => .fault .noSuchTile
  | some p =>
    if (classReserved iw || row) && s.fetches p iw then .next (s.issueAt p iw reads (classReserved iw || illegal) body)
    else .fault .malformed

/-- A word belongs to the row of a class and an opcode, or is an unlisted opcode of the class. -/
def rowOf (iw : Word64) (cls op : Nat) : Bool := iwClass iw == cls && (iwOp iw == op || !listedOp cls (iwOp iw))

/-- The opcode is not the row's: then it is not listed, which is ILLEGAL_OP. -/
def opIllegal (iw : Word64) (op : Nat) : Bool := iwOp iw != op

/-- The ACKs that the tile's BSENDs await (R200, R269). -/
def Tile.unacked (t : Tile) : Nat := (t.thims.map (fun h => h.acks)).foldl (· + ·) 0

/-- Every operation that a fence with the bits P, A and R waits for has completed (R100); the pleat buffer is flushed by
the fence itself. -/
def Tile.drained (t : Tile) : Bool := t.mover.isEmpty && t.drains.isEmpty && t.unacked == 0

end Sys2Proof.Machine
end

