-- ==== Sys2Proof/Machine/Scratch.lean ====
section
/-! DEFINITION. Program accesses to the scratchpad: alignment and range (R101), the pleat buffer (R106–R108), poison
(R104), and what an asynchronous completion does to the instruction that a tile is blocked in (R92, R99, R100). -/

namespace Sys2Proof.Machine

/-- The first byte of a range that lies outside the scratchpad (R118). -/
def rangeBad (a n : Nat) : Option Nat := if a + n ≤ scratchBytes then none else some (max a scratchBytes)

/-- The alignment and the range fault of one access (R101, R520). -/
def accessFault (a n align : Nat) : Option (Nat × Nat) :=
  if a % align ≠ 0 then some (fcAlign, a)
  else match rangeBad a n with
    | some x => some (fcRange, x)
    | none => none

/-- The byte lies in the pleat buffer. -/
def Tile.pleated (t : Tile) (a : Nat) : Bool :=
  match t.pleat.find? (fun e => e.row == a / 64) with
  | some e => (smFind e.bytes (a % 64)).isSome
  | none => false

/-- The first poisoned word that a program access consumes: a word whose bytes all lie in the pleat buffer is not read
from its bank. -/
def Tile.poisonSeen (t : Tile) (a n : Nat) : Option (Nat × Bool) :=
  t.poison.find? (fun e => decide (e.1 * 8 < a + n ∧ a < e.1 * 8 + 8) &&
    !(List.range 8).all (fun i => t.pleated (e.1 * 8 + i)))

/-- DETAIL of ECC_UNCORR (R104, R118). -/
def eccDetail (e : Nat × Bool) : Nat := e.1 * 8 + (if e.2 then 2 ^ 31 else 0)

/-- The words that a program access reads from their banks are checked there (R103). -/
def Tile.senseProgram (t : Tile) (a n : Nat) : Tile :=
  t.sense (fun w => decide (w * 8 < a + n ∧ a < w * 8 + 8) && !(List.range 8).all (fun i => t.pleated (w * 8 + i)))

/-- One entry of the pleat buffer is written to its bank (R107, R108). -/
def Tile.flushEntry (now : Nat) (t : Tile) (e : PleatEnt) : Tile :=
  { t.putCells (localAt now) e.cells with pleat := t.pleat.filter (fun x => x.row != e.row) }

/-- A store of 4, 8 or 16 B enters the pleat buffer (R106, R107). -/
def Tile.narrowStore (t : Tile) (now a : Nat) (bs : List Byte) : Tile :=
  let row := a / 64
  let put := fun (m : SMap Byte) => (bs.zipIdx).foldl (fun m b => smPut m (a % 64 + b.2) b.1) m
  match t.pleat.find? (fun e => e.row == row) with
  | some e =>
    let e1 := { e with bytes := put e.bytes, last := now }
    let t1 := { t with pleat := t.pleat.map (fun x => if x.row = row then e1 else x) }
    if e1.bytes.length = 64 then t1.flushEntry now e1 else t1
  | none =>
    let t1 := if t.pleat.length < 8 then t else match t.pleat with
      | e :: _ => t.flushEntry now e
      | [] => t
    { t1 with pleat := t1.pleat ++ [{ row := row, bytes := put [], last := now }] }

/-- A wide store, or the write of a convert: entries of the rows that it covers are merged beneath it (R107). -/
def Tile.wideStore (t : Tile) (now a : Nat) (bs : List Byte) : Tile :=
  let hit := t.pleat.filter (fun e => decide (e.row * 64 < a + bs.length ∧ a < e.row * 64 + 64))
  (hit.foldl (Tile.flushEntry now) t).writeMem (localAt now) a bs

/-- The condition of FENCE for its bits A and R (R100). -/
def Tile.fenced (t : Tile) (imm : Nat) : Bool :=
  (!hasBit imm 1 || (t.mover.isEmpty && t.drains.isEmpty)) && (!hasBit imm 2 || t.unacked == 0)

/-- An asynchronous operation of a tile has completed: the wait or the fence that the tile is blocked in returns if its
condition holds, and another instruction that it stopped in may issue again. Waits on tacks, spools and rings are
left to their own events. -/
def State.asyncDone (s : State) (p : Nat) : State :=
  let t := s.tile p
  match t.blocked with
  | none => s
  | some iw =>
    if t.mode ≠ .wait then s
    else if isOp iw 3 2 then
      if (nth t.slots (iwObj iw) {}).mode = .draining then s else s.endWait p true
    else if isOp iw 8 2 then (if t.mover.isEmpty then s.endWait p true else s)
    else if isOp iw 0xA 0 then
      if t.fenced (iwImm iw) then
        (s.setTile p (if hasBit (iwImm iw) 3 then t.dropBuffer else t)).retire p
      else s
    else if isOp iw 3 0 || isOp iw 9 2 || isOp iw 8 0 || isOp iw 8 1 || isOp iw 7 1 || isOp iw 7 3 then s.wake p
    else s

end Sys2Proof.Machine
end

