-- ==== Sys2Proof/Machine/Async.lean ====
section
/-! DEFINITION. The mover, the fence, the monitor channels, the idle flush of the pleat buffer and the patrol scrub
(R98–R100, R104–R107, R114). -/

namespace Sys2Proof.Machine

/- ### Mover -/

/-- The addresses and the length of a FILL or COPY: destination, source and length. -/
def Tile.moverDst (t : Tile) (iw : Word64) : Nat := (t.reg (iwD iw)).toNat
def Tile.moverSrc (t : Tile) (iw : Word64) : Nat := (t.reg (iwA iw)).toNat
def Tile.moverLen (t : Tile) (iw : Word64) : Nat := (t.reg (iwB iw)).toNat

/-- The faults of FILL and COPY at issue, in the order of R520 (R98). -/
def moverFault (copy : Bool) (dst src len : Nat) : Option (Nat × Nat) :=
  if dst % 16 ≠ 0 then some (fcMover, dst)
  else if copy ∧ src % 16 ≠ 0 then some (fcMover, src)
  else if len % 16 ≠ 0 ∨ len < 16 then some (fcMover, len)
  else match rangeBad dst len, (if copy then rangeBad src len else none) with
    | some x, _ => some (fcRange, x)
    | none, some x => some (fcRange, x)
    | none, none => none

def bodyMover (iw : Word64) (copy : Bool) (s : State) (p : Nat) : Issued :=
  let t := s.tile p
  match moverFault copy (t.moverDst iw) (t.moverSrc iw) (t.moverLen iw) with
  | some f => .fault f.1 f.2
  | none =>
    if 2 ≤ t.mover.length then .stall s
    else .done (s.setTile p { t with mover := t.mover ++ [{
      copy := copy, dst := t.moverDst iw, src := t.moverSrc iw, len := t.moverLen iw,
      value := (t.reg (iwA iw)).setWidth 32, pc := t.pc, iw := iw }] })

/-- FILL (R98, R99). -/
def execFill (tile : TileId) (iw : Word64) (s : State) : Res :=
  issue tile iw (rowOf iw 8 0) [iwD iw, iwA iw, iwB iw] (opIllegal iw 0 || iwFn iw != 0) (bodyMover iw false) s

/-- COPY (R98, R99). -/
def execCopy (tile : TileId) (iw : Word64) (s : State) : Res :=
  issue tile iw (rowOf iw 8 1) [iwD iw, iwA iw, iwB iw] (opIllegal iw 1 || iwFn iw != 0) (bodyMover iw true) s

/-- The bytes that a FILL writes. -/
def fillBytes (v : Word32) (len : Nat) : List Byte := (List.replicate (len / 4) (natLe v.toNat 4)).flatten

/-- The oldest operation of the mover takes effect (R98, R103, R109); a COPY that reads a poisoned word is an asynchronous fault
(R104, R115) and moves nothing at all: the spec does not say how much it has moved by then.
(DESIGN CHOICE, log entry 71) -/
def State.runMover (s : State) (p : Nat) (o : MoverOp) : State :=
  let t := { s.tile p with mover := (s.tile p).mover.drop 1 }
  let x := localAt s.now
  if o.copy then
    let t1 := t.senseRange o.src o.len
    match t1.poisonIn o.src o.len with
    | some e => (s.setTile p t1).tileFault p fcEcc (eccDetail e) o.pc o.iw true
    | none => s.setTile p (t1.writeMem x o.dst (Memory.readN (t1.seen x).mem o.src o.len))
  else s.setTile p (t.writeMem x o.dst (fillBytes o.value o.len))

/-- MOVER_COMPLETE (R99).
(DESIGN CHOICE, log entry 18) -/
def execMoverComplete (tile : TileId) (s : State) : Res :=
  match s.physOf tile.val with
  | none => .fault .noSuchTile
  | some p =>
    .next (match (s.tile p).mover with
      | o :: _ => (s.runMover p o).asyncDone p
      | [] => s)

def bodyMwait (iw : Word64) (s : State) (p : Nat) : Issued :=
  let t := s.tile p
  if t.mover.isEmpty then .done (s.setTile p (t.setPred (iwPS iw) true)) else .stall s

/-- MWAIT (R88, R99). -/
def execMwait (tile : TileId) (iw : Word64) (s : State) : Res :=
  issue tile iw (rowOf iw 8 2) [] (opIllegal iw 2 || !wFormOk iw || iwObj iw != 0 || iwImm iw != 0) (bodyMwait iw) s

/- ### Fence -/

def bodyFence (iw : Word64) (s : State) (p : Nat) : Issued :=
  let t := s.tile p
  let t1 := if hasBit (iwImm iw) 0 then t.flushPleat s.now else t
  if t1.fenced (iwImm iw) then
    .done (s.setTile p (if hasBit (iwImm iw) 3 then t1.dropBuffer else t1))
  else .stall (s.setTile p t1)

/-- FENCE (R100).
(DEDUCED, log entry 15) -/
def execFence (tile : TileId) (iw : Word64) (s : State) : Res :=
  issue tile iw (rowOf iw 0xA 0) []
    (opIllegal iw 0 || !wFormOk iw || iwPS iw != 0 || iwObj iw != 0 || decide (15 < iwImm iw)) (bodyFence iw) s

/- ### Monitors -/

def bodyMnon (iw : Word64) (s : State) (p : Nat) : Issued :=
  let t := s.tile p
  let c := iwObj iw
  let base := (t.reg (iwA iw)).toNat
  let len := iwBits iw 17 0
  if 3 < c ∨ len % 16 ≠ 0 ∨ len < 16 ∨ scratchBytes < base + len then .fault fcMonitor c
  else .done (s.setTile p { t with mon := modNth t.mon c (fun _ => some ⟨base, len, iwBits iw 31 18⟩) })

/-- MNON (R114). -/
def execMnon (tile : TileId) (iw : Word64) (s : State) : Res :=
  issue tile iw (rowOf iw 9 0) [iwA iw] (opIllegal iw 0 || !wFormOk iw || iwPS iw != 0) (bodyMnon iw) s

def bodyMnoff (iw : Word64) (s : State) (p : Nat) : Issued :=
  if 3 < iwObj iw then .fault fcMonitor (iwObj iw)
  else .done (s.modTile p (fun t => { t with mon := modNth t.mon (iwObj iw) (fun _ => none) }))

/-- MNOFF (R114). -/
def execMnoff (tile : TileId) (iw : Word64) (s : State) : Res :=
  issue tile iw (rowOf iw 9 1) [] (opIllegal iw 1 || !wFormOk iw || iwPS iw != 0 || iwImm iw != 0) (bodyMnoff iw) s

/- ### Pleat buffer and patrol scrub -/

/-- PLEAT_IDLE_FLUSH (R107): 16 cycles without a store to the entry of a row. -/
def execPleatIdleFlush (tile : TileId) (row : Fin 3072) (s : State) : Res :=
  match s.physOf tile.val with
  | none => .fault .noSuchTile
  | some p =>
    let t := s.tile p
    .next (match t.pleat.find? (fun e => e.row == row.val) with
      | some e => if e.last + 16 ≤ s.now then s.setTile p (t.flushEntry s.now e) else s
      | none => s)

/-- Bit errors strike a tile (R103, R118): a word keeps the worse of two, g0 and p0 hold nothing, and only a buffered word can
have one in the buffer.
(DESIGN CHOICE, log entry 69) -/
def Tile.strike (t : Tile) (u : TileUpsets) : Tile :=
  { t with
    soft := u.multi.foldl (fun m w => smPut m w.val true)
      (u.single.foldl (fun m w => if (smFind m w.val).isSome then m else smPut m w.val false) t.soft)
    badRegs := t.badRegs ++ (u.regs.filter (fun r => r.val != 0 && r.val != 64)).map (fun r => r.val)
    badBuf := t.badBuf ++ (u.buffer.map (fun a => a.toNat)).filter (fun a => (smFind t.ibuf a).isSome)
    badPat := t.badPat || u.pattern }

/-- A patrol read of the row that is next in turn (R105): corrected words are counted, and a word that is uncorrectable, now or
since before, is recorded as a latent error unless one is recorded; the tile goes on. -/
def Tile.patrol (t : Tile) : Tile :=
  let r := t.scrubNext
  let t1 : Tile := { t.senseRange (r * 64) 64 with scrubNext := (r + 1) % 3072 }
  if (t1.poisonIn (r * 64) 64).isNone ∨ t1.rd Reg.MN_TILE_ECC_LATENT = 1 then t1
  else (t1.wr Reg.MN_TILE_ECC_LATENT 1).wr Reg.MN_TILE_ECC_LATENT_ROW r

/-- PATROL_SCRUB (R105): bit errors may have struck the tile; one row is read when the interval has passed; the scrub is suspended
during Seams.
(DEDUCED, log entry 29; DESIGN CHOICE, log entry 69) -/
def execPatrolScrub (tile : TileId) (ups : TileUpsets) (s : State) : Res :=
  match s.physOf tile.val with
  | none => .fault .noSuchTile
  | some p =>
    let t := (s.tile p).strike ups
    let i := t.rd Reg.MN_TILE_SCRUB_INTERVAL
    .next (
      if s.on Reg.TK_STAT_IN_SEAM then (if t.badPat then (s.setTile p t).patternFault p else s.setTile p t)
      else if i = 0 ∨ s.now < t.scrubAt + max 64 i then s.setTile p t
      else s.setTile p { t.patrol with scrubAt := s.now })

end Sys2Proof.Machine
end

