-- ==== Sys2Proof/Machine/Bobbins.lean ====
section
/-! DEFINITION. The bobbin instructions of a tile (R256–R274): BCFG, TREQ, BSEND, BWAIT and BADV. -/

namespace Sys2Proof.Machine

/-- DETAIL of RING_CONFIG for a ring, for a thimble register, and for a slot that an arriving packet hits (R258). -/
def ringDetail (k : Nat) : Nat := k
def thimDetail (k : Nat) : Nat := k + 2 ^ 8
def addDetail (k slot : Nat) : Nat := k + 2 ^ 9 + 2 ^ 10 * slot

/- ### BCFG -/

/-- KIND, SIZE, SLOT and ETYPE of BCFG (R257). -/
def cfgKind (iw : Word64) : Nat := iwImm iw % 4
def cfgSize (iw : Word64) : Nat := iwBits iw 5 2
def cfgSlot (iw : Word64) : Nat := iwBits iw 8 6
def cfgEtype (iw : Word64) : Nat := iwBits iw 10 9

/-- The reserved values of BCFG (R257). -/
def cfgIllegal (iw : Word64) : Bool :=
  opIllegal iw 4 || !wFormOk iw || iwPS iw != 0 || decide (7 < iwObj iw) || decide (2 ^ 11 ≤ iwImm iw) ||
    cfgSlot iw == 7 || cfgEtype iw == 3 || (cfgKind iw != rkCombining && (cfgSlot iw != 0 || cfgEtype iw != 0))

/-- A ring is busy (R257). -/
def Tile.ringBusy (t : Tile) (k : Nat) : Bool :=
  let r := t.ring k
  r.kind != rkNone && (t.reqs.any (fun q => pkRing q == k) || (r.kind == rkMessage && r.rp != r.resv) ||
    r.slots.any (fun e => e.2.mode == .armed || e.2.mode == .zeroing) || r.grants != [])

/-- The ring range overlaps another configured ring of the tile. -/
def Tile.ringOverlaps (t : Tile) (k base bytes : Nat) : Bool :=
  (List.range 8).any (fun j => j != k && (t.ring j).kind != rkNone &&
    decide (base < (t.ring j).base + (t.ring j).bytes ∧ (t.ring j).base < base + bytes))

/-- The ring as BCFG configures it: pointers at offset 0, sequence number and rounds 0, full window credit. -/
def newRing (kind size slot etype base : Nat) : RingSt :=
  { kind := kind, size := size, slotSz := slot, etype := etype, base := base,
    credit := if kind = rkWindow then 16 * 2 ^ size else 0 }

/-- The effect of BCFG with KIND 0–2 (R257).
(DEDUCED, log entry 28) -/
def bodyBcfg (iw : Word64) (s : State) (p : Nat) : Issued :=
  let t := s.tile p
  let k := iwObj iw
  let base := (t.reg (iwA iw)).toNat
  let bytes := 256 * 2 ^ cfgSize iw
  match rangeBad base bytes with
  | some x => .fault fcRange x
  | none =>
    if 8 < cfgSize iw ∨ base % 256 ≠ 0 ∨ t.ringOverlaps k base bytes ∨
        (cfgKind iw = rkCombining ∧ (bytes < 64 * 2 ^ cfgSlot iw ∨ 64 < bytes / (64 * 2 ^ cfgSlot iw))) ∨ t.ringBusy k then
      .fault fcRing (ringDetail k)
    else .done (s.setTile p (t.setRing k (newRing (cfgKind iw) (cfgSize iw) (cfgSlot iw) (cfgEtype iw) base)))

/-- BCFG with KIND 0–2 (R257). -/
def execBcfg (tile : TileId) (iw : Word64) (s : State) : Res :=
  issue tile iw (rowOf iw 6 4 && cfgKind iw != rkNone) [iwA iw] (cfgIllegal iw) (bodyBcfg iw) s

def bodyUnconfigure (iw : Word64) (s : State) (p : Nat) : Issued :=
  let t := s.tile p
  if t.ringBusy (iwObj iw) then .fault fcRing (ringDetail (iwObj iw))
  else .done (s.setTile p (t.setRing (iwObj iw) {}))

/-- BCFG with KIND 3 (R257): gA and SIZE are ignored. -/
def execBcfgUnconfigure (tile : TileId) (iw : Word64) (s : State) : Res :=
  issue tile iw (rowOf iw 6 4 && cfgKind iw == rkNone) [] (cfgIllegal iw) (bodyUnconfigure iw) s

/- ### TREQ -/

/-- FORM, UNITS and OFF of TREQ, and the fields of its target word (R264). -/
def treqForm (iw : Word64) : Nat := iwImm iw % 4
def treqUnits (iw : Word64) : Nat := iwBits iw 13 2 + 1
def treqOff (iw : Word64) : Nat := if treqForm iw = rkCombining then iwBits iw 19 14 else iwBits iw 27 14

def tgTile (w : Word64) : Nat := iwBits w 12 0
def tgDev (w : Word64) : Nat := iwBits w 25 13
def tgRemote (w : Word64) : Bool := bitOf w.toNat 26
def tgRing (w : Word64) : Nat := iwBits w 29 27
def tgSaddr (w : Word64) : Nat := iwBits w 47 30
def tgRound (w : Word64) : Nat := iwBits w 37 30

/-- The reserved values of TREQ that its word holds (R264). -/
def treqIllegal (iw : Word64) : Bool :=
  opIllegal iw 0 || !wFormOk iw || iwPS iw != 0 || decide (7 < iwObj iw) || iwBits iw 31 28 != 0 ||
    (treqForm iw == 3 && decide (256 < treqUnits iw))

/-- The register that a TREQ takes. -/
def treqThim (iw tg : Word64) (pc : Nat) : ThimSt :=
  { mode := .requested, form := treqForm iw, tile := tgTile tg, dev := tgDev tg, remote := tgRemote tg, ring := tgRing tg,
    units := treqUnits iw, off := treqOff iw, round := tgRound tg, pc := pc, iw := iw }

/-- The remote reads of a tile that are outstanding (R201). -/
def Tile.readsOut (t : Tile) : Nat := (t.thims.filter (fun h => h.form == 3 && h.mode == .draining)).length

/-- The faults of the read form that come before those of the register (R201, R264, R520). -/
def readFault (iw tg : Word64) : Option (Nat × Nat) :=
  if tgSaddr tg % 16 ≠ 0 then some (fcAlign, tgSaddr tg)
  else match rangeBad (treqOff iw * 16) (treqUnits iw * 16), rangeBad (tgSaddr tg) (treqUnits iw * 16) with
    | some x, _ => some (fcRange, x)
    | none, some x => some (fcRange, x)
    | none, none => none

/-- A target word with a reserved bit set, or one that names no logical tile of the device (R195, R264): ILLEGAL_OP. -/
def State.targetBad (s : State) (tile : TileId) (iw : Word64) : Bool :=
  match s.physOf tile.val with
  | some p =>
    let tg := (s.tile p).reg (iwA iw)
    iwBits tg 63 48 != 0 || (!tgRemote tg && (s.physOf (tgTile tg)).isNone)
  | none => false

/-- The checks that all forms share; then the register is free to be taken. -/
def treqBody (iw : Word64) (s : State) (p : Nat) (take : Word64 → Issued) : Issued :=
  let t := s.tile p
  let tg := t.reg (iwA iw)
  let h := t.thim (iwObj iw)
  match (if treqForm iw = 3 then readFault iw tg else none) with
    | some f => .fault f.1 f.2
    | none =>
      if h.mode = .requested ∨ h.mode = .held then .fault fcRing (thimDetail (iwObj iw))
      else if h.mode = .draining then .stall s
      else take tg

/-- A request leaves, and the register is REQUESTED (R264, R265). -/
def bodyTreq (iw : Word64) (s : State) (p : Nat) : Issued :=
  treqBody iw s p (fun tg =>
    .done ((s.modTile p (fun t => t.setThim (iwObj iw) (treqThim iw tg t.pc))).sendRequest p (iwObj iw)))

/-- The read form sends its RDREQ at once, and the register is DRAINING; a third read stops issue (R201). -/
def bodyTreqRead (iw : Word64) (s : State) (p : Nat) : Issued :=
  treqBody iw s p (fun tg =>
    let t := s.tile p
    if 2 ≤ t.readsOut then .stall s
    else
      let h := { treqThim iw tg t.pc with mode := .draining }
      .done ((s.setTile p (t.setThim (iwObj iw) h)).emit (.packet (s.thimPacket p h
        { kind := pkRdreq, addr := tgSaddr tg, len := treqUnits iw - 1, tag := iwObj iw, raddr := treqOff iw * 16 } [] []))))

/-- TREQ in message form (R261, R264). -/
def execTreqMessage (tile : TileId) (iw : Word64) (s : State) : Res :=
  issue tile iw (rowOf iw 6 0 && treqForm iw == 0) [iwA iw] (treqIllegal iw || s.targetBad tile iw) (bodyTreq iw) s

/-- TREQ in combining form (R264, R266). -/
def execTreqCombining (tile : TileId) (iw : Word64) (s : State) : Res :=
  issue tile iw (rowOf iw 6 0 && treqForm iw == 1) [iwA iw] (treqIllegal iw || s.targetBad tile iw) (bodyTreq iw) s

/-- TREQ in write form (R264, R266). -/
def execTreqWrite (tile : TileId) (iw : Word64) (s : State) : Res :=
  issue tile iw (rowOf iw 6 0 && treqForm iw == 2) [iwA iw] (treqIllegal iw || s.targetBad tile iw) (bodyTreq iw) s

/-- TREQ in read form (R201, R264). -/
def execTreqRead (tile : TileId) (iw : Word64) (s : State) : Res :=
  issue tile iw (rowOf iw 6 0 && treqForm iw == 3) [iwA iw] (treqIllegal iw || s.targetBad tile iw) (bodyTreqRead iw) s

/- ### BSEND -/

/-- N, UTAG and LAST of BSEND (R268). -/
def sendN (iw : Word64) : Nat := iwBits iw 8 0
def sendUtag (iw : Word64) : Nat := iwBits iw 16 9
def sendLast (iw : Word64) : Bool := bitOf iw.toNat 31

def sendIllegal (iw : Word64) : Bool :=
  opIllegal iw 1 || !wFormOk iw || iwPS iw != 0 || decide (7 < iwObj iw) || iwBits iw 30 17 != 0

/-- What a BSEND costs its thimble (R268). -/
def sendCost (h : ThimSt) (iw : Word64) : Nat := if h.form = rkMessage then sendN iw + 1 else sendN iw

/-- The faults of BSEND in the order of R520 (R268). -/
def sendFault (t : Tile) (iw : Word64) : Option (Nat × Nat) :=
  let h := t.thim (iwObj iw)
  let a := (t.reg (iwA iw)).toNat
  if sendN iw = 0 ∨ 256 < sendN iw then some (fcMsgSize, 16 * sendN iw)
  else if a % 16 ≠ 0 then some (fcAlign, a)
  else match rangeBad a (16 * sendN iw) with
    | some x => some (fcRange, x)
    | none =>
      if h.mode ≠ .held ∨ h.left < sendCost h iw ∨ (h.form = rkCombining ∧ h.span < sendUtag iw + sendN iw) then
        some (fcRing, thimDetail (iwObj iw))
      else none

/-- The header of the packet that a BSEND sends (R194, R195, R268). -/
def sendHdr (h : ThimSt) (k : Nat) (iw : Word64) : PktHdr :=
  if h.form = rkMessage then
    { kind := pkMsg, addr := h.addr + 16, len := sendN iw - 1, tag := k, ring := h.ring, cnt := sendUtag iw }
  else if h.form = rkWindow then { kind := pkWrite, addr := h.addr, len := sendN iw - 1, tag := k }
  else { kind := pkAdd, addr := h.addr + 16 * sendUtag iw, len := sendN iw - 1, tag := h.round, ring := h.ring,
         etype := h.etype, cnt := 1 }

/-- The 8 B words of a range that are poisoned, counted from its start; the range starts at a multiple of 8. -/
def Tile.badWords (t : Tile) (a n : Nat) : List Nat :=
  t.poison.filterMap (fun e => if a ≤ e.1 * 8 ∧ e.1 * 8 < a + n then some (e.1 - a / 8) else none)

def bodyBsend (iw : Word64) (s : State) (p : Nat) : Issued :=
  let t := s.tile p
  let k := iwObj iw
  let h := t.thim k
  match sendFault t iw with
  | some f => .fault f.1 f.2
  | none =>
    let a := (t.reg (iwA iw)).toNat
    let n := 16 * sendN iw
    let cost := sendCost h iw
    let h1 := { h with left := h.left - cost, acks := h.acks + 1,
                       addr := if h.form = rkCombining then h.addr else h.addr + 16 * cost }
    let t1 := t.senseRange a n
    let s1 := (s.setTile p (t1.setThim k h1)).emit
      (.packet (s.thimPacket p h (sendHdr h k iw) (Memory.readN (t1.seen (localAt s.now)).mem a n) (t1.badWords a n)))
    .done (if sendLast iw ∨ h1.left = 0 then s1.releaseThim p k else s1)

/-- BSEND (R268). -/
def execBsend (tile : TileId) (iw : Word64) (s : State) : Res :=
  issue tile iw (rowOf iw 6 1) [iwA iw] (sendIllegal iw) (bodyBsend iw) s

/- ### BWAIT -/

def waitIllegal (iw : Word64) : Bool := opIllegal iw 2 || !wFormOk iw || decide (15 < iwObj iw)

/-- A BWAIT on a ring that its configuration does not allow (R263, R271): the count is 0 or beyond the ring, the slot does
not exist, or the ring is not configured. -/
def waitBad (r : RingSt) (imm : Nat) : Bool :=
  if r.kind = rkCombining then decide (r.slotCount ≤ imm % 64)
  else decide (imm % 2 ^ 13 = 0 ∨ r.units < imm % 2 ^ 13)

/-- The state of a ring of the tile that a command names; a tile that no position holds has none. -/
def State.ringOf (s : State) (tile : TileId) (k : Nat) : RingSt :=
  match s.physOf tile.val with
  | some p => (s.tile p).ring k
  | none => {}

/-- Reserved bits of the IMM of a BWAIT on a ring: those above the slot of a combining ring and above the count of another (R86, R263,
R274). -/
def State.waitLong (s : State) (tile : TileId) (iw : Word64) : Bool :=
  decide (2 ^ (if (s.ringOf tile (iwObj iw)).kind = rkCombining then 6 else 13) ≤ iwImm iw)

def bodyBwait (iw : Word64) (s : State) (p : Nat) : Issued :=
  let t := s.tile p
  let r := t.ring (iwObj iw)
  if waitBad r (iwImm iw) then .fault fcRing (ringDetail (iwObj iw))
  else if t.ringReady (iwObj iw) (iwImm iw) then .done (s.setTile p (t.setPred (iwPS iw) true))
  else .stall s

/-- BWAIT on a ring, a window or a combining slot (R263, R271, R274). -/
def execBwait (tile : TileId) (iw : Word64) (s : State) : Res :=
  issue tile iw (rowOf iw 6 2 && !(decide (8 ≤ iwObj iw ∧ iwObj iw ≤ 15))) []
    (waitIllegal iw || s.waitLong tile iw) (bodyBwait iw) s

def bodyBwaitThimble (iw : Word64) (s : State) (p : Nat) : Issued :=
  let t := s.tile p
  match t.thimReady (iwObj iw - 8) (iwImm iw) with
  | some ok => .done ((if ok then s else s.countRing 4 1).setTile p (t.setPred (iwPS iw) ok))
  | none => .stall s

/-- BWAIT on a thimble register (R269). -/
def execBwaitThimble (tile : TileId) (iw : Word64) (s : State) : Res :=
  issue tile iw (rowOf iw 6 2 && decide (8 ≤ iwObj iw ∧ iwObj iw ≤ 15)) [] (waitIllegal iw || decide (1 < iwImm iw))
    (bodyBwaitThimble iw) s

/- ### BADV -/

def advIllegal (iw : Word64) : Bool := opIllegal iw 3 || !wFormOk iw || iwPS iw != 0 || decide (7 < iwObj iw)

/-- A combining slot is armed (R272): its round moves on, its counts start, and its zeroing begins. -/
def RingSt.arm (r : RingSt) (j expected : Nat) : RingSt :=
  { r with slots := smPut r.slots j { mode := .zeroing, round := ((r.comb j).round + 1) % 256, expected := expected } }

/-- Reserved bits of the IMM of a BADV: those above the count of a message ring, and above the two fields of another ring that is
configured (R86, R263, R271, R272). -/
def State.advLong (s : State) (tile : TileId) (iw : Word64) : Bool :=
  let kind := (s.ringOf tile (iwObj iw)).kind
  if kind = rkMessage then decide (2 ^ 13 ≤ iwImm iw) else decide (kind ≠ rkNone ∧ 2 ^ 26 ≤ iwImm iw)

def bodyBadv (iw : Word64) (s : State) (p : Nat) : Issued :=
  let t := s.tile p
  let k := iwObj iw
  let r := t.ring k
  let imm := iwImm iw
  let bad : Issued := .fault fcRing (ringDetail k)
  let go := fun (r1 : RingSt) => Issued.done ((s.setTile p (t.setRing k r1)).serve p)
  if r.kind = rkMessage then
    let n := imm % 2 ^ 13
    if n = 0 ∨ r.dist r.wp r.rp < n then bad
    else go { r with rp := (r.rp + n) % (2 * r.units) }
  else if r.kind = rkWindow then
    let eat := bitsOf imm 25 13
    let give := imm % 2 ^ 13
    if r.landed < eat ∨ r.units < r.credit + give then bad
    else go { r with landed := r.landed - eat, credit := r.credit + give }
  else if r.kind = rkCombining then
    let j := imm % 64
    let n := bitsOf imm 25 6
    if r.slotCount ≤ j ∨ n = 0 ∨ (r.comb j).mode = .armed ∨ (r.comb j).mode = .zeroing then bad
    else go (r.arm j n)
  else bad

/-- BADV (R263, R271, R272). -/
def execBadv (tile : TileId) (iw : Word64) (s : State) : Res :=
  issue tile iw (rowOf iw 6 3) [] (advIllegal iw || s.advLong tile iw) (bodyBadv iw) s

end Sys2Proof.Machine
end

