-- ==== Sys2Proof/Machine/Numeric.lean ====
section
/-! DEFINITION. Number formats (R122–R131, R152, R159), exact values, the roundings (R141–R146, R153, R160, R179), the
choice of block scales (R143, R144), the stochastic-rounding generator (R145) and the packing of elements (R133). -/

namespace Sys2Proof.Machine

/-- An exact value: NaN, an infinity, or (−1)^neg × m × 2^e. -/
inductive Num where
  | nan
  | inf (neg : Bool)
  | fin (neg : Bool) (m : Nat) (e : Int)
deriving DecidableEq, Repr

/-- 2^k for a natural or a negative k, as a fraction. -/
def pow2Num (k : Int) : Nat := 2 ^ k.toNat
def pow2Den (k : Int) : Nat := 2 ^ (-k).toNat

/-- floor(log2(num / den)) for num > 0. -/
def ratioLog2 (num den : Nat) : Int :=
  let k : Int := (num.log2 : Int) - den.log2
  if num * pow2Den k < den * pow2Num k then k - 1 else k

/-- floor(log2 |x|) of a finite value that is not 0. -/
def magLog2 (m : Nat) (e : Int) : Int := (m.log2 : Int) + e

def Num.isNan : Num → Bool
  | .nan => true
  | _ => false

def Num.isFin : Num → Bool
  | .fin _ _ _ => true
  | _ => false

def Num.isZero : Num → Bool
  | .fin _ m _ => m == 0
  | _ => false

def Num.neg : Num → Bool
  | .nan => false
  | .inf n => n
  | .fin n _ _ => n

/-- The exact product of two values (R137). -/
def Num.mul : Num → Num → Num
  | .fin a m e, .fin b n f => .fin (a != b) (m * n) (e + f)
  | .inf a, .inf b => .inf (a != b)
  | .inf a, .fin b n _ => if n = 0 then .nan else .inf (a != b)
  | .fin a m _, .inf b => if m = 0 then .nan else .inf (a != b)
  | _, _ => .nan

/-- The exact sum of two values; a zero sum is −0 only when both terms are −0 (R160). -/
def Num.add : Num → Num → Num
  | .fin a m e, .fin b n f =>
    if m = 0 ∧ n = 0 then .fin (a && b) 0 0
    else
      let q := min e f
      let x : Int := (m * 2 ^ (e - q).toNat : Nat)
      let y : Int := (n * 2 ^ (f - q).toNat : Nat)
      let z := (if a then -x else x) + (if b then -y else y)
      .fin (decide (z < 0)) z.natAbs q
  | .inf a, .inf b => if a = b then .inf a else .nan
  | .inf a, .fin _ _ _ => .inf a
  | .fin _ _ _, .inf b => .inf b
  | _, _ => .nan

def Num.negate : Num → Num
  | .nan => .nan
  | .inf n => .inf (!n)
  | .fin n m e => .fin (!n) m e

/-- Whether a finite value is below another; the order of R148, in which −0 equals +0. -/
def finLt (a : Bool) (m : Nat) (e : Int) (b : Bool) (n : Nat) (f : Int) : Bool :=
  let q := min e f
  let x : Int := (m * 2 ^ (e - q).toNat : Nat)
  let y : Int := (n * 2 ^ (f - q).toNat : Nat)
  decide ((if a then -x else x) < (if b then -y else y))

def Num.lt : Num → Num → Bool
  | .fin a m e, .fin b n f => finLt a m e b n f
  | .inf a, .inf b => a && !b
  | .inf a, .fin _ _ _ => a
  | .fin _ _ _, .inf b => !b
  | _, _ => false

/-- A floating-point format: exponent bits, mantissa bits, bias, and its non-finite codes: 0 none, 1 as IEEE 754, 2 the
one NaN of E4M3. -/
structure FFmt where
  eb : Nat
  mb : Nat
  bias : Nat
  special : Nat
deriving DecidableEq, Repr

def fmtE2M1 : FFmt := ⟨2, 1, 1, 0⟩
def fmtE2M3 : FFmt := ⟨2, 3, 1, 0⟩
def fmtE3M2 : FFmt := ⟨3, 2, 3, 0⟩
def fmtE4M3 : FFmt := ⟨4, 3, 7, 2⟩
def fmtE5M2 : FFmt := ⟨5, 2, 15, 1⟩
def fmtFP16 : FFmt := ⟨5, 10, 15, 1⟩
def fmtBF16 : FFmt := ⟨8, 7, 127, 1⟩
def fmtFP32 : FFmt := ⟨8, 23, 127, 1⟩
def fmtW40 : FFmt := ⟨8, 31, 127, 1⟩
def fmtFP64 : FFmt := ⟨11, 52, 1023, 1⟩

def FFmt.signBit (f : FFmt) : Nat := 2 ^ (f.eb + f.mb)

def FFmt.emin (f : FFmt) : Int := 1 - (f.bias : Int)

/-- The value of a code (R123, R124). -/
def FFmt.decode (f : FFmt) (code : Nat) : Num :=
  let s := decide (f.signBit ≤ code % (2 * f.signBit))
  let x := code % f.signBit
  let ex := x / 2 ^ f.mb
  let m := x % 2 ^ f.mb
  if f.special = 1 ∧ ex = 2 ^ f.eb - 1 then (if m = 0 then .inf s else .nan)
  else if f.special = 2 ∧ x = f.signBit - 1 then .nan
  else if ex = 0 then .fin s m (f.emin - f.mb)
  else .fin s (2 ^ f.mb + m) ((ex : Int) - f.bias - f.mb)

/-- The code of the largest finite value, without its sign. -/
def FFmt.maxCode (f : FFmt) : Nat :=
  match f.special with
  | 1 => (2 ^ f.eb - 1) * 2 ^ f.mb - 1
  | 2 => f.signBit - 2
  | _ => f.signBit - 1

/-- The canonical NaN (R125, R159) and the code of Inf; E4M3 has its one NaN for both. -/
def FFmt.nanCode (f : FFmt) : Nat :=
  if f.special = 2 then f.signBit - 1 else (2 ^ f.eb - 1) * 2 ^ f.mb + 2 ^ (f.mb - 1)

def FFmt.infCode (f : FFmt) (neg : Bool) : Nat :=
  if f.special = 2 then f.signBit - 1
  else (2 ^ f.eb - 1) * 2 ^ f.mb + (if neg then f.signBit else 0)

/-- The canonical NaN of E5M2 is 0x7E, and that of every IEEE format has the top mantissa bit set. -/
def FFmt.signed (f : FFmt) (neg : Bool) (x : Nat) : Nat := x + (if neg then f.signBit else 0)

/-- The rounding that RND selects (R139). -/
inductive Rnd where
  | rne | sr | rz
deriving DecidableEq, Repr

/-- Round num / den to an integer: to nearest with ties to even, stochastically with 24 random bits (R146), or toward
zero. -/
def roundInt (r : Rnd) (u num den : Nat) : Nat :=
  let t := num / den
  let rem := num % den
  match r with
  | .rz => t
  | .rne => if den < 2 * rem ∨ (2 * rem = den ∧ t % 2 = 1) then t + 1 else t
  | .sr => if 2 ^ 24 ≤ 2 ^ 24 * rem / den + u then t + 1 else t

/-- The magnitude num / den × 2^e rounded onto the grid of a format, whose exponent is unbounded (R141), as the code
without its sign; the code lies above `maxCode` on an overflow. -/
def FFmt.roundMag (f : FFmt) (r : Rnd) (u num den : Nat) (e : Int) : Nat :=
  if num = 0 then 0
  else
    let k := ratioLog2 num den + e
    let q := (if k < f.emin then f.emin else k) - f.mb
    let n := roundInt r u (num * pow2Num (e - q)) (den * pow2Den (e - q))
    -- n has at most mb + 2 bits; the code of n × 2^q is n with the exponent field of the grid added above it
    n + ((q + f.mb - f.emin).toNat) * 2 ^ f.mb

/-- The code of a finite value given as a fraction, and whether it overflowed: the test is made after rounding, as R142 says, also for
the elements of a block, so one that R143 calls above the largest finite and that rounds back to it is no saturation.
(DESIGN CHOICE, log entry 81) -/
def FFmt.narrowFin (f : FFmt) (r : Rnd) (u : Nat) (nsat neg : Bool) (num den : Nat) (e : Int) : Nat × Bool :=
  let c := f.roundMag r u num den e
  if c ≤ f.maxCode then (f.signed neg c, false)
  else if nsat then (f.infCode neg, true)
  else (f.signed neg f.maxCode, true)

/-- Round to nearest even onto an IEEE format with overflow to infinity: rne32, rnd40 and their like (R160). -/
def FFmt.rne (f : FFmt) : Num → Nat
  | .nan => f.nanCode
  | .inf n => f.infCode n
  | .fin n m e =>
    let c := f.roundMag .rne 0 m 1 e
    if c ≤ f.maxCode then f.signed n c else f.infCode n

/-- rnd40: an exact zero gives +0 (R160). -/
def rnd40 (x : Num) : Nat := if x.isZero then 0 else fmtW40.rne x

def rne32 (x : Num) : Nat := fmtFP32.rne x

def fp32 (w : Nat) : Num := fmtFP32.decode w

def w40 (w : Nat) : Num := fmtW40.decode w

/-- rne_ftz32 (R153): values below the smallest normal become zero of their sign before rounding. -/
def rneFtz32 (x : Num) : Nat :=
  match x with
  | .fin n m e => if m = 0 ∨ magLog2 m e < -126 then fmtFP32.signed n 0 else rne32 x
  | _ => rne32 x

/-- An FP32 operand read with subnormals taken as zero of their sign (R153). -/
def fp32Ftz (w : Nat) : Num :=
  match fp32 w with
  | .fin n m e => if m = 0 ∨ magLog2 m e < -126 then .fin n 0 0 else .fin n m e
  | x => x

/-- add32, and the other operations of R148. -/
def add32 (a b : Nat) : Nat := rne32 ((fp32 a).add (fp32 b))

def mul32 (a b : Nat) : Nat := rne32 ((fp32 a).mul (fp32 b))

def fma32 (a b c : Nat) : Nat := rne32 (((fp32 a).mul (fp32 b)).add (fp32 c))

/-- Minimum and maximum of IEEE 754-2019: NaN if either is NaN, and −0 below +0. -/
def numMin (a b : Num) : Num :=
  if a.isNan || b.isNan then .nan
  else if a.isZero && b.isZero then (if a.neg then a else b)
  else if b.lt a then b else a

def numMax (a b : Num) : Num :=
  if a.isNan || b.isNan then .nan
  else if a.isZero && b.isZero then (if a.neg then b else a)
  else if a.lt b then b else a

/-- The relations of R148: a compare with a NaN is false except not-equal. -/
def numCmp (rel : CmpRel) (a b : Num) : Bool :=
  if a.isNan || b.isNan then rel == .ne
  else
    let eq := !a.lt b && !b.lt a
    match rel with
    | .eq => eq
    | .ne => !eq
    | .lt => a.lt b
    | .le => a.lt b || eq
    | .gt => b.lt a
    | .ge => b.lt a || eq

/-- A BF16 sum, rounded once (R179). -/
def addBf16 (a b : Nat) : Nat := fmtBF16.rne ((fmtBF16.decode a).add (fmtBF16.decode b))

/-- An INT32 sum, modulo 2^32 (R179). -/
def addInt32 (a b : Nat) : Nat := (a + b) % 2 ^ 32

/-- Elements of `n` bytes that a byte string holds. -/
def chunksOf (n : Nat) (fuel : Nat) (l : List Byte) : List (List Byte) :=
  match fuel with
  | 0 => []
  | k + 1 => match l with
    | [] => []
    | _ => l.take n :: chunksOf n k (l.drop n)

/-- The elementwise add of two byte strings by ETYPE: 0 FP32, 1 BF16, 2 INT32 (R179, R195). -/
def addRows (etype : Nat) (a b : List Byte) : List Byte :=
  let w := if etype = 1 then 2 else 4
  let op := if etype = 0 then add32 else if etype = 1 then addBf16 else addInt32
  ((chunksOf w a.length a).zip (chunksOf w a.length b)).flatMap (fun p => natLe (op (leNat p.1) (leNat p.2)) w)

/- ### Format codes -/

/-- Bits of an element of a format code (R122); 0 for the reserved code. -/
def fmtBits : Nat → Nat
  | 0x0 | 0x1 | 0xD => 16
  | 0x2 | 0x3 | 0x4 | 0x6 | 0x7 | 0xC | 0xE => 8
  | 0x8 | 0x9 => 6
  | 0x5 | 0xA | 0xB => 4
  | _ => 0

/-- MX and TS4 formats have block scales. -/
def fmtScaled (c : Nat) : Bool := decide (6 ≤ c ∧ c ≤ 0xC)

/-- Bytes of a scale entry: the E8M0 byte, and for TS4 the sub-scale byte too (R130, R131). -/
def fmtScaleBytes (c : Nat) : Nat := if c = 0xB then 2 else if fmtScaled c then 1 else 0

def fmtInteger (c : Nat) : Bool := c == 4 || c == 5

def fmtHeritage (c : Nat) : Bool := c == 0xD || c == 0xE

/-- The float format of the elements of a format code. -/
def fmtFloat : Nat → FFmt
  | 0x0 | 0xD => fmtBF16
  | 0x1 => fmtFP16
  | 0x2 | 0x6 | 0xE => fmtE4M3
  | 0x3 | 0x7 => fmtE5M2
  | 0x8 => fmtE2M3
  | 0x9 => fmtE3M2
  | 0xA | 0xB => fmtE2M1
  | _ => fmtFP32

/-- A two's complement code of w bits as a value. -/
def intNum (w code : Nat) (e : Int) : Num :=
  let x := ofSigned w (code % 2 ^ w)
  .fin (decide (x < 0)) x.natAbs e

/-- The value of an element code before its block scale (R123–R128, R152). A T5 code with E = 0 is zero of its sign. -/
def elemNum (fmt code : Nat) : Num :=
  match fmt with
  | 0x4 => intNum 8 code 0
  | 0x5 => intNum 4 code 0
  | 0xC => intNum 8 code (-6)
  | 0xD => (match fmtBF16.decode code with
    | .fin n m e => if m < 128 then .fin n 0 0 else .fin n m e
    | x => x)
  | 0xE => (match fmtE4M3.decode code with
    | .fin n m e => if m < 8 then .fin n 0 0 else .fin n m e
    | x => x)
  | _ => (fmtFloat fmt).decode code

/-- A value scaled by an E8M0 code and by (4 + s) / 4 (R129–R131). -/
def scaleNum (scale sub : Nat) (x : Num) : Num :=
  if scale = 0xFF then .nan
  else match x with
    | .fin n m e => .fin n (m * (4 + sub)) (e - 2 + (scale : Int) - 127)
    | y => y

/-- Element `i` of a packed byte string of w-bit elements (R133). -/
def unpackElem (w : Nat) (bs : List Byte) (i : Nat) : Nat := leNat bs / 2 ^ (w * i) % 2 ^ w

/-- Codes packed little-endian in bit order (R133). -/
def packElems (w : Nat) (cs : List Nat) : List Byte :=
  natLe (cs.foldr (fun c acc => c % 2 ^ w + 2 ^ w * acc) 0) (ceilDiv (w * cs.length) 8)

/-- The sub-scale code of element `i` of a TS4 block (R131). -/
def subScale (subByte i : Nat) : Nat := subByte / 4 ^ (i / 8 % 4) % 4

/- ### Narrowing -/

/-- What narrowing an element gives: its code, whether it overflowed, and whether it stands for a non-finite input. -/
structure Narrowed where
  code : Nat
  sat : Bool
  nonfin : Bool
deriving DecidableEq, Repr

/-- Narrow num / den × 2^e to a two's complement integer of w bits (R141, R142); an element of a block saturates at the largest
finite of either sign (`mx`). -/
def narrowInt (w : Nat) (mx : Bool) (r : Rnd) (u : Nat) (neg : Bool) (num den : Nat) (e : Int) : Narrowed :=
  let n := roundInt r u (num * pow2Num e) (den * pow2Den e)
  let lim := if neg && !mx then 2 ^ (w - 1) else 2 ^ (w - 1) - 1
  let m := min n lim
  ⟨if neg then (2 ^ w - m) % 2 ^ w else m, decide (lim < n), false⟩

/-- Narrow one value to an unscaled format (R141, R142). -/
def narrowElem (fmt : Nat) (r : Rnd) (u : Nat) (nsat : Bool) (x : Num) : Narrowed :=
  if fmtInteger fmt then
    let w := fmtBits fmt
    match x with
    | .nan => ⟨0, false, true⟩
    | .inf n => ⟨if n then 2 ^ (w - 1) else 2 ^ (w - 1) - 1, false, true⟩
    | .fin n m e => narrowInt w false r u n m 1 e
  else
    let f := fmtFloat fmt
    match x with
    | .nan => ⟨f.nanCode, false, true⟩
    | .inf n => ⟨f.infCode n, false, true⟩
    | .fin n m e => let c := f.narrowFin r u nsat n m 1 e
      ⟨c.1, c.2, false⟩

/-- Narrow an FP32 word to a T5 format (R155): to nearest even onto its mantissa bits, whatever the exponent; a result
below the format's smallest normal is zero of its sign. -/
def narrowT5 (fmt w : Nat) : Narrowed :=
  let f := fmtFloat fmt
  let wide : FFmt := { f with eb := 8, bias := 127 }
  let low := (127 - f.bias) * 2 ^ f.mb
  match fp32Ftz w with
  | .nan => ⟨f.nanCode, false, true⟩
  | .inf n => ⟨f.infCode n, false, true⟩
  | .fin n m e =>
    let c := wide.roundMag .rne 0 m 1 e
    if c < low + 2 ^ f.mb then ⟨f.signed n 0, false, false⟩
    else if c - low ≤ f.maxCode then ⟨f.signed n (c - low), false, false⟩
    else ⟨f.infCode n, true, false⟩

/-- emax of an MX element format (R143). -/
def mxEmax : Nat → Int
  | 0x6 => 8
  | 0x7 => 15
  | 0x8 => 2
  | 0x9 => 4
  | 0xA => 2
  | _ => 0

/-- The larger of two magnitudes, as m × 2^e. -/
def magMax (a b : Nat × Int) : Nat × Int := if finLt false a.1 a.2 false b.1 b.2 then b else a

/-- The largest magnitude among finite values. -/
def largestMag (l : List Num) : Nat × Int :=
  l.foldl (fun a x => match x with
    | .fin _ m e => magMax a (m, e)
    | _ => a) (0, 0)

def clampExp (x : Int) : Int := if x < -127 then -127 else if 127 < x then 127 else x

/-- The scale exponent of an MX block (R143). -/
def mxScale (fmt : Nat) (l : List Num) : Int :=
  let a := largestMag l
  if a.1 = 0 then -127 else clampExp (magLog2 a.1 a.2 - mxEmax fmt)

/-- The block exponent of a TS4 block (R144): the smallest x with a ≤ 10.5 × 2^x. -/
def ts4Scale (l : List Num) : Int :=
  let a := largestMag l
  if a.1 = 0 then -127
  else
    let k := magLog2 a.1 a.2
    -- 10.5 × 2^(k − 4) is below 2^k, and 10.5 × 2^(k − 2) is above 2^(k + 1)
    clampExp (if !finLt false 21 (k - 4) false a.1 a.2 then k - 3 else k - 2)

/-- The sub-scale code of a sub-block (R144). -/
def ts4Sub (x : Int) (l : List Num) : Nat :=
  let a := largestMag l
  let fits := fun (n : Nat) => !finLt false (6 * n) (x - 2) false a.1 a.2
  if fits 4 then 0 else if fits 5 then 1 else if fits 6 then 2 else 3

/-- What a block convert writes: the element codes and the scale entry (R143, R144). -/
structure NarrowBlock where
  elems : List Narrowed
  scale : List Byte
deriving DecidableEq, Repr

/-- Narrow 32 values to an MX or TS4 block; `u i` are the random bits of element i.
(DEDUCED, log entry 27) -/
def narrowBlock (fmt : Nat) (r : Rnd) (u : Nat → Nat) (l : List Num) : NarrowBlock :=
  if l.any (fun x => !x.isFin) then
    ⟨l.map (fun _ => ⟨0, false, true⟩), if fmt = 0xB then [0xFF, 0] else [0xFF]⟩
  else
    let x := if fmt = 0xB then ts4Scale l else mxScale fmt l
    let subs := (List.range 4).map (fun j => if fmt = 0xB then ts4Sub x ((l.drop (8 * j)).take 8) else 0)
    let elems := l.zipIdx.map (fun p => match p.1 with
      | .fin n m e =>
        let s := nth subs (p.2 / 8) 0
        if fmt = 0xC then narrowInt 8 true r (u p.2) n m 1 (e - x + 6)
        else
          let c := (fmtFloat fmt).narrowFin r (u p.2) false n (4 * m) (4 + s) (e - x)
          ⟨c.1, c.2, false⟩
      | _ => ⟨0, false, true⟩)
    let sub := nth subs 0 0 + 4 * nth subs 1 0 + 16 * nth subs 2 0 + 64 * nth subs 3 0
    let code := BitVec.ofNat 8 (x + 127).toNat
    ⟨elems, if fmt = 0xB then [code, BitVec.ofNat 8 sub] else [code]⟩

/-- The value that a written code stands for, for the monitors (R149). -/
def codeNum (fmt : Nat) (scale sub code : Nat) : Num :=
  if fmtScaled fmt then scaleNum scale sub (elemNum fmt code) else elemNum fmt code

/- ### Stochastic rounding -/

/-- mix of R145. -/
def mix64 (z : Word64) : Word64 :=
  let z1 := (z ^^^ (z >>> 30)) * 0xBF58476D1CE4E5B9
  let z2 := (z1 ^^^ (z1 >>> 27)) * 0x94D049BB133111EB
  z2 ^^^ (z2 >>> 31)

/-- The 24 random bits of an element (R145). -/
def srBits (seed step : Word64) (tid idx : Nat) : Nat :=
  let k := mix64 (seed ^^^ mix64 (step + 0x9E3779B97F4A7C15))
  let r := mix64 (k ^^^ BitVec.ofNat 64 (2 ^ 48 * tid) ^^^ BitVec.ofNat 64 idx)
  (r >>> 40).toNat

/- ### Monitors -/

/-- The histogram bin of a finite value that is not 0 (R150). -/
def histBin (m : Nat) (e : Int) : Nat :=
  let b := magLog2 m e / 4 + 8
  if b < 0 then 0 else if 15 < b then 15 else b.toNat

def satAdd32 (a b : Nat) : Nat := min (a + b) (2 ^ 32 - 1)

/-- One value counted (R149). -/
def MonCounts.count (c : MonCounts) (x : Num) (sat nonfin : Bool) : MonCounts :=
  let c1 := { c with total := satAdd32 c.total 1 }
  if nonfin || !x.isFin then { c1 with nonfin := satAdd32 c1.nonfin 1 }
  else
    let c2 := if sat then { c1 with sat := satAdd32 c1.sat 1 } else c1
    match x with
    | .fin _ m e =>
      if m = 0 then { c2 with zero := satAdd32 c2.zero 1 }
      else { c2 with hist := modNth c2.hist (histBin m e) (fun h => satAdd32 h 1) }
    | _ => c2

/-- A value written to a scratchpad address is counted for every armed channel whose range holds it (R114).
(DEDUCED, log entry 27) -/
def Tile.monitor (t : Tile) (addr : Nat) (x : Num) (sat nonfin : Bool) : Tile :=
  t.mon.foldl (fun t c => match c with
    | some ch =>
      if ch.base ≤ addr ∧ addr < ch.base + ch.len then
        { t with counts := smPut t.counts ch.tid ((smGet t.counts ch.tid {}).count x sat nonfin) }
      else t
    | none => t) t

end Sys2Proof.Machine
end

