-- ==== Sys2Proof/Machine/Fabric.lean ====
section
/-! DEFINITION. Packets that arrive at a tile (R196, R199–R202, R209, R262, R271–R273), merging routers (R209), forwarding
by the X dies (R276–R278, R335, R336) and the row map (R211–R214). -/

namespace Sys2Proof.Machine

/- ### Arrival -/

/-- The position of the router that finds a packet's header check to fail (R196): that of the destination, where no other is
named and the destination is a tile. -/
def State.finder (s : State) (q : Pkt) : Option Nat := match q.seenAt with
  | some r => some r.val
  | none => s.physOf (pkDest q)

/-- A router discards a packet whose header check fails (R196): a logical tile at its position records a PORT fault, which
no instruction caused. What the packet was sent as is on its way no longer. -/
def State.dropPacket (s : State) (q : Pkt) : State :=
  let f := s.sentAs q
  let s0 := s.land f
  let s1 := (s0.flag Reg.MN_FAB_STAT_HDR_ERR).bump Reg.MN_FAB_STAT_DROPS 1
  match s.finder q with
  | some p =>
    let s2 := s1.countPart f (p / 1584 * 1536)
    if (s2.logicalOf p).isSome then s2.tileFault p fcPort 0 0 0 true else s2
  | none => s1.countPacket f

/-- A packet whose checks hold, as it was sent. -/
def soundPkt (q : Pkt) : Pkt := { q with seenAt := none }

/-- The bytes that a packet touches at its destination lie in the scratchpad. -/
def pkInRange (q : Pkt) : Bool := pkAddr q % 16 == 0 && decide (pkAddr q + 16 * (pkLen q + 1) ≤ scratchBytes)

/-- A packet comes out of the fabric: its edges are counted, and it is on its way no longer. -/
def State.takePacket (s : State) (q : Pkt) : State := (s.land (soundPkt q)).countPacket q

/-- A packet of a row arrives at its destination tile. One that another of its way is ahead of does not arrive yet (R199).
(DESIGN CHOICE, log entry 20) -/
def arriveAt (q : Pkt) (row : Bool) (f : Nat → State → State) (s : State) : Res :=
  if !pkChecks q then .next (s.dropPacket q)
  else if row && pkSized q then
    match s.physOf (pkDest q) with
    | some p => .next (if s.inOrder (soundPkt q) then f p (s.takePacket q) else s)
    | none => .fault .noSuchTile
  else .fault .malformed

/-- The payload is written from its address up, with the marked words stored as poison (R104, R199). -/
def Tile.landData (t : Tile) (now : Nat) (q : Pkt) : Tile :=
  (t.writeMem (meshAt now) (pkAddr q) q.data).addPoison (q.bad.map (fun w => pkAddr q / 8 + w)) true

/-- The header fields of the ACK of a WRITE, MSG or ADD (R200, R209): beside the source's register or round it echoes the RING of
the packet, and CNT of an ADD, by which the source tells an ADD's ACK from a WRITE's; the spec gives an ACK no such fields.
(DESIGN CHOICE, log entry 74) -/
def ackHdr (q : Pkt) : PktHdr :=
  { kind := pkAck, mrg := pkMrg q, mid := pkMid q, cnt := if pkKind q = pkAdd then pkCnt q else 0 }

/-- The destination sends the ACK of a WRITE, MSG or ADD (R200, R209). -/
def State.sendAck (s : State) (q : Pkt) : State := s.replyTo (pkDest q) q (ackHdr q)

/-- A WRITE counts against its thimble and as landed in the window (R271). -/
def landWrite (remote : Bool) (sdev stile reg n : Nat) (r : RingSt) : RingSt :=
  let mine := fun (g : GrantSt) => g.remote == remote && g.sdev == sdev && g.stile == stile && g.reg == reg
  if r.kind = rkWindow ∧ r.grants.any mine then
    { r with landed := r.landed + n, grants := r.grants.map (fun g => if mine g then { g with left := g.left - n } else g) }
  else r

/-- WRITE (R199, R200, R202, R271).
(DESIGN CHOICE, log entry 18; DESIGN CHOICE, log entry 20) -/
def execWrite (pkt : Pkt) (s : State) : Res :=
  arriveAt pkt (pkKind pkt == pkWrite && pkInRange pkt) (fun p s =>
    let who := s.pktSender pkt
    let t := (s.tile p).landData s.now pkt
    let t1 := { t with rings := t.rings.map (landWrite who.1 who.2.1 who.2.2 (pkTag pkt) (pkLen pkt + 1)) }
    ((s.setTile p t1).sendAck pkt).ringWake p) s

/-- RDREQ (R103, R109, R116, R201): the owner reads its banks and sends the response, in arrival order. -/
def execRdreq (pkt : Pkt) (s : State) : Res :=
  arriveAt pkt (pkKind pkt == pkRdreq && pkInRange pkt) (fun p s =>
    let n := 16 * (pkLen pkt + 1)
    let t := (s.tile p).senseRange (pkAddr pkt) n
    (s.setTile p t).emit (.packet {
      hdr := { kind := pkRdrsp, dest := pkSrc pkt, src := pkDest pkt, addr := pkRaddr pkt, len := pkLen pkt,
               tag := pkTag pkt : PktHdr }.word,
      relay := pkt.relay.map relayBack, data := Memory.readN (t.seen (meshAt s.now)).mem (pkAddr pkt) n,
      bad := t.badWords (pkAddr pkt) n })) s

/-- RDRSP (R201, R265): the last row is written, and the register becomes FREE. -/
def execRdrsp (pkt : Pkt) (s : State) : Res :=
  arriveAt pkt (pkKind pkt == pkRdrsp && pkInRange pkt) (fun p s =>
    let t := s.tile p
    let k := pkTag pkt % 8
    let h := t.thim k
    if h.form = 3 ∧ h.mode = .draining then
      (s.setTile p ((t.landData s.now pkt).setThim k { h with mode := .free, granted := true })).ringWake p
    else s) s

/-- A message record is complete: it takes its units from the front of its thimble's open range (R262). -/
def takeRecord (mine : RingRec → Bool) (units utag now : Nat) : List RingRec → List RingRec
  | [] => []
  | x :: xs =>
    if mine x ∧ units ≤ x.units then
      { x with units := units, done := true, utag := utag, doneAt := now } ::
        (if units < x.units then { x with units := x.units - units } :: xs else xs)
    else x :: takeRecord mine units utag now xs

/-- MSG (R200, R262): the payload lies in the record behind its header.
(DESIGN CHOICE, log entry 20) -/
def execMsg (pkt : Pkt) (s : State) : Res :=
  arriveAt pkt (pkKind pkt == pkMsg && pkInRange pkt) (fun p s =>
    let who := s.pktSender pkt
    let t := (s.tile p).landData s.now pkt
    let r := t.ring (pkRing pkt)
    let mine := fun (x : RingRec) => !x.done && x.remote == who.1 && x.sdev == who.2.1 && x.stile == who.2.2 &&
      x.reg == pkTag pkt
    let hit := r.kind == rkMessage && r.recs.any mine
    let r1 := { r with recs := takeRecord mine (pkLen pkt + 2) (pkCnt pkt) s.now r.recs }
    let s1 := if hit then (s.setTile p ((t.setRing (pkRing pkt) r1).advance s.now (pkRing pkt))).countRing 0 1
      else s.setTile p t
    (s1.sendAck pkt).ringWake p) s

/-- The slot of a combining ring that an ADD packet names. -/
def RingSt.slotAt (r : RingSt) (a : Nat) : Nat := (a - r.base) / (r.slotUnits * 16)

/-- A contribution is added into its slot, row by row (R210, R273); one beyond the expected count is not added, and the
receiving tile faults. -/
def State.addPacket (s : State) (p : Nat) (q : Pkt) : State :=
  let t := s.tile p
  let k := pkRing q
  let r := t.ring k
  let j := r.slotAt (pkAddr q)
  let c := r.comb j
  if c.expected < c.arrived + pkCnt q then (s.sendAck q).tileFault p fcRing (addDetail k j) 0 0 true
  else
    let n := q.data.length
    let t := t.senseRange (pkAddr q) n
    let old := t.poison.filter (fun e => decide (pkAddr q ≤ e.1 * 8 ∧ e.1 * 8 < pkAddr q + n))
    let t1 := t.writeMem (meshAt s.now) (pkAddr q) (addRows r.etype (Memory.readN t.mem (pkAddr q) n) q.data)
    let t2 := (old.foldl (fun t e => t.addPoison [e.1] e.2) t1).addPoison (q.bad.map (fun w => pkAddr q / 8 + w)) true
    let c1 := { c with arrived := c.arrived + pkCnt q,
                       mode := if c.arrived + pkCnt q = c.expected then .complete else c.mode }
    (((s.setTile p (t2.setRing k { r with slots := smPut r.slots j c1 })).countRing 1 (pkCnt q)).sendAck q).ringWake p

/-- ADD (R210, R272, R273): a contribution to a slot that is being zeroed is held until the zeroing ends. -/
def execAdd (pkt : Pkt) (s : State) : Res :=
  arriveAt pkt (pkKind pkt == pkAdd && pkInRange pkt) (fun p s =>
    let t := s.tile p
    let k := pkRing pkt
    let r := t.ring k
    let j := r.slotAt (pkAddr pkt)
    if r.kind ≠ rkCombining ∨ pkAddr pkt < r.base ∨ r.slotCount ≤ j then s
    else if (r.comb j).mode = .zeroing then
      s.setTile p (t.setRing k { r with slots := smPut r.slots j { r.comb j with held := (r.comb j).held ++ [pkt] } })
    else s.addPacket p pkt) s

/- ### Acknowledgements -/

/-- A thimble register awaits an ACK from the sender of one. -/
def ThimSt.awaits (h : ThimSt) (q : Pkt) : Bool := decide (0 < h.acks) && (match q.relay with
  | some w => h.remote && h.dev == rlDdev w && h.tile == rlDtile w
  | none => !h.remote && h.tile == pkSrc q)

/-- The register of a WRITE or a MSG whose ACK an ACK can be (R195, R200): TAG is its number, and RING that of a MSG's ring, 0 for
a WRITE. -/
def Tile.ackSend (t : Tile) (q : Pkt) : Option Nat := (List.range 8).find? (fun k =>
  let h := t.thim k
  k == pkTag q && h.awaits q && (h.form == rkMessage && h.ring == pkRing q || h.form == rkWindow && pkRing q == 0))

/-- The register of an ADD whose ACK an ACK can be (R195, R200): TAG is its round, and RING its ring. -/
def Tile.ackAdd (t : Tile) (q : Pkt) : Option Nat := (List.range 8).find? (fun k =>
  let h := t.thim k
  h.awaits q && h.form == rkCombining && h.round == pkTag q && h.ring == pkRing q)

/-- The register that an ACK completes (R200). Where it can be that of a WRITE and that of an ADD, CNT tells.
(DESIGN CHOICE, log entry 74) -/
def Tile.ackReg (t : Tile) (q : Pkt) : Option Nat :=
  if pkCnt q = 0 then (t.ackSend q).orElse (fun _ => t.ackAdd q) else (t.ackAdd q).orElse (fun _ => t.ackSend q)

/-- A merging router frees its entry and sends one ACK to each recorded source (R209).
(DEDUCED, log entry 35) -/
def State.fanOut (s : State) (p : Nat) (q : Pkt) : State :=
  let mine := fun (m : MergeEnt) => m.router == p && m.mid == pkMid q
  let s1 := { s with fab := { s.fab with merges := s.fab.merges.filter (fun m => !mine m) } }
  (s.fab.merges.filter mine).foldl (fun s m => m.parts.foldl (fun s x =>
    s.replyTo (pkSrc q) x (ackHdr x)) s) s1

/-- ACK (R200, R209, R265): the outstanding count falls; a register that drains becomes FREE with its last ACK. -/
def execAck (pkt : Pkt) (s : State) : Res :=
  arriveAt pkt (pkKind pkt == pkAck) (fun p s =>
    if pkMrg pkt then s.fanOut p pkt
    else
      let t := s.tile p
      match t.ackReg pkt with
      | none => s
      | some k =>
        let h := t.thim k
        let h1 := { h with acks := h.acks - 1, mode := if h.mode = .draining ∧ h.acks = 1 then .free else h.mode }
        ((s.setTile p (t.setThim k h1)).ringWake p).asyncDone p) s

/- ### Merging routers -/

/-- Two ADD packets may be merged (R209, R277). -/
def mergeable (a b : Pkt) : Bool :=
  pkDest a == pkDest b && pkAddr a == pkAddr b && pkLen a == pkLen b && pkEtype a == pkEtype b && pkRing a == pkRing b &&
    pkTag a == pkTag b && decide (pkCnt a + pkCnt b ≤ 255) && a.relay.isNone && b.relay.isNone

/-- The lowest free entry of a router's merge table of 16. -/
def State.freeMid (s : State) (router : Nat) : Option Nat :=
  (List.range 16).find? (fun i => !s.fab.merges.any (fun m => m.router == router && m.mid == i))

/-- A merging router checks the header of a packet that it queues (R196). -/
def State.checkAt (s : State) (router : Fin 6336) (q : Pkt) : State :=
  if pkChecks q then s else s.dropPacket { q with seenAt := some router }

/-- A packet can be a part of a merge: an ADD whose header check holds and which has come from its source in order. -/
def State.partOk (s : State) (q : Pkt) : Bool := pkKind q == pkAdd && pkSized q && pkChecks q && s.inOrder (soundPkt q)

/-- ADD_MERGE (R196, R209, R210): the earlier-queued packet is the left operand. A packet whose header check fails is
discarded there, and packets that are no two ADD packets to merge are left as they are.
(DEDUCED, log entry 35) -/
def execAddMerge (router : Fin 6336) (a b : Pkt) (s : State) : Res :=
  if !pkChecks a || !pkChecks b then .next ((s.checkAt router a).checkAt router b)
  else .next (
    match s.logicalOf router.val, s.freeMid router.val with
    | some own, some mid =>
      if s.on Reg.MN_FAB_CTL_MERGE_EN ∧ mergeable a b = true ∧ s.partOk a = true ∧ (s.land (soundPkt a)).partOk b = true then
        let s1 := (((s.land (soundPkt a)).land (soundPkt b)).countPart a own).countPart b own
        let h := { pkFields a with cnt := pkCnt a + pkCnt b, src := own, mrg := true, mid := mid }
        let m : MergeEnt := { router := router.val, mid := mid, parts := [a, b] }
        State.emit { s1 with fab := { s1.fab with merges := s1.fab.merges ++ [m] } }
          (.packet { hdr := h.word, relay := none, data := addRows (pkEtype a) a.data b.data,
                     bad := a.bad ++ b.bad.filter (fun w => !a.bad.contains w) })
      else s
    | _, _ => s)

/- ### X dies -/

/-- The request that an X die answers on behalf of a device it cannot reach (R276, R277, R278): a thimble request or a
remote read. -/
def pkAsks (q : Pkt) : Bool := (pkKind q == pkThimble && pkSub q == suRequest) || pkKind q == pkRdreq

/-- An X die answers a request for the far end; other packets are lost.
(DEDUCED, log entry 36) -/
def State.xAnswer (s : State) (x : Nat) (q : Pkt) (sub : Nat) : State :=
  if pkAsks q then
    match q.relay with
    | some w => s.emit (.packet { hdr := { kind := pkThimble, dest := if rlSdev w = s.devId.toNat then rlStile w else xCode x,
                                           src := xCode x, tag := pkTag q, ring := pkRing q, sub := sub : PktHdr }.word,
                                  relay := some (relayBack w), data := [], bad := [] })
    | none => s
  else s

/-- The link of an X die whose receive buffer holds a packet. -/
def State.heldBy (s : State) (x : Nat) (q : Pkt) : Option Nat :=
  (List.range 36).find? (fun n => s.xOf n == x && (s.link n).rxPkts.contains q)

/-- A packet of a link's receive buffer can be taken: of its VC it is the first there (R277). -/
def LinkSt.isHead (l : LinkSt) (q : Pkt) : Bool := l.rxPkts.find? (fun f => pkVc f == pkVc q) == some q

/-- A packet that an X die takes from a link's receive buffer frees its place there (R334). -/
def LinkSt.takePkt (l : LinkSt) (q : Pkt) : LinkSt :=
  { l with rxPkts := l.rxPkts.erase q, freed := modNth l.freed (pkVc q) (fun c => (c + pkWire q) % 2 ^ 24) }

/-- An X die takes a packet, from a link's receive buffer or from the fabric, where it is the first of its way there (R199,
R277). -/
def State.takeAtX (s : State) (x : Nat) (q : Pkt) : Option State :=
  match s.heldBy x q with
  | some n => if (s.link n).isHead q then some (s.modLink n (fun l => l.takePkt q)) else none
  | none => if s.inOrder (soundPkt q) then some (s.takePacket q) else none

/-- A packet whose check fails at an X die is discarded there (R196, R276): one from a link frees its place. -/
def State.dropAtX (s : State) (x : Nat) (q : Pkt) : State :=
  match s.heldBy x q with
  | some n =>
    ((s.modLink n (fun l => l.takePkt q)).flag Reg.MN_FAB_STAT_HDR_ERR).bump Reg.MN_FAB_STAT_DROPS 1
  | none => s.dropPacket q

/-- PACKET_FORWARD (R276–R278, R335, R336): an X die refuses, injects or sends on a relayed packet. One without a relay word
carries zeros in its place, to which RCHK does not fit (R276), and is discarded.
(DEDUCED, log entry 36) -/
def execPacketForward (x : Fin 2) (pkt : Pkt) (s : State) : Res :=
  match pkt.relay, s.takeAtX x.val pkt with
  | none, _ => .next (s.dropAtX x.val pkt)
  | some w, taken =>
    if !pkChecks pkt then .next (s.dropAtX x.val pkt)
    else .next (match taken with
    | none => s
    | some s1 =>
      let dst := rlTarget w
      if pkAsks pkt ∧ pkKind pkt = pkThimble ∧ ¬ s1.on Reg.BB_CTL_REMOTE_EN then s1.xAnswer x.val pkt suRefuse
      else if dst.1 = s1.devId.toNat then
        match s1.physOf dst.2 with
        | some _ => s1.emit (.packet { pkt with hdr := { pkFields pkt with dest := dst.2, src := xCode x.val }.word })
        | none => s1.xAnswer x.val pkt suRefuse
      else match s1.routeTo dst.1 with
        | none => s1.xAnswer x.val pkt suRefuse
        | some n =>
          if s1.xOf n ≠ x.val then
            s1.emit (.packet { pkt with hdr := { pkFields pkt with dest := xCode (1 - x.val), src := xCode x.val }.word })
          else if s1.linkUp n ∨ s1.lkState n = lkRetrain then
            (s1.modLink n (fun l => { l with pktQ := l.pktQ ++ [pkt] })).countRing 2 1
          else s1.xAnswer x.val pkt suAbandoned)

/- ### Row map -/

/-- The rows per die that the grade in force calls for (R6, R186). -/
def State.rowsWanted (s : State) : Nat :=
  let graded := match s.cfg with
    | some c => !c.spareMode
    | none => false
  if s.sec.gradeB || graded then 44 else 48

/-- The bad positions of a physical row, by physical column. -/
def State.badCols (s : State) (d r : Nat) : List Nat :=
  (List.range 33).filter (fun c => s.test.bad.contains (d * 1584 + r * 33 + c))

/-- A row can be enabled in the row mode in use (R211). -/
def State.rowUsable (s : State) (d r : Nat) : Bool :=
  let spare := match s.cfg with
    | some c => c.spareMode
    | none => true
  decide ((s.badCols d r).length ≤ if spare then 1 else 0)

/-- The row map satisfies R213: every die has the rows that its grade calls for, and in 44-row operation they are its
lowest-numbered usable ones. -/
def State.mapOk (s : State) : Bool :=
  (List.range 4).all (fun d => (s.enabledRows d).length == s.rowsWanted &&
    (s.rowsWanted == 48 || s.enabledRows d == ((List.range 48).filter (s.rowUsable d)).take 44))

/-- The row map with a row's MODE and BAD replaced. -/
def State.setRow (s : State) (d r v : Nat) : State :=
  { s with fab := { s.fab with rows := smSet s.fab.rows (d * 48 + r) v 0 } }

/-- The logical tiles that a spare claim moves one position east (R214). -/
def State.movedBy (s : State) (d r bad : Nat) : List Nat :=
  (List.range (32 - bad)).filterMap (fun i => s.logicalOf (d * 1584 + r * 33 + bad + i))

/-- A position enters the bad-position record of the NVM, which holds 64 (R474). -/
def State.recordBad (s : State) (p : Nat) : State :=
  if s.test.nvm.contains p then s
  else if s.test.nvm.length < 64 then { s with test := { s.test with nvm := s.test.nvm ++ [p] } }
  else s.flag Reg.BI_NVREC_FULL

/-- A spare claim takes effect (R213, R214, R474): the bad column is marked and recorded, and the tiles that moved are
noted. -/
def State.claimSpare (s : State) (d r bad : Nat) : State :=
  let m := s.movedBy d r bad
  let s1 := (s.setRow d r (1 + 4 * bad)).recordBad (d * 1584 + r * 33 + bad)
  { s1 with fab := { s1.fab with moved := s1.fab.moved ++ m },
            test := { s1.test with bad := (d * 1584 + r * 33 + bad) :: s1.test.bad } }

/-- Staged spare claims take effect (R213, R398).
(DEDUCED, log entry 16) -/
def State.applyStaged (s : State) : State :=
  s.fab.staged.foldl (fun s e => s.claimSpare (e.1 / 48) (e.1 % 48) e.2)
    { s with fab := { s.fab with staged := [] } }

/-- ROW_MAP_WRITE (R213, R215): a write of `MN_FAB_ROW` for the row that `MN_FAB_ROWSEL` selects.
(DEDUCED, log entry 16) -/
def execRowMapWrite (value : Word32) (s : State) : Res :=
  let d := s.rd Reg.MN_FAB_ROWSEL_DIE
  let r := s.rd Reg.MN_FAB_ROWSEL_PROW
  let mode := value.toNat % 4
  let bad := bitsOf value.toNat 7 2
  let refuse := s.flag Reg.MN_FAB_STAT_MAP_ERR
  .next (
    if 48 ≤ r then s
    else
      let claim : Bool := mode == 1 && s.rowMode d r == 0
      if mode = 3 ∨ (mode = 1 ∧ (32 ≤ bad ∨ (s.badCols d r).contains 32)) ∨
          s.fab.staged.any (fun e => e.1 == d * 48 + r) then refuse
      else if s.phase = phIdle then
        if s.jobState = jbEmpty then
          let s1 := if claim then s.claimSpare d r bad else s.setRow d r (mode + 4 * bad)
          if s1.mapOk then s1 else refuse
        else if claim then s.claimSpare d r bad
        else refuse
      else if s.phase = phHem ∧ ¬ s.on Reg.TK_STAT_LAST_COMMIT ∧ claim = true then
        { s with fab := { s.fab with staged := s.fab.staged ++ [(d * 48 + r, bad)] } }
      else refuse)

end Sys2Proof.Machine
end

