-- ==== Sys2Proof/Machine/Fp.lean ====
section
/-! DEFINITION. The arithmetic of Harvest (R367): FP64 sums, products, quotients and square roots, the correctly rounded
quotients and square roots of FP32, and matrices of FP32 values. -/

namespace Sys2Proof.Machine

/- ### FP64 -/

def fp64 (w : Nat) : Num := fmtFP64.decode w

def rne64 (x : Num) : Nat := fmtFP64.rne x

def add64 (a b : Nat) : Nat := rne64 ((fp64 a).add (fp64 b))

def sub64 (a b : Nat) : Nat := rne64 ((fp64 a).add (fp64 b).negate)

def mul64 (a b : Nat) : Nat := rne64 ((fp64 a).mul (fp64 b))

/-- An integer as FP64. -/
def nat64 (n : Nat) : Nat := rne64 (.fin false n 0)

/-- The quotient of two values, rounded to nearest even onto a format. -/
def FFmt.quot (f : FFmt) : Num → Num → Nat
  | .fin a m e, .fin b n g =>
    if n = 0 then (if m = 0 then f.nanCode else f.infCode (a != b))
    else (
      let c := f.roundMag .rne 0 m n (e - g)
      if c ≤ f.maxCode then f.signed (a != b) c else f.infCode (a != b))
  | .inf a, .fin b _ _ => f.infCode (a != b)
  | .fin a _ _, .inf b => f.signed (a != b) 0
  | _, _ => f.nanCode

def div64 (a b : Nat) : Nat := fmtFP64.quot (fp64 a) (fp64 b)

/-- The bits of the integer square root of `n`, from bit `i` down. -/
def isqrtFrom (n : Nat) : Nat → Nat → Nat
  | 0, r => r
  | i + 1, r =>
    let r1 := r + 2 ^ i
    isqrtFrom n i (if r1 * r1 ≤ n then r1 else r)

/-- The integer square root, rounded down. -/
def isqrt (n : Nat) : Nat := isqrtFrom n (n.log2 / 2 + 1) 0

/-- The square root of a value, rounded to nearest even onto a format: the root of m × 4^k with a last bit that says
whether it is inexact. -/
def FFmt.root (f : FFmt) : Num → Nat
  | .nan => f.nanCode
  | .inf n => if n then f.nanCode else f.infCode false
  | .fin n m e =>
    if m = 0 then f.signed n 0
    else if n then f.nanCode
    else
      let m1 := if e % 2 = 0 then m else 2 * m
      let e1 := if e % 2 = 0 then e else e - 1
      let k := 2 * (f.mb + 4)
      let big := m1 * 2 ^ k
      let r := isqrt big
      f.rne (.fin false (2 * r + (if r * r = big then 0 else 1)) (e1 / 2 - (f.mb + 4) - 1))

def sqrt64 (a : Nat) : Nat := fmtFP64.root (fp64 a)

def sqrt32 (a : Nat) : Nat := fmtFP32.root (fp32 a)

/-- An FP32 value as FP64, exact. -/
def wide64 (a : Nat) : Nat := rne64 (fp32 a)

/-- An FP64 value rounded to FP32. -/
def thin32 (a : Nat) : Nat := rne32 (fp64 a)

def one32 : Nat := 0x3F800000
def one64 : Nat := 0x3FF0000000000000

def neg32 (a : Nat) : Nat := rne32 (fp32 a).negate

def sub32 (a b : Nat) : Nat := rne32 ((fp32 a).add (fp32 b).negate)

/-- rne32(1 − β) of R367. -/
def oneMinus (b : Nat) : Nat := sub32 one32 b

def finite32 (a : Nat) : Bool := (fp32 a).isFin

def finite64 (a : Nat) : Bool := (fp64 a).isFin

/-- Sum of the squares of FP32 values in FP64, in ascending order of the index (R367, R368). -/
def sumSq (l : List Nat) : Nat := l.foldl (fun s x => add64 s (mul64 (wide64 x) (wide64 x))) 0

/- ### Matrices -/

/-- A matrix of FP32 values by rows. -/
abbrev Mat := List (List Nat)

def mat (r c : Nat) (f : Nat → Nat → Nat) : Mat := (List.range r).map (fun i => (List.range c).map (f i))

def Mat.get (a : Mat) (i j : Nat) : Nat := nth (nth a i []) j 0

/-- An element of a product: fma in ascending index order from +0 (R367). -/
def dot (k : Nat) (f g : Nat → Nat) : Nat := (List.range k).foldl (fun s i => fma32 (f i) (g i) s) 0

def matMul (r k c : Nat) (a b : Mat) : Mat := mat r c (fun i j => dot k (fun x => a.get i x) (fun x => b.get x j))

/-- a × aᵀ, and aᵀ × a. -/
def gramRows (r c : Nat) (a : Mat) : Mat := mat r r (fun i j => dot c (fun x => a.get i x) (fun x => a.get j x))
def gramCols (r c : Nat) (a : Mat) : Mat := mat c c (fun i j => dot r (fun x => a.get x i) (fun x => a.get x j))

/- ### Roots (R369) -/

/-- The state of the coupled Newton iteration: X, M, and the iterations done. -/
structure RootSt where
  x : Mat
  m : Mat
  iters : Nat
  done : Bool
deriving DecidableEq, Repr

/-- Every element of M − I is at most 2^−tol in magnitude. -/
def nearOne (n tol : Nat) (m : Mat) : Bool :=
  (List.range n).all (fun i => (List.range n).all (fun j =>
    match fp32 (sub32 (m.get i j) (if i = j then one32 else 0)) with
    | .fin _ k e => !finLt false 1 (-(tol : Int)) false k e
    | _ => false))

/-- One pass of the iteration for the inverse p-th root, p = 2 or 4. -/
def rootStep (p n tol : Nat) (r : RootSt) : RootSt :=
  let inv := if p = 4 then 0x3E800000 else 0x3F000000
  let top := add32 one32 inv
  let mi := mat n n (fun i j => if i = j then fma32 (neg32 inv) (r.m.get i j) top else mul32 (neg32 inv) (r.m.get i j))
  let x := matMul n n n r.x mi
  let m2 := matMul n n n mi mi
  let mp := if p = 4 then matMul n n n m2 m2 else m2
  let m := matMul n n n mp r.m
  ⟨x, m, r.iters + 1, nearOne n tol m⟩

/-- At most `fuel` passes, until the tolerance is met. -/
def rootLoop (p n tol : Nat) : Nat → RootSt → RootSt
  | 0, r => r
  | fuel + 1, r =>
    let r1 := rootStep p n tol r
    if r1.done then r1 else rootLoop p n tol fuel r1

/-- The inverse p-th root of a side S with damping ε: the root, whether it succeeded, and the iterations. -/
def inverseRoot (p n iters tol eps : Nat) (s : Mat) : Mat × Bool × Nat :=
  let a := mat n n (fun i j => if i = j then fma32 eps one32 (s.get i j) else s.get i j)
  let norm := sqrt64 (sumSq a.flatten)
  let z := thin32 (div64 (nat64 (1 + p)) (mul64 (nat64 2) norm))
  let x0 := if p = 4 then sqrt32 (sqrt32 z) else sqrt32 z
  let r := rootLoop p n tol iters
    ⟨mat n n (fun i j => if i = j then x0 else 0), mat n n (fun i j => mul32 z (a.get i j)), 0, false⟩
  let fin := r.x.all (fun l => l.all finite32) && r.m.all (fun l => l.all finite32)
  (r.x, r.done && fin, r.iters)

end Sys2Proof.Machine
end

