-- ==== Sys2Proof/Machine/Gddr.lean ====
section
/-! DEFINITION. GDDR7 (R295–R304): the halves of the M dies, the bank map that views go through (R353), and reads and
writes through the check path. -/

namespace Sys2Proof.Machine

/-- The addressable half of an M die: 63 GiB (R295). -/
def halfBytes : Nat := 0xFC0000000

def halfBase (m : Nat) : Nat := halfBytes * m

/-- The M die that holds a device address. -/
def dieOf (a : Nat) : Option Nat := if a < halfBytes then some 0 else if a < 2 * halfBytes then some 1 else none

/-- A range of device addresses lies in the half of an M die. -/
def inHalf (m a n : Nat) : Bool := decide (halfBase m ≤ a ∧ a + n ≤ halfBase m + halfBytes)

def State.hv (s : State) (m : Nat) : HarvestSt := nth s.harvest m {}

def State.modHv (s : State) (m : Nat) (f : HarvestSt → HarvestSt) : State := { s with harvest := modNth s.harvest m f }

def State.modMdie (s : State) (m : Nat) (f : MDieSt → MDieSt) : State := { s with mdies := modNth s.mdies m f }

/-- The generation bit of a TID (R353). -/
def HarvestSt.genOf (h : HarvestSt) (t : Nat) : Bool := h.gen.contains t

/-- The storage of a device address (R353): a banked page and its partner swap places while the generation is 1. -/
def State.storage (s : State) (a : Nat) : Nat :=
  match dieOf a with
  | none => a
  | some m =>
    let h := s.hv m
    let off := s.rd (Reg.HV_BOFF_PAGES m)
    let page := (a - halfBase m) / 65536
    match smFind h.banked page with
    | some t => if h.genOf t then a + 65536 * off else a
    | none =>
      if off ≤ page then
        match smFind h.banked (page - off) with
        | some t => if h.genOf t then a - 65536 * off else a
        | none => a
      else a

/-- Bytes of GDDR7 in the view of their addresses, without the check path.
(DESIGN CHOICE, log entry 7) -/
def State.view (s : State) (a n : Nat) : List Byte := (List.range n).map (fun i => Memory.read s.mem (s.storage (a + i)))

/-- The 256 B blocks of storage that a range touches. -/
def State.blocksOf (s : State) (a n : Nat) : List Nat :=
  if n = 0 then [] else (List.range ((a + n - 1) / 256 - a / 256 + 1)).map (fun i => s.storage ((a / 256 + i) * 256) / 256)

/-- A persistent error is counted, and the first one is recorded (R299, R302).
(DEDUCED, log entry 38) -/
def State.recordPersist (s : State) (b : Nat) (patrol write : Bool) : State :=
  match dieOf (b * 256) with
  | none => s
  | some m =>
    let s1 := s.bump (Reg.MM_CNT_CRC_PERSIST m) 1
    if s1.on (Reg.MM_ERR_HI_VALID m) then s1
    else
      let a := b * 256
      ((((s1.wr (Reg.MM_ERR_LO_ADDR m) a).wr (Reg.MM_ERR_HI_ADDR m) (a / 2 ^ 32)).wr (Reg.MM_ERR_HI_PATROL m)
        (b2n patrol)).wr (Reg.MM_ERR_HI_WRITE m) (b2n write)).flag (Reg.MM_ERR_HI_VALID m)

/- ### Check words -/

/-- The 256 bytes of a block of storage. -/
def State.blockBytes (s : State) (b : Nat) : List Byte := (List.range 256).map (fun i => Memory.read s.mem (b * 256 + i))

/-- The CRC-32C of a block's bytes and its address [39:8] (R297). -/
def blockCrc (b : Nat) (bs : List Byte) : Nat := crc32c (bs ++ natLe b 4)

/-- The check word of a block as it is stored (R297, R300): that of a poisoned block has bit 0 inverted. -/
def State.checkWord (s : State) (b : Nat) : Nat := blockCrc b (s.blockBytes b) ^^^ b2n (s.poison.contains b)

/-- A number with bits of it inverted; the bits are numbered from `base`. -/
def flipBits (base width : Nat) (fs : List (Fin 2080)) (x : Nat) : Nat :=
  (fs.filter (fun f => decide (base ≤ f.val ∧ f.val < base + width))).foldl (fun x f => x ^^^ 2 ^ (f.val - base)) x

/-- The re-issues that a transfer may take (R298). -/
def State.lretry (s : State) (m : Nat) : Nat := max 1 (s.rd (Reg.MM_CTL_LRETRY m))

/-- What one try of reading a block finds (R297, R298, R300): its bytes and whether it is poisoned; nothing where the transfer
fails to the end or the check word does not fit. -/
def State.tryBlock (s : State) (m b : Nat) (t : MemTry) : Option (List Byte × Bool) :=
  if s.lretry m < t.link then none
  else if t.flips = [] then some (s.blockBytes b, s.poison.contains b)
  else
    let bs := (s.blockBytes b).zipIdx.map (fun e => BitVec.ofNat 8 (flipBits (8 * e.2) 8 t.flips e.1.toNat))
    let w := flipBits 2048 32 t.flips (s.checkWord b)
    if w = blockCrc b bs then some (bs, false)
    else if w = blockCrc b bs ^^^ 1 then some (bs, true)
    else none

/-- What reading a block comes to (R298, R299): what the try that fits finds, none with a persistent error; the link re-issues;
and the tries that failed before. -/
structure BlockRead where
  found : Option (List Byte × Bool)
  link : Nat
  failed : Nat
deriving DecidableEq, Repr

def State.readTries (s : State) (m b : Nat) : List MemTry → BlockRead
  | [] => ⟨none, 0, 0⟩
  | t :: ts => match s.tryBlock m b t with
    | some x => ⟨some x, min t.link (s.lretry m), 0⟩
    | none =>
      let r := s.readTries m b ts
      { r with link := r.link + min t.link (s.lretry m), failed := r.failed + 1 }

/-- The tries of an access to a block: the first, and up to three more (R299). -/
def envTries (env : MemEnv) (write : Bool) (b : Nat) : List MemTry :=
  let ts := match env.errs.find? (fun e => e.block == b && e.write == write) with
    | some e => e.tries
    | none => []
  (ts ++ List.replicate 4 ⟨0, []⟩).take 4

/-- A block of storage is read. -/
def State.readBlock (s : State) (env : MemEnv) (m b : Nat) : BlockRead := s.readTries m b (envTries env false b)

/-- The link re-issues of an access are counted (R298). -/
def State.countLink (s : State) (m n : Nat) : State := if n = 0 then s else s.bump (Reg.MM_CNT_LINK_COUNT m) n

/-- A persistent error opens a fault where the access belongs to a step of the job (R299). -/
def State.persistFault (s : State) (opens write : Bool) (b : Nat) : State :=
  let s1 := s.recordPersist b false write
  if opens then s1.openFault (s1.faultRec 3 1) else s1

/-- A read of a block that the zeroing engine may not have passed yet (R304): how many blocks of its range the engine has
passed since it was last seen is a free value, and the read counts where the block is not among them.
(DESIGN CHOICE, log entry 13; DEDUCED, log entry 38) -/
def State.readPending (s : State) (m b : Nat) : State :=
  let here := fun (r : Nat × Nat) => decide (r.1 ≤ b ∧ b < r.1 + r.2)
  if (nth s.mdies m {}).zero.any here then
    let d := s.draw
    let s1 := d.2.modMdie m (fun x => { x with
      zero := x.zero.map (fun r => if here r then (r.1 + d.1 % (r.2 + 1), r.2 - d.1 % (r.2 + 1)) else r) })
    if (nth s1.mdies m {}).zero.any here then s1.bump (Reg.MM_ZCTL_RD_PEND m) 1 else s1
  else s

/-- The counts of a block that is read through its check word (R298–R300, R304): link re-issues, failures that a re-read cured,
stored poison, and a persistent error, which is recorded; a read, but no merge of a write, counts a block that waits to be
zeroed.
(DEDUCED, log entry 38) -/
def State.checkBlock (s : State) (env : MemEnv) (opens write : Bool) (b : Nat) : State :=
  match dieOf (b * 256) with
  | none => s
  | some m =>
    let r := s.readBlock env m b
    let s1 := s.countLink m r.link
    let s2 := match r.found with
      | none => s1.persistFault opens write b
      | some (_, true) => s1.bump (Reg.MM_CNT_CRC_POISON m) 1
      | some (_, false) => if r.failed = 0 then s1 else s1.bump (Reg.MM_CNT_CRC_TRANSIENT m) 1
    if write then s2 else s2.readPending m b

/-- A block is delivered poisoned (R299, R300). -/
def State.blockBad (s : State) (env : MemEnv) (b : Nat) : Bool := match dieOf (b * 256) with
  | none => s.poison.contains b
  | some m => match (s.readBlock env m b).found with
    | none => true
    | some x => x.2

/-- A byte of storage as the read of its block delivers it. -/
def State.byteRead (s : State) (env : MemEnv) (x : Nat) : Byte :=
  let stored := Memory.read s.mem x
  match dieOf x with
  | none => stored
  | some m => match (s.readBlock env m (x / 256)).found with
    | some y => nth y.1 (x % 256) stored
    | none => stored

/-- The bytes of a range as they are delivered. -/
def State.bytesRead (s : State) (env : MemEnv) (a n : Nat) : List Byte :=
  if env.errs = [] then s.view a n else (List.range n).map (fun i => s.byteRead env (s.storage (a + i)))

/-- A read through the check path: the bytes, the 8 B words of the range that are poisoned, and the state after it. -/
def State.memRead (s : State) (env : MemEnv) (opens : Bool) (a n : Nat) : List Byte × List Nat × State :=
  let bad := (List.range ((n + 7) / 8)).filter (fun w => s.blockBad env (s.storage (a + 8 * w) / 256))
  (s.bytesRead env a n, bad, (s.blocksOf a n).foldl (fun s b => s.checkBlock env opens false b) s)

/-- What an engine fetches for itself, which it does not use where a block of it is poisoned.
(DESIGN CHOICE, log entry 75) -/
def State.fetchMem (s : State) (env : MemEnv) (a n : Nat) : Option (List Byte) × State :=
  let r := s.memRead env true a n
  (if r.2.1 = [] then some r.1 else none, r.2.2)

/-- Bytes are written to storage in the view of their addresses. -/
def State.putBytes (s : State) (a : Nat) (bs : List Byte) : State :=
  { s with mem := (bs.zipIdx).foldl (fun m e => Memory.write m (s.storage (a + e.2)) e.1) s.mem }

def State.setPoison (s : State) (b : Nat) (on : Bool) : State :=
  { s with poison := if on then (if s.poison.contains b then s.poison else b :: s.poison) else s.poison.filter (· != b) }

/-- The tries of the transfer of a write to the device: whether one succeeds, and the link re-issues (R298). -/
def State.writeTries (s : State) (m : Nat) : List MemTry → Bool × Nat
  | [] => (false, 0)
  | t :: ts =>
    if t.link ≤ s.lretry m then (true, t.link)
    else
      let r := s.writeTries m ts
      (r.1, r.2 + s.lretry m)

/-- A block is written to its device: a transfer that fails in every try is a persistent error, and leaves the block poisoned.
The spec says no more of it than that it is handled as a check failure (R298).
(DESIGN CHOICE, log entry 75) -/
def State.sendBlock (s : State) (env : MemEnv) (opens : Bool) (b : Nat) : State := match dieOf (b * 256) with
  | none => s
  | some m =>
    let r := s.writeTries m (envTries env true b)
    let s1 := s.countLink m r.2
    if r.1 then s1 else (s1.setPoison b true).persistFault opens true b

/-- The part of a write that falls in one 256 B block (R297, R299, R300): a whole block is written anew; a part is merged
after the block has been checked, and what was poisoned stays so. `bad` lists the poisoned 8 B words of the data. -/
def State.writeBlock (s : State) (env : MemEnv) (opens : Bool) (a : Nat) (bs : List Byte) (bad : List Nat) : State :=
  let b := s.storage a / 256
  if bs.length = 256 then ((s.putBytes a bs).setPoison b (bad != [])).sendBlock env opens b
  else
    let was := s.blockBad env b
    let s1 := s.checkBlock env opens true b
    ((s1.putBytes a bs).setPoison b (was || bad != [])).sendBlock env opens b

/-- The length of the first part of a write, up to the end of its block. -/
def firstPart (a n : Nat) : Nat := min n (256 - a % 256)

/-- A write of bytes through the check path, block by block in ascending order; `bad` lists the poisoned 8 B words of the
data. -/
def writeParts (env : MemEnv) (opens : Bool) : Nat → Nat → List Byte → List Nat → State → State
  | 0, _, _, _, s => s
  | fuel + 1, a, bs, bad, s =>
    if bs = [] then s
    else
      let n := firstPart a bs.length
      writeParts env opens fuel (a + n) (bs.drop n) ((bad.filter (fun w => decide (n ≤ w * 8))).map (fun w => w - n / 8))
        (s.writeBlock env opens a (bs.take n) (bad.filter (fun w => decide (w * 8 < n))))

def State.memWrite (s : State) (env : MemEnv) (opens : Bool) (a : Nat) (bs : List Byte) (bad : List Nat) : State :=
  writeParts env opens (bs.length / 256 + 2) a bs bad s

end Sys2Proof.Machine
end

