-- ==== Sys2Proof/Machine/Time.lean ====
section
/-! DEFINITION. Almanac time: the count and its slewing, the external reference, windows of time samples, the time
states of Equinox, holdover and takeover (R18–R45), and the epoch (R38–R40, R241). -/

namespace Sys2Proof.Machine

/-- A quotient of integers rounded to the nearest integer, ties upward.
(DEDUCED, log entry 21) -/
def roundDiv (a : Int) (b : Int) : Int := (2 * a + b) / (2 * b)

/-- The interpolator moves one step of 1/64 ns toward the correction that remains (R31): at most 10 ps per µs, or 1 ps
per µs in a root (R23).
(DESIGN CHOICE, log entry 1; DEDUCED, log entry 21) -/
def State.slewTick (s : State) : State :=
  let gap := if s.isRoot then 15625 else 1563
  if s.time.slew = 0 ∨ s.now < s.time.slewAt + gap then s
  else if 0 < s.time.slew then
    { s with time := { s.time with slew := s.time.slew - 1, slewAt := s.now, phase := (s.time.phase + 1) % 64 } }
  else
    { s with time := { s.time with slew := s.time.slew + 1, slewAt := s.now, phase := (s.time.phase + 63) % 64 } }

/-- Cycle j of its window of 64 is suppressed under stutter n (R449). -/
def suppressed (n j : Nat) : Bool := decide (j * n / 64 < (j + 1) * n / 64)

/-- The tiles are in a compute phase (R450): cycles can be suppressed. -/
def State.computing (s : State) : Bool :=
  1 ≤ s.phase && s.phase ≤ 3 && !s.on Reg.TK_STAT_IN_SEAM

/-- The suppressed cycles of the compute dies are counted (R449, R450, R464).
(DESIGN CHOICE, log entry 1) -/
def State.stutTick (s : State) : State :=
  if s.power.stutter = [0, 0, 0, 0] ∨ s.computing = false then s
  else { s with power := { s.power with
    suppressed := s.power.suppressed + s.power.stutter.countP (fun n => suppressed n (s.now % 64)) } }

/-- One nanosecond of AT passes; in state OFF AT does not run (R35).
(DESIGN CHOICE, log entry 1) -/
def State.tick (s : State) : State :=
  if s.tstate = tsOff then s
  else ({ s with now := (s.now + 1) % 2 ^ 64 }).slewTick.stutTick

/- ### Choosing and losing a parent -/

/-- Peer `a` comes before peer `b` in the order of R36: newest generation, then smallest depth; the lower link number
decides by the order of the search. -/
def treeBetter (a b : TreeField) : Bool := genNewer a.gen b.gen || (a.gen == b.gen && decide (a.depth < b.depth))

/-- The silence after which the parent is lost, in ns (`AT_LIMIT.PARENT_LOSS`, 1 to 255 µs). The spec does not say what 0
does: it acts as 1 here.
(DESIGN CHOICE, log entry 66) -/
def State.parentLossNs (s : State) : Nat := 1000 * clamp 1 255 (s.rd Reg.AT_LIMIT_PARENT_LOSS)

/-- No time fields have come on a link for `AT_LIMIT.PARENT_LOSS` (R41, R44). -/
def State.silent (s : State) (n : Nat) : Bool := decide ((s.link n).lastTime + s.parentLossNs ≤ s.now)

/-- The best of the links that satisfy a condition, in the order of R36. The peer of a silent link advertises nothing.
(DEDUCED, log entry 67) -/
def State.bestLink (s : State) (ok : TreeField → Bool) : Option Nat :=
  s.upLinks.foldl (fun best n =>
    if ok (s.link n).tree && !s.silent n then
      match best with
      | none => some n
      | some b => if treeBetter (s.link n).tree (s.link b).tree then some n else some b
    else best) none

/-- A candidate for a new parent in HOLDOVER (R42, step 4). -/
def State.holdCandidate (s : State) (t : TreeField) : Bool :=
  t.qualifies && (genNewer t.gen s.time.holdGen || (t.gen == s.time.holdGen && decide (t.depth ≤ s.time.holdDepth)))

/-- A link becomes the parent, and is no child link any more (R383); a window on it starts anew, and no window on it has been
discarded yet (R41). -/
def State.setParent (s : State) (n : Nat) : State :=
  let s1 := { s with time := { s.time with badWindows := 0 } }
  ((s1.wr Reg.AT_STAT_PARENT n).modLink n (fun l => { l with samples := [], winSince := s.now, foldOk := false })).refresh

def State.noParent (s : State) : State := s.wr Reg.AT_STAT_PARENT 63

/-- A candidate takes the place of the parent that HOLDOVER has chosen: the parent is no candidate any more, or the order of
R36 puts the other one first.
(DEDUCED, log entry 67) -/
def State.betterParent (s : State) (n : Nat) : Bool := match s.parent with
  | none => true
  | some p => n != p && (!s.linkUp p || s.silent p || !s.holdCandidate (s.link p).tree ||
      treeBetter (s.link n).tree (s.link p).tree)

/-- Choose a parent if the state calls for one: in MEASURE by the order of R36, in HOLDOVER among the candidates of
R42. -/
def State.chooseParent (s : State) : State :=
  if s.tstate = tsMeasure then
    match s.bestLink TreeField.qualifies with
    | some n => if s.parent = some n then s else s.setParent n
    | none => s
  else if s.tstate = tsHoldover then
    match s.bestLink s.holdCandidate with
    | some n => if s.betterParent n then s.setParent n else s
    | none => s
  else s

/-- Enter MEASURE: every link's windows count anew, and a parent is chosen among the peers. -/
def State.enterMeasure (s : State) : State :=
  let s1 := ((s.wr Reg.AT_STAT_STATE tsMeasure).noParent)
  let s2 := { s1 with links := s1.links.map (fun (e : Nat × LinkSt) => (e.1, { e.2 with windows := 0 })),
                      time := { s1.time with windows := 0, badWindows := 0, alignRun := 0, slew := 0 } }
  s2.chooseParent.refresh

/-- The mean of the PLL words of the last 16 accepted windows (R42). -/
def meanFreq (l : List Int) (d : Int) : Int := if l = [] then d else roundDiv (l.foldl (· + ·) 0) l.length

/-- Enter HOLDOVER (R42): the PLL word is frozen at its mean, the interpolator keeps its setting, and a new parent is
looked for, a preferred one first. The depth and the generation that the device goes on advertising are those that it held
(R36): the ones that `AT_STAT.DEPTH` and `AT_EPOCH.GEN` read, whatever its parent advertises last. -/
def State.enterHoldover (s : State) (preferred : Option Nat) : State :=
  let dep := s.rd Reg.AT_STAT_DEPTH
  let gen := s.rd Reg.AT_EPOCH_GEN
  let s1 := (s.wr Reg.AT_STAT_STATE tsHoldover).noParent
  let s2 := { s1 with time := { s1.time with
    freq := meanFreq s1.time.freqHist s1.time.freq, slew := 0, holdSince := s1.now, holdDepth := dep, holdGen := gen,
    estErr := 0, elapsed := 0, badWindows := 0 } }
  match preferred with
  | some n => (s2.setParent n).refresh
  | none => s2.chooseParent.refresh

/-- A device leaves the domain for ISOLATED: its trees are abandoned and it is admitted no more (R37, R65). -/
def State.enterIsolated (s : State) : State :=
  let s1 := ((s.wr Reg.AT_STAT_STATE tsIsolated).noParent).abandonTrees s.memberMask
  ({ s1.wr Reg.TK_STAT_ADMITTED 0 with
     time := { s1.time with slew := 0, pendingAdmit := false, epochHeld := false, formSince := none } }).refresh

/-- The link is the standby manager's link to the manager (R44). -/
def State.managerLink (s : State) (n : Nat) : Bool :=
  s.rd Reg.AT_CTL_ROLE == roleStandby && s.rd (Reg.LK_MAP_PEER_DEV n) == s.managerId.toNat

/-- The standby manager takes note that its link to the manager is down or silent (R44). -/
def State.noteManagerLink (s : State) (n : Nat) : State :=
  if s.managerLink n ∧ s.time.mgrDownSince = none
  then { s with time := { s.time with mgrDownSince := some s.now } } else s

/-- The link to the manager is up and carries time fields: it is down or silent no more (R44). -/
def State.noteManagerBack (s : State) (n : Nat) : State :=
  if s.managerLink n then { s with time := { s.time with mgrDownSince := none } } else s

/-- The parent is lost (R37, R41). -/
def State.loseParent (s : State) : State :=
  if s.tstate = tsMeasure ∨ s.tstate = tsLock ∨ s.tstate = tsAlign ∨ s.tstate = tsReady then s.enterMeasure
  else if s.tstate = tsRun then s.enterHoldover none
  else if s.tstate = tsHoldover then s.noParent.chooseParent.refresh
  else s

/-- The root generation that the device follows changes: `AT_STAT.TAKEOVER` is set, and the open faults are reported to the
new root (R408). -/
def State.noteGen (s : State) (g : Nat) : State :=
  if s.rd Reg.AT_EPOCH_GEN = g % 256 then s
  else
    let s1 := (s.wr Reg.AT_EPOCH_GEN g).flag Reg.AT_STAT_TAKEOVER
    s1.rcv.opens.foldl (fun s r => s.reportFault r) s1

/-- The device holds a declared epoch (R40). -/
def State.holdsEpoch (s : State) : Bool :=
  s.tstate == tsRun || s.tstate == tsRoot || s.tstate == tsHoldover || (s.tstate == tsReady && s.time.epochHeld)

/-- The current epoch record (R322). -/
def State.epochRec (s : State) : EpochRec :=
  { num := BitVec.ofNat 16 (s.rd Reg.AT_EPOCH_NUM), gen := BitVec.ofNat 8 (s.rd Reg.AT_EPOCH_GEN),
    start := BitVec.ofNat 64 s.time.epochStart, table := BitVec.ofNat 8 s.time.table }

/-- The rank of a timing table (R236). -/
def tableRank (t : Nat) : Nat := if t = 1 then 2 else if t = 2 then 1 else 0

/-- A timing table is chosen for the domain: the device takes it as its own if its configuration record holds it (R241). -/
def State.selectTable (s : State) (t : Nat) : State :=
  let s1 := { s with time := { s.time with table := t } }
  match s1.cfg with
  | some c => if c.tables.any (fun x => x.id.toNat == t) then s1.wr Reg.SM_TT_SEL t else s1.flag Reg.SM_FLT_TT_MISSING
  | none => s1.flag Reg.SM_FLT_TT_MISSING

/-- The physical links to which a link routing table of the loaded job maps a pattern link index (R252).
(DEDUCED, log entry 45) -/
def State.patternLinks (s : State) : List Nat := match s.host.img with
  | some g => (g.routes.flatMap (fun r => r.2)).filter (fun n => decide (n < 36))
  | none => []

/-- The cable allowance in ns (R238, `SM_CFG.CABLE`; 0 acts as 1). -/
def State.cable (s : State) : Nat := max 1 (s.rd Reg.SM_CFG_CABLE)

/-- The wire delay of a link in 2^-16 ns: d less the mean of the two pipeline latencies (R235). -/
def State.wireDelay (s : State) (n : Nat) : Int := (s.link n).d - (s.link n).pipe

/-- A link's wire delay exceeds the cable allowance (R235). -/
def State.cableLong (s : State) (n : Nat) : Bool := decide ((s.cable : Int) * 65536 < s.wireDelay n)

/-- A pattern link's wire delay is compared with the cable allowance (R235). -/
def State.checkCable (s : State) (n : Nat) : State :=
  if s.patternLinks.contains n && s.cableLong n then s.flag Reg.SM_FLT_CABLE else s

/-- At admission the wire delay of every pattern link that is UP is compared (R235). -/
def State.checkCables (s : State) : State :=
  s.upLinks.foldl (fun s n => s.checkCable n) s

/-- Nothing bars the admission of this device (R235, R241, R242). -/
def State.admissible (s : State) : Bool :=
  !s.on Reg.SM_FLT_CABLE && !s.on Reg.SM_FLT_TT_MISSING && !s.on Reg.SM_FLT_TT_SLOW

/-- Boot reaches stage 8 when AT is READY, RUN or ROOT with an epoch declared (R417); the SVN fuses are then blown up to
the running versions (R491).
(DEDUCED, log entry 23) -/
def State.reachReady (s : State) : State :=
  if s.rd Reg.FW_STAT_STAGE = 7 then
    { (s.wr Reg.FW_STAT_STAGE 8).wr Reg.SC_STAT_SVN_PEND 0 with
      sec := { s.sec with fwSvn := max s.sec.fwSvn s.sec.runSvn, cfgSvn := max s.sec.cfgSvn s.sec.runCfgSvn } }
  else s

/-- A READY device that holds the epoch record enters RUN once the epoch start is reached (R37). At formation it becomes
admitted at once; a device that rejoins awaits its admission (R39, R40, R71), and one whose native table ranks above the
table in force sets TT_SLOW and waits in READY (R242). -/
def State.tryRun (s : State) (formation : Bool) : State :=
  if s.tstate = tsReady ∧ s.time.epochHeld ∧ s.time.epochStart ≤ s.now then
    if ¬ formation ∧ tableRank s.time.table < tableRank s.nativeTable then s.flag Reg.SM_FLT_TT_SLOW
    else
      let s1 := (s.wr Reg.AT_STAT_STATE tsRun).checkCables
      let s2 := if formation ∧ s1.admissible then s1.wr Reg.TK_STAT_ADMITTED 1
        else { s1 with time := { s1.time with pendingAdmit := true } }
      let n := match s.cfg with
        | some c => c.devices.length
        | none => 0
      ({ s2 with time := { s2.time with admitted := if formation then n else s2.time.admitted } }).reachReady.refresh
  else s

/- ### The epoch -/

/-- The highest-ranked native table of the devices that have reported (R241). -/
def State.bestTable (s : State) : Nat :=
  s.time.readyDevs.foldl (fun b d => if tableRank b < tableRank d.2.toNat then d.2.toNat else b) s.nativeTable

/-- The manager declares the epoch (R38): number, start, timing table (R241), and the record flooded down the tree. -/
def State.declareEpoch (s : State) : State :=
  let start := 64 * ceilDiv (s.now + 1000000) 64
  let best := s.bestTable
  let s1 := (s.wr Reg.AT_EPOCH_NUM (s.rd Reg.AT_EPOCH_NUM + 1)).selectTable best
  let s2 := { s1 with time := { s1.time with
    epochStart := start, epochHeld := true, admitted := 1 + s1.time.readyDevs.length, formSince := none } }
  let s3 := (s2.wr Reg.AT_EPOCH_START_LO_VALUE start).wr Reg.AT_EPOCH_START_HI_VALUE (start / 2 ^ 32)
  s3.floodCtl (epochPayload { s3.epochRec with table := BitVec.ofNat 8 best })

/-- The manager negotiates the timing table again at a job load (R242): the devices that waited for it are to be admitted. -/
def State.renegotiate (s : State) : State :=
  if s.bestTable = s.time.table then s
  else
    let old := tableRank s.time.table
    let new := tableRank s.bestTable
    let waiting := s.time.readyDevs.filter (fun d => decide (old < tableRank d.2.toNat ∧ tableRank d.2.toNat ≤ new))
    let s1 := s.selectTable s.bestTable
    ({ s1 with time := { s1.time with newlyAdmitted := s1.time.newlyAdmitted + waiting.length } }).floodCtl
      (epochPayload { s1.epochRec with table := BitVec.ofNat 8 s.bestTable })

/-- The epoch is declared once every configured device has reported READY (R38, step 3). -/
def State.tryDeclare (s : State) : State :=
  let others := match s.cfg with
    | some c => c.devices.filter (fun d => d != s.devId)
    | none => []
  if s.tstate = tsPending ∧ ¬ s.time.epochHeld ∧ others.all (fun d => s.time.readyDevs.any (fun r => r.1 == d)) then
    s.declareEpoch
  else s

/-- An instant of the old count, as an instant of the new one. -/
def rebased (old new x : Nat) : Nat := x + new - old

/-- The timers of a link go on when the count is set anew: what counts is the time that has passed (R26, R41).
(DEDUCED, log entry 67) -/
def LinkSt.rebase (l : LinkSt) (old new : Nat) : LinkSt :=
  let f := rebased old new
  { l with lastTime := f l.lastTime, winSince := f l.winSince, rotAt := f l.rotAt, trainSince := f l.trainSince,
           retryAt := l.retryAt.map f, crcAt := l.crcAt.map f, rsnAt := l.rsnAt.map f, nakAt := l.nakAt.map f,
           samples := [], budgets := l.budgets.map (fun b => { b with firstNak := f b.firstNak, last := f b.last }),
           winNaks := l.winNaks.map (fun k => { k with sentAt := k.sentAt.map f }),
           due := l.due.map (fun d => { d with until_ := f d.until_ }) }

/-- The count is set to an instant: the timers that count from an instant of the old count go on from the same distance.
(DEDUCED, log entry 67) -/
def State.setNow (s : State) (new : Nat) : State :=
  let f := rebased s.now new
  { s with now := new, links := s.links.map (fun e => (e.1, e.2.rebase s.now new)),
           time := { s.time with countAt := f s.time.countAt, slewAt := new, rootSeen := f s.time.rootSeen,
                                 mgrDownSince := s.time.mgrDownSince.map f },
           host := { s.host with hbAt := f s.host.hbAt, beatSince := s.host.beatSince.map f,
                                 beatLast := s.host.beatLast.map f, digestSince := s.host.digestSince.map f,
                                 scrubSince := f s.host.scrubSince,
                                 cores := s.host.cores.map (fun c => { c with
                                   armedAt := f c.armedAt, recent := c.recent.map f, thawAt := c.thawAt.map f }) },
           power := { s.power with evalAt := s.power.evalAt.map f } }

/-- The manager starts AT from the formation base and enters ROOT-PENDING (R24, R38).
(DEDUCED, log entry 23) -/
def State.startRoot (s : State) (at_ : Nat) : State :=
  let s0 := s.setNow at_
  let s1 := { s0 with time := {
    s0.time with formSince := some at_, ppsWait := false, readyDevs := [], epochHeld := false,
                                    slew := 0, slewAt := at_, countAt := at_ } }
  (((s1.wr Reg.AT_STAT_STATE tsPending).noParent).refresh).tryDeclare

/-- The formation base (R24). -/
def State.baseAt (s : State) : Nat := s.rd Reg.AT_BASE_LO_VALUE + 2 ^ 32 * s.rd Reg.AT_BASE_HI_VALUE

/-- AT_START (R37, R24, R45): in ISOLATED a manager starts AT, or waits for the first PPS edge where PPS_ALIGN is set and
the reference is present; every other device, and one that was root since the last P or W, enters MEASURE. ROLE 3 is
reserved, and the spec says nothing of it: the device starts as a worker here.
(DESIGN CHOICE, log entry 66) -/
def execAtStart (s : State) : Res :=
  .next (
    if s.tstate = tsIsolated then
      if s.rd Reg.AT_CTL_ROLE = roleManager ∧ ¬ s.time.wasRoot then
        if s.on Reg.AT_CTL_PPS_ALIGN ∧ s.time.ref10 then { s with time := { s.time with ppsWait := true } }
        else s.startRoot s.baseAt
      else s.enterMeasure
    else s)

/- ### The external reference -/

/-- A PPS edge is captured in the capture registers (R25). -/
def State.capturePps (s : State) (frac : Nat) : State :=
  ((s.wr Reg.AT_PPS_CAP_LO_VALUE s.now).wr Reg.AT_PPS_CAP_HI_VALUE (s.now / 2 ^ 32)).wr Reg.AT_PPS_FRAC_FRAC frac

/-- The distance of an instant from the nearest whole second, in 2^-16 ns, positive behind it. -/
def secondError (now frac : Nat) : Int :=
  let x : Nat := now % 1000000000
  if x < 500000000 then ((65536 * x + frac : Nat) : Int) else ((65536 * x + frac : Nat) : Int) - 1000000000 * 65536

/-- PPS_EDGE (R22–R25): the edge arrives at the current AT with a fraction; `ref10` says whether the 10 MHz input is
present and within ±5 ppm, without which no edge is accepted. A manager that waits for its first edge accepts it without
a window check, as the first of the three accepted edges that discipline takes (R22, R24). While it disciplines, the manager
also steers its PLL to the 10 MHz (R30): the word that this takes is a free value.
(DESIGN CHOICE, log entry 13; DESIGN CHOICE, log entry 17; DEDUCED, log entry 21) -/
def execPpsEdge (frac : BitVec 16) (ref10 : Bool) (s : State) : Res :=
  let s0 := { s with time := { s.time with ref10 := ref10, ppsLast := s.now } }
  .next (
    if s0.time.ppsWait then
      if ref10 then
        let at_ := 1000000000 * ceilDiv s0.baseAt 1000000000
        let s1 := ((s0.startRoot at_).bump Reg.AT_PPS_STAT_ACC 1).capturePps 0
        { s1.wr Reg.AT_STAT_REF_OK 0 with time := { s1.time with ppsLast := at_, ppsRun := 1, ppsRejRun := 0 } }
      else s0
    else if s0.isRoot then
      let e := secondError s0.now frac.toNat
      if e ≤ 100 * 65536 ∧ -(100 * 65536) ≤ e then
        if ref10 then
          let run := s0.time.ppsRun + 1
          let s1 := { s0 with time := { s0.time with ppsRun := run, ppsRejRun := 0 } }
          let s2 := (s1.bump Reg.AT_PPS_STAT_ACC 1).capturePps frac.toNat
          let s3 := if 3 ≤ run then s2.flag Reg.AT_STAT_REF_OK else s2
          if s3.on Reg.AT_STAT_REF_OK ∧ s3.on Reg.AT_CTL_DISC_EN then
            let w := s3.draw
            { w.2 with time := { w.2.time with slew := -(roundDiv e 1024), freq := ofSigned 24 w.1 } }
          else s3
        else { s0.wr Reg.AT_STAT_REF_OK 0 with time := { s0.time with ppsRun := 0, slew := 0 } }
      else
        let run := s0.time.ppsRejRun + 1
        let s1 := { s0 with time := { s0.time with ppsRun := 0, ppsRejRun := run } }
        let s2 := s1.bump Reg.AT_PPS_STAT_REJ 1
        if 3 ≤ run ∨ ref10 = false then { s2.wr Reg.AT_STAT_REF_OK 0 with time := { s2.time with slew := 0 } } else s2
    else s0.capturePps frac.toNat)

/-- PPS_TIMEOUT (R22): 2 s without an edge; the manager free-runs.
(DEDUCED, log entry 21) -/
def execPpsTimeout (s : State) : Res :=
  .next (
    if s.isRoot ∧ s.time.ppsLast + 2000000000 ≤ s.now then
      { s.wr Reg.AT_STAT_REF_OK 0 with time := { s.time with ppsRun := 0, slew := 0 } }
    else s)

/-- REF10_LOSS (R22): the 10 MHz input is absent or off by more than 5 ppm, so the reference is no longer accepted.
(DEDUCED, log entry 21) -/
def execRef10Loss (s : State) : Res :=
  let s0 := { s with time := { s.time with ref10 := false } }
  .next (
    if s0.isRoot then { s0.wr Reg.AT_STAT_REF_OK 0 with time := { s0.time with ppsRun := 0, slew := 0 } } else s0)

/-- PPS_OUT (R25): a pulse at each AT that is a multiple of a second, while it is enabled and AT runs. -/
def execPpsOut (s : State) : Res :=
  .next (
    if s.tstate ≠ tsOff ∧ s.on Reg.AT_CTL_PPS_OUT_EN ∧ s.now % 1000000000 = 0 then s.emit .pps else s)

/- ### Windows of samples -/

/-- The round trip of a sample (R29). -/
def Sample.trip (x : Sample) : Int := (x.t4 - x.t1) - (x.t3 - x.t2)

/-- The samples of a window that remain: those whose round trip exceeds the least by more than 250 ps are rejected
(R29). -/
def keptSamples (l : List Sample) : List Sample :=
  match l with
  | [] => []
  | x :: xs =>
    let m := xs.foldl (fun m y => min m y.trip) x.trip
    l.filter (fun y => decide (y.trip ≤ m + 16384))

/-- Twice the sum of the mean delays of samples, and of the raw offsets, over the samples (R26). -/
def sumDelay (l : List Sample) : Int := l.foldl (fun a x => a + ((x.t2 - x.t1) + (x.t4 - x.t3))) 0

def sumOffset (l : List Sample) : Int := l.foldl (fun a x => a + ((x.t2 - x.t1) - (x.t4 - x.t3))) 0

/-- 2,000 times the asymmetry α of a link in 2^-16 ns (R27): the pipeline latencies of both ends, and the integrator's
correction in ps, positive at the end with the lower flat ID.
(DEDUCED, log entry 21) -/
def State.alpha2000 (s : State) (n : Nat) : Int :=
  let l := s.link n
  let adj := ofSigned 16 l.ladj.toNat
  let signed := if s.devId.toNat < s.rd (Reg.LK_MAP_PEER_DEV n) then adj else -adj
  1000 * (l.ownTRx - l.peerTRx) + 2 * 65536 * signed

/-- A step of the count and the interpolator by a number of 1/64 ns (R31, ALIGN). -/
def State.stepTime (s : State) (steps : Int) : State :=
  let pos : Int := (s.now * 64 + s.time.phase : Nat) + steps
  let p := pos.toNat
  let s1 := s.setNow (p / 64)
  { s1 with time := { s1.time with phase := p % 64 } }

/-- The IDs of the timing tables that the configuration record holds (R241). -/
def State.tableIds (s : State) : List Nat := match s.cfg with
  | some c => c.tables.map (fun t => t.id.toNat)
  | none => []

/-- READY with an epoch declared is stage 8 (R417). -/
def State.reachReadyIf (s : State) : State := if s.holdsEpoch then s.reachReady else s

/-- What an accepted window of the parent does (R32, R37, R42): it measures own AT minus the parent's AT.
(DEDUCED, log entry 21) -/
def State.parentWindow (s : State) (theta : Int) (freq : Int) : State :=
  let within := decide (theta.natAbs * 100 ≤ s.rd Reg.AT_LIMIT_ALIGN * 65536)
  let s1 := { (s.wr Reg.AT_STAT_ALIGNED (b2n within)) with time := { s.time with
    theta := theta, freq := freq, freqHist := (s.time.freqHist ++ [freq]).drop (s.time.freqHist.length - 15),
    badWindows := 0 } }
  let corr := -(roundDiv theta 1024)
  if s1.tstate = tsAlign then
    let run : Nat := if within then s1.time.alignRun + 1 else 0
    let s2 := ({ s1 with time := { s1.time with alignRun := run } }).stepTime corr
    if 16 ≤ run then
      let s3 := (s2.wr Reg.AT_STAT_STATE tsReady).refresh
      let s4 := s3.sendRoot 1 (s3.nativeTable :: s3.tableIds)
      (s4.tryRun false).reachReadyIf
    else s2
  else if s1.tstate = tsReady ∨ s1.tstate = tsRun then
    { s1 with time := { s1.time with slew := corr } }
  else if s1.tstate = tsHoldover then
    if theta.natAbs * 10 ≤ s1.rd Reg.AT_LIMIT_HOLD_ERR * 65536 then
      let s2 := { s1.wr Reg.AT_STAT_STATE tsRun with time := { s1.time with
        slew := corr, elapsed := (s1.now - s1.time.holdSince) / 1000 } }
      (s2.noteGen s2.advGen).refresh
    else
      let s2 := { s1 with time := { s1.time with elapsed := (s1.now - s1.time.holdSince) / 1000 } }
      (s2.flag Reg.AT_STAT_HOLD_LIMIT).enterIsolated.openFault (s2.faultRec 2 1)
  else s1

/-- TIME_WINDOW (R26–R32): the window of a link closes after 64 samples or 65,536 ns, is filtered, and is accepted or
discarded. The device is A of its samples; what it reports is own minus peer, and α of the direction from the peer to
itself. `freq` is the PLL control word over the window, in 0.1 ppb. A discarded window leaves the run of windows within
`AT_LIMIT.ALIGN` as it is; the spec does not say whether it breaks the run. The first accepted window after a training of the
link gives the wire delay that is compared with the cable allowance (R235).
(DESIGN CHOICE, log entry 17; DEDUCED, log entry 21; DESIGN CHOICE, log entry 66) -/
def execTimeWindow (link : LinkId) (freq : Int) (s : State) : Res :=
  let n := link.val
  let l := s.link n
  .next (
    if ¬ s.linkUp n ∨ (l.samples.length < 64 ∧ s.now < l.winSince + 65536) then s
    else
      let kept := keptSamples l.samples
      let cnt := kept.length
      if cnt < 16 then
        let s1 := s.modLink n (fun l => { l with samples := [], winSince := s.now, rej := min 0xFFFF (l.rej + 1) })
        if s1.parent = some n then
          if 1 ≤ s1.time.badWindows then s1.loseParent
          else { s1 with time := { s1.time with badWindows := s1.time.badWindows + 1 } }
        else s1
      else
        let a := s.alpha2000 n
        let d := roundDiv (sumDelay kept) (2 * cnt)
        let off := roundDiv (sumOffset kept * 1000 - cnt * a) (2000 * cnt)
        let s1 := s.modLink n (fun l => { l with
          samples := [], winSince := s.now, d := d, alpha := roundDiv (-a) 2000, theta := -off, windows := l.windows + 1 })
        let s1 := if l.cableDue then (s1.modLink n (fun l => { l with cableDue := false })).checkCable n else s1
        if s1.tstate = tsMeasure then
          let s2 := (if s1.parent = some n then { s1 with time := { s1.time with badWindows := 0 } } else s1).chooseParent
          match s2.parent with
          | some p =>
            if 2 ≤ (s2.link p).windows then
              { s2.wr Reg.AT_STAT_STATE tsLock with time := { s2.time with lockSince := s2.now } }
            else s2
          | none => s2
        else if s1.parent = some n then s1.parentWindow (-off) freq
        else s1)

/- ### Timers of the time states -/

/-- LOCK_ACHIEVED (R37): 1 ms below 0.01 ppm, within 20 ms of entering LOCK. -/
def execLockAchieved (s : State) : Res :=
  .next (
    if s.tstate = tsLock ∧ s.time.lockSince + 1000000 ≤ s.now ∧ s.now ≤ s.time.lockSince + 20000000 then
      { s.wr Reg.AT_STAT_STATE tsAlign with time := { s.time with alignRun := 0 } }
    else s)

/-- LOCK_TIMEOUT (R37): not locked 20 ms after entering LOCK. -/
def execLockTimeout (s : State) : Res :=
  .next (if s.tstate = tsLock ∧ s.time.lockSince + 20000000 ≤ s.now then s.enterMeasure else s)

/-- The standby manager takes note of a silent link to the manager, be it the parent link or not (R44). -/
def State.noteSilence (s : State) : State :=
  s.upLinks.foldl (fun s n => if s.silent n then s.noteManagerLink n else s) s

/-- PARENT_LOSS_TIMEOUT (R41, R44): no time fields from the parent for `AT_LIMIT.PARENT_LOSS`, or none on the standby
manager's link to the manager. -/
def execParentLossTimeout (s : State) : Res :=
  .next (
    let s1 := s.noteSilence
    match s1.parent with
    | some n => if s1.silent n then s1.loseParent else s1
    | none => s1)

/-- HOLDOVER_TIMEOUT (R37, R43): in HOLDOVER the estimated error is taken in; 100 ms after the entry, or with an estimate
above `AT_LIMIT.HOLD_ERR`, the device enters ISOLATED with a time fault.
(DESIGN CHOICE, log entry 17) -/
def execHoldoverTimeout (estErr : BitVec 8) (s : State) : Res :=
  .next (
    if s.tstate = tsHoldover then
      let s1 := { s with time := { s.time with
        estErr := estErr.toNat, elapsed := (s.now - s.time.holdSince) / 1000 } }
      if s1.time.holdSince + 100000000 ≤ s1.now ∨ s1.rd Reg.AT_LIMIT_HOLD_ERR * 32 < estErr.toNat * 10 then
        (s1.flag Reg.AT_STAT_HOLD_LIMIT).enterIsolated.openFault (s1.faultRec 2 1)
      else s1
    else s)

/-- The takeover loses no step (R410): the job image marks the manager and the standby as idle participants, and the
configuration record gives the routes, none of which leads from this device through one of the two to another device.
(DEDUCED, log entry 77) -/
def State.takeoverCovered (s : State) : Bool := match s.host.img, s.cfg with
  | some g, some c =>
    let roles := [c.manager, c.standby]
    roles.all (fun d => g.idle.contains d) && c.routes != [] && c.devices.all (fun d =>
      let n := nth c.routes d.toNat 63
      decide (36 ≤ n) || roles.all (fun r => s.rd (Reg.LK_MAP_PEER_DEV n) != r.toNat || d == r))
  | _, _ => false

/-- The manager device is lost (R410, R413, R522): where the takeover is not covered, the device that is lost carries work. A
running step is rolled back, and the job then ends visibly; it ends at once where no step runs.
(DEDUCED, log entry 77) -/
def State.managerLost (s : State) : State :=
  let r := { s.faultRec 11 3 with dev := s.managerId }
  let st := s.rd Reg.JB_RCV_STAT_STATE
  if s.takeoverCovered then s
  else if s.jobState = jbParked ∨ (s.jobState = jbRunning ∧ s.phase = phHem ∧ 2 ≤ st ∧ st ≤ 4) then
    ((s.endVisibly r).wr Reg.TK_STAT_PHASE phIdle).logRec 3 5 jbEnded
  else if s.jobState = jbRunning then s.openFault r
  else s

/-- The standby manager takes over (R44, R408): it enters ROOT with the generation incremented, its AT unchanged, and the
old manager leaves the admitted count in the same cycle.
(DEDUCED, log entry 23) -/
def State.takeover (s : State) : State :=
  let s1 := ((s.wr Reg.AT_STAT_STATE tsRoot).noParent).noteGen (s.rd Reg.AT_EPOCH_GEN + 1)
  let held := if s.tstate = tsHoldover then (s.now - s.time.holdSince) / 1000 else s1.time.elapsed
  ({ s1 with time := { s1.time with admitted := s1.time.admitted - 1, slew := 0, mgrDownSince := none, elapsed := held } }).refresh.managerLost

/-- ROOT_LOSS_TIMEOUT (R44, R408, R410): the interval runs from the later of the standby's finding its link to the manager down or
silent and the last qualifying TREE field. A device that was root since the last P or W takes over no more (R45). -/
def execRootLossTimeout (s : State) : Res :=
  .next (
    if s.rd Reg.AT_CTL_ROLE = roleStandby ∧ s.time.wasRoot = false ∧ (s.tstate = tsRun ∨ s.tstate = tsHoldover) then
      match s.time.mgrDownSince with
      | some t =>
        if max t s.time.rootSeen + 1000 * s.rd Reg.AT_LIMIT_ROOT_LOSS ≤ s.now then s.takeover else s
      | none => s
    else s)

/- ### Formation -/

/-- READY (R38, R241, R242): the manager takes the sender in. Before the declaration the sender counts for the epoch;
after it, as a device to be admitted at the next Hem, if its native table ranks no higher than the table in force; a device
that waits for a lower table is noted for the next job load.
(DEDUCED, log entry 23) -/
def execReady (msg : MsgId) (native : BitVec 8) (tables : List (BitVec 8)) (s : State) : Res :=
  .next (
    s.takeMsg msg (fun s =>
      if s.tstate = tsPending ∧ ¬ s.time.epochHeld then
        ({ s with time := { s.time with
          readyDevs := (msg.src, native) :: s.time.readyDevs.filter (fun d => d.1 != msg.src) } }).tryDeclare
      else if s.isRoot then
        if tableRank native.toNat ≤ tableRank s.time.table ∧ tables.any (fun t => t.toNat == s.time.table) then
          { s with time := { s.time with newlyAdmitted := s.time.newlyAdmitted + 1 } }
        else
          { s with time := { s.time with
            readyDevs := (msg.src, native) :: s.time.readyDevs.filter (fun d => d.1 != msg.src) } }
      else s))

/-- FORMATION_TIMEOUT (R38): 20 s after AT started, the epoch is declared with the devices that are READY. -/
def execFormationTimeout (s : State) : Res :=
  .next (
    match s.time.formSince with
    | some t => if s.tstate = tsPending ∧ ¬ s.time.epochHeld ∧ t + 20000000000 ≤ s.now then s.declareEpoch else s
    | none => s)

/-- An epoch record arrives on a link (R40): it is accepted when its generation is the one the parent advertises and its
number is not older than the number held. A new record whose start lies ahead is flooded on (R38). The record held, with
another timing table, carries the manager's choice at a job load (R242). -/
def State.acceptEpoch (s : State) (r : EpochRec) : State :=
  match s.parent with
  | none => s
  | some p =>
    if r.gen.toNat = (s.link p).tree.gen ∧ s.rd Reg.AT_EPOCH_NUM ≤ r.num.toNat then
      let isNew := ¬ (s.time.epochHeld ∧ s.rd Reg.AT_EPOCH_NUM = r.num.toNat ∧ s.rd Reg.AT_EPOCH_GEN = r.gen.toNat)
      if isNew then
        let s1 := ((s.wr Reg.AT_EPOCH_NUM r.num.toNat).noteGen r.gen.toNat).selectTable r.table.toNat
        let s2 := { s1 with time := { s1.time with epochStart := r.start.toNat, epochHeld := true } }
        let s3 := (s2.wr Reg.AT_EPOCH_START_LO_VALUE r.start.toNat).wr Reg.AT_EPOCH_START_HI_VALUE
          (r.start.toNat / 2 ^ 32)
        let s4 := if s3.now < r.start.toNat then s3.floodCtl (epochPayload r) else s3
        let s5 := if s4.tstate = tsReady then s4.reachReady else s4
        s5.tryRun false
      else if s.jobState ≤ jbLoading ∧ r.table.toNat ≠ s.time.table then
        ((((s.wr Reg.SM_FLT_TT_SLOW 0).selectTable r.table.toNat).floodCtl (epochPayload r)).tryRun false)
      else s
    else s

/-- EPOCH_RECORD (R40). -/
def execEpochRecord (_link : LinkId) (rc : EpochRec) (s : State) : Res := .next (s.acceptEpoch rc)

/-- EPOCH_START (R38): at the epoch start AT the manager enters ROOT, admitted unless a check of R39 bars it (R235, R241),
and READY devices that hold the record enter RUN. -/
def execEpochStart (s : State) : Res :=
  .next (
    if s.tstate = tsPending ∧ s.time.epochHeld ∧ s.time.epochStart ≤ s.now then
      let s1 := (s.wr Reg.AT_STAT_STATE tsRoot).checkCables
      (if s1.admissible then s1.wr Reg.TK_STAT_ADMITTED 1 else s1).reachReady.refresh
    else s.tryRun true)

/- ### TREE fields -/

/-- A peer's TREE field is taken in (R36): it may mark the root as alive (R44), call for the epoch record (R40), end a
root's reign (R45), start holdover with a preferred parent (R37), lose the parent (R41) or offer one. -/
def State.treeArrived (s : State) (n : Nat) (t : TreeField) : State :=
  let old := (s.link n).tree
  let s1 := s.modLink n (fun l => { l with tree := t, foldOk := l.foldOk && decide (0 < t.count) })
  let s2 := if t.gen = s1.rd Reg.AT_EPOCH_GEN ∧ ((t.depth = 0 ∧ t.cls = .root) ∨ (t.depth = 1 ∧ t.cls = .run)) then
      { s1 with time := { s1.time with rootSeen := s1.now } } else s1
  let s3 := if t.cls = .ready ∧ old.cls ≠ .ready ∧ s2.holdsEpoch then s2.queueCtl n (epochPayload s2.epochRec) else s2
  let s4 :=
    if s3.isRoot then
      if genNewer t.gen (s3.rd Reg.AT_EPOCH_GEN) then
        { s3.enterIsolated with time := { s3.enterIsolated.time with wasRoot := true } }
      else s3
    else if s3.parent = some n then
      if t.depth = 15 then s3.loseParent
      else if t.cls = .other ∧ s3.tstate ≠ tsRun ∧ s3.tstate ≠ tsHoldover then s3.loseParent
      else if s3.tstate = tsReady ∨ s3.tstate = tsRun then s3.noteGen t.gen
      else s3
    else if s3.tstate = tsRun ∧ t.qualifies ∧ genNewer t.gen s3.advGen then s3.enterHoldover (some n)
    else s3.chooseParent
  s4.refresh

end Sys2Proof.Machine
end

