-- ==== Sys2Proof/Machine/Steps.lean ====
section
/-! DEFINITION. Rounds of chip trees and of hall tacks, releases, lend state and the count hold (R52–R68, R395–R397). -/

namespace Sys2Proof.Machine

/-- The superstep that runs (R49). -/
def State.superstep (s : State) : Option Superstep := s.step.steps[s.step.idx]?

/-- The key of a tile's spool among the descriptor streams: the logical tile and the spool (R287). -/
def spoolKey (t k : Nat) : Nat := t * 4 + k

/-- A MARK that the step description names has been reached, and no round has used it yet (R291, R361). -/
def State.markReached (s : State) : MarkRef → Bool
  | .harvest m i => (nth s.harvest m.val {}).marks.contains i
  | .spool _ t sp i => (smGet s.streams (spoolKey t.val sp.val) {}).marks.contains i

/-- A round uses the MARKs that it waited for: each MARK counts for one round. -/
def State.useMark (s : State) : MarkRef → State
  | .harvest m i => { s with harvest := modNth s.harvest m.val (fun h => { h with marks := h.marks.erase i }) }
  | .spool _ t sp i =>
    let k := spoolKey t.val sp.val
    match smFind s.streams k with
    | some x => { s with streams := smPut s.streams k { x with marks := x.marks.erase i } }
    | none => s

/-- The M die that a MARK belongs to. -/
def markDie : MarkRef → Nat
  | .harvest m _ => m.val
  | .spool m _ _ _ => m.val

/-- The MARKs that the step description names for the round of tree k that is in progress (R291): its entries for the tree
stand in the order of the tree's rounds in the superstep. -/
def State.roundMarks (s : State) (k : Nat) : List MarkRef := match s.superstep with
  | some st => match (st.marks.filter (fun r => r.1.val == k))[smGet s.step.roundsDone k 0]? with
    | some r => r.2
    | none => []
  | none => []

/-- M die `m` contributes to a round of a tree when the MARKs that the step description names for it have been reached (R53,
R291, R361). -/
def State.mReady (s : State) (k m : Nat) : Bool :=
  ((s.roundMarks k).filter (fun r => markDie r == m)).all s.markReached

/-- A round of tree k completes: it uses the MARKs that it waited for, and counts in its superstep. -/
def State.useMarks (s : State) (k : Nat) : State :=
  let s1 := (s.roundMarks k).foldl State.useMark s
  { s1 with step := { s1.step with roundsDone := smPut s1.step.roundsDone k (smGet s1.step.roundsDone k 0 + 1) } }

/-- X die `x` contributes to a tree of kind local or hall when its half, its routing table and the Seam descriptor are
loaded (R222); to any other tree it contributes 1 (R53). -/
def State.xReady (s : State) (k x : Nat) : Bool :=
  if s.bindKind k = tkLocal ∨ s.bindKind k = tkHall then
    (nth s.seam.xhalfNext x {}).ready && nth s.seam.routesReady x false && s.seam.descNext.isSome
  else true

/-- The contribution of each engine member of tree k that has not come in, as the bits of `TK_HOLDOUT.ENG`. -/
def State.engHoldout (s : State) (k : Nat) : Nat :=
  let e := s.rd (Reg.TK_BIND_ENG k)
  (List.range 4).foldl (fun m i =>
    let ok := if i < 2 then s.mReady k i else s.xReady k (i - 2)
    if hasBit e i && !ok then setBit m i else m) 0

/-- The logical numbers of the members of tree k whose flag is clear, in rising order, which
is the order of the physical numbers too. -/
def State.tileHoldouts (s : State) (k : Nat) : List Nat :=
  ((s.tiles.filter (fun e => e.2.memberAt s.now k && !e.2.flagSet k)).filterMap (fun e => s.logicalOf e.1))

/-- The round of tree k is complete (R52, R53): it has members, every member's flag is set, its engine members contribute,
and for a Seam-bound tree the idle half of every member's pattern store is ready. -/
def State.roundFull (s : State) (k : Nat) : Bool :=
  !s.tiles.all (fun e => !e.2.memberAt s.now k) &&
    s.tiles.all (fun e => !e.2.memberAt s.now k || e.2.flagSet k) && s.engHoldout k == 0 &&
    ((s.bindKind k != tkLocal && s.bindKind k != tkHall) ||
      s.tiles.all (fun e => !e.2.memberAt s.now k || e.2.patIdle.ready))

/-- The flag of a tree clears at its round: a tile that waits on the tree leaves lend state (R66). A tile that joins the
tree on this very cycle belongs to the next round (R52). -/
def Tile.released (t : Tile) (now k : Nat) : Tile :=
  if t.isMember k && !t.memberAt now k then t
  else if t.waitsTack = some k then
    { t with flags := clrBit t.flags k, lendSince := none, mode := if t.mode == .lend then .wait else t.mode }
  else { t with flags := clrBit t.flags k }

/-- All flags of a tree clear: the round is released, and the time that its tiles waited, or were in lend state, is counted
(R53, R66, R67). -/
def State.clearFlags (s : State) (k : Nat) : State :=
  let on := s.tiles.filter (fun e => e.2.waitsTack == some k && !(e.2.isMember k && !e.2.memberAt s.now k))
  let s1 := s.mapTiles (fun _ t => t.released s.now k)
  State.notePool { s1 with step := { s1.step with
    waitNs := s1.step.waitNs + (on.map (fun e => e.2.tackNs s.now)).foldl (· + ·) 0,
    lendNs := s1.step.lendNs + (on.map (fun e => e.2.lentNs s.now)).foldl (· + ·) 0 } }

/-- The round of a chip tree is seen by a Harvest engine that waits for it in SYNC (R360). -/
def State.syncRound (s : State) (k : Nat) : State :=
  { s with harvest := s.harvest.map (fun h => match h.syncWait with
    | some (t, _) => if t = k then { h with syncWait := none, state := 1, idx := h.idx + 1 } else h
    | none => h) }

/-- The tree that closes the running compute phase (R68). -/
def State.closes (s : State) (k : Nat) : Bool :=
  match s.superstep with
  | some st => st.tree.val == k
  | none => false

/-- CHIP_ROUND_COMPLETE (R53–R58): on a plain tree the flags clear and the waiters resume; on a local tree the Seam is
scheduled; on a hall or Hem tree the completed AND becomes the device's contribution to the up level.
(DESIGN CHOICE, log entry 2) -/
def execChipRoundComplete (tree : Fin 32) (s : State) : Res :=
  let k := tree.val
  .next (
    if s.roundFull k ∧ ¬ (s.tack k).abandoned ∧ ¬ (s.tack k).done then
      let s1 := (s.useMarks k).syncRound k
      let s2 := if s1.closes k then { s1 with step := { s1.step with timed := false } } else s1
      if s2.bindKind k = tkPlain then
        let s3 := s2.clearFlags k
        s3.endWaits ((s3.twaiters k).filter (fun p => !(s3.tile p).flagSet k)) true
      else if s2.bindKind k = tkLocal then
        let s3 := s2.clearFlags k
        { s3 with seam := { s3.seam with
          seamAt := some (gridAfter s3.now s3.localLead), seamHall := none, tree := k } }
      else s2.setTack k { s2.tack k with done := true, doneAt := s2.now }
    else s)

/-- TACK_RAIL_FAULT (R56): a tack-line fault is recorded and handed up; the round counts as not complete. -/
def execTackRailFault (tree : Fin 32) (s : State) : Res :=
  let s1 := s.flag Reg.TK_FLT_RAIL
  let s2 := s1.setTack tree.val { s1.tack tree.val with done := false }
  .next (s2.openFault (s2.faultRec 9 3))

/-- COUNT_HOLD_END (R59): 1,024 ns after the last change of the subtree count the up levels are released. -/
def execCountHoldEnd (s : State) : Res :=
  .next (
    if s.time.countHeld ∧ s.time.countAt + 1024 ≤ s.now then
      { s with time := { s.time with countHeld := false } }
    else s)

/-- LEND_ENTRY (R66): a tile that has waited on a tack for 2,000 cycles, and is not released yet, enters lend state, outside a
Seam. A tile in TSEAM reads SEAM also then (R521). Its share of the current allowance goes to the pool of its die. -/
def execLendEntry (tile : TileId) (s : State) : Res :=
  match s.physOf tile.val with
  | none => .fault .noSuchTile
  | some p =>
    let t := s.tile p
    .next (
      if s.on Reg.TK_CTL_LEND_EN ∧ t.waitsTack.isSome ∧ t.lendSince = none ∧ ¬ s.on Reg.TK_STAT_IN_SEAM ∧
          t.since + 2000 ≤ s.now then
        (s.setTile p { t with lendSince := some s.now, mode := if t.mode = .wait then .lend else t.mode }).notePool
      else s)

/-- A release ends the device's own round of h: the flags of its tree clear, and its AND goes to 0 (R53, R61). -/
def State.releaseChip (s : State) (h : Nat) : State :=
  let tree := if h = 7 then s.hemTree else s.hallTree h
  match tree with
  | none => s
  | some k => (s.clearFlags k).setTack k { s.tack k with done := false }

/-- The device keeps the decisions of the last 16 Hems (R406). -/
def State.logDecision (s : State) (d : Decision) : State :=
  { s with rcv := { s.rcv with log := (d :: s.rcv.log).take 16 } }

/-- A release of h is taken as seen, with the parity that it carries (R60). The parity is the device's own; `TK_HALL.ROUND`
shows it.
(DEDUCED, log entry 82) -/
def State.noteRound (s : State) (h : Nat) (parity : Bool) : State :=
  let round := if parity then setBit s.step.round h else clrBit s.step.round h
  { s.wr Reg.TK_HALL_ROUND round with step := { s.step with
    round := round, relAccepted := if s.step.relAccepted.contains h then s.step.relAccepted else h :: s.step.relAccepted } }

/-- A late release (R62): the device does not start the Seam, or the step. -/
def State.lateRelease (s : State) (h : Nat) : State :=
  let s1 := (s.flag Reg.TK_FLT_LATE).wr Reg.TK_HALL_LATE (setBit (s.rd Reg.TK_HALL_LATE) h)
  s1.openFault (s1.faultRec 9 2)

/-- A release not yet seen is accepted (R60): it is flooded on until s, its parity is taken, the chip tree is released,
and the start is scheduled. A Seam release or a start release accepted less than 32 ns before s is late on every device
(R62); a Hem release is then carried out at once, with `TK_FLT.LATE` and H at s all the same (R71, R397). -/
def State.acceptRelease (s : State) (r : ReleaseRec) : State :=
  let h := r.h.val
  let at_ := gridAt s.now r.s.toNat
  if hasBit s.step.round h = r.parity ∧ s.step.relAccepted.contains h then s
  else
    let s2 := (s.noteRound h r.parity).floodRec (relRec r) at_
    let part : Option Nat := s2.hallTree h
    let s3 := s2.releaseChip h
    let late := at_ < s3.now + 32
    if h = 7 ∧ ¬ r.start then
      let s4 := s3.logDecision { step := BitVec.ofNat 64 s3.stepNo, commit := r.commit, mbCount := BitVec.ofNat 8 (s3.rd Reg.TK_STAT_MB_COUNT), hem := at_, s := at_, parity := r.parity }
      let s5 := if late then s4.flag Reg.TK_FLT_LATE else s4
      let s6 := if r.commit || s5.jobState != jbRunning then s5 else s5.wr Reg.JB_RCV_STAT_STATE 2
      { s6 with step := { s6.step with hemAt := some at_, hemDue := if late then s6.now else at_, hemCommit := r.commit },
                rcv := { s6.rcv with missed := false } }
    else if h = 7 then
      if late then s3.lateRelease h else { s3 with step := { s3.step with startAt := some at_ } }
    else if late then s3.lateRelease h
    else if !s3.admitted || part.isNone then s3
    else { s3 with seam := { s3.seam with
      seamAt := some at_, seamHall := some h, parity := r.parity, tree := part.getD 0 } }

/-- RELEASE_RECORD (R60, R61, R62, R397). -/
def execReleaseRecord (_link : LinkId) (rc : ReleaseRec) (s : State) : Res := .next (s.acceptRelease rc)

/-- A resume or an abort record is taken in for the running pause (R246, R248); it is flooded on until its AT. A resume
accepted less than 32 ns before r sets LATE_RESUME. -/
def State.acceptResume (s : State) (r : GridRec) : State :=
  let at_ := gridAt s.now r.r.toNat
  if s.seam.resumeAt = some at_ ∨ s.rd Reg.SM_STAT_STATE ≠ 2 then s
  else
    let s1 := s.floodRec (resumeRec r) at_
    let s2 := { s1 with seam := { s1.seam with resumeAt := some at_ } }
    if at_ < s2.now + 32 then
      let s3 := s2.flag Reg.SM_FLT_LATE_RESUME
      s3.openFault (s3.faultRec 8 2)
    else s2

def State.acceptAbort (s : State) (r : GridRec) : State :=
  let at_ := gridAt s.now r.r.toNat
  if s.seam.abortAt = some at_ ∨ ¬ s.on Reg.TK_STAT_IN_SEAM then s
  else
    let s1 := s.floodRec (abortRec r) at_
    { s1 with seam := { s1.seam with abortAt := some at_ } }

/-- The manager floods a release and accepts it itself (R60). The parity of the round is the other one. -/
def State.sendRelease (s : State) (h : Fin 8) (commit start : Bool) : State :=
  s.acceptRelease { h := h, parity := !hasBit s.step.round h.val, commit := commit, start := start,
                    s := gridBits (gridAfter s.now s.hallLead) }

/-- The manager's decision at a completed H7 round (R70, R379). -/
def State.commitDecision (s : State) : Bool × State :=
  match s.commit.own with
  | none => (false, s)
  | some f =>
    let eq := f.sent == f.recv
    let cnt := f.count == s.time.admitted
    let ok := eq && f.done && !f.fault && cnt
    (ok, (((s.wr Reg.HV_COMMIT_DG_EQ (b2n eq)).wr Reg.HV_COMMIT_DONE (b2n f.done)).wr Reg.HV_COMMIT_FAULT
      (b2n f.fault)).wr Reg.HV_COMMIT_COUNT_OK (b2n cnt))

/-- HALL_ROUND_COMPLETE (R59, R60): at the manager, with a full up level, the whole admitted count and no change of the
count in the last 1,024 ns. H6 ends a pause with a resume record (R246); H7 ends a rewind or a start round with a start
release (R398, R430), and a step with the decision (R70, R379); any other tack starts its Seam. -/
def execHallRoundComplete (h : Fin 8) (s : State) : Res :=
  .next (
    if s.tstate = tsRoot ∧ s.upLevel h.val ∧ s.subtreeCount = s.time.admitted ∧ ¬ s.time.countHeld then
      if h.val = 6 then
        if s.rd Reg.SM_STAT_STATE = 2 ∧ s.seam.resumeAt = none ∧ s.seam.abortAt = none then
          s.acceptResume { h := BitVec.toFin (BitVec.ofNat 3 (s.seam.seamHall.getD 0)), parity := s.seam.parity,
                           r := gridBits (gridAfter s.now s.hallLead) }
        else s
      else if h.val = 7 then
        if s.rd Reg.JB_RCV_STAT_STATE = 4 ∨ s.jobState ≠ jbRunning then
          if s.step.startAt = none then s.sendRelease h false true else s
        else if s.step.hemAt = none then
          let d := s.commitDecision
          d.2.sendRelease h d.1 false
        else s
      else s.sendRelease h false false
    else s)

end Sys2Proof.Machine
end

