-- ==== Sys2Proof/Machine/Spools.lean ====
section
/-! DEFINITION. Spools (R97, R282–R287, R292): SPUSH, SPOP and SWAIT of a tile, and SPOOL packets at a tile and at an
M die. -/

namespace Sys2Proof.Machine

/-- The sub-kinds of SPOOL packets (R286). -/
def spData : Nat := 0
def spLast : Nat := 1
def spCredit : Nat := 2
def spStop : Nat := 3

def Tile.spool (t : Tile) (k : Nat) : SpoolSt := nth t.spools k {}

def Tile.setSpool (t : Tile) (k : Nat) (x : SpoolSt) : Tile := { t with spools := modNth t.spools k (fun _ => x) }

/-- The descriptor stream of a spool, by the logical tile (R287). -/
def State.stream (s : State) (t k : Nat) : StreamSt := smGet s.streams (spoolKey t k) {}

def State.setStream (s : State) (t k : Nat) (x : StreamSt) : State :=
  { s with streams := smPut s.streams (spoolKey t k) x }

/-- The words of a read spool that a program sees: those that have come in this cycle are not yet among them (R294). -/
def SpoolSt.seen (x : SpoolSt) (now : Nat) : List SpoolWord :=
  x.words.take (x.words.length - (if x.newAt = now then x.newN else 0))

/-- The packet counter of a read spool (R285). -/
def SpoolSt.packets (x : SpoolSt) (now : Nat) : Nat := ((x.seen now).filter (fun w => w.last)).length

/-- Words come into a spool's entries. -/
def SpoolSt.enter (x : SpoolSt) (now : Nat) (ws : List SpoolWord) : SpoolSt :=
  { x with words := x.words ++ ws, newAt := now, newN := (if x.newAt = now then x.newN else 0) + ws.length }

/-- The entries of a write spool that are free to a program: what the engine took from the full spool in this cycle is not
(R294). -/
def SpoolSt.room (x : SpoolSt) (now : Nat) : Nat := 32 - x.words.length - (if x.goneAt = now then x.goneN else 0)

/-- The engine takes words from a spool. -/
def SpoolSt.take (x : SpoolSt) (now n : Nat) : SpoolSt :=
  let gone := if x.goneAt = now then x.goneN else 0
  let y := { x with words := x.words.drop n }
  if x.words.length + gone = 32 then { y with goneAt := now, goneN := gone + n } else y

/-- The waits on a spool are looked at again in the next cycle (R294). -/
def State.wakeNext (s : State) (p k : Nat) : State :=
  if s.fab.wakes.contains (p, k) then s else { s with fab := { s.fab with wakes := s.fab.wakes ++ [(p, k)] } }

/-- The words of one SPOOL packet: up to 4, the last one of a packet being the last of its run (R283, R286). -/
def packetWords : Nat → List SpoolWord → List SpoolWord
  | 0, _ => []
  | _ + 1, [] => []
  | n + 1, w :: ws => if w.last then [w] else w :: packetWords n ws

/-- The payload bytes and the poisoned 8 B words of a list of spool words. -/
def spoolBytes (ws : List SpoolWord) : List Byte := (ws.map (fun w => w.data)).flatten

def spoolBad (ws : List SpoolWord) : List Nat := (ws.zipIdx).flatMap (fun e => e.1.bad.map (fun b => e.2 * 8 + b))

/-- The SPOOL packet of a list of words. -/
def spoolPacket (src dest k : Nat) (ws : List SpoolWord) : Pkt :=
  { hdr := { kind := pkSpool, dest := dest, src := src, len := 4 * ws.length - 1, tag := k,
             sub := if ws.any (fun w => w.last) then spLast else spData : PktHdr }.word,
    relay := none, data := spoolBytes ws, bad := spoolBad ws }

/-- Words leave in SPOOL packets, in their order. -/
def emitWords (src dest k : Nat) : Nat → List SpoolWord → State → State
  | 0, _, s => s
  | fuel + 1, ws, s =>
    if ws = [] then s
    else
      let p := packetWords 4 ws
      emitWords src dest k fuel (ws.drop p.length) (s.emit (.packet (spoolPacket src dest k p)))

/-- A SUB 2 packet: `n` entries are free, or `n` words of landing space (R286). -/
def State.emitCredit (s : State) (src dest k n : Nat) : State :=
  s.emit (.packet { hdr := { kind := pkSpool, dest := dest, src := src, tag := k, sub := spCredit, cnt := n : PktHdr }.word,
                    relay := none, data := [], bad := [] })

/-- The words that a SPOOL packet carries. -/
def pktWords (q : Pkt) : List SpoolWord :=
  let n := q.data.length / 64
  (List.range n).map (fun i => {
    data := (q.data.drop (64 * i)).take 64, last := decide (i + 1 = n) && pkSub q == spLast,
    bad := (q.bad.filter (fun b => b / 8 == i)).map (fun b => b % 8) })

/- ### Instructions -/

/-- The word count of SPUSH, SPOP and SWAIT, and the SPOOL_DIR fault (R88, R285). -/
def spoolN (iw : Word64) : Nat := iwBits iw 15 0

def spoolDirFault (iw : Word64) (lo hi : Nat) : Option (Nat × Nat) :=
  if iwObj iw < lo ∨ hi < iwObj iw ∨ spoolN iw = 0 ∨ 32 < spoolN iw then
    some (fcSpoolDir, iwObj iw % 4 + 4 * spoolN iw)
  else none

/-- The faults of SPUSH and SPOP in the order of R520. -/
def spoolFault (t : Tile) (iw : Word64) (lo hi : Nat) : Option (Nat × Nat) :=
  match spoolDirFault iw lo hi with
  | some f => some f
  | none =>
    let a := (t.reg (iwA iw)).toNat
    if a % 64 ≠ 0 then some (fcAlign, a)
    else match rangeBad a (64 * spoolN iw) with
      | some x => some (fcRange, x)
      | none => none

/-- The write spool of a tile sends the words for which it holds credit (R286). -/
def State.sendSpool (s : State) (p k : Nat) : State :=
  let t := (s.logicalOf p).getD 0
  let x := (s.tile p).spool k
  let n := min x.credit x.words.length
  if n = 0 then s
  else
    let y := x.take s.now n
    (emitWords t (mCode (s.stream t k).m) k n (x.words.take n)
      (s.modTile p (fun u => u.setSpool k { y with credit := x.credit - n }))).wakeNext p k

/-- The `i`th word of a SPUSH (R97, R109, R283). -/
def Tile.pushWord (t : Tile) (now : Nat) (iw : Word64) (i : Nat) : SpoolWord :=
  let a := (t.reg (iwA iw)).toNat + 64 * i
  { data := Memory.readN (t.seen (localAt now)).mem a 64, last := decide (i + 1 = spoolN iw) && bitOf iw.toNat 16, bad := t.badWords a 64 }

/-- A SPUSH moves words while its spool accepts them and sends what it can (R97). -/
def pushMore (p : Nat) (iw : Word64) : Nat → State → State
  | 0, s => s
  | fuel + 1, s =>
    let k := iwObj iw
    let x := (s.tile p).spool k
    let n := min (x.room s.now) (spoolN iw - x.done)
    if n = 0 then s
    else
      let t := (s.tile p).senseRange (((s.tile p).reg (iwA iw)).toNat + 64 * x.done) (64 * n)
      let x1 := { x with words := x.words ++ (List.range n).map (fun i => t.pushWord s.now iw (x.done + i)), done := x.done + n }
      pushMore p iw fuel ((s.setTile p (t.setSpool k x1)).sendSpool p k)

/-- Whether the SPUSH has moved its last word. -/
def State.pushed (s : State) (p : Nat) (iw : Word64) : Bool := ((s.tile p).spool (iwObj iw)).done == spoolN iw

/-- A word has come into a write spool or the landing buffer: the stale timeout of the stream starts anew (R293). -/
def State.touchStream (s : State) (t k : Nat) : State :=
  match smFind s.streams (spoolKey t k) with
  | some x => s.setStream t k { x with last := s.now }
  | none => s

/-- A SPUSH goes on as far as it can; where a word has moved, the stale timeout starts anew (R97, R293). -/
def State.pushOn (s : State) (p : Nat) (iw : Word64) : State :=
  let s1 := pushMore p iw 64 s
  if ((s1.tile p).spool (iwObj iw)).done = ((s.tile p).spool (iwObj iw)).done then s1
  else s1.touchStream ((s.logicalOf p).getD 0) (iwObj iw)

/-- The count of a SPUSH in progress is done with. -/
def State.clearPush (s : State) (p k : Nat) : State := s.modTile p (fun t => t.setSpool k { t.spool k with done := 0 })

def bodySpush (iw : Word64) (s : State) (p : Nat) : Issued :=
  let t := s.tile p
  let k := iwObj iw
  match spoolFault t iw 2 3 with
  | some f => .fault f.1 f.2
  | none =>
    if (t.spool k).stopped then .done ((s.clearPush p k).modTile p (fun t => t.setPred (iwPS iw) false))
    else
      let s1 := s.pushOn p iw
      if s1.pushed p iw then .done ((s1.clearPush p k).modTile p (fun t => t.setPred (iwPS iw) true)) else .stall s1

/-- SPUSH (R97, R283, R287). -/
def execSpush (tile : TileId) (iw : Word64) (s : State) : Res :=
  issue tile iw (rowOf iw 5 0) [iwA iw] (opIllegal iw 0 || !wFormOk iw || iwBits iw 31 17 != 0) (bodySpush iw) s

/-- Words leave a read spool for the scratchpad, and their entries are credited (R284, R286). -/
def State.popWords (s : State) (p : Nat) (iw : Word64) : State :=
  let t := s.tile p
  let k := iwObj iw
  let x := t.spool k
  let n := spoolN iw
  let ws := x.words.take n
  let a := (t.reg (iwA iw)).toNat
  let own := (s.logicalOf p).getD 0
  let t1 := (t.writeMem (localAt s.now) a (spoolBytes ws)).addPoison ((spoolBad ws).map (fun b => a / 8 + b)) true
  (s.setTile p (t1.setSpool k { x with words := x.words.drop n, last := s.now, counted := false })).emitCredit own
    (mCode (s.stream own k).m) k n

/-- The effect of SPOP (R97, R284).
(DESIGN CHOICE, log entry 18) -/
def bodySpop (iw : Word64) (s : State) (p : Nat) : Issued :=
  let t := s.tile p
  match spoolFault t iw 0 1 with
  | some f => .fault f.1 f.2
  | none =>
    let x := t.spool (iwObj iw)
    if x.stopped then .done (s.setTile p (t.setPred (iwPS iw) false))
    else if spoolN iw ≤ (x.seen s.now).length then .done ((s.popWords p iw).modTile p (fun t => t.setPred (iwPS iw) true))
    else .stall s

/-- SPOP (R97, R284, R287). -/
def execSpop (tile : TileId) (iw : Word64) (s : State) : Res :=
  issue tile iw (rowOf iw 5 1) [iwA iw] (opIllegal iw 1 || !wFormOk iw || iwBits iw 31 16 != 0) (bodySpop iw) s

/-- The condition of SWAIT (R285, R294). -/
def Tile.spoolReady (t : Tile) (now : Nat) (iw : Word64) : Bool :=
  let x := t.spool (iwObj iw)
  if iwObj iw < 2 then decide (spoolN iw ≤ x.packets now) || (x.seen now).length == 32
  else decide (spoolN iw ≤ x.room now)

def bodySwait (iw : Word64) (s : State) (p : Nat) : Issued :=
  let t := s.tile p
  match spoolDirFault iw 0 3 with
  | some f => .fault f.1 f.2
  | none =>
    if (t.spool (iwObj iw)).stopped then .done (s.setTile p (t.setPred (iwPS iw) false))
    else if t.spoolReady s.now iw then .done (s.setTile p (t.setPred (iwPS iw) true))
    else .stall s

/-- SWAIT (R285, R287). -/
def execSwait (tile : TileId) (iw : Word64) (s : State) : Res :=
  issue tile iw (rowOf iw 5 2) [] (opIllegal iw 2 || !wFormOk iw || iwBits iw 31 16 != 0) (bodySwait iw) s

/-- A spool has changed: the SPUSH, SPOP or SWAIT that its tile is blocked in goes on (R97, R284, R285, R292). -/
def State.spoolWake (s : State) (p k : Nat) : State :=
  let t := s.tile p
  match t.blocked with
  | none => s
  | some iw =>
    if iwClass iw ≠ 5 ∨ iwObj iw ≠ k then s
    else if t.mode = .stop then
      -- the words of a SPUSH that a stopped tile has issued still move (R116)
      let s1 := if (t.spool k).stopped ∨ ¬ isOp iw 5 0 then s else s.pushOn p iw
      if (t.spool k).stopped ∨ s1.pushed p iw then (s1.clearPush p k).modTile p (fun t => { t with blocked := none }) else s1
    else if t.mode ≠ .wait then s
    else if (t.spool k).stopped then (s.clearPush p k).endWait p false
    else if isOp iw 5 0 then
      let s1 := s.pushOn p iw
      if s1.pushed p iw then (s1.clearPush p k).endWait p true else s1
    else if isOp iw 5 1 then
      if spoolN iw ≤ ((t.spool k).seen s.now).length then (s.popWords p iw).endWait p true else s
    else if t.spoolReady s.now iw then s.endWait p true
    else s

/-- A new cycle: the waits on spools that changed in the cycle before are looked at (R294). -/
def State.wakeSpools (s : State) : State :=
  s.fab.wakes.foldl (fun s e => s.spoolWake e.1 e.2) { s with fab := { s.fab with wakes := [] } }

/- ### Packets -/

/-- A SPOOL packet of a form arrives at a tile or at an M die. -/
def spoolAt (q : Pkt) (row : Bool) (atTile atDie : State → Nat → State) (s : State) : Res :=
  if !pkChecks q then .next (s.dropPacket q)
  else if pkKind q = pkSpool ∧ row then
    if pkDest q = mCode 0 ∨ pkDest q = mCode 1 then
      .next (if s.inOrder (soundPkt q) then atDie (s.takePacket q) (pkSrc q) else s)
    else match s.physOf (pkDest q) with
      | some p => .next (if s.inOrder (soundPkt q) then atTile (s.takePacket q) p else s)
      | none => .fault .noSuchTile
  else .fault .malformed

/-- The payload of a data packet: 1 to 4 words (R286). -/
def spoolSized (q : Pkt) : Bool :=
  q.data.length == 16 * (pkLen q + 1) && q.data.length % 64 == 0 && decide (q.data.length ≤ 256) &&
    q.bad.all (fun w => decide (w < q.data.length / 8))

/-- SPOOL_DATA (R285, R286, R294): words come into a read spool, where a wait sees them from the next cycle on, or into the
landing buffer of a write spool's stream. -/
def execSpoolData (pkt : Pkt) (s : State) : Res :=
  let k := pkTag pkt % 4
  spoolAt pkt (decide (pkSub pkt ≤ 1) && spoolSized pkt)
    (fun s p =>
      let x := (s.tile p).spool k
      let ws := pktWords pkt
      let x1 := { x.enter s.now ws with last := if x.words = [] then s.now else x.last,
                                        counted := if x.words = [] then false else x.counted }
      let y := s.stream (pkDest pkt) k
      let s1 := s.modTile p (fun t => t.setSpool k x1)
      let s2 := if y.state = 0 then s1 else s1.setStream (pkDest pkt) k { y with flight := y.flight - ws.length }
      s2.wakeNext p k)
    (fun s t =>
      let y := s.stream t k
      if y.state = 0 then s else s.setStream t k { y with landing := y.landing ++ pktWords pkt, last := s.now }) s

/-- The engine of an M die sends the words for which it holds credit (R286). -/
def State.sendStream (s : State) (t k : Nat) : State :=
  let y := s.stream t k
  let n := min y.credit y.buf.length
  emitWords (mCode y.m) t k n (y.buf.take n)
    (s.setStream t k { y with buf := y.buf.drop n, credit := y.credit - n, flight := y.flight + n })

/-- SPOOL_CREDIT (R286): landing space at a tile's write spool, or free entries at the engine. -/
def execSpoolCredit (pkt : Pkt) (s : State) : Res :=
  let k := pkTag pkt % 4
  spoolAt pkt (pkSub pkt == spCredit && pkt.data == [])
    (fun s p =>
      let x := (s.tile p).spool k
      ((s.modTile p (fun t => t.setSpool k { x with credit := x.credit + pkCnt pkt })).sendSpool p k).spoolWake p k)
    (fun s t =>
      let y := s.stream t k
      if y.state = 0 then s else (s.setStream t k { y with credit := y.credit + pkCnt pkt }).sendStream t k) s

/-- A spool has no stream any more: its waits end ABANDONED (R92, R287, R292). -/
def State.stopSpool (s : State) (p k : Nat) : State :=
  (s.modTile p (fun t => t.setSpool k { t.spool k with stopped := true })).spoolWake p k

/-- SPOOL_STOPPED (R292). -/
def execSpoolStopped (pkt : Pkt) (s : State) : Res :=
  spoolAt pkt (pkSub pkt == spStop && pkt.data == []) (fun s p => s.stopSpool p (pkTag pkt % 4)) (fun s _ => s) s

/-- The spools that the job image uses are bound, each to its stream (R286, R287), at the positions that hold their tiles. -/
def State.bindSpools (s : State) (pos : Nat → Nat) (bs : List SpoolBind) : State :=
  bs.foldl (fun s x => match s.physOf x.tile.val with
    | some p => s.modTile (pos p) (fun t => t.setSpool x.spool.val { stopped := false, credit := if 2 ≤ x.spool.val then 4 else 0 })
    | none => s) s

end Sys2Proof.Machine
end

