-- ==== Sys2Proof/Machine/Streams.lean ====
section
/-! DEFINITION. Descriptor streams (R287–R293), off-load forms (R305, R306), and paged reads and writes of sequence slots
(R307–R312). -/

namespace Sys2Proof.Machine

/- ### Descriptors -/

/-- Bits of word `i` of a descriptor (R288). -/
def dBits (d : List Word64) (i hi lo : Nat) : Nat := bitsOf (nth d i 0).toNat hi lo

def dOp (d : List Word64) : Nat := dBits d 0 3 0
def dTgt (d : List Word64) : Nat := dBits d 0 6 4
def dPeer (d : List Word64) : Nat := dBits d 0 9 7
def dCmp (d : List Word64) : Bool := dBits d 0 10 10 == 1
def dBf16 (d : List Word64) : Bool := dBits d 0 11 11 == 1
def dBnd (d : List Word64) : Bool := dBits d 0 12 12 == 1
def dLead (d : List Word64) : Bool := dBits d 0 13 13 == 1
def dSlot (d : List Word64) : Nat := dBits d 0 27 16
def dAddr (d : List Word64) : Nat := dBits d 1 47 0
def dWords (d : List Word64) : Nat := dBits d 2 15 0
def dRows (d : List Word64) : Nat := dBits d 2 31 16
def dRoff (d : List Word64) : Nat := dBits d 2 47 32
def dStride (d : List Word64) : Nat := dBits d 3 39 0
def dFirst (d : List Word64) : Nat := dBits d 3 23 0
def dCount (d : List Word64) : Nat := dBits d 3 47 24

def opRd : Nat := 0
def opRdp : Nat := 1
def opWr : Nat := 4
def opWrp : Nat := 5
def opMark : Nat := 0xD
def opEnd : Nat := 0xE

/-- The four 64-bit words of a descriptor. -/
def descWords (bs : List Byte) : List Word64 :=
  (List.range 4).map (fun i => BitVec.ofNat 64 (leNat ((bs.drop (8 * i)).take 8)))

/-- Four 64-bit words of GDDR7, as they are stored. -/
def State.words4 (s : State) (a : Nat) : List Word64 := descWords (s.view a 32)

/-- The elements and the bytes of elements of a compressed off-load (R306). -/
def cmpElems (d : List Word64) : Nat := dWords d * (if dBf16 d then 32 else 16)

/-- The offset of its scales. -/
def cmpScales (d : List Word64) : Nat := ceilDiv (cmpElems d) 256 * 256

/-- A reserved OP or field, or a broken constraint of CMP (R288, R289, R292). -/
def descReserved (d : List Word64) : Bool :=
  let op := dOp d
  let paged := op == opRdp || op == opWrp
  let linear := op == opRd || op == opWr
  !(paged || linear || op == opMark || op == opEnd) || dBits d 0 15 14 != 0 || dBits d 0 63 28 != 0 || dBits d 1 63 48 != 0 ||
    dBits d 2 63 48 != 0 || decide (2 < dTgt d) || (dTgt d != 1 && dPeer d != 0) ||
    (paged && (dTgt d != 0 || dCmp d || dRows d != 0 || dWords d == 0 || dBits d 3 63 48 != 0)) ||
    (linear && (dRows d == 0 || dWords d == 0 || dStride d % 64 != 0 || dBits d 3 63 40 != 0 ||
      (dCmp d && (dRows d != 1 || dStride d != 0 || (!dBf16 d && dWords d % 2 != 0)))))

/-- The bytes from ADDR up that a linear descriptor reaches. -/
def descSpan (d : List Word64) : Nat :=
  if dCmp d then cmpScales d + cmpElems d / 32 else (dRows d - 1) * dStride d + dWords d * 64

/-- A slot of the sequence table (R307). -/
def State.slot (s : State) (k : Nat) : SeqEnt := smGet s.seqs k {}

def SeqEnt.state (e : SeqEnt) : Nat := bitsOf e.w0.toNat 1 0
def SeqEnt.roww (e : SeqEnt) : Nat := bitsOf e.w0.toNat 19 8
def SeqEnt.len (e : SeqEnt) : Nat := bitsOf e.w0.toNat 43 20
def SeqEnt.npages (e : SeqEnt) : Nat := bitsOf e.w0.toNat 63 44
def SeqEnt.plist (e : SeqEnt) : Nat := bitsOf e.w1.toNat 39 0
def SeqEnt.blist (e : SeqEnt) : Nat := bitsOf e.w2.toNat 39 0
def SeqEnt.nbnd (e : SeqEnt) : Nat := bitsOf e.w2.toNat 47 40

/-- The entry with another LEN. -/
def SeqEnt.setLen (e : SeqEnt) (n : Nat) : SeqEnt :=
  { e with w0 := BitVec.ofNat 64 (e.w0.toNat - e.len * 2 ^ 20 + n % 2 ^ 24 * 2 ^ 20) }

/-- Token rows that a KV page holds (R308). -/
def SeqEnt.perPage (e : SeqEnt) : Nat := 65536 / (max 1 e.roww * 64)

/-- The page of a page-list entry (R308). -/
def State.pageOf (s : State) (e : SeqEnt) (i : Nat) : Nat := leNat (s.view (e.plist + 4 * i) 4) % 2 ^ 20

/-- The device address of the row of token `t` of a slot on M die `m` (R308). -/
def State.tokenAddr (s : State) (m : Nat) (e : SeqEnt) (t : Nat) : Nat :=
  halfBase m + 65536 * s.pageOf e (t / e.perPage) + t % e.perPage * (e.roww * 64)

/-- The tokens that a paged descriptor covers: for a read, COUNT 0 means up to LEN (R310). -/
def pagedCount (d : List Word64) (e : SeqEnt) : Nat :=
  if dOp d = opRdp ∧ dCount d = 0 then e.len - dFirst d else dCount d

/-- The boundary positions that an RDP delivers, relative to FIRST (R310). -/
def State.boundaries (s : State) (d : List Word64) (e : SeqEnt) : List Nat :=
  if dBnd d then
    ((List.range e.nbnd).map (fun i => leNat (s.view (e.blist + 4 * i) 4))).filterMap (fun p =>
      if dFirst d ≤ p ∧ p < dFirst d + pagedCount d e then some (p - dFirst d) else none)
  else []

/-- Words of the packet of an RDP behind its lead word (R311). -/
def State.follow (s : State) (d : List Word64) (e : SeqEnt) : Nat :=
  ceilDiv (s.boundaries d e).length 16 + pagedCount d e * dWords d

/-- The first page-list entry that a paged descriptor needs, and how many (R308). -/
def pageRange (d : List Word64) (e : SeqEnt) : Nat × Nat :=
  let n := pagedCount d e
  let i := dFirst d / max 1 e.perPage
  (i, if n = 0 then 0 else (dFirst d + n - 1) / max 1 e.perPage - i + 1)

/-- The pages of a paged descriptor lie below the limit of R308, and the words that it reaches in the half of the slot. -/
def State.pagesOk (s : State) (m : Nat) (d : List Word64) (e : SeqEnt) : Bool :=
  let r := pageRange d e
  (List.range r.2).all (fun i => decide (s.pageOf e (r.1 + i) < 1032192)) &&
    (List.range (pagedCount d e)).all (fun i => inHalf m (s.tokenAddr m e (dFirst d + i) + dRoff d * 64) (dWords d * 64))

/-- The engine fetches the lists that a paged descriptor needs: the page list and, with BND, the boundary list (R308, R310);
whether it can use them (R299, R300). -/
def State.fetchLists (s : State) (env : MemEnv) (d : List Word64) : Bool × State :=
  if dOp d = opRdp ∨ dOp d = opWrp then
    let e := s.slot (dSlot d)
    let r := pageRange d e
    let x := s.fetchMem env (e.plist + 4 * r.1) (4 * r.2)
    let y := x.2.fetchMem env e.blist (if dOp d = opRdp ∧ dBnd d = true then 4 * e.nbnd else 0)
    (x.1.isSome && y.1.isSome, y.2)
  else (true, s)

/-- The refusals of paged operations (R312). -/
def State.pagedRefused (s : State) (m : Nat) (d : List Word64) : Bool :=
  let e := s.slot (dSlot d)
  let n := pagedCount d e
  dSlot d / 2048 != m ||
    (if dOp d = opRdp then
      e.state == 0 || decide (e.roww < dRoff d + dWords d) || decide (e.len < dFirst d + n) ||
        decide (2 ^ 32 - 1 < s.follow d e + b2n (dLead d))
    else
      e.state != 1 || decide (e.len < dFirst d) ||
        decide (0 < n ∧ e.npages ≤ (dFirst d + n - 1) / max 1 e.perPage))

/-- The failure that the engine of M die `m` finds in a descriptor at its fetch (R292, R312); 0 for none. -/
def State.descCode (s : State) (m : Nat) (d : List Word64) : Nat :=
  let op := dOp d
  if descReserved d then 1
  else if op = opRd ∨ op = opWr then
    if dTgt d = 0 ∧ (dAddr d % 64 ≠ 0 ∨ !inHalf m (dAddr d) (descSpan d)) then 2
    else if dTgt d = 1 ∧ dAddr d % 64 ≠ 0 then 2
    else 0
  else if op = opRdp ∨ op = opWrp then
    if s.pagedRefused m d then 4 else if s.pagesOk m d (s.slot (dSlot d)) then 0 else 2
  else 0

/- ### Stopping and ending -/

/-- The trees that have M die `m` as an engine member are abandoned (R65, R292). -/
def State.abandonEngine (s : State) (m : Nat) : State :=
  (List.range 32).foldl (fun s k => if hasBit (s.rd (Reg.TK_BIND_ENG k)) m then s.abandonTree k else s) s

/-- A descriptor fails: its stream stops, the first failure is recorded, the tile is told, and the spool layer hands the
fault up (R292). -/
def State.stopStream (s : State) (t k code : Nat) : State :=
  let y := s.stream t k
  let m := y.m
  let s1 := s.setStream t k { y with state := 3 }
  let s2 := if s1.on (Reg.SP_ERR_VALID m) then s1
    else ((((s1.wr (Reg.SP_ERR_CODE m) code).wr (Reg.SP_ERR_TILE m) t).wr (Reg.SP_ERR_SPOOL m) k).wr
      (Reg.SP_ERR_IDX_INDEX m) y.idx).flag (Reg.SP_ERR_VALID m)
  let s3 := (s2.emit (.packet { hdr := { kind := pkSpool, dest := t, src := mCode m, tag := k, sub := spStop : PktHdr }.word,
                                relay := none, data := [], bad := [] })).abandonEngine m
  s3.openFault { s3.faultRec 5 code with ltile := t }

/-- A stream goes on to its next descriptor. -/
def State.nextDesc (s : State) (t k : Nat) : State :=
  let y := s.stream t k
  s.setStream t k { y with idx := y.idx + 1, desc := [], pos := 0 }

/-- A descriptor that the engine has fetched is checked (R287, R292), and runs. What it needs of lists and cannot use, it waits
for. -/
def State.startDesc (s : State) (env : MemEnv) (t k : Nat) (run : State → Nat → Nat → List Word64 → State)
    (d : List Word64) : State :=
  let y := s.stream t k
  let r := s.fetchLists env d
  let c := r.2.descCode y.m d
  -- a read spool takes no write descriptor, and a write spool no read descriptor
  let cross : Bool := decide ((k < 2 ∧ (dOp d = opWr ∨ dOp d = opWrp)) ∨ (2 ≤ k ∧ (dOp d = opRd ∨ dOp d = opRdp)))
  if c = 1 ∨ c = 4 then r.2.stopStream t k c
  else if cross then r.2.stopStream t k 1
  else if !r.1 then r.2
  else if c ≠ 0 then r.2.stopStream t k c
  else run (r.2.setStream t k { r.2.stream t k with desc := d, pos := 0 }) t k d

/-- A descriptor command of a row: where the stream is between descriptors, the next descriptor is fetched and checked
(R287, R292); it runs if it is the row's. A descriptor in progress that is the row's goes on. A descriptor that comes poisoned
does not run: the spec does not say what the engine does with it.
(DEDUCED, log entry 40; DESIGN CHOICE, log entry 75) -/
def streamRow (tile : TileId) (spool : Fin 4) (op : Nat) (env : MemEnv) (run : State → Nat → Nat → List Word64 → State) (s : State) :
    Res :=
  let t := tile.val
  let k := spool.val
  let y := s.stream t k
  .next (
    if y.state ≠ 1 then s
    else if y.desc ≠ [] then (if dOp y.desc = op then run s t k y.desc else s)
    else
      let f := s.fetchMem env (y.base + 32 * y.idx) 32
      match f.1 with
      | none => f.2
      | some bs =>
        let d := descWords bs
        let known := dOp d == opRd || dOp d == opRdp || dOp d == opWr || dOp d == opWrp || dOp d == opMark || dOp d == opEnd
        if known ∧ dOp d ≠ op then s else f.2.startDesc env t k run d)

/- ### Reads -/

/-- Spool words of a byte string with its poisoned 8 B words; no word carries an end mark. -/
def wordsOf (bs : List Byte) (bad : List Nat) : List SpoolWord :=
  (List.range (bs.length / 64)).map (fun i => {
    data := (bs.drop (64 * i)).take 64, last := false,
    bad := (bad.filter (fun b => b / 8 == i)).map (fun b => b % 8) })

/-- The end mark goes on the last word of a packet (R283). -/
def markLast : List SpoolWord → List SpoolWord
  | [] => []
  | [w] => [{ w with last := true }]
  | w :: ws => w :: markLast ws

/-- Reads of rows of `n` bytes at given addresses, one after another. -/
def readRows (env : MemEnv) (n : Nat) : List Nat → State → List SpoolWord × State
  | [], s => ([], s)
  | a :: as, s =>
    let r := s.memRead env true a n
    let x := readRows env n as r.2.2
    (wordsOf r.1 r.2.1 ++ x.1, x.2)

/-- The addresses of the rows of a linear descriptor (R289). -/
def rowAddrs (d : List Word64) : List Nat := (List.range (dRows d)).map (fun k => dAddr d + k * dStride d)

/-- The words of elements that an RD with CMP widens (R140, R306). -/
def expandCmp (d : List Word64) (bs : List Byte) : List Byte :=
  let scales := bs.drop (cmpScales d)
  (List.range (cmpElems d)).flatMap (fun i =>
    let v := scaleNum (nth scales (i / 32) 0).toNat 0 (elemNum 6 (nth bs i 0).toNat)
    if dBf16 d then natLe (fmtBF16.rne v) 2 else natLe (rne32 v) 4)

/-- The poisoned 8 B words of what an RD with CMP delivers: every word whose element or scale came poisoned. -/
def expandBad (d : List Word64) (bad : List Nat) : List Nat :=
  let w := if dBf16 d then 4 else 2
  (List.range (dWords d * 8)).filter (fun i =>
    let e := i * w
    bad.contains (e / 8) || bad.contains ((cmpScales d + e / 32) / 8))

/-- The words of a read descriptor from a peer or the host: what came back. -/
def extWords (d : List Word64) (env : MemEnv) : List SpoolWord :=
  let n := if dCmp d then descSpan d else dRows d * dWords d * 64
  let bs := env.ext.take n ++ List.replicate (n - env.ext.length) 0
  let bad := (List.range (n / 8)).filter (fun w => env.extBad.contains (w / 32))
  if dCmp d then wordsOf (expandCmp d bs) (expandBad d bad) else wordsOf bs bad

/-- The words of a read wait for credit. -/
def State.deliver (s : State) (t k : Nat) (ws : List SpoolWord) : State :=
  let y := s.stream t k
  (s.setStream t k { y with buf := markLast ws }).sendStream t k

/-- The access of an off-load descriptor is refused (R292, code 5): the route or the transfer failed, or the host window of the
job does not hold it (R305). -/
def State.extRefused (s : State) (d : List Word64) (env : MemEnv) : Bool :=
  !env.extOk || (dTgt d == 2 && decide (s.host.winLen < dAddr d + descSpan d))

/-- A bolt peer's device: same group of eight, at the slot that PEER names (R288, R305). -/
def State.peerDev (s : State) (d : List Word64) : Nat := s.devId.toNat / 8 * 8 + dPeer d

/-- The read request of an off-load range goes to the peer or the host (R305). -/
def State.askExt (s : State) (d : List Word64) (a n : Nat) : State :=
  if dTgt d = 1 then s.emit (.peerAccess (s.peerDev d) a n []) else s.emit (.hostRead (s.host.winBase + a) n)

/-- The read requests of an off-load RD, row by row. -/
def State.askRows (s : State) (d : List Word64) : State :=
  if dCmp d then s.askExt d (dAddr d) (descSpan d)
  else (rowAddrs d).foldl (fun s a => s.askExt d a (dWords d * 64)) s

/-- An RD starts (R289, R305, R306).
(DEDUCED, log entry 40) -/
def runRd (env : MemEnv) (s : State) (t k : Nat) (d : List Word64) : State :=
  let y := s.stream t k
  if y.pos ≠ 0 then s
  else
    let s0 := s.setStream t k { y with pos := 1 }
    if dTgt d ≠ 0 then
      (if s.extRefused d env then s0.stopStream t k 5 else (s0.askRows d).deliver t k (extWords d env))
    else if dCmp d then
      let r := s0.memRead env true (dAddr d) (descSpan d)
      r.2.2.deliver t k (wordsOf (expandCmp d r.1) (expandBad d r.2.1))
    else
      let r := readRows env (dWords d * 64) (rowAddrs d) s0
      r.2.deliver t k r.1

/-- RD (R289). -/
def execRd (tile : TileId) (spool : Fin 4) (env : MemEnv) (s : State) : Res := streamRow tile spool opRd env (runRd env) s

/-- A 64 B word with a number in it. -/
def numWord (x : Nat) : SpoolWord := { data := natLe x 64, last := false, bad := [] }

/-- The lead word of an RDP (R311). -/
def State.leadWord (s : State) (d : List Word64) (e : SeqEnt) : SpoolWord :=
  numWord (dSlot d + 2 ^ 12 * b2n (dBnd d) + 2 ^ 16 * dFirst d + 2 ^ 40 * pagedCount d e + 2 ^ 64 * e.len
    + 2 ^ 88 * (s.boundaries d e).length + 2 ^ 96 * dWords d + 2 ^ 128 * e.w3.toNat + 2 ^ 192 * s.follow d e)

/-- The boundary words: 16 positions each, unused places all ones (R310). -/
def boundaryWords (ps : List Nat) : List SpoolWord :=
  (List.range (ceilDiv ps.length 16)).map (fun i =>
    { data := (List.range 16).flatMap (fun j => natLe (nth ps (16 * i + j) 0xFFFFFFFF) 4), last := false, bad := [] })

/-- An RDP starts (R310, R311).
(DEDUCED, log entry 40) -/
def runRdp (env : MemEnv) (s : State) (t k : Nat) (d : List Word64) : State :=
  let y := s.stream t k
  if y.pos ≠ 0 then s
  else
    let e := s.slot (dSlot d)
    let s0 := s.setStream t k { y with pos := 1 }
    let r := readRows env (dWords d * 64)
      ((List.range (pagedCount d e)).map (fun i => s.tokenAddr y.m e (dFirst d + i) + dRoff d * 64)) s0
    r.2.deliver t k ((if dLead d then [s.leadWord d e] else []) ++ boundaryWords (s.boundaries d e) ++ r.1)

/-- RDP (R310). -/
def execRdp (tile : TileId) (spool : Fin 4) (env : MemEnv) (s : State) : Res :=
  streamRow tile spool opRdp env (runRdp env) s

/- ### Writes -/

/-- The words that a write descriptor takes. -/
def State.writeWords (_s : State) (d : List Word64) : Nat :=
  if dOp d = opWrp then dCount d * dWords d else dRows d * dWords d

/-- The address of word `i` of a write descriptor (R289, R312); for off-load, the offset at the target. -/
def State.wordAddr (s : State) (m : Nat) (d : List Word64) (i : Nat) : Nat :=
  if dOp d = opWrp then
    s.tokenAddr m (s.slot (dSlot d)) (dFirst d + i / dWords d) + (dRoff d + i % dWords d) * 64
  else dAddr d + i / dWords d * dStride d + i % dWords d * 64

/-- A gradient element that is written in a range armed in an earlier cycle counts for its tap (R363, R383). -/
def tapElem (now a : Nat) (w : Nat) (h : HarvestSt) : HarvestSt :=
  h.taps.foldl (fun h e =>
    if e.2.1 ≤ a ∧ a < e.2.1 + e.2.2.1 ∧ e.2.2.2 < now then
      let c := { h with tapCount := smPut h.tapCount e.1 (smGet h.tapCount e.1 0 + 4) }
      match fp32 w with
      | .fin _ m x =>
        let old := smGet h.tapSum e.1 (0, 0)
        (match (Num.fin false old.1 old.2).add (.fin false (m * m) (2 * x)) with
        | .fin _ m1 x1 => { c with tapSum := smPut c.tapSum e.1 (m1, x1) }
        | _ => c)
      | _ => { c with tapBad := e.1 :: c.tapBad }
    else h) h

/-- The FP32 elements of a written range count for the taps of its M die (R363). -/
def State.tapWrite (s : State) (m a : Nat) (bs : List Byte) : State :=
  if (s.hv m).taps = [] then s
  else s.modHv m (fun h => (List.range (bs.length / 4)).foldl
    (fun h i => tapElem s.now (a + 4 * i) (leNat ((bs.drop (4 * i)).take 4)) h) h)

/-- The bytes of a write go to their target (R290, R305): local GDDR7, a bolt peer, or the host window. The FP32 elements of a
local WR count for taps (R363). -/
def State.writeOut (s : State) (m : Nat) (d : List Word64) (env : MemEnv) (a : Nat) (bs : List Byte) (bad : List Nat) :
    State :=
  if dTgt d = 0 then
    let s1 := s.memWrite env true a bs bad
    if dOp d = opWr ∧ dCmp d = false then s1.tapWrite m a bs else s1
  else if dTgt d = 1 then s.emit (.peerAccess (s.peerDev d) a bs.length bs)
  else s.emit (.hostWrite (s.host.winBase + a) bs)

/-- A tail is written, and its landing space is credited to the tile (R286, R293). -/
def State.putTail (s : State) (t k : Nat) (env : MemEnv) (x : TailSt) : State :=
  let y := s.stream t k
  let s1 := s.writeOut y.m y.desc env x.addr x.bytes x.bad
  if x.words = 0 then s1 else s1.emitCredit (mCode y.m) t k x.words

/-- The tails of a stream are written, the oldest first (R290, R293). -/
def State.flushTails (s : State) (t k : Nat) (env : MemEnv) : State :=
  let y := s.stream t k
  y.tails.foldl (fun s x => s.putTail t k env x) (s.setStream t k { y with tails := [] })

/-- Bytes that come after a tail, in its block. -/
def TailSt.takes (x : TailSt) (a : Nat) : Bool := x.addr + x.bytes.length == a && x.addr / 256 == a / 256

/-- The tail with bytes after it. -/
def TailSt.add (x : TailSt) (bs : List Byte) (bad : List Nat) (words : Nat) : TailSt :=
  { x with bytes := x.bytes ++ bs, bad := x.bad ++ bad.map (fun b => b + x.bytes.length / 8), words := x.words + words }

/-- Bytes for an address join the tail that they come after, or make a new one. -/
def joinTails (a : Nat) (bs : List Byte) (bad : List Nat) (words : Nat) : List TailSt → List TailSt
  | [] => [⟨a, bs, bad, words⟩]
  | x :: xs => if x.takes a then x.add bs bad words :: xs else x :: joinTails a bs bad words xs

/-- A tail whose block is complete (R293). -/
def TailSt.full (x : TailSt) : Bool := x.bytes.length == 256

/-- Bytes enter the tails; a block that is complete is written (R293). -/
def State.takeBytes (s : State) (t k : Nat) (env : MemEnv) (a : Nat) (bs : List Byte) (bad : List Nat) (words : Nat) : State :=
  let y := s.stream t k
  let l := joinTails a bs bad words y.tails
  let s1 := s.setStream t k { y with tails := l.filter (fun x => !x.full) }
  (l.filter TailSt.full).foldl (fun s x => s.putTail t k env x) s1

/-- One word of a linear or paged write enters the tails (R293); the end-marked word has all of them written. -/
def State.takeWord (s : State) (t k : Nat) (env : MemEnv) (w : SpoolWord) : State :=
  let y := s.stream t k
  let a := s.wordAddr y.m y.desc y.pos
  let s1 := (s.setStream t k { y with landing := y.landing.drop 1, pos := y.pos + 1 }).takeBytes t k env a w.data w.bad 1
  if w.last then s1.flushTails t k env else s1

/-- Words of a compressed write per block of 32 elements (R306). -/
def cmpGroup (d : List Word64) : Nat := if dBf16 d then 1 else 2

/-- One block of 32 elements is compressed, and its elements and its scale enter the tails (R141–R143, R293, R306): the words it
came in leave the landing buffer. -/
def State.takeGroup (s : State) (t k : Nat) (env : MemEnv) (ws : List SpoolWord) : State :=
  let y := s.stream t k
  let d := y.desc
  let bs := spoolBytes ws
  let vals := (List.range 32).map (fun i =>
    if dBf16 d then fmtBF16.decode (leNat ((bs.drop (2 * i)).take 2)) else fp32 (leNat ((bs.drop (4 * i)).take 4)))
  let g := y.pos / cmpGroup d
  let b := narrowBlock 6 .rne (fun _ => 0) vals
  let clean := (spoolBad ws).isEmpty
  let s1 := s.setStream t k { y with landing := y.landing.drop ws.length, pos := y.pos + ws.length }
  let s2 := s1.takeBytes t k env (dAddr d + 32 * g) (packElems 8 (b.elems.map (fun e => e.code)))
    (if clean then [] else [0, 1, 2, 3]) 0
  let s3 := s2.takeBytes t k env (dAddr d + cmpScales d + g) b.scale (if clean then [] else [0]) 0
  let s4 := (s3.modMdie y.m (fun x => { x with offSat := x.offSat + (b.elems.filter (fun e => e.sat)).length })).emitCredit
    (mCode y.m) t k ws.length
  if ws.any (fun w => w.last) then s4.flushTails t k env else s4

/-- An end mark belongs on the last word of a write descriptor, and on no other (R283, R292). -/
def State.marksFit (s : State) (d : List Word64) (pos : Nat) (w : SpoolWord) : Bool :=
  w.last == (pos + 1 == s.writeWords d)

/-- A write takes the words that have landed (R289, R290, R292, R293). -/
def drainWrite (t k : Nat) (env : MemEnv) : Nat → State → State
  | 0, s => s
  | fuel + 1, s =>
    let y := s.stream t k
    let d := y.desc
    if s.writeWords d ≤ y.pos then s
    else
      let n := if dCmp d then cmpGroup d else 1
      let ws := y.landing.take n
      if ws.length < n then s
      else if !(ws.zipIdx).all (fun e => s.marksFit d (y.pos + e.2) e.1) then s.stopStream t k 3
      else
        drainWrite t k env fuel (if dCmp d then s.takeGroup t k env ws else ws.foldl (fun s w => s.takeWord t k env w) s)

/-- A write descriptor has written its last byte. -/
def State.writeDone (s : State) (y : StreamSt) : Bool := decide (s.writeWords y.desc ≤ y.pos) && y.tails == []

/-- A write descriptor runs; a refused host window or a lost route ends it (R292, code 5). After the last PCIe write the last
address is read back (R290); that the transfers and that read succeeded is what `env` says.
(DESIGN CHOICE, log entry 17) -/
def runWrite (env : MemEnv) (s : State) (t k : Nat) (d : List Word64) : State :=
  let y := s.stream t k
  if dTgt d ≠ 0 ∧ s.extRefused d env = true then s.stopStream t k 5
  else
    let s1 := drainWrite t k env (y.landing.length + 1) s
    let y1 := s1.stream t k
    if dTgt d = 2 ∧ y1.state = 1 ∧ y1.pos ≠ y.pos ∧ s1.writeDone y1 = true then
      let a := if dCmp d then dAddr d + descSpan d - 1 else s1.wordAddr y1.m d (y1.pos - 1)
      s1.emit (.hostRead (s1.host.winBase + a) (if dCmp d then 1 else 64))
    else s1

/-- WR (R289, R290, R306).
(DEDUCED, log entry 40) -/
def execWr (tile : TileId) (spool : Fin 4) (env : MemEnv) (s : State) : Res := streamRow tile spool opWr env (runWrite env) s

/-- WRP (R312).
(DEDUCED, log entry 40) -/
def execWrp (tile : TileId) (spool : Fin 4) (env : MemEnv) (s : State) : Res :=
  streamRow tile spool opWrp env (runWrite env) s

/- ### MARK, END and completion -/

/-- A MARK is reached (R291): every earlier descriptor of the stream has completed, since one runs at a time. -/
def runMark (s : State) (t k : Nat) (d : List Word64) : State :=
  let y := s.stream t k
  (s.setStream t k { y with marks := y.marks ++ [dAddr d % 2 ^ 16] }).nextDesc t k

/-- SPOOL_MARK (R291). -/
def execSpoolMark (tile : TileId) (spool : Fin 4) (env : MemEnv) (s : State) : Res :=
  streamRow tile spool opMark env runMark s

/-- SPOOL_END (R287). -/
def execSpoolEnd (tile : TileId) (spool : Fin 4) (env : MemEnv) (s : State) : Res :=
  streamRow tile spool opEnd env (fun s t k _ => s.setStream t k { s.stream t k with state := 4, desc := [] }) s

/-- The descriptor in progress has completed (R290). -/
def State.descDone (s : State) (y : StreamSt) : Bool :=
  if y.desc = [] then false
  else if dOp y.desc = opRd ∨ dOp y.desc = opRdp then y.pos != 0 && y.buf == [] && y.flight == 0
  else if dOp y.desc = opWr ∨ dOp y.desc = opWrp then s.writeDone y
  else false

/-- DESCRIPTOR_COMPLETE (R290, R312): a WRP raises LEN of its slot.
(DEDUCED, log entry 40) -/
def execDescriptorComplete (tile : TileId) (spool : Fin 4) (s : State) : Res :=
  let t := tile.val
  let k := spool.val
  let y := s.stream t k
  let d := y.desc
  .next (
    if y.state = 1 ∧ s.descDone y = true then
      let s1 := if dOp d = opWrp then
          let e := s.slot (dSlot d)
          { s with seqs := smPut s.seqs (dSlot d) (e.setLen (max e.len (dFirst d + dCount d))) }
        else s
      s1.nextDesc t k
    else s)

/- ### Stale tails -/

/-- The stale-tail timeout of an M die in ns (R293). -/
def State.staleNs (s : State) (m : Nat) : Nat := max 16 (s.rd (Reg.SP_CTL_STALE m))

/-- STALE_TAIL_FLUSH (R293, R294): a word that enters in the cycle in which the timeout expires has none of it, so that the flush
comes after that cycle. A tail for a peer or the host needs its transfer (R292).
(DEDUCED, log entry 40) -/
def execStaleTailFlush (tile : TileId) (spool : Fin 4) (env : MemEnv) (s : State) : Res :=
  let t := tile.val
  let k := spool.val
  let y := s.stream t k
  .next (
    if 2 ≤ k ∧ y.state = 1 ∧ y.tails ≠ [] ∧ y.last + s.staleNs y.m < s.now then
      if dTgt y.desc ≠ 0 ∧ s.extRefused y.desc env = true then s.stopStream t k 5
      else (s.flushTails t k env).modMdie y.m (fun x => { x with staleWr := min 0xFFFF (x.staleWr + 1) })
    else s)

/-- STALE_READ_PERIOD (R293): counted once for an idle period of a non-empty read spool. -/
def execStaleReadPeriod (tile : TileId) (spool : Fin 4) (s : State) : Res :=
  match s.physOf tile.val with
  | none => .fault .noSuchTile
  | some p =>
    let x := (s.tile p).spool spool.val
    let m := (s.stream tile.val spool.val).m
    .next (
      if spool.val < 2 ∧ x.words ≠ [] ∧ ¬ x.counted ∧ x.last + s.staleNs m ≤ s.now then
        (s.modTile p (fun t => t.setSpool spool.val { x with counted := true })).modMdie m
          (fun y => { y with staleRd := min 0xFFFF (y.staleRd + 1) })
      else s)

end Sys2Proof.Machine
end

