-- ==== Sys2Proof/Machine/Harvest.lean ====
section
/-! DEFINITION. Harvest command streams (R360, R361): tensor descriptors (R357), errors (R381), taps (R363), the norm
exchange (R364, R375, R409), thinning (R373), noise sums (R375), touches (R355, R356), SYNC, MARK and END, and mirror writes
at their device (R371). -/

namespace Sys2Proof.Machine

/- ### Commands and errors -/

def opTap : Nat := 1
def opNorm : Nat := 2
def opUpdate : Nat := 3
def opThin : Nat := 4
def opNoise : Nat := 5
def opTouch : Nat := 6
def opSync : Nat := 7
def opHMark : Nat := 0xD
def opHEnd : Nat := 0xE

/-- The states of an engine as `HV_STAT.STATE` reads them. -/
def hvIdle : Nat := 0
def hvRun : Nat := 1
def hvWait : Nat := 2
def hvError : Nat := 3
def hvEnd : Nat := 4

/-- OP and TID of a command; its word 0 above. -/
def cOp (c : List Word64) : Nat := dBits c 0 3 0
def cTid (c : List Word64) : Nat := dBits c 0 17 4

/-- A stream stops on an error (R381): the first one is recorded, and the Harvest layer hands it up. -/
def State.harvestError (s : State) (m code tid : Nat) : State :=
  let s1 := s.modHv m (fun h => { h with state := hvError, err := true })
  let s2 := if s1.on (Reg.HV_ERR_VALID m) then s1
    else ((s1.wr (Reg.HV_ERR_CODE m) code).wr (Reg.HV_ERR_TID m) tid).flag (Reg.HV_ERR_VALID m)
  s2.openFault (s2.faultRec 6 code)

/-- The 40-bit address in a LO/HI register pair of an engine. -/
def State.hvAddr (s : State) (lo hi : Fld) : Nat := s.rd lo + 2 ^ 32 * s.rd hi

def State.hvCmd (s : State) (m : Nat) : Nat := s.hvAddr (Reg.HV_CMD_LO_VALUE m) (Reg.HV_CMD_HI_VALUE m)
def State.hvTdesc (s : State) (m : Nat) : Nat := s.hvAddr (Reg.HV_TDESC_LO_VALUE m) (Reg.HV_TDESC_HI_VALUE m)
def State.hvSched (s : State) (m : Nat) : Nat := s.hvAddr (Reg.HV_SCHED_LO_VALUE m) (Reg.HV_SCHED_HI_VALUE m)

/-- The distance from a live view to its alternate view (R353). -/
def State.hvBoff (s : State) (m : Nat) : Nat := 65536 * s.rd (Reg.HV_BOFF_PAGES m)

/-- The stream goes on to its next command. -/
def State.nextCmd (s : State) (m : Nat) : State := s.modHv m (fun h => { h with idx := h.idx + 1, state := hvRun })

/-- The 64-bit words that bytes spell. -/
def leWords (bs : List Byte) : List Word64 := (chunksOf 8 (bs.length / 8) bs).map (fun c => BitVec.ofNat 64 (leNat c))

/-- The 32-bit words that bytes spell. -/
def leWords32 (bs : List Byte) : List Nat := (chunksOf 4 (bs.length / 4) bs).map leNat

/-- Bytes read for an engine: none where the range is not in its half (code 2) or a block of it is poisoned (code 7). -/
def State.hvRead (s : State) (env : MemEnv) (m a n : Nat) : Except Nat (List Byte) × State :=
  if !inHalf m a n then (.error 2, s)
  else
    let r := s.memRead env true a n
    if r.2.1 = [] then (.ok r.1, r.2.2) else (.error 7, r.2.2)

/-- The reserved bits of a command are 0 (R360). -/
def cmdClean (c : List Word64) : Bool :=
  let rest := nth c 1 0 == 0 && nth c 2 0 == 0 && nth c 3 0 == 0
  let op := cOp c
  if op = opThin then
    dBits c 0 63 23 == 0 && dBits c 3 63 36 == 0
  else if op = opSync then dBits c 0 63 23 == 0 && rest
  else if op = opHMark then dBits c 0 47 18 == 0 && rest
  else if op = opNorm then dBits c 0 63 4 == 0 && rest
  else dBits c 0 63 18 == 0 && rest

def cmdListed (op : Nat) : Bool := decide (1 ≤ op ∧ op ≤ 7) || op == opHMark || op == opHEnd

/-- A command of a row executes: the engine runs, and the command at its index is the row's (R360). A reserved OP or field
stops the stream. -/
def harvestRow (m : Nat) (op : Nat) (env : MemEnv) (run : State → List Word64 → State) (s : State) : Res :=
  .next (
    if (s.hv m).state ≠ hvRun then s
    else
      let r := s.hvRead env m (s.hvCmd m + 32 * (s.hv m).idx) 32
      match r.1 with
      | .error e => r.2.harvestError m e 0
      | .ok bs =>
        let c := leWords bs
        if cmdListed (cOp c) ∧ cOp c ≠ op then s
        else if !cmdListed (cOp c) || !cmdClean c then r.2.harvestError m 1 (cTid c)
        else run r.2 c)

/- ### Tensor descriptors -/

def tdBits (d : List Word64) (i hi lo : Nat) : Nat := dBits d i hi lo

def tdFrost (d : List Word64) : Bool := tdBits d 0 14 14 == 1
def tdMtype (d : List Word64) : Nat := tdBits d 0 15 15
def tdPrec (d : List Word64) : Nat := tdBits d 0 17 16
def tdBw (d : List Word64) : Nat := 128 * 2 ^ tdBits d 0 19 18
def tdCad (d : List Word64) : Nat := tdBits d 0 22 20
def tdDecay (d : List Word64) : Bool := tdBits d 0 23 23 == 1
def tdCfmt (d : List Word64) : Nat := tdBits d 0 25 24
def tdCrnd (d : List Word64) : Bool := tdBits d 0 26 26 == 1
def tdMirror (d : List Word64) : Bool := tdBits d 0 27 27 == 1
def tdThinned (d : List Word64) : Bool := tdBits d 0 28 28 == 1
def tdRows (d : List Word64) : Nat := tdBits d 1 31 0
def tdCols (d : List Word64) : Nat := tdBits d 1 63 32
def tdW (d : List Word64) : Nat := tdBits d 2 39 0
def tdM (d : List Word64) : Nat := tdBits d 3 39 0
def tdS (d : List Word64) : Nat := tdBits d 4 39 0
def tdG (d : List Word64) : Nat := tdBits d 5 39 0
def tdC (d : List Word64) : Nat := tdBits d 6 39 0
def tdR (d : List Word64) : Nat := tdBits d 7 39 0
def tdN (d : List Word64) : Nat := tdBits d 8 39 0
def tdNcnt (d : List Word64) : Nat := tdBits d 8 59 40
def tdIdx0 (d : List Word64) : Nat := tdBits d 9 47 0
def tdMdev (d : List Word64) : Nat := tdBits d 9 60 48
def tdTau (d : List Word64) : Nat := tdBits d 10 31 0

def tdElems (d : List Word64) : Nat := tdRows d * tdCols d

/-- Row blocks, column blocks and bytes of the preconditioner region (R366). -/
def tdBlockRows (d : List Word64) : Nat := ceilDiv (tdRows d) (tdBw d)
def tdBlockCols (d : List Word64) : Nat := ceilDiv (tdCols d) (tdBw d)
def tdSides (d : List Word64) : Nat := if tdPrec d = 2 then 4 else if tdPrec d = 1 then 2 else 0
def tdBlockBytes (d : List Word64) : Nat := 256 + tdSides d * tdBw d * tdBw d * 4

/-- Bytes of the compute copy (R368). -/
def tdCopyBytes (d : List Word64) : Nat :=
  if tdCfmt d = 1 then 2 * tdElems d
  else if tdCfmt d = 2 then ceilDiv (tdElems d) 256 * 256 + tdElems d / 32
  else 0

/-- A reserved field of a descriptor, or a TID that is not its own (R357). -/
def tdReserved (t : Nat) (d : List Word64) : Bool :=
  tdBits d 0 13 0 != t || tdPrec d == 3 || tdCfmt d == 3 || tdBits d 0 63 29 != 0 ||
    [2, 3, 4, 5, 6, 7].any (fun i => tdBits d i 63 40 != 0) || tdBits d 8 63 60 != 0 || tdBits d 9 63 61 != 0 ||
    decide (2 ^ 47 ≤ tdIdx0 d) || tdBits d 10 63 32 != 0 || [11, 12, 13, 14, 15].any (fun i => nth d i 0 != 0)

/-- Every page of a range is banked with a TID (R357). -/
def State.bankedAs (s : State) (m t a n : Nat) : Bool :=
  n == 0 || ((List.range ((a + n - 1) / 65536 - a / 65536 + 1)).all (fun i =>
    smFind (s.hv m).banked ((a - halfBase m) / 65536 + i) == some t))

/-- A region that a descriptor names is aligned and lies in the half; a banked one lies in pages of its TID. -/
def State.regionOk (s : State) (m t a n : Nat) (banked : Bool) : Bool :=
  a % 256 == 0 && inHalf m a n && (!banked || s.bankedAs m t a n)

/-- The address conditions of R357 for what an UPDATE reads and writes, of a zero-length shard as of any other. -/
def State.tdAddrOk (s : State) (m t : Nat) (d : List Word64) : Bool :=
  let n := tdElems d
  s.regionOk m t (tdW d) (4 * n) true && s.regionOk m t (tdM d) (if tdMtype d = 1 then 2 * n else 4 * n) true &&
    s.regionOk m t (tdG d) (4 * n) false &&
    (tdPrec d == 0 || s.regionOk m t (tdS d) (tdBlockRows d * tdBlockCols d * tdBlockBytes d) true) &&
    (tdCfmt d == 0 || s.regionOk m t (tdC d) (tdCopyBytes d) true)

/-- What an engine does with the descriptor that it has read, or with the failure to read it (R358): it takes the FROST bit. -/
def State.useDesc (s : State) (m t : Nat) (x : Except Nat (List Byte)) (f : State → List Word64 → State) : State :=
  match x with
  | .error e => s.harvestError m e t
  | .ok bs =>
    let d := leWords bs
    if tdReserved t d then s.harvestError m 1 t
    else
      let s1 := s.modHv m (fun h => { h with
        frost := if tdFrost d then (if h.frost.contains t then h.frost else t :: h.frost) else h.frost.filter (· != t) })
      f s1 d

/-- An engine reads the descriptor of a TID at a command that names it (R358). -/
def State.readDesc (s : State) (env : MemEnv) (m t : Nat) (f : State → List Word64 → State) : State :=
  let r := s.hvRead env m (s.hvTdesc m + 128 * t) 128
  r.2.useDesc m t r.1 f

/-- A command that a frozen TID skips: it is counted (R362). -/
def State.skipFrozen (s : State) (m : Nat) : State :=
  (s.modHv m (fun h => { h with cntFrost := h.cntFrost + 1 })).nextCmd m

/-- A TID is touched in this step (R355). -/
def HarvestSt.touch (h : HarvestSt) (t : Nat) : HarvestSt :=
  if h.touched.contains t then h else { h with touched := t :: h.touched }

/- ### TAP, TOUCH, SYNC, MARK and END -/

/-- TAP (R363, R383): the gradient range of the TID is armed from the next cycle on. -/
def execTap (m : Fin 2) (env : MemEnv) (s : State) : Res :=
  harvestRow m.val opTap env (fun s c =>
    let t := cTid c
    s.readDesc env m.val t (fun s d =>
      if !s.regionOk m.val t (tdG d) (4 * tdElems d) false then s.harvestError m.val 2 t
      else (s.modHv m.val (fun h => { h with taps := smPut h.taps t (tdG d, 4 * tdElems d, s.now) })).nextCmd m.val)) s

/-- TOUCH (R356). -/
def execTouch (m : Fin 2) (env : MemEnv) (s : State) : Res :=
  harvestRow m.val opTouch env (fun s c =>
    let t := cTid c
    s.readDesc env m.val t (fun s d =>
      if tdFrost d then s.skipFrozen m.val else (s.modHv m.val (fun h => h.touch t)).nextCmd m.val)) s

/-- SYNC (R360): the engine waits for the next completion of a chip tree's round. -/
def execSync (m : Fin 2) (env : MemEnv) (s : State) : Res :=
  harvestRow m.val opSync env (fun s c =>
    s.modHv m.val (fun h => { h with state := hvWait, syncWait := some (dBits c 0 22 18, 0) })) s

/-- HARVEST_MARK (R361): every earlier command has completed. -/
def execHarvestMark (m : Fin 2) (env : MemEnv) (s : State) : Res :=
  harvestRow m.val opHMark env (fun s c =>
    (s.modHv m.val (fun h => { h with marks := h.marks ++ [dBits c 0 63 48] })).nextCmd m.val) s

/-- HARVEST_END (R361, R69): the stream has ended for this step. -/
def execHarvestEnd (m : Fin 2) (env : MemEnv) (s : State) : Res :=
  harvestRow m.val opHEnd env (fun s _ => s.modHv m.val (fun h => { h with state := hvEnd, ended := true })) s

/-- An engine reports update done: it has reached END with no error, or its job has no stream for it (R361, R410). -/
def HarvestSt.updateDone (h : HarvestSt) : Bool := !h.err && (h.ended || h.state == hvIdle)

/- ### NOISE and NORM -/

/-- An FP32 value in units of 2^-149. -/
def exact149 : Num → Option Int
  | .fin n k e => some ((if n then -1 else 1) * ((k * 2 ^ (e + 149).toNat : Nat) : Int))
  | _ => none

/-- NOISE (R375): the noise inputs of the TID are added exactly. -/
def execNoise (m : Fin 2) (env : MemEnv) (s : State) : Res :=
  harvestRow m.val opNoise env (fun s c =>
    let t := cTid c
    s.readDesc env m.val t (fun s d =>
      if tdFrost d then s.skipFrozen m.val
      else if !s.regionOk m.val t (tdN d) (4 * tdNcnt d) false then s.harvestError m.val 2 t
      else
        let r := s.hvRead env m.val (tdN d) (4 * tdNcnt d)
        match r.1 with
        | .error e => r.2.harvestError m.val e t
        | .ok bs =>
          (r.2.modHv m.val (fun h => (leWords32 bs).foldl (fun h w => match exact149 (fp32 w) with
            | some x => { h with noise := smPut h.noise t (smGet h.noise t 0 + x) }
            | none => { h with noiseBad := t :: h.noiseBad }) h)).nextCmd m.val)) s

/-- The rounded tap sum and noise sum of a TID in an engine (R363, R375); none where the engine holds none. -/
def HarvestSt.tapValue (h : HarvestSt) (t : Nat) : Option Nat :=
  if h.tapBad.contains t then some fmtFP64.nanCode
  else (smFind h.tapSum t).map (fun x => rne64 (.fin false x.1 x.2))

def HarvestSt.noiseValue (h : HarvestSt) (t : Nat) : Option Nat :=
  if h.noiseBad.contains t then some fmtFP64.nanCode
  else (smFind h.noise t).map (fun x => rne64 (.fin (decide (x < 0)) x.natAbs (-149)))

/-- The TIDs of the norm list. -/
def State.normList (s : State) : List Nat := match s.host.img with
  | some g => g.norm
  | none => []

/-- The device's own vector: tap and noise of each TID of the list; a TID that no engine holds contributes +0 (R364). -/
def State.ownNorm (s : State) : List Nat :=
  s.normList.flatMap (fun t =>
    let pick := fun (f : HarvestSt → Nat → Option Nat) => (s.harvest.findSome? (fun h => f h t)).getD 0
    [pick HarvestSt.tapValue, pick HarvestSt.noiseValue])

/-- A device whose place the lowest device of its bolt takes: the manager after a takeover (R408, R409). -/
def State.absent (s : State) (d : DevId) : Bool := s.rd Reg.AT_EPOCH_GEN != 0 && d == s.managerId

/-- The devices of the domain. -/
def State.domain (s : State) : List DevId := match s.cfg with
  | some c => c.devices
  | none => [s.devId]

/-- The group of a device in a round of the reference map (R364): the devices of the domain that agree with it in every
other field, in order of position. -/
def refGroup (devs : List DevId) (round : Nat) (d : DevId) : List DevId :=
  let step := if round = 0 then 1 else if round = 1 then 8 else if round = 2 then 128 else 1024
  let len := if round = 1 then 16 else 8
  (List.range len).filterMap (fun i =>
    let n := d.toNat - d.toNat / step % len * step + i * step
    devs.find? (fun x => x.toNat == n))

/-- The rounds of the norm exchange, and the group of each for a device. -/
def State.normRounds (s : State) : Nat := match s.cfg with
  | some c => if c.normGroups = [] then 4 else c.normGroups.length
  | none => 4

def State.normGroup (s : State) (round : Nat) (d : DevId) : List DevId := match s.cfg with
  | some c => if c.normGroups = [] then refGroup c.devices round d else nth c.normGroups round []
  | none => [s.devId]

/-- The device of a bolt that stands in for an absent one: the present one with the lowest slot (R409).
(DEDUCED, log entry 48) -/
def State.standIn (s : State) (d : DevId) : Option DevId :=
  ((List.range 8).filterMap (fun i => s.domain.find? (fun x => x.toNat == d.toNat / 8 * 8 + i))).find?
    (fun x => !s.absent x)

/-- The members of a round's group whose vectors count: an absent one is skipped in the first round (R409). -/
def State.normMembers (s : State) (round : Nat) : List DevId :=
  (s.normGroup round s.devId).filter (fun d => round != 0 || !s.absent d)

/-- A vector leaves for the peers of the round; and, in the place of an absent device of the bolt that this device stands
in for, for that device's peers (R409). -/
def State.sendNorm (s : State) (round : Nat) (vals : List Nat) : State :=
  let send := fun (s : State) (place dst : DevId) =>
    if dst = s.devId ∨ s.absent dst then s else s.sendMsg dst 6 (round :: place.toNat :: vals)
  let s1 := (s.normMembers round).foldl (fun s d => send s s.devId d) s
  let gone := s1.domain.filter (fun d => s1.absent d && s1.standIn d == some s1.devId)
  if round = 0 then s1
  else gone.foldl (fun s a => (s.normGroup round a).foldl (fun s d => if d = a then s else send s a d) s) s1

/-- The engine whose rank registers count for a TID: the one whose bank map names it, else that of M0.
(DESIGN CHOICE, log entry 76) -/
def State.engineOf (s : State) (t : Nat) : Nat := if (s.hv 1).banked.any (fun e => e.2 == t) then 1 else 0

/-- The noise estimate of R375 from the sums of the last round, over the TIDs of the norm list that have noise inputs anywhere in
the domain: those with S[t] ≠ 0.
(DEDUCED, log entry 48) -/
def State.noiseEstimate (s : State) : Nat :=
  let mb := s.rd Reg.TK_STAT_MB_COUNT
  let terms := (s.normList.filter (fun t => !(fp64 (smGet (s.hv 0).ssum t 0).toNat).isZero)).map (fun t =>
    let m := s.engineOf t
    let p := max 1 (s.rd (Reg.HV_DPR_P m))
    let b := max 1 (s.rd (Reg.HV_DPR_B m))
    let n := mb * p
    let gs := div64 one64 (nat64 n)
    let eb := mul64 (mul64 gs gs) (smGet (s.hv 0).nsum t 0).toNat
    let es := div64 (smGet (s.hv 0).ssum t 0).toNat (nat64 n)
    let bb := nat64 (n * b)
    let g2 := div64 (sub64 (mul64 bb eb) (mul64 (nat64 b) es)) (sub64 bb (nat64 b))
    let tr := div64 (sub64 es eb) (sub64 (div64 one64 (nat64 b)) (div64 one64 bb))
    (n, g2, tr))
  let g := terms.foldl (fun a x => add64 a x.2.1) 0
  let t := terms.foldl (fun a x => add64 a x.2.2) 0
  let q := div64 t g
  if terms.any (fun x => decide (x.1 < 2)) || !finite64 q || (fp64 q).lt (.fin false 0 0) then 0x7FC00000 else thin32 q

/-- The exchange ends: the sums go to both engines, and NORM completes in both (R364). -/
def State.normEnd (s : State) (vals : List Nat) : State :=
  let put := fun (h : HarvestSt) => s.normList.zipIdx.foldl (fun h e => { h with
    nsum := smPut h.nsum e.1 (BitVec.ofNat 64 (nth vals (2 * e.2) 0)),
    ssum := smPut h.ssum e.1 (BitVec.ofNat 64 (nth vals (2 * e.2 + 1) 0)) }) h
  let done := fun (h : HarvestSt) => if h.state = hvWait ∧ h.syncWait = none then { h with state := hvRun, idx := h.idx + 1 } else h
  let s1 := { s with harvest := s.harvest.map (fun h => done (put h)) }
  { s1 with commit := { s1.commit with noise := BitVec.ofNat 32 s1.noiseEstimate, normRound := s1.normRounds } }

/-- Rounds go on while every vector of the round is at hand (R364).
(DEDUCED, log entry 48) -/
def normAdvance : Nat → State → State
  | 0, s => s
  | fuel + 1, s =>
    let r := s.commit.normRound
    let own := s.commit.normVals.map (fun w => w.toNat)
    if s.normRounds ≤ r then s
    else
      let vecs := (s.normMembers r).map (fun d =>
        if d = s.devId then some own
        else (s.commit.normGot.find? (fun g => g.1 == r && g.2.1 == d)).map (fun g => g.2.2.map (fun w => w.toNat)))
      if vecs.any Option.isNone then s
      else
        let vs : List (List Nat) := vecs.filterMap id
        let sum : List Nat := match vs with
          | [] => own
          | v :: rest => rest.foldl (fun (a b : List Nat) => (a.zip b).map (fun x => add64 x.1 x.2)) v
        let s1 := { s with commit := { s.commit with normRound := r + 1, normVals := sum.map (BitVec.ofNat 64) } }
        if r + 1 = s1.normRounds then s1.normEnd sum else normAdvance fuel (s1.sendNorm (r + 1) sum)

/-- Both engines of the device have handed their sums over, and the exchange runs. -/
def State.normRuns (s : State) : Bool := s.harvest.all (fun h => h.normed || h.state == hvIdle)

/-- NORM (R364, R365): when both engines have issued it, the exchange starts; an engine without a stream does not hold it up.
An exchange that was abandoned stays so: NORM ends ABANDONED at once.
(DEDUCED, log entry 48) -/
def execNorm (m : Fin 2) (env : MemEnv) (s : State) : Res :=
  harvestRow m.val opNorm env (fun s _ =>
    if (s.hv m.val).normAb then (s.modHv m.val (fun h => { h with normed := true })).nextCmd m.val
    else
      let s1 := s.modHv m.val (fun h => { h with normed := true, state := hvWait, syncWait := none })
      if s1.normRuns then
        let v := s1.ownNorm
        let s2 := { s1 with commit := { s1.commit with normRound := 0, normVals := v.map (BitVec.ofNat 64) } }
        normAdvance (s2.normRounds + 1) (s2.sendNorm 0 v)
      else s1) s

/-- NORM_VECTOR (R364, R409): a peer's vector is kept for its round.
(DEDUCED, log entry 48) -/
def execNormVector (msg : MsgId) (vec : NormVec) (s : State) : Res :=
  .next (s.takeMsg msg (fun s =>
    let s1 := { s with commit := { s.commit with
      normGot := s.commit.normGot ++ [(vec.round, vec.place, vec.vals)] } }
    if s1.normRuns ∧ s1.harvest.any (fun h => h.normed) ∧ ¬ s1.harvest.any (fun h => h.normAb) then
      normAdvance (s1.normRounds + 1) s1
    else s1))

/-- An engine waits in NORM for the exchange to end. -/
def HarvestSt.inNorm (h : HarvestSt) : Bool := h.normed && h.state == hvWait && h.syncWait.isNone

/-- The exchange is abandoned (R365): NORM ends ABANDONED in the engines that wait for it, and will in one that issues it later.
An UPDATE with TAU ≠ 0 then finds the error. -/
def HarvestSt.normLost (h : HarvestSt) : HarvestSt :=
  if h.inNorm then { h with normAb := true, state := hvRun, idx := h.idx + 1 } else { h with normAb := true }

/-- An engine waits in NORM, and the norm exchange with it is abandoned (R365, R392). -/
def State.endNorm (s : State) : State :=
  if s.harvest.any HarvestSt.inNorm then { s with harvest := s.harvest.map HarvestSt.normLost } else s

/-- The loss of link `n` abandons the exchange where one of the vectors of the running round takes it (R365).
(DEDUCED, log entry 48) -/
def State.abandonNorm (s : State) (n : Nat) : State :=
  if s.commit.normRound < s.normRounds ∧
      (s.normMembers s.commit.normRound).any (fun d => d != s.devId && s.routeTo d.toNat == some n) then s.endNorm
  else s

/- ### THIN -/

/-- Element `a` comes before element `b` in the choice of R373: a larger magnitude, NaN largest, and of equal ones the
lower index. -/
def thinBefore (a b : Nat × Nat) : Bool :=
  let mag := fun (w : Nat) => let x := w % 2 ^ 31; if 0x7F800000 < x then 0x7F800001 else x
  decide (mag b.1 < mag a.1) || (mag a.1 == mag b.1 && decide (a.2 < b.2))

/-- The indices of the `k` chosen elements, in ascending order: those that fewer than `k` others come before. -/
def thinChoice (k : Nat) (l : List Nat) : List Nat :=
  let e := l.zipIdx
  (e.filter (fun x => decide ((e.filter (fun y => thinBefore y x)).length < k))).map (fun x => x.2)

/-- An OUT entry (R373). -/
def thinEntry (a i j : Nat) : List Byte := natLe (a + 2 ^ 32 * i + 2 ^ 44 * (j % 2 ^ 20)) 8

/-- Bytes are written through the alternate view, and to the mirror device where the descriptor asks for it (R368, R371).
(DEDUCED, log entry 47) -/
def State.writeAlt (s : State) (env : MemEnv) (m : Nat) (d : List Word64) (a : Nat) (bs : List Byte) : State :=
  let dst := a + s.hvBoff m
  let s1 := s.memWrite env true dst bs []
  if tdMirror d then
    s1.emit (.mirror (tdMdev d) (dst + s.hvAddr (Reg.HV_MOFF_LO_VALUE m) (Reg.HV_MOFF_HI_VALUE m)) bs)
  else s1

/-- A THIN command: the engine, the descriptor, the addresses IN and OUT, COUNT and KSH. -/
structure ThinCmd where
  m : Nat
  d : List Word64
  inA : Nat
  outA : Nat
  count : Nat
  ksh : Nat
deriving DecidableEq, Repr

/-- The elements of block j, and how many of them THIN chooses (R373). -/
def ThinCmd.blockLen (c : ThinCmd) (j : Nat) : Nat := min 4096 (c.count - 4096 * j)
def ThinCmd.chosen (c : ThinCmd) (j : Nat) : Nat :=
  if c.blockLen j < 4096 then ceilDiv (c.blockLen j) (2 ^ c.ksh) else 4096 / 2 ^ c.ksh

/-- What THIN writes for a block whose gradients and residues have been read (R371–R373): the entries, and the residual through
the alternate view and to the mirror.
(DEDUCED, log entry 47) -/
def State.thinWrite (s : State) (env : MemEnv) (c : ThinCmd) (j : Nat) (x r : List Byte) : State :=
  let a := ((leWords32 x).zip (leWords32 r)).map (fun p => add32 p.1 p.2)
  let ch := thinChoice (c.chosen j) a
  let out := ch.flatMap (fun i => thinEntry (nth a i 0) i j)
  let res := a.zipIdx.flatMap (fun p => natLe (if ch.contains p.2 then 0 else p.1) 4)
  (s.memWrite env true (c.outA + j * (4096 / 2 ^ c.ksh) * 8) out []).writeAlt env c.m c.d (tdR c.d + 16384 * j) res

/-- THIN of one block of 4,096 elements, or the error of its reads. -/
def State.thinBlock (s : State) (env : MemEnv) (c : ThinCmd) (j : Nat) : Option Nat × State :=
  let r1 := s.hvRead env c.m (c.inA + 16384 * j) (4 * c.blockLen j)
  let r2 := r1.2.hvRead env c.m (tdR c.d + 16384 * j) (4 * c.blockLen j)
  match r1.1, r2.1 with
  | .ok x, .ok r => (none, r2.2.thinWrite env c j x r)
  | .error e, _ => (some e, r1.2)
  | _, .error e => (some e, r2.2)

/-- The blocks of a THIN one after another; an error stops it where it stands (R381). -/
def State.thinBlocks (s : State) (env : MemEnv) (c : ThinCmd) : Option Nat × State :=
  (List.range (ceilDiv c.count 4096)).foldl (fun x j => if x.1.isSome then x else x.2.thinBlock env c j) (none, s)

/-- The errors that a THIN finds before it reads (R373, R381): KSH is 4 to 8 and COUNT at most the shard, and what it reads and
writes lies where R357 and R373 call for it.
(DESIGN CHOICE, log entry 76) -/
def State.thinError (s : State) (t : Nat) (c : ThinCmd) : Option Nat :=
  if c.ksh < 4 ∨ 8 < c.ksh ∨ tdElems c.d < c.count then some 6
  else if !tdThinned c.d || c.inA % 4 != 0 || c.outA % 8 != 0 || !inHalf c.m c.inA (4 * c.count) ||
      !inHalf c.m c.outA (8 * ceilDiv c.count (2 ^ c.ksh)) || !s.regionOk c.m t (tdR c.d) (4 * c.count) true then some 2
  else none

/-- THIN (R371–R373, R381): of a mirrored tensor it is complete only when its mirror writes are acknowledged. -/
def execThin (m : Fin 2) (env : MemEnv) (s : State) : Res :=
  harvestRow m.val opThin env (fun s c =>
    let t := cTid c
    s.readDesc env m.val t (fun s d =>
      let x : ThinCmd := { m := m.val, d := d, inA := dBits c 1 63 0, outA := dBits c 2 63 0, count := dBits c 3 35 0,
                           ksh := dBits c 0 22 18 }
      if tdFrost d then s.skipFrozen m.val
      else match s.thinError t x with
        | some e => s.harvestError m.val e t
        | none =>
          let r := s.thinBlocks env x
          match r.1 with
          | some e => r.2.harvestError m.val e t
          | none => if tdMirror d && !env.extOk then r.2.harvestError m.val 5 t else r.2.nextCmd m.val)) s

/- ### Mirror writes at their device -/

/-- The page of an address is a mirror page of its half, or the partner of one (R371). -/
def State.mirrorPage (s : State) (a : Nat) : Bool :=
  match dieOf a with
  | none => false
  | some m =>
    let page := (a - halfBase m) / 65536
    let off := s.rd (Reg.HV_BOFF_PAGES m)
    (smFind (s.hv m).mirror page).isSome || (decide (off ≤ page) && (smFind (s.hv m).mirror (page - off)).isSome)

/-- Every page of a range is a mirror page or the partner of one (R371). -/
def State.mirrorPages (s : State) (a n : Nat) : Bool :=
  n == 0 || (List.range ((a + n - 1) / 65536 - a / 65536 + 1)).all (fun i => s.mirrorPage ((a / 65536 + i) * 65536))

/-- MIRROR_WRITE (R371): bytes of a buddy's UPDATE land through the bank map; a write outside the mirror pages is an
error. -/
def execMirrorWrite (addr : Nat) (data : List Byte) (_src : DevId) (s : State) : Res :=
  .next (
    match dieOf addr with
    | none => s.harvestError 0 5 0
    | some m =>
      if inHalf m addr data.length && s.mirrorPages addr data.length then
        s.memWrite ⟨[], [], [], true⟩ true addr data []
      else s.harvestError m 5 0)

end Sys2Proof.Machine
end

