-- ==== Sys2Proof/Machine/Windows.lean ====
section
/-! DEFINITION. Tile windows: the status words and the fault record of a tile as they read (R118–R121), and reads and
writes through a window (R10, R120, R435, R504, R505, R509–R512). -/

namespace Sys2Proof.Machine

/-- Bits of the debug scope that an unlock in force grants (R499). -/
def State.unlockScope (s : State) (i : Nat) : Bool :=
  match s.sec.unlocked with
  | some sc => hasBit sc i
  | none => false

/-- A host request is dropped while IDE is agreed and no IDE stream is established (R423, R497).
(DEDUCED, log entry 46) -/
def State.ideDrops (s : State) (port : Port) : Bool := port == .host && hasBit s.host.features 4 && s.sec.ide == []

/-- A dropped host request is counted (R478, R481, R497): not while the PCIe crossings are disarmed, and two drops less than four
cycles of the management clock apart count as one.
(DEDUCED, log entry 85) -/
def State.countDrop (s : State) : State :=
  if ¬ s.on Reg.BI_XARM_DONE then s
  else
    let close : Bool := match s.test.dropAt with
      | some t => decide (s.now < t + 20)
      | none => false
    let s1 := { s with test := { s.test with dropAt := some s.now } }
    if close then s1.flag Reg.BI_XARM_OVR else s1.bump Reg.SC_IDE_DROP 1

/-- An answer to a read or to a request leaves on its port. -/
def State.answer (s : State) (port : Port) (data : List Byte) (poisoned : Bool) : State :=
  s.emit (.answer port data poisoned)

/-- The code of `MN_TILE_STAT.STATE`. -/
def tileModeCode : TileMode → Nat
  | .idle => 0
  | .run => 1
  | .wait => 2
  | .seam => 3
  | .lend => 4
  | .stop => 5

/-- A status word of the tile at a physical position, by its window offset (R119); other offsets read 0. -/
def State.tileWord (s : State) (p o : Nat) : Nat :=
  let t := s.tile p
  if o = 0x3F000 then
    tileModeCode t.mode + 2 ^ 3 * t.rd Reg.MN_TILE_STAT_HOST_WR + 2 ^ 4 * b2n (s.rowMode (p / 1584) (p % 1584 / 33) == 1)
      + 2 ^ 5 * t.pc + 2 ^ 23 * t.rd Reg.MN_TILE_STAT_WIN_POISON
  else if o = 0x3F004 then
    t.rd Reg.MN_TILE_ECC_CE + 2 ^ 12 * t.rd Reg.MN_TILE_ECC_LATENT + 2 ^ 13 * t.rd Reg.MN_TILE_ECC_LATENT_ROW
  else if o = 0x3F008 then t.rd Reg.MN_TILE_COLL_COUNT
  else if o = 0x3F00C then t.rd Reg.MN_TILE_DBG_ACC_EN
  else if o = 0x3F010 then t.rd Reg.MN_TILE_SCRUB_INTERVAL
  else if 0x3F020 ≤ o ∧ o < 0x3F040 then frecWord t.fault ((o - 0x3F020) / 4)
  else 0

/-- A firmware read clears the RC fields of a status word (R14, R510). -/
def Tile.clearRc (t : Tile) (o : Nat) : Tile :=
  if o = 0x3F004 then t.wr Reg.MN_TILE_ECC_CE 0
  else if o = 0x3F008 then t.wr Reg.MN_TILE_COLL_COUNT 0
  else t

/-- A write to a status word (R119): W1C flags, the debug enable under its unlock (R113, R499) and the scrub interval.
Clearing VALID of the fault record clears the whole record (R514). Clearing LATENT clears LATENT_ROW, too: the spec does not
say whether it does.
(DESIGN CHOICE, log entry 71) -/
def State.writeTileWord (s : State) (p o v : Nat) : State :=
  let t := s.tile p
  if o = 0x3F000 then
    let t1 := if hasBit v 3 then t.wr Reg.MN_TILE_STAT_HOST_WR 0 else t
    s.setTile p (if hasBit v 23 then t1.wr Reg.MN_TILE_STAT_WIN_POISON 0 else t1)
  else if o = 0x3F004 then
    s.setTile p (if hasBit v 12 then (t.wr Reg.MN_TILE_ECC_LATENT 0).wr Reg.MN_TILE_ECC_LATENT_ROW 0 else t)
  else if o = 0x3F00C then (if s.unlockScope 0 then s.setTile p (t.wr Reg.MN_TILE_DBG_ACC_EN v) else s)
  else if o = 0x3F010 then s.setTile p (t.wr Reg.MN_TILE_SCRUB_INTERVAL v)
  else if o = 0x3F020 ∧ hasBit v 31 then s.setTile p { t with fault := {} }
  else s

/-- The tile position is under test: it takes no input, and its outputs are idle (R470, R483).
(DEDUCED, log entry 56) -/
def State.underTest (s : State) (p : Nat) : Bool := match s.test.running with
  | some u => decide (u % 16 < 4 ∧ u / 16 < 1584) && p == u % 16 * 1584 + u / 16
  | none => false

/-- The physical position and the offset that a window address names: the host reaches a window through an aperture
(R511), firmware by the device address (R504). None where it names no enabled tile or row (R505, R511), or a tile under test. -/
def State.windowOf (s : State) (port : Port) (addr : Nat) : Option (Nat × Nat) :=
  Option.filter (fun w => !s.underTest w.1) <| match port with
  | .host =>
    let k := (addr - 0x800000) / 0x40000
    let o := addr % 0x40000
    if addr < 0x800000 ∨ 0xC00000 ≤ addr then none
    else
      let n := s.rd (Reg.MN_TWIN_SEL_TILE k)
      if s.on (Reg.MN_TWIN_SEL_LOGICAL k) then
        (if n < 6144 then (s.physOf n).map (fun p => (p, o)) else none)
      else if n < 6336 ∧ (s.logicalOf n).isSome then some (n, o) else none
  | .fw =>
    let n := (addr - 0x4000000000) / 0x40000
    if addr < 0x4000000000 ∨ 6336 ≤ n then none
    else if s.rowMode (n / 1584) (n % 1584 / 33) = 2 then none else some (n, addr % 0x40000)

/-- A device address at which nothing is mapped (R504, R505). -/
def unmapped (a : Nat) : Bool :=
  decide ((0x2000000000 ≤ a ∧ a < 0x4000000000) ∨ (0x4063000000 ≤ a ∧ a < 0x6000000000) ∨ 0x6001000000 ≤ a)

/-- A firmware access to such an address is logged at trace point 1 (R505).
(DESIGN CHOICE, log entry 84) -/
def State.logUnmapped (s : State) (port : Port) (a : Nat) : State :=
  if port = .fw ∧ unmapped a then s.logRec 1 1 0 [a % 2 ^ 32, a / 2 ^ 32] else s

/-- An access of the registers, or of the host to BAR0, is one aligned 32-bit word (R509).
(DEDUCED, log entry 37) -/
def windowShape (port : Port) (o len : Nat) : Bool :=
  if port = .host ∨ 0x30000 ≤ o then len == 4 && o % 4 == 0 else decide (o + len ≤ scratchBytes)

/-- The answer of a window read (R103, R109, R120): a single-bit error is corrected and counted, and a word that is poisoned, or
decodes as uncorrectable, is returned as it is stored, marked, and flagged. -/
def State.windowRead (s : State) (port : Port) (addr len : Nat) : State :=
  match s.windowOf port addr with
  | none => (s.logUnmapped port addr).answer port (List.replicate len 0) false
  | some (p, o) =>
    let s := if windowShape port o len then (s.countCtl port p 0 true).countCtl port p len false else s
    if !windowShape port o len then s.answer port (List.replicate len 0) false
    else if o < 0x30000 then
      let t := (s.tile p).senseRange o len
      let bad := (t.poisonIn o len).isSome
      (s.answer port (Memory.readN (t.seen (meshAt s.now)).mem o len) bad).setTile p
        (if bad then t.wr Reg.MN_TILE_STAT_WIN_POISON 1 else t)
    else
      let s1 := s.answer port (natLe (s.tileWord p o) 4) false
      if port = .fw then s1.modTile p (fun t => t.clearRc o) else s1

/-- Reads held over a Seam or a scrub are answered, oldest first (R120, R435, R512).
(DEDUCED, log entry 37) -/
def State.answerHeld (s : State) : State :=
  s.fab.heldReads.foldl (fun s r => s.windowRead r.1 r.2.1 r.2.2) { s with fab := { s.fab with heldReads := [] } }

/-- TILE_WINDOW_READ (R119, R120, R435, R497, R511): held during a Seam, and during a scrub until the tiles are
cleared.
(DEDUCED, log entry 37) -/
def execTileWindowRead (port : Port) (addr : Nat) (len : Nat) (s : State) : Res :=
  .next (
    if s.ideDrops port then s.countDrop.answer port [] false
    else if s.on Reg.TK_STAT_IN_SEAM ∨ s.jobState = jbScrubbing then
      { s with fab := { s.fab with heldReads := s.fab.heldReads ++ [(port, addr, len)] } }
    else s.windowRead port addr len)

/-- TILE_WINDOW_WRITE (R119, R120, R435): a write to the scratchpad is carried out only while the tile reads IDLE or STOP
and no scrub runs; otherwise it is discarded and `HOST_WR` is set.
(DEDUCED, log entry 37) -/
def execTileWindowWrite (port : Port) (addr : Nat) (data : List Byte) (s : State) : Res :=
  .next (
    if s.ideDrops port then s.countDrop
    else match s.windowOf port addr with
      | none => s.logUnmapped port addr
      | some (p, o) =>
        let s := if windowShape port o data.length then (s.countCtl port p data.length true).countCtl port p 0 false else s
        if !windowShape port o data.length then s
        else if 0x30000 ≤ o then s.writeTileWord p o (leNat data)
        else
          let t := s.tile p
          if (t.mode = .idle ∨ t.mode = .stop) ∧ s.jobState ≠ jbScrubbing then s.setTile p (t.writeMem (meshAt s.now) o data)
          else s.setTile p (t.wr Reg.MN_TILE_STAT_HOST_WR 1))

end Sys2Proof.Machine
end

