-- ==== Sys2Proof/Machine/Memory.lean ====
section
/-! DEFINITION. GDDR7 outside the descriptor streams: the patrol (R302), the zeroing engines (R304), BAR2 (R303, R438,
R507), the sequence-slot commands (R309) and off-load accesses of bolt peers (R305). -/

namespace Sys2Proof.Machine

/-- An access on which nothing goes wrong. -/
def cleanEnv : MemEnv := ⟨[], [], [], true⟩

/-- MEMORY_PATROL (R302): a block of storage is read through the check path; an error faults nothing.
(DEDUCED, log entry 38) -/
def execMemoryPatrol (m : Fin 2) (block : Nat) (env : MemEnv) (s : State) : Res :=
  .next (
    if s.on (Reg.MM_CTL_PATROL_EN m.val) ∧ inHalf m.val (block * 256) 256 = true then
      let r := s.readBlock env m.val block
      let s1 := s.countLink m.val r.link
      match r.found with
      | none => s1.recordPersist block true false
      | some (_, true) => s1.bump (Reg.MM_CNT_CRC_POISON m.val) 1
      | some (_, false) => if r.failed = 0 then s1 else s1.bump (Reg.MM_CNT_CRC_TRANSIENT m.val) 1
    else s)

/-- Storage from an address up reads as zero with correct check words (R304). -/
def State.zeroStorage (s : State) (a n : Nat) : State :=
  { s with mem := smDelRange s.mem a n, poison := s.poison.filter (fun b => decide (b * 256 < a ∨ a + n ≤ b * 256)) }

/-- ZERO_START (R304): ignored while the engine runs, and for a range that leaves the half.
(DEDUCED, log entry 38) -/
def execZeroStart (m : Fin 2) (s : State) : Res :=
  let base := s.rd (Reg.MM_ZBASE_PAGES m.val)
  let len := s.rd (Reg.MM_ZLEN_PAGES m.val)
  .next (
    if s.on (Reg.MM_ZCTL_BUSY m.val) ∨ 1032192 < base + len then s
    else
      let a := halfBase m.val + 65536 * base
      ((s.zeroStorage a (65536 * len)).modMdie m.val (fun x => { x with zero := [(a / 256, len * 256)] })).flag
        (Reg.MM_ZCTL_BUSY m.val))

/-- ZERO_DONE (R304). -/
def execZeroDone (m : Fin 2) (s : State) : Res :=
  .next (
    if s.on (Reg.MM_ZCTL_BUSY m.val) then
      (s.modMdie m.val (fun x => { x with zero := [] })).wr (Reg.MM_ZCTL_BUSY m.val) 0
    else s)

/- ### BAR2 -/

/-- The first device address that is not addressable (R295). -/
def memLimit : Nat := 0x1F80000000

/-- The firmware region (R438). -/
def fwRegion : Nat := 0x1F70000000

/-- An access lies in BAR2, whose size is 2^size GiB (R506): another one is not the device's.
(DESIGN CHOICE, log entry 39) -/
def inBar2 (off len : Nat) (size : Fin 8) : Bool := decide (off + len ≤ 2 ^ (30 + size.val))

/-- The device address of a BAR2 offset (R303, R507). -/
def State.bar2Addr (s : State) (off : Nat) (size : Fin 8) : Nat :=
  if size = 7 then off else 2 ^ 30 * (s.rd Reg.FW_BAR2_BASE_BASE / 2 ^ size.val * 2 ^ size.val) + off

/-- BAR2_READ (R303, R497, R507): what is not addressable reads 0; poisoned blocks come marked.
(DEDUCED, log entry 38; DESIGN CHOICE, log entry 39; DEDUCED, log entry 46) -/
def execBar2Read (off : Nat) (len : Nat) (size : Fin 8) (env : MemEnv) (s : State) : Res :=
  .next (
    if !inBar2 off len size then s
    else if s.ideDrops .host then s.countDrop.answer .host [] false
    else
      let a := s.bar2Addr off size
      let n := min len (memLimit - a)
      let r := s.memRead env false a n
      r.2.2.answer .host (r.1 ++ List.replicate (len - n) 0) (r.2.1 != []))

/-- BAR2_WRITE (R303, R438, R497, R507): a write that reaches the firmware region is discarded and counted.
(DESIGN CHOICE, log entry 39) -/
def execBar2Write (off : Nat) (data : List Byte) (size : Fin 8) (env : MemEnv) (s : State) : Res :=
  .next (
    if !inBar2 off data.length size then s
    else if s.ideDrops .host then s.countDrop
    else
      let a := s.bar2Addr off size
      let n := min data.length (memLimit - a)
      if fwRegion < a + n ∧ a < memLimit then s.bump Reg.FW_CNT_RANGE_HOST 1
      else s.memWrite env false a (data.take n) [])

/- ### Sequence slots -/

/-- A slot command takes effect (R309). -/
def State.applySlot (s : State) (c : SeqCmd) : State :=
  let e := s.slot c.slot
  let e1 := if c.cmd = 1 then c.ent
    else if c.cmd = 2 then { e with w0 := BitVec.ofNat 64 (e.w0.toNat / 4 * 4) }
    else e.setLen (bitsOf c.ent.w0.toNat 55 32)
  { s with seqs := smPut s.seqs c.slot e1 }

/-- The commands that wait take effect in issue order, at H + W (R309). -/
def State.applySlots (s : State) (m : Nat) : State :=
  let q := (nth s.mdies m {}).waiting
  q.foldl State.applySlot (s.modMdie m (fun x => { x with waiting := [] }))

/-- The entry that `SQ_ENT_0`–`SQ_ENT_7` stage. -/
def State.stagedEnt (s : State) (m : Nat) : SeqEnt :=
  let w := fun (k : Nat) => BitVec.ofNat 64 (s.rd (Reg.SQ_ENT_VALUE m (2 * k)) + 2 ^ 32 * s.rd (Reg.SQ_ENT_VALUE m (2 * k + 1)))
  { w0 := w 0, w1 := w 1, w2 := w 2, w3 := w 3 }

/-- A slot command is issued (R309): at once while the phase is idle, at H + W otherwise; beyond 256 waiting commands, or
for a slot of the other M die, it is not applied.
(DEDUCED, log entry 41) -/
def State.slotCommand (s : State) (m cmd : Nat) : State :=
  let k := s.rd (Reg.SQ_SEL_SLOT m)
  let c : SeqCmd := { cmd := cmd, slot := k, ent := s.stagedEnt m }
  if k / 2048 ≠ m then s.flag (Reg.SQ_STAT_ERR m)
  else if s.phase = phIdle then s.applySlot c
  else if 256 ≤ (nth s.mdies m {}).waiting.length then s.flag (Reg.SQ_STAT_ERR m)
  else s.modMdie m (fun x => { x with waiting := x.waiting ++ [c] })

/-- SQ_WRITE (R309).
(DEDUCED, log entry 41) -/
def execSqWrite (m : Fin 2) (s : State) : Res := .next (s.slotCommand m.val 1)

/-- SQ_FREE (R309).
(DEDUCED, log entry 41) -/
def execSqFree (m : Fin 2) (s : State) : Res := .next (s.slotCommand m.val 2)

/-- SQ_SETLEN (R309).
(DEDUCED, log entry 41) -/
def execSqSetlen (m : Fin 2) (s : State) : Res := .next (s.slotCommand m.val 3)

/- ### Off-load peers -/

/-- A bolt peer's access fails the check of its address (R292, R305): the first failure is recorded; it names no tile, spool or
descriptor of this device, and the spec says nothing of what stands in their places.
(DESIGN CHOICE, log entry 75) -/
def State.refusePeer (s : State) (m : Nat) : State :=
  if s.on (Reg.SP_ERR_VALID m) then s
  else ((((s.wr (Reg.SP_ERR_CODE m) 2).wr (Reg.SP_ERR_TILE m) 0x1FFF).wr (Reg.SP_ERR_SPOOL m) 0).wr
    (Reg.SP_ERR_IDX_INDEX m) 0).flag (Reg.SP_ERR_VALID m)

/-- OFFLOAD_PEER_ACCESS (R292, R305): the engine checks the address as its own, accesses its half, and answers. -/
def execOffloadPeerAccess (m : Fin 2) (addr : Nat) (len : Nat) (data : Option (List Byte)) (env : MemEnv) (s : State) : Res :=
  let n := match data with
    | some d => d.length
    | none => len
  .next (
    if addr % 64 ≠ 0 ∨ !inHalf m.val addr n then (s.refusePeer m.val).emit (.peerAnswer false [] [])
    else
      match data with
      | some d => (s.memWrite env true addr d []).emit (.peerAnswer true [] [])
      | none =>
        let r := s.memRead env true addr n
        r.2.2.emit (.peerAnswer true r.1 (r.2.1.map (fun w => w / 32)).eraseDups))

end Sys2Proof.Machine
end

