-- ==== Sys2Proof/Machine/Patterns.lean ====
section
/-! DEFINITION. Pattern sets: the records of the halves (R224–R227, R231), the Seam descriptor (R240), the loader with
its CRC check and ready bits (R221, R222, R252, R255), and the grid on which stitches move (R185–R191, R205, R226). -/

namespace Sys2Proof.Machine

/- ### Records -/

def recBits (r : Word64) (hi lo : Nat) : Nat := bitsOf r.toNat hi lo

def recKind (r : Word64) : Nat := recBits r 3 0
def recSpan (r : Word64) : Nat := recBits r 8 4
def recSlot (r : Word64) : Nat := recBits r 24 9
def recRun (r : Word64) : Nat := recBits r 32 25 + 1

def kSend : Nat := 1
def kRecv : Nat := 2
def kPass : Nat := 3
def kRadd : Nat := 4
def kXin : Nat := 5
def kXout : Nat := 6
def kTxwin : Nat := 7
def kRxwin : Nat := 8

/-- ROW and STRIDE of SEND and RECV; the row of the `i`th slot of the run (R227). -/
def recRow (r : Word64) (i : Nat) : Int := (recBits r 44 33 : Int) + i * ofSigned 8 (recBits r 52 45)

/-- OUT of a SEND, IN and OP of a RECV. -/
def recPort (r : Word64) : Nat := recBits r 56 53
def recOp (r : Word64) : Nat := recBits r 58 57

/-- IN and OUT of a PASS; INA, INB, OUT and ETYPE of a RADD. -/
def passIn (r : Word64) : Nat := recBits r 36 33
def passOut (r : Word64) : Nat := recBits r 40 37
def raddA (r : Word64) : Nat := recBits r 36 33
def raddB (r : Word64) : Nat := recBits r 40 37
def raddOut (r : Word64) : Nat := recBits r 44 41
def raddType (r : Word64) : Nat := recBits r 46 45

/-- COL, LINK and BROW of XIN and XOUT; LINK, BLOCKS and BASE of the window records (R231). -/
def xCol (r : Word64) : Nat := recBits r 38 33
def xLink (r : Word64) : Nat := recBits r 44 39
def xBrow (r : Word64) : Nat := recBits r 54 45
def winLink (r : Word64) : Nat := recBits r 38 33
def winBlocks (r : Word64) : Nat := recBits r 53 45 + 1
def winBase (r : Word64) : Nat := recBits r 62 55

/-- 64-bit words of a byte string. -/
def words64 : Nat → List Byte → List Word64
  | 0, _ => []
  | n + 1, bs => BitVec.ofNat 64 (leNat (bs.take 8)) :: words64 n (bs.drop 8)

/-- A half as it is loaded (R224): its pattern ID, its records, and whether its CRC fits. A tile half gives the number of
its records; an X-die half is taken to hold records up to its end.
(DEDUCED, log entry 31) -/
def parseHalf (xdie : Bool) (bs : List Byte) : Bool × PatHalf :=
  let hdr := leNat (bs.take 16)
  let n := if xdie then (bs.length - 16) / 8 else bitsOf hdr 24 16
  let body := (bs.drop 16).take (8 * n)
  (decide (16 + 8 * n ≤ bs.length) && crc32c body == bitsOf hdr 95 64,
    { pid := hdr % 2 ^ 16, recs := words64 n body, loaded := true })

/-- The constraints of a span: `n` words of the descriptor (R240). -/
def parseCons : Nat → List Word64 → List SpanCon
  | 0, _ => []
  | _ + 1, [] => []
  | n + 1, w :: ws => ⟨recBits w 4 0, recBits w 20 5, recBits w 29 21 + 1⟩ :: parseCons n ws

/-- The spans of a descriptor (R240). -/
def parseSpans : Nat → List Word64 → List SpanDesc
  | 0, _ => []
  | _ + 1, [] => []
  | n + 1, w :: ws => ⟨recBits w 15 0, parseCons (recBits w 18 16) ws⟩ :: parseSpans n (ws.drop (recBits w 18 16))

/-- A Seam descriptor, and whether its CRC fits (R240). -/
def parseDesc (bs : List Byte) : Bool × SeamDesc :=
  let hdr := leNat (bs.take 16)
  let body := bs.drop 16
  (decide (16 ≤ bs.length) && crc32c body == bitsOf hdr 95 64,
    ⟨BitVec.ofNat 16 hdr, bitOf hdr 21, parseSpans (bitsOf hdr 20 16 + 1) (words64 (body.length / 8) body)⟩)

/- ### The loader -/

/-- The next superstep and its micro-batch (R49): forward and backward supersteps repeat for every micro-batch, and the
update supersteps follow once. -/
def State.nextStep (s : State) : Option (Nat × Nat) :=
  let i := s.step.idx
  let upd := fun (j : Nat) => match s.step.steps[j]? with
    | some st => st.phase == .update
    | none => true
  let mb := s.rd Reg.TK_STAT_MB
  if !upd i && upd (i + 1) && decide (mb + 1 < s.rd Reg.TK_STAT_MB_COUNT) then some (0, mb + 1)
  else if i + 1 < s.step.steps.length then some (i + 1, mb)
  else none

/-- The tree that closes a superstep has kind Hem: the superstep ends in the Hem and has no Seam (R50). -/
def State.endsInHem (s : State) (st : Superstep) : Bool := s.bindKind st.tree.val == tkHem

/-- The loader starts on the pattern set of a superstep (R221): every idle half becomes not ready. `same` says that the
routing tables of the superstep's phase are in force already (R252).
(DEDUCED, log entry 25) -/
def State.loadSet (s : State) (st : Superstep) (same : Bool) : State :=
  let s1 := s.mapTiles (fun _ t => { t with patIdle := {}, badPat := false })
  let s2 := { s1 with seam := { s1.seam with
    pidNext := st.pid.toNat, xhalfNext := [{}, {}], descNext := none, routesNext := [none, none],
    routesReady := [same, same], reloaded := [], failed := [] } }
  (((s2.wr Reg.PT_SET_NEXT st.pid.toNat).wr Reg.PT_STAT_LOADER 1).wr Reg.PT_STAT_XREADY 0).wr Reg.PT_STAT_DREADY 0

/-- The loader starts for a superstep that ends in a Seam.
(DEDUCED, log entry 25) -/
def State.startLoader (s : State) (i : Nat) (same : Bool) : State :=
  match s.step.steps[i]? with
  | some st => if s.endsInHem st then s else s.loadSet st same
  | none => s

/-- A number that names a part of a pattern set, as `PT_ERR.WHERE` does (R255); 0x2000 up for routing tables. -/
def partKey : PatPart → Nat
  | .tile t => t.val
  | .xhalf x => 0x1802 + x.val
  | .routes x => 0x2000 + x.val
  | .desc => 0x1FFF

/-- A part fails its CRC (R221): it is reloaded once; a second mismatch is a pattern fault of class H. -/
def State.patFail (s : State) (part : PatPart) : State :=
  if s.seam.reloaded.contains (partKey part) then
    let w := partKey part
    let s1 :=
      if s.on Reg.PT_ERR_VALID then
        if s.rd Reg.PT_STAT_LOADER = 3 ∧ s.rd Reg.PT_ERR_CODE = 1 ∧ w < s.rd Reg.PT_ERR_WHERE then
          s.wr Reg.PT_ERR_WHERE w
        else s
      else ((s.wr Reg.PT_ERR_CODE 1).wr Reg.PT_ERR_WHERE w).flag Reg.PT_ERR_VALID
    let s2 := s1.wr Reg.PT_STAT_LOADER 3
    State.openFault { s2 with seam := { s2.seam with failed := w :: s2.seam.failed } } (s2.faultRec 7 1)
  else
    { s.bump Reg.PT_STAT_RELOADS 1 with seam := { s.seam with reloaded := partKey part :: s.seam.reloaded } }

/-- The physical positions of the logical tiles of a die. -/
def State.dieTiles (s : State) (d : Nat) : List Nat :=
  (List.range 1536).filterMap (fun i => s.physOf (d * 1536 + i))

/-- The ready bits of all tiles of a die are set in one cycle, once every half of that die has loaded (R222). -/
def State.readyDie (s : State) (d : Nat) : State :=
  let ps := s.dieTiles d
  if ps.all (fun p => (s.tile p).patIdle.loaded) then
    ps.foldl (fun s p => s.modTile p (fun t => { t with patIdle := { t.patIdle with ready := true } })) s
  else s

/-- `PT_STAT` follows what has loaded (R255). -/
def State.loaderStat (s : State) : State :=
  let x := s.seam.xhalfNext.all (fun h => h.loaded) && s.seam.routesReady.all id
  let d := s.seam.descNext.isSome
  let s1 := (s.wr Reg.PT_STAT_XREADY (b2n x)).wr Reg.PT_STAT_DREADY (b2n d)
  if s1.rd Reg.PT_STAT_LOADER = 1 ∧ x ∧ d ∧ s1.allTiles.all (fun p => (s1.tile p).patIdle.ready) then
    s1.wr Reg.PT_STAT_LOADER 2
  else s1

/-- A tile half comes in CTL packets from the M die that feeds the tile's compute die (R194, R221): 4,096 B and a header
flit.
(DEDUCED, log entry 35) -/
def State.countHalf (s : State) (t : Nat) : State := s.countFlits (0x1800 + t / 1536 % 2) t 0 65

/-- PATTERN_HALF_LOADED (R221, R222, R252): a part of the set has arrived from the job image. The loader is done with a part
that failed twice.
(DEDUCED, log entry 31) -/
def execPatternHalfLoaded (part : PatPart) (data : List Byte) (s : State) : Res :=
  if s.rd Reg.PT_STAT_LOADER = 0 ∨ s.rd Reg.PT_STAT_LOADER = 2 ∨ s.seam.failed.contains (partKey part) then .next s
  else match part with
    | .tile t =>
      (match s.physOf t.val with
      | none => .fault .noSuchTile
      | some p =>
        let h := parseHalf false data
        let s := s.countHalf t.val
        .next (if h.1 then ((s.modTile p (fun t => { t with patIdle := h.2 })).readyDie (t.val / 1536)).loaderStat
          else s.patFail part))
    | .xhalf x =>
      let h := parseHalf true data
      .next (if h.1 then
          State.loaderStat { s with seam := { s.seam with
            xhalfNext := modNth s.seam.xhalfNext x.val (fun _ => { h.2 with ready := true }) } }
        else s.patFail part)
    | .desc =>
      let h := parseDesc data
      .next (if h.1 then State.loaderStat { s with seam := { s.seam with descNext := some h.2 } } else s.patFail part)
    | .routes x =>
      .next (State.loaderStat { s with seam := { s.seam with
        routesNext := modNth s.seam.routesNext x.val (fun _ => some (data.map (fun b => b.toNat))),
        routesReady := modNth s.seam.routesReady x.val (fun _ => true) } })

/- ### The grid -/

/-- The enabled rows of a compute die: 48, or 44 (R186). -/
def State.nr (s : State) : Nat := (s.enabledRows 0).length

/-- A place that a mesh port leads to (R190, R226). -/
inductive Place where
  | tile (t : Nat)
  | xdie (x : Nat)
  | mdie (m : Nat)
deriving DecidableEq, Repr

/-- Where a mesh port of a logical tile leads, and the edge that it crosses, if any. -/
def meshStep (nr t port : Nat) : Place × Option Nat :=
  let d := t / 1536
  let r := t % 1536 / 32
  let c := t % 32
  match port with
  | 0 =>
    if r ≠ 0 then (.tile (t - 32), none)
    else if d < 2 then (.xdie 0, some (8 + d))
    else (.tile ((d - 2) * 1536 + (nr - 1) * 32 + c), some d)
  | 1 =>
    if c ≠ 31 then (.tile (t + 1), none)
    else if d % 2 = 0 then (.tile ((d + 1) * 1536 + r * 32), some (d / 2))
    else (.mdie 1, some (6 + d / 2))
  | 2 =>
    if r + 1 < nr then (.tile (t + 32), none)
    else if d < 2 then (.tile ((d + 2) * 1536 + c), some (2 + d))
    else (.xdie 1, some (8 + d))
  | _ =>
    if c ≠ 0 then (.tile (t - 1), none)
    else if d % 2 = 1 then (.tile ((d - 1) * 1536 + r * 32 + 31), some (d / 2))
    else (.mdie 0, some (4 + d / 2))

/-- The side neighbour of a tile, on its own die (R188). -/
def sideStep (nr t port : Nat) : Option Nat :=
  match meshStep nr t (port - 4) with
  | (.tile u, none) => some u
  | _ => none

/-- The port of the neighbour that faces a mesh or side port. -/
def facing (port : Nat) : Nat := if port < 4 then (port + 2) % 4 else 4 + (port - 4 + 2) % 4

/-- The tile of a global column at which an X die's edge link ends (R190, R226). -/
def edgeTile (nr x col : Nat) : Nat := if x = 0 then col / 32 * 1536 + col % 32
  else (2 + col / 32) * 1536 + (nr - 1) * 32 + col % 32

end Sys2Proof.Machine
end

