-- ==== Sys2Proof/Machine/Stitches.lean ====
section
/-! DEFINITION. What the records of one span do (R204–R208, R210, R216–R219, R227, R231): the stitches of a span move
slot by slot, each in its cycle; the row that a record receives is traced back along the records of the routers, with the latencies of
R205, to the scratchpad or window buffer from which it was sent. -/

namespace Sys2Proof.Machine

/-- The records of one span, by logical tile, the slots from which a router drives nothing (R219), and the rows that have been
sent into the fabric so far. -/
structure SpanCtx where
  nr : Nat
  recs : SMap (List Word64)
  dead : SMap Nat
  sent : SMap Stitch
deriving DecidableEq, Repr

/-- The key of a sent row: its node (a logical tile, or 6144 + x for an X die), its output or column, its slot, and which
of two stitches of a side link it is (R188). -/
def sentKey (node out slot i : Nat) : Nat := ((node * 64 + out) * 131072 + slot) * 2 + i

/-- The slot lies in the run of a record. -/
def inRun (r : Word64) (slot : Nat) : Bool := decide (recSlot r ≤ slot ∧ slot < recSlot r + recRun r)

/-- A route turns from its row into a column (R205).
(DEDUCED, log entry 30) -/
def turnCost (inp out : Nat) : Nat := if inp % 2 = 1 ∧ inp < 4 ∧ out % 2 = 0 ∧ out < 4 then 1 else 0

/-- The two operands of an add are added element by element; a poisoned word of either poisons the sum (R179, R210). -/
def addStitch (etype : Nat) (a b : Stitch) : Stitch := ⟨addRows etype a.data b.data, a.bad ++ b.bad⟩

/-- Cycles of a hop through a mesh port: a hop is 1 cy and an edge crossing 6 cy; each new row, and the row on each new
die, adds its row stage of 2 cy (R205).
(DEDUCED, log entry 30) -/
def hopCost (port : Nat) (edge : Option Nat) : Nat :=
  match edge with
  | some _ => 8
  | none => if port % 2 = 0 then 3 else 1

/-- The turn latencies of an add: those of its later operand (R205, R207). -/
def raddTurn (r : Word64) : Nat := max (turnCost (raddA r) (raddOut r)) (turnCost (raddB r) (raddOut r))

/-- The output that a record of a tile half drives, if it drives one: a mesh or side link, or the adder output (R226, R227). -/
def recOut (r : Word64) : Option Nat :=
  if recKind r = kSend then some (recPort r)
  else if recKind r = kPass then some (passOut r)
  else if recKind r = kRadd then some (raddOut r)
  else none

/-- The cycles from a record's slot to the one in which its row leaves: the injection, and into the mesh the source row's stage;
a turn; or the adder with its turns (R205, R207).
(DEDUCED, log entry 30) -/
def outLag (r : Word64) : Nat :=
  if recKind r = kSend then (if recPort r < 4 then 4 else 2)
  else if recKind r = kPass then turnCost (passIn r) (passOut r)
  else 2 + raddTurn r

/-- The rows that a record takes from an input in a cycle (R227): an ejection takes its row 2 cycles before its bank write. -/
def recTakes (port time : Nat) (r : Word64) : Nat :=
  if recKind r = kRecv then b2n (recPort r == port && inRun r (time + 2))
  else if recKind r = kPass then b2n (passIn r == port && inRun r time)
  else if recKind r = kRadd ∧ inRun r time = true then b2n (raddA r == port) + b2n (raddB r == port)
  else 0

/-- Which of the rows on an input a record takes: a side link carries two, which the records take in their order (R188).
(DEDUCED, log entry 30) -/
def takeIndex (earlier : List Word64) (port time : Nat) : Nat :=
  if 4 ≤ port ∧ port < 8 then (earlier.map (recTakes port time)).foldl (· + ·) 0 else 0

/-- The records of a tile that drive an output in a cycle, with their places. A router without its pattern drives none (R219). -/
def SpanCtx.drivers (c : SpanCtx) (t o time : Nat) : List (Word64 × Nat) :=
  if (match smFind c.dead t with
    | some k => decide (k ≤ time)
    | none => false) then []
  else (smGet c.recs t []).zipIdx.filter (fun e => recOut e.1 == some o && decide (outLag e.1 ≤ time) && inRun e.1 (time - outLag e.1))

/-- The row at a router: the `i`th one that leaves it on an output in a cycle (`out`), or that arrives on an input in a cycle. A PASS
or RADD names the cycle of arrival; a side link takes the 7 cycles of its stitch less injection and ejection (R205).
(DEDUCED, log entry 30) -/
def traceRow (c : SpanCtx) : Nat → Bool → Nat → Nat → Nat → Nat → Option Stitch
  | 0, _, _, _, _, _ => none
  | fuel + 1, true, t, o, time, i =>
    let ds := c.drivers t o time
    (match ds[i]? with
    | none => none
    | some (r, k) =>
      let at_ := time - outLag r
      let earlier := (smGet c.recs t []).take k
      if recKind r = kSend then
        smFind c.sent (sentKey t o at_ ((ds.take i).countP (fun e => recKind e.1 == kSend)))
      else if recKind r = kPass then traceRow c fuel false t (passIn r) at_ (takeIndex earlier (passIn r) at_)
      else
        let ib := takeIndex earlier (raddB r) at_ + (if raddA r = raddB r then 1 else 0)
        match traceRow c fuel false t (raddA r) at_ (takeIndex earlier (raddA r) at_), traceRow c fuel false t (raddB r) at_ ib with
        | some a, some b => some (addStitch (raddType r) a b)
        | _, _ => none)
  | fuel + 1, false, t, p, time, i =>
    if p = 8 then traceRow c fuel true t 8 time 0
    else if p < 4 then
      match meshStep c.nr t p with
      | (.tile u, e) =>
        if hopCost p e ≤ time then traceRow c fuel true u (facing p) (time - hopCost p e) 0 else none
      | (.xdie x, _) =>
        if 10 ≤ time then smFind c.sent (sentKey (6144 + x) (t / 1536 % 2 * 32 + t % 32) (time - 10) 0) else none
      | (.mdie _, _) => none
    else
      match sideStep c.nr t p with
      | some u => if 3 ≤ time then traceRow c fuel true u (facing p) (time - 3) i else none
      | none => none

/-- No route of the grid passes more routers than this. -/
def traceFuel : Nat := 400

/-- What a record does in one slot.
(DESIGN CHOICE, log entry 32) -/
inductive StitchAct where
  | send (t out row i : Nat)
  | recv (t port row i : Nat)
  | addRead (t port op row i : Nat)
  | addWrite (t port row : Nat)
  | xin (x col link brow : Nat)
  | xout (x col link brow : Nat)
deriving DecidableEq, Repr

/-- The row of a record in a slot of its run, where it lies in the scratchpad. -/
def rowAt (r : Word64) (slot : Nat) : Option Nat :=
  let row := recRow r (slot - recSlot r)
  if row < 0 ∨ 3072 ≤ row.toNat then none else some row.toNat

/-- What a record of a tile half does in a slot, after the records before it (R208, R227). -/
def recActs (t slot : Nat) (earlier : List Word64) (r : Word64) : List StitchAct :=
  let now_ := if inRun r slot then rowAt r slot else none
  let before := if 1 ≤ slot ∧ inRun r (slot - 1) = true then rowAt r (slot - 1) else none
  if recKind r = kSend then
    match now_ with
    | some row => [.send t (recPort r) row (if recPort r < 4 then 0
        else earlier.countP (fun x => recKind x == kSend && recPort x == recPort r && inRun x slot))]
    | none => []
  else if recKind r = kRecv ∧ recOp r = 0 then
    match now_ with
    | some row => [.recv t (recPort r) row (takeIndex earlier (recPort r) (slot - 2))]
    | none => []
  else if recKind r = kRecv then
    (match before with
    | some row => [.addWrite t (recPort r) row]
    | none => []) ++
      (match now_ with
      | some row => [.addRead t (recPort r) (recOp r - 1) row (takeIndex earlier (recPort r) (slot - 2))]
      | none => [])
  else []

/-- What a tile's records do in a slot; those of a router without its pattern do nothing (R219). -/
def SpanCtx.tileActs (c : SpanCtx) (slot t : Nat) (rs : List Word64) : List StitchAct :=
  if (match smFind c.dead t with
    | some k => decide (k ≤ slot)
    | none => false) then []
  else rs.zipIdx.flatMap (fun e => recActs t slot (rs.take e.2) e.1)

/-- What a record of an X-die half does in a slot (R231). -/
def xdieActs (x slot : Nat) (r : Word64) : List StitchAct :=
  if inRun r slot = true ∧ recKind r = kXin then [.xin x (xCol r) (xLink r) (xBrow r + (slot - recSlot r))]
  else if inRun r slot = true ∧ recKind r = kXout then [.xout x (xCol r) (xLink r) (xBrow r + (slot - recSlot r))]
  else []

/-- The physical link of a pattern link index on an X die (R252).
(DEDUCED, log entry 31) -/
def State.patternLink (s : State) (x i : Nat) : Nat := nth (nth s.seam.routes x []) i 63

/-- The port of a tile at which a row comes in or leaves (R110): a mesh port is the mesh router, a side link has a port of its own. -/
def tilePort (port : Nat) : Nat := if 4 ≤ port ∧ port < 8 then port - 3 else 0

/-- An access of a slot of the span that started at `start` (R109, R216). -/
def State.slotAt (s : State) (start slot port : Nat) : Access := ⟨s.now, start + slot, some (tilePort port)⟩

/-- A row of a scratchpad as a stitch (R104, R109). -/
def Tile.stitchRow (t : Tile) (x : Access) (row : Nat) : Stitch :=
  ⟨Memory.readN (t.seen x).mem (row * 64) 64,
    t.poison.filterMap (fun e => if e.1 / 8 = row then some (e.1 % 8) else none)⟩

/-- A stitch written into a row: every word of the row is written, and marked words are stored as poison (R104). -/
def Tile.writeRow (t : Tile) (x : Access) (row : Nat) (v : Stitch) : Tile :=
  (t.writeMem x (row * 64) v.data).addPoison (v.bad.map (fun b => row * 8 + b)) true

/-- The key under which the sum of an add waits for its write in the next slot. -/
def addKey (t row : Nat) : Nat := sentKey (8192 + t) 0 row 0

/-- The rows that the sends and adds of a slot read are checked there (R103). -/
def actSense (s : State) : StitchAct → State
  | .send t _ row _ | .addRead t _ _ row _ =>
    (match s.physOf t with
    | some p => s.modTile p (fun x => x.senseRange (row * 64) 64)
    | none => s)
  | _ => s

/-- The reads of a slot: sends, reads of receive buffers, and the reads of adds (R208, R227). -/
def actRead (s : State) (start slot : Nat) (c : SpanCtx) : StitchAct → SpanCtx
  | .send t out row i =>
    (match s.physOf t with
    | some p => { c with sent := smPut c.sent (sentKey t out slot i) ((s.tile p).stitchRow (s.slotAt start slot out) row) }
    | none => c)
  | .xout x col link brow =>
    let v : Stitch := ⟨Memory.readN (smGet s.seam.rxBuf (s.patternLink x link) []) (brow * 64) 64, []⟩
    { c with sent := smPut c.sent (sentKey (6144 + x) col slot 0) v }
  | .addRead t port op row i =>
    (match s.physOf t with
    | some p =>
      (match (if 2 ≤ slot then traceRow c traceFuel false t port (slot - 2) i else none) with
      | some v => { c with sent := smPut c.sent (addKey t row) (addStitch op ((s.tile p).stitchRow (s.slotAt start slot port) row) v) }
      | none => c)
    | none => c)
  | _ => c

/-- The writes of a slot: ejections, the writes of adds, and rows that enter a transmit buffer. A row that no router
brought is not written (R219).
(DEDUCED, log entry 30; DESIGN CHOICE, log entry 32) -/
def actWrite (c : SpanCtx) (start slot : Nat) (s : State) : StitchAct → State
  | .recv t port row i =>
    (match s.physOf t, (if 2 ≤ slot then traceRow c traceFuel false t port (slot - 2) i else none) with
    | some p, some v => s.modTile p (fun x => x.writeRow (s.slotAt start slot port) row v)
    | _, _ => s)
  | .addWrite t port row =>
    (match s.physOf t, smFind c.sent (addKey t row) with
    | some p, some v => s.modTile p (fun x => x.writeRow (s.slotAt start slot port) row v)
    | _, _ => s)
  | .xin x col link brow =>
    (match (if 8 ≤ slot then traceRow c traceFuel true (edgeTile c.nr x col) (if x = 0 then 0 else 2) (slot - 8) 0
        else none) with
    | some v =>
      let n := s.patternLink x link
      { s with seam := { s.seam with
        txBuf := smPut s.seam.txBuf n (Memory.writeN (smGet s.seam.txBuf n []) (brow * 64) v.data) } }
    | none => s)
  | _ => s

/-- The records of a span in the active halves of the routers, by logical tile. -/
def State.spanRecs (s : State) (b : Nat) : SMap (List Word64) :=
  s.tiles.foldl (fun m e =>
    match s.logicalOf e.1 with
    | some t =>
      let rs := e.2.patActive.recs.filter (fun r => recSpan r == b)
      if rs = [] then m else smPut m t rs
    | none => m) []

/-- The slots of a span that starts at an AT from which a router drives nothing, by logical tile (R219). -/
def State.deadRouters (s : State) (start : Nat) : SMap Nat :=
  s.tiles.foldl (fun m e =>
    match s.logicalOf e.1, e.2.patDead with
    | some t, some a => smPut m t (a - start)
    | _, _ => m) []

/-- The records of a span in the halves of the X dies. -/
def State.spanXrecs (s : State) (b : Nat) : List (Nat × Word64) :=
  (List.range 2).flatMap (fun x => ((nth s.seam.xhalf x {}).recs.filter (fun r => recSpan r == b)).map (fun r => (x, r)))

/-- The edge that the output of a record crosses, if any. -/
def recEdge (nr t : Nat) (r : Word64) : Option Nat :=
  let o := if recKind r = kSend then recPort r else if recKind r = kPass then passOut r
    else if recKind r = kRadd then raddOut r else 8
  if o < 4 then (meshStep nr t o).2 else none

/-- Every stitch that crosses an edge in a slot is a flit of that edge (R215). -/
def State.countSlot (s : State) (nr slot : Nat) (recs : SMap (List Word64)) (xs : List (Nat × Word64)) : State :=
  let s1 := recs.foldl (fun s e => e.2.foldl (fun s r =>
    match recEdge nr e.1 r with
    | some k => if inRun r slot then s.countEdge k 1 else s
    | none => s) s) s
  xs.foldl (fun s e => if recKind e.2 = kXout ∧ inRun e.2 slot = true then s.countEdge (8 + 2 * e.1 + xCol e.2 / 32) 1 else s) s1

/-- A slot of span `b`, which started at `start`: its reads, then its writes (R109, R208, R217).
(DEDUCED, log entry 30) -/
def State.runSlot (s : State) (b start slot : Nat) : State :=
  let recs := s.spanRecs b
  let xs := s.spanXrecs b
  let c : SpanCtx := { nr := s.nr, recs := recs, dead := s.deadRouters start, sent := s.seam.sent }
  let acts := recs.flatMap (fun e => c.tileActs slot e.1 e.2) ++ xs.flatMap (fun e => xdieActs e.1 slot e.2)
  let s1 := acts.foldl actSense s
  let c1 := acts.foldl (actRead s1 start slot) c
  let s2 := acts.foldl (actWrite c1 start slot) { s1 with seam := { s1.seam with sent := c1.sent, slotNext := slot + 1 } }
  s2.countSlot s.nr slot recs xs

/-- The slots of the running span whose cycles have come: slot k is the cycle k after the start of the span (R216). In a pause no
span runs. -/
def State.runStitches (s : State) : State :=
  match s.seam.starts[s.seam.span]?, (s.seam.desc.bind (fun d => d.spans[s.seam.span]?)) with
  | some t, some d =>
    if s.on Reg.TK_STAT_IN_SEAM ∧ s.rd Reg.SM_STAT_STATE = 1 then
      (List.range (min (s.now + 1 - t) d.len - s.seam.slotNext)).foldl
        (fun s _ => s.runSlot s.seam.span t s.seam.slotNext) s
    else s
  | _, _ => s

end Sys2Proof.Machine
end

