-- ==== Sys2Proof/Machine/Seams.lean ====
section
/-! DEFINITION. The Seam: its schedule (R216, R229–R240), start and spans (R223), checks, holds, pauses and aborts
(R243–R250), and its end (R239, R50). -/

namespace Sys2Proof.Machine

/- ### The schedule -/

/-- The listed parameters of a timing table (R236). -/
def listedTable (t : Nat) : TimingTable :=
  if t = 2 then ⟨2, 1, 46, 74, 58⟩ else ⟨1, 2, 52, 82, 64⟩

/-- The timing table in force: the configuration record's entry, or else the listed one (R236). -/
def State.table (s : State) : TimingTable :=
  let t := s.rd Reg.SM_TT_SEL
  match s.cfg with
  | some c => (c.tables.find? (fun x => x.id.toNat == t)).getD (listedTable t)
  | none => listedTable t

def State.pitch (s : State) : Nat := clamp 8 128 (s.rd Reg.SM_CTL_PITCH)

def State.reach (s : State) : Nat := leadNs 64 (s.rd Reg.SM_CFG_REACH)

/-- Five block periods in ns: 12 with four lanes, 16 with three (R229). -/
def period5 (lane3 : Bool) : Nat := if lane3 then 16 else 12

/-- The start of a span under its constraints (R237). -/
def spanStart (starts : List Nat) (t pitch per5 arrive darn reach : Nat) : List SpanCon → Nat
  | [] => t
  | c :: cs =>
    let p := (c.blocks - 1) + (c.blocks - 1) / pitch
    spanStart starts (max t (nth starts c.anchor 0 + c.off + p * per5 / 5 + arrive + darn + 2 + reach)) pitch per5 arrive
      darn reach cs

/-- The starts of the spans, given those of the spans before them (R237); a local Seam has no constraints (R239). -/
def spanStarts (hall : Bool) (pitch per5 arrive darn reach : Nat) : List Nat → Nat → List SpanDesc → List Nat
  | starts, _, [] => starts
  | starts, t, d :: ds =>
    let u := if hall then spanStart starts t pitch per5 arrive darn reach d.cons else t
    spanStarts hall pitch per5 arrive darn reach (starts ++ [u]) (u + d.len) ds

/-- The starts of the spans of a Seam that starts at `t` (R237). -/
def State.schedule (s : State) (d : SeamDesc) (hall : Bool) (t : Nat) : List Nat :=
  let tb := s.table
  let per5 := period5 (s.on Reg.SM_TT_LANE3)
  let arrive := tb.txLat + s.cable + ceilDiv per5 5 + tb.rxLat
  let darn := tb.sbLat + s.cable + ceilDiv ((s.pitch + 1) * per5) 5 + arrive
  spanStarts hall s.pitch per5 arrive darn s.reach [] t d.spans

/-- The end of a Seam: the last start and the last length (R237). -/
def scheduleEnd (starts : List Nat) (d : SeamDesc) (t : Nat) : Nat :=
  match starts.getLast?, d.spans.getLast? with
  | some u, some x => u + x.len
  | _, _ => t

/-- Pauses move every later instant (R246). -/
def State.shifted (s : State) (t : Nat) : Nat := s.seam.shifts.foldl (fun t x => if x.1 ≤ t then t + x.2 else t) t

/-- A link runs on three lanes. -/
def State.lane3 (s : State) (n : Nat) : Bool := (s.link n).lanes.length == 3

/-- The AT of the position after the last data block of a window whose position 0 is at `t`, and the AT at which its
data block k departs (R230). -/
def windowNext (pitch per5 t blocks : Nat) : Nat := t + ((blocks - 1) + (blocks - 1) / pitch + 1) * per5 / 5
def blockAt (pitch per5 t k : Nat) : Nat := t + (k + k / pitch) * per5 / 5

/-- The AT of position 0 of a window: its anchor, or the position after the window before it on the link (R234). -/
def windowStart (pitch per5 : Nat) (w : WinSt) : Nat → List WinSt → Nat
  | prev, [] => max prev w.anchor
  | prev, x :: xs =>
    let t := max prev x.anchor
    if x.anchor = w.anchor ∧ x.ord = w.ord then t else windowStart pitch per5 w (windowNext pitch per5 t x.blocks) xs

/-- The AT at which data block k of a window departs or was scheduled to depart; none while its departure is deferred by
the pause in force (R230, R234, R245, R246). -/
def State.departs (s : State) (ws : List WinSt) (w : WinSt) (k : Nat) : Option Nat :=
  let per5 := period5 (s.lane3 w.link)
  let t := s.shifted (blockAt s.pitch per5 (windowStart s.pitch per5 w 0 (ws.filter (fun x => x.link == w.link))) k)
  match s.seam.pausedAt with
  | some p => if p ≤ t then none else some t
  | none => some t

/-- A record comes before another: by span, and within it by slot (R224, R234). -/
def recBefore (a b : Word64) : Bool := decide (recSpan a < recSpan b ∨ (recSpan a = recSpan b ∧ recSlot a < recSlot b))

/-- A record takes its place in a list in order, behind those of its own span and slot. -/
def insertRec (r : Word64) : List Word64 → List Word64
  | [] => [r]
  | x :: xs => if recBefore r x then r :: x :: xs else x :: insertRec r xs

/-- Records in the order of their spans and slots: for window records, that of their anchors (R234). -/
def sortRecs (rs : List Word64) : List Word64 := rs.foldl (fun l r => insertRec r l) []

/-- The windows of one kind that an X-die half lays out, in the order of their anchors (R231, R234): the ordinal counts the
windows of the link's direction, and the ingress span is that of the first XOUT record that empties the window. -/
def halfWindows (kind : Nat) (map : Nat → Nat) (starts : List Nat) (half : List Word64) : List WinSt :=
  let recs := sortRecs half
  let ws := recs.filter (fun r => recKind r == kind)
  ws.zipIdx.map (fun e =>
    let r := e.1
    let lo := winBase r * 4
    let hi := (winBase r * 256 + winBlocks r * 240 + 63) / 64
    let out := recs.find? (fun x => recKind x == kXout && xLink x == winLink r && decide (recSpan r < recSpan x) &&
      decide (xBrow x < hi ∧ lo < xBrow x + recRun x))
    { link := map (winLink r), ord := ((ws.take e.2).filter (fun x => winLink x == winLink r)).length,
      anchor := nth starts (recSpan r) 0 + recSlot r, blocks := winBlocks r, base := winBase r * 256,
      ingress := match out with
        | some x => recSpan x
        | none => 0 })

def State.seamWindows (s : State) (kind : Nat) (starts : List Nat) : List WinSt :=
  (List.range 2).flatMap (fun x =>
    halfWindows kind (s.patternLink x) starts (nth s.seam.xhalf x {}).recs)

/- ### Start and spans -/

/-- A tile leaves lend state: its time there is counted (R66, R67). -/
def State.leaveLend (s : State) : State :=
  let ns := (s.tiles.map (fun e => e.2.lentNs s.now)).foldl (· + ·) 0
  let s1 := s.mapTiles (fun _ t => { t with lendSince := none, mode := if t.mode = .lend then .wait else t.mode })
  State.notePool { s1 with step := { s1.step with lendNs := s1.step.lendNs + ns } }

/-- Every half, both routing tables and the descriptor change places (R223); what was active may be filled again.
(DEDUCED, log entry 25) -/
def State.swapHalves (s : State) : State :=
  let s1 := s.mapTiles (fun _ t => { t with
    patDead := none, patActive := { t.patIdle with ready := false }, patIdle := { t.patActive with ready := false, loaded := false } })
  { s1 with seam := { s1.seam with
    xhalf := s1.seam.xhalfNext, xhalfNext := s1.seam.xhalf.map (fun h => { h with ready := false, loaded := false }),
    desc := s1.seam.descNext, descNext := none,
    routes := (s1.seam.routes.zip s1.seam.routesNext).map (fun e => e.2.getD e.1), routesNext := [none, none],
    routesReady := [false, false] } }

/-- Each tile whose pattern half, which is in use now, has a parity error faults (R118, R219). -/
def State.patternFaults (s : State) : State :=
  (s.tiles.filter (fun e => e.2.badPat)).foldl (fun s e => s.patternFault e.1) s

/-- SEAM_START (R57, R61, R216, R223): at s the halves swap, the schedule is computed, and span 0 begins. The window buffers
are empty, and read 0, at the start of each Seam, and again at its end: the spec does not say what they hold between Seams.
(DESIGN CHOICE, log entry 73) -/
def execSeamStart (s : State) : Res :=
  .next (
    match s.seam.seamAt with
    | none => s
    | some t =>
      if s.now < t ∨ s.on Reg.TK_STAT_IN_SEAM then s
      else
        let s1 := s.swapHalves.leaveLend
        let d := s1.seam.desc.getD ⟨0, s1.seam.seamHall.isSome, []⟩
        let starts := s1.schedule d s1.seam.seamHall.isSome t
        let s2 := ((((s1.wr Reg.TK_STAT_IN_SEAM 1).wr Reg.SM_STAT_STATE 1).wr Reg.SM_STAT_SPAN 0).wr Reg.SM_STAT_HALL
          (b2n s1.seam.seamHall.isSome)).wr Reg.SM_STAT_HSEQ 0
        let s3 := (s2.wr Reg.PT_SET_ACTIVE s2.seam.pidNext).wr Reg.PT_STAT_LOADER 0
        let s4 := { s3 with seam := { s3.seam with
          seamAt := none, s := t, starts := starts, seamEnd := scheduleEnd starts d t, span := 0, shifts := [],
          pausedAt := none, holds := [], holdsSeen := [], ownHold := false, resumeAt := none, abortAt := none,
          limitMore := none, checked := [], slotNext := 0, sent := [], txBuf := [], rxBuf := [],
          digestSeam := match s3.superstep with
            | some st => st.digest
            | none => false } }
        let s5 := { s4 with seam := { s4.seam with
          txWins := s4.seamWindows kTxwin starts, rxWins := s4.seamWindows kRxwin starts } }
        (s5.patternFaults).runStitches)

/-- A span starts. -/
def State.startSpan (s : State) (b : Nat) : State :=
  ({ s.wr Reg.SM_STAT_SPAN b with seam := { s.seam with span := b, slotNext := 0, sent := [] } }).runStitches

/-- One nanosecond of AT in which no command comes: waits on spools see the cycle before (R294), and the running span does what
it does in that cycle (R204, R216).
(DESIGN CHOICE, log entry 1) -/
def State.idle (s : State) : State := s.tick.wakeSpools.runStitches

/-- A hold for a span has been accepted and is in force (R245). -/
def State.heldSpan (s : State) (b : Nat) : Bool := s.seam.holds.any (fun h => h.1 == b)

/-- SPAN_START (R216, R245): the next span starts at its start AT, unless a pause falls there.
(DESIGN CHOICE, log entry 2) -/
def execSpanStart (s : State) : Res :=
  .next (
    let b := s.seam.span + 1
    match s.seam.starts[b]? with
    | none => s
    | some t =>
      if s.rd Reg.SM_STAT_STATE = 1 ∧ s.on Reg.TK_STAT_IN_SEAM ∧ t ≤ s.now ∧ ¬ s.heldSpan b then s.runStitches.startSpan b else s)

/- ### Checks, holds and pauses -/

/-- Every data block of a window is in the receive buffer with a good CRC. -/
def WinSt.whole (w : WinSt) : Bool := (List.range w.blocks).all (fun k => w.got.contains k)

/-- A hold record for a span comes late (R247): the span has begun, or its start AT has come and no pause holds it back. -/
def State.lateHold (s : State) (b : Nat) : Bool :=
  decide (b ≤ s.seam.span) || (s.seam.pausedAt.isNone && !s.heldSpan (s.seam.span + 1) && match s.seam.starts[b]? with
    | some t => decide (t ≤ s.now)
    | none => false)

/-- A hold record is accepted (R244, R245, R247): a hold already accepted is ignored; one for a span that has begun is
late and escalates. -/
def State.acceptHold (s : State) (r : HoldRec) : State :=
  let key := (r.span.val, r.hseq.val)
  if ¬ s.on Reg.TK_STAT_IN_SEAM ∨ s.seam.seamHall ≠ some r.h.val ∨ s.seam.parity ≠ r.parity ∨
      s.seam.holdsSeen.contains key then s
  else
    let s1 := s.wr Reg.SM_STAT_HSEQ (max (s.rd Reg.SM_STAT_HSEQ) r.hseq.val)
    let s2 := { s1 with seam := { s1.seam with holdsSeen := key :: s1.seam.holdsSeen } }
    let t := nth s2.seam.starts r.span.val 0
    let s3 := s2.floodRec (holdRec r) t
    if s3.lateHold r.span.val then
      let s4 := s3.flag Reg.SM_FLT_LATE_HOLD
      s4.openFault (s4.faultRec 8 1)
    else { s3 with seam := { s3.seam with holds := key :: s3.seam.holds } }

/-- A failed check raises a hold (R244): the H6 clear level drops, a hold record is flooded, and the device accepts it at
once. -/
def State.raiseHold (s : State) (link span : Nat) : State :=
  let s1 := if s.on Reg.SM_HOLD_SRC_VALID then s
    else ((s.wr Reg.SM_HOLD_SRC_LINK link).wr Reg.SM_HOLD_SRC_SPAN span).flag Reg.SM_HOLD_SRC_VALID
  let s2 := { s1 with seam := { s1.seam with ownHold := true, raised := s1.seam.raised + 1 } }
  s2.acceptHold { h := BitVec.toFin (BitVec.ofNat 3 (s2.seam.seamHall.getD 0)), parity := s2.seam.parity,
                  span := BitVec.toFin (BitVec.ofNat 5 span),
                  hseq := BitVec.toFin (BitVec.ofNat 4 (min 15 (s2.rd Reg.SM_STAT_HSEQ + 1))) }

/-- WINDOW_CHECK (R235, R243, R244): at CHECK(b) every window with ingress in span b must be whole.
(DESIGN CHOICE, log entry 2) -/
def execWindowCheck (span : Fin 32) (s : State) : Res :=
  .next (
    let b := span.val
    match s.seam.starts[b]? with
    | none => s
    | some t =>
      if ¬ s.on Reg.TK_STAT_IN_SEAM ∨ s.rd Reg.SM_STAT_STATE ≠ 1 ∨ b ≤ s.seam.span ∨ s.seam.checked.contains b ∨
          s.now + s.reach < t then s
      else
        let s1 := { s with seam := { s.seam with checked := b :: s.seam.checked } }
        match (s1.seam.rxWins.filter (fun w => w.ingress == b)).find? (fun w => !w.whole || s1.cableLong w.link) with
        | some w => s1.raiseHold w.link b
        | none => s1)

/-- HOLD_RECORD (R244, R245, R247). -/
def execHoldRecord (_link : LinkId) (rc : HoldRec) (s : State) : Res := .next (s.acceptHold rc)

/-- A window is awaited: a data block of it that departed, or was scheduled to depart, before the pause has not arrived; one
whose departure was deferred is not awaited (R246). -/
def State.awaited (s : State) (w : WinSt) : Bool :=
  (List.range w.blocks).any (fun k => !w.got.contains k && (s.departs s.seam.rxWins w k).isSome)

/-- While paused, a hold request clears once every data block that was scheduled to depart before P has arrived (R246). -/
def State.clearHold (s : State) : State :=
  if s.seam.ownHold ∧ s.seam.pausedAt.isSome ∧ !s.seam.rxWins.any s.awaited then
    { s with seam := { s.seam with ownHold := false } }
  else s

/-- PAUSE (R245): at P the device pauses, if it has accepted a hold for the span that would start. Records for later
spans are discarded, and their spans are checked again at their moved CHECK. -/
def execPause (s : State) : Res :=
  .next (
    let b := s.seam.span + 1
    match s.seam.starts[b]? with
    | none => s
    | some t =>
      if s.rd Reg.SM_STAT_STATE = 1 ∧ s.on Reg.TK_STAT_IN_SEAM ∧ t ≤ s.now ∧ s.heldSpan b then
        let s1 := s.wr Reg.SM_STAT_STATE 2
        State.clearHold { s1 with seam := { s1.seam with
          pausedAt := some t, pauses := s1.seam.pauses + 1, holds := s1.seam.holds.filter (fun h => h.1 == b),
          checked := s1.seam.checked.filter (fun c => decide (c ≤ b)), limitMore := none } }
      else s)

/-- RESUME_RECORD (R246). -/
def execResumeRecord (_link : LinkId) (rc : GridRec) (s : State) : Res :=
  .next (if s.seam.seamHall = some rc.h.val ∧ s.seam.parity = rc.parity then s.acceptResume rc else s)

/-- SEAM_RESUME (R246): at r the paused span starts, and every later start, departure and CHECK moves by r − P. -/
def execSeamResume (s : State) : Res :=
  .next (
    match s.seam.pausedAt, s.seam.resumeAt with
    | some p, some r =>
      if r ≤ s.now ∧ s.rd Reg.SM_STAT_STATE = 2 then
        let d := r - p
        let s1 := s.wr Reg.SM_STAT_STATE 1
        let s2 := { s1 with seam := { s1.seam with
          pausedAt := none, resumeAt := none, holds := [], ownHold := false, shifts := s1.seam.shifts ++ [(p, d)],
          starts := s1.seam.starts.map (fun t => if p ≤ t then t + d else t), seamEnd := s1.seam.seamEnd + d,
          holdNs := s1.seam.holdNs + d } }
        s2.startSpan (s2.seam.span + 1)
      else s
    | _, _ => s)

/-- What remains of the budget of a link that owns a fault: of its oldest failed block, or of its lane retrain; none if it
owns none (R331, R342, R386–R388). -/
def State.linkLeft (s : State) (n : Nat) : Option Nat :=
  let l := s.link n
  if s.lkState n = lkRetrain then some (l.trainSince + 500000 - s.now)
  else match l.budgets with
    | b :: _ => some (b.firstNak + max 256 (s.rd (Reg.LK_BUDGET_TIME n)) - s.now)
    | [] => none

/-- HOLD_LIMIT (R248, R388): the manager floods an abort when the pause has lasted its limit, extended once by the budget
of a link that owns a fault on an awaited window. -/
def execHoldLimit (s : State) : Res :=
  .next (
    match s.seam.pausedAt with
    | none => s
    | some p =>
      let limit := 1000 * max 1 (s.rd Reg.SM_HOLD_LIM_LIMIT) + s.seam.limitMore.getD 0
      if ¬ s.isRoot ∨ s.seam.resumeAt.isSome ∨ s.seam.abortAt.isSome ∨ s.now < p + limit then s
      else
        let left := (s.seam.rxWins.filter s.awaited).findSome? (fun w => s.linkLeft w.link)
        match s.seam.limitMore, left with
        | none, some n => { s with seam := { s.seam with limitMore := some n } }
        | _, _ => s.acceptAbort { h := BitVec.toFin (BitVec.ofNat 3 (s.seam.seamHall.getD 0)), parity := s.seam.parity,
                                  r := gridBits (gridAfter s.now s.hallLead) })

/-- ABORT_RECORD (R248). -/
def execAbortRecord (_link : LinkId) (rc : GridRec) (s : State) : Res :=
  .next (if s.seam.seamHall = some rc.h.val ∧ s.seam.parity = rc.parity then s.acceptAbort rc else s)

/- ### The end -/

/-- The tiles in a TSEAM of the running Seam. -/
def State.seamTiles (s : State) : List Nat :=
  s.waiters (fun _ t iw => t.mode == .seam && isOp iw 7 3 && iwObj iw == s.seam.tree && t.flagSet s.seam.tree == false)

/-- The Seam is over: its length is recorded, and held window reads complete (R120, R239). The time of a pause that has not been
resumed counts as pause time of the step (R254).
(DEDUCED, log entry 33; DESIGN CHOICE, log entry 73) -/
def State.closeSeam (s : State) (code len : Nat) : State :=
  let s1 := ((s.wr Reg.TK_STAT_IN_SEAM 0).wr Reg.SM_STAT_STATE code).wr Reg.SM_LAST_LEN_VALUE (min len (2 ^ 32 - 1))
  State.answerHeld { s1 with seam := { s1.seam with
    pausedAt := none, holds := [], ownHold := false, resumeAt := none, abortAt := none, txWins := [], rxWins := [],
    holdNs := s1.seam.holdNs + (match s1.seam.pausedAt with
      | some p => s1.now - p
      | none => 0),
    txBuf := [], rxBuf := [], index := s1.seam.index + 1 } }

/-- A Seam ends early (R219, R248): every TSEAM in it takes ABANDONED.
(DEDUCED, log entry 33) -/
def State.abortSeam (s : State) : State :=
  if s.on Reg.TK_STAT_IN_SEAM then (s.endWaits s.seamTiles false).closeSeam 3 (s.now - s.seam.s) else s

/-- HOLD_ABORT (R248): at the abort AT the Seam ends, and the Seam layer hands the fault up.
(DEDUCED, log entry 33) -/
def execHoldAbort (s : State) : Res :=
  .next (
    match s.seam.abortAt with
    | some t =>
      if t ≤ s.now ∧ s.on Reg.TK_STAT_IN_SEAM then
        let s1 := s.abortSeam.flag Reg.SM_FLT_HOLD_LIMIT
        s1.openFault (s1.faultRec 8 3)
      else s
    | none => s)

/-- `TK_STAT.PHASE` of a superstep. -/
def phaseCode : PhaseKind → Nat
  | .forward => 1
  | .backward => 2
  | .update => 3

/-- A compute phase starts (R49, R50, R68). -/
def State.enterSuperstep (s : State) (i mb : Nat) : State :=
  match s.step.steps[i]? with
  | some st =>
    let s1 := (s.wr Reg.TK_STAT_PHASE (phaseCode st.phase)).wr Reg.TK_STAT_MB mb
    { s1 with step := { s1.step with idx := i, phaseSince := s1.now, timed := true, wdogMore := 0, roundsDone := [] } }
  | none => s

/-- The phase of a superstep of the step description. -/
def State.phaseOf (s : State) (i : Nat) : Option PhaseKind := (s.step.steps[i]?).map (fun st => st.phase)

/-- SEAM_END (R50, R95, R120, R221, R239): every TSEAM of the Seam takes SUCCESS, the next compute phase begins, and the
loader starts on the next pattern set. -/
def execSeamEnd (s : State) : Res :=
  .next (
    if s.on Reg.TK_STAT_IN_SEAM ∧ s.rd Reg.SM_STAT_STATE = 1 ∧ s.seam.seamEnd ≤ s.now ∧
        s.seam.starts.length ≤ s.seam.span + 1 then
      let s0 := s.runStitches
      let s1 := (s0.endWaits s0.seamTiles true).closeSeam 0 (s.seam.seamEnd - s.seam.s)
      match s1.nextStep with
      | some (i, mb) => (s1.enterSuperstep i mb).startLoader i (s1.phaseOf i == s1.phaseOf s1.step.idx)
      | none => s1
    else s)

end Sys2Proof.Machine
end

