-- ==== Sys2Proof/Machine/Hem.lean ====
section
/-! DEFINITION. The Hem (R71), its policy window (R72), the parks (R431), and the start of a step (R83, R398, R430, R521). -/

namespace Sys2Proof.Machine

/- ### What a Hem latches -/

def cap32 (n : Nat) : Nat := min n (2 ^ 32 - 1)

/-- Tack waits and lend time are counted up to the Hem (R67). -/
def State.countWaits (s : State) : State :=
  let lend := (s.tiles.map (fun e => e.2.lentNs s.now)).foldl (· + ·) 0
  let wait := (s.tiles.map (fun e => e.2.tackNs s.now)).foldl (· + ·) 0
  { s.mapTiles (fun _ t => { t with counted := s.now }) with
    step := { s.step with lendNs := s.step.lendNs + lend, waitNs := s.step.waitNs + wait } }

/-- Counts of one tensor ID, added with saturation (R151). -/
def addCounts (a b : MonCounts) : MonCounts :=
  { total := cap32 (a.total + b.total), zero := cap32 (a.zero + b.zero), sat := cap32 (a.sat + b.sat),
    nonfin := cap32 (a.nonfin + b.nonfin), hist := (a.hist.zip b.hist).map (fun x => cap32 (x.1 + x.2)) }

/-- The tensor monitors of the step (R151, R158): the sums over the tiles, under the step number that they ran under. -/
def State.monitorTable (s : State) : SMap (Nat × MonCounts) :=
  s.tiles.foldl (fun m e => e.2.counts.foldl (fun m c =>
    smPut m c.1 (s.stepNo, addCounts (smGet m c.1 (0, {})).2 c.2)) m) []

/-- The lowest-numbered tile that set LONGSUM in the step (R184). -/
def State.firstLong (s : State) : Option Nat := s.tiles.findSome? (fun e =>
  if e.2.longsum = 0 then none else s.logicalOf e.1)

/-- Tile statistics are latched, and the tiles' counters restart (R67, R151, R169, R184). -/
def State.latchTiles (s : State) : State :=
  let s1 := s.countWaits
  let s2 := (s1.wr Reg.TK_CNT_LEND_VALUE (cap32 (s1.step.lendNs / 1000))).wr Reg.TK_CNT_WAIT_VALUE
    (cap32 (s1.step.waitNs / 1000))
  let sum := fun (f : Tile → Nat) => cap32 ((s.tiles.map (fun e => f e.2)).foldl (· + ·) 0)
  let s3 := (s2.wr Reg.MN_NUM_LONGSUM_COUNT (sum (fun t => t.longsum))).wr Reg.MN_NUM_NONFIN_COUNT (sum (fun t => t.nonfin))
  let s4 := (s3.wr Reg.MN_NUM_FIRST_LTILE (s.firstLong.getD 0)).wr Reg.MN_NUM_FIRST_VALID (b2n s.firstLong.isSome)
  { s4.mapTiles (fun _ t => { t with counts := [], longsum := 0, nonfin := 0 }) with
    step := { s4.step with lendNs := 0, waitNs := 0, latched := s.stepNo }, monitors := s.monitorTable }

/-- Fabric, ring and Seam statistics are latched (R215, R254, R281). -/
def State.latchFabric (s : State) : State :=
  let s1 := (List.range 12).foldl (fun s n => s.wr (Reg.MN_FAB_EDGE_WORDS n) (cap32 (nth s.fab.edges n 0 / 1024))) s
  let c := fun (i : Nat) => cap32 (nth s.fab.ringCounts i 0)
  let s2 := ((((s1.wr Reg.BB_CNT_MSG_COUNT (c 0)).wr Reg.BB_CNT_ADD_COUNT (c 1)).wr Reg.BB_CNT_RELAY_COUNT (c 2)).wr
    Reg.BB_CNT_RETRY_COUNT (c 3)).wr Reg.BB_CNT_ABANDON_COUNT (c 4)
  let s3 := (((s2.wr Reg.SM_HOLD_CNT_RAISED (min 0xFFFF s2.seam.raised)).wr Reg.SM_HOLD_CNT_PAUSES
    (min 0xFFFF s2.seam.pauses)).wr Reg.SM_HOLD_NS_VALUE (cap32 s2.seam.holdNs)).wr Reg.SM_DARN_USED_VALUE
    (cap32 s2.seam.darnUsed)
  { s3 with fab := { s3.fab with edges := List.replicate 12 0, ringCounts := [0, 0, 0, 0, 0] },
            seam := { s3.seam with raised := 0, pauses := 0, holdNs := 0, darnUsed := 0 } }

/-- Spool and Harvest statistics of an M die are latched (R313, R364, R384). -/
def State.latchDie (s : State) (m : Nat) : State :=
  let d := nth s.mdies m {}
  let h := s.hv m
  let s1 := ((s.wr (Reg.SP_CNT_STALE_WR m) (min 0xFFFF d.staleWr)).wr (Reg.SP_CNT_STALE_RD m) (min 0xFFFF d.staleRd)).wr
    (Reg.SP_CNT_OFFSAT_COUNT m) (cap32 d.offSat)
  let s2 := ((s1.wr (Reg.HV_CNT_FROST_COUNT m) (cap32 h.cntFrost)).wr (Reg.HV_CNT_ROOT_GOOD m) (min 0xFFFF h.cntGood)).wr
    (Reg.HV_CNT_ROOT_FAILED m) (min 0xFFFF h.cntFail)
  let s3 := (s2.wr (Reg.HV_CNT_NONFIN_NORM m) (min 0xFFF h.cntNorm)).wr (Reg.HV_CNT_NONFIN_W m) (min 0xFFFFF h.cntW)
  (s3.modMdie m (fun d => { d with staleWr := 0, staleRd := 0, offSat := 0 })).modHv m (fun h => { h with
    cntFrost := 0, cntGood := 0, cntFail := 0, cntNorm := 0, cntW := 0, nLast := h.nsum, sLast := h.ssum, nsum := [],
    ssum := [] })

/-- The digests and the noise estimate of the step are latched (R375, R377). -/
def State.latchCommit (s : State) : State :=
  let a := s.commit.sent.toNat
  let b := s.commit.recv.toNat
  ((((s.wr Reg.HV_DG_SENT_LO_VALUE a).wr Reg.HV_DG_SENT_HI_VALUE (a / 2 ^ 32)).wr Reg.HV_DG_RECV_LO_VALUE b).wr
    Reg.HV_DG_RECV_HI_VALUE (b / 2 ^ 32)).wr Reg.HV_NOISE_VALUE s.commit.noise.toNat

/-- The energy and the suppressed cycles of the step are latched (R464). -/
def State.latchPower (s : State) : State :=
  let mj := s.power.energy / 1000
  { ((s.wr Reg.PW_E_STEP_LO_VALUE mj).wr Reg.PW_E_STEP_HI_VALUE (mj / 2 ^ 32)).wr
      Reg.PW_CNT_STUT_COUNT (cap32 (s.power.suppressed / 1024)) with
    power := { s.power with energy := 0, suppressed := 0 } }

/-- Item 1 of R71: every block latches its statistics and restarts its counters. -/
def State.latchAll (s : State) : State := (((s.latchTiles.latchFabric.latchDie 0).latchDie 1).latchCommit).latchPower

/- ### Harvest at the Hem -/

/-- Item 2 of R71 (R355, R363, R375): on commit the generation of every touched TID that is not frozen flips; touched marks,
taps and noise sums are cleared in both cases. -/
def HarvestSt.atHem (commit : Bool) (h : HarvestSt) : HarvestSt :=
  let flip := if commit then h.touched.filter (fun t => !h.frost.contains t) else []
  { h with gen := h.gen.filter (fun t => !flip.contains t) ++ flip.filter (fun t => !h.gen.contains t),
           touched := [], taps := [], tapSum := [], tapBad := [], tapCount := [], noise := [], noiseBad := [] }

/- ### Roll-back -/

/-- A fault of class P (R390). -/
def faultIsP (r : FaultRec) : Bool :=
  if r.layer = 4 then !tileClassH r.code
  else if r.layer = 5 then decide (1 ≤ r.code ∧ r.code ≤ 4)
  else if r.layer = 6 then r.code == 1 || r.code == 2 || r.code == 3 || r.code == 6
  else r.layer == 7 && decide (2 ≤ r.code ∧ r.code ≤ 9)

/-- A tile halts at a roll-back (R396): the pleat buffer is flushed, an open wait ends ABANDONED, and the tile reads IDLE
unless it has stopped on a fault. -/
def Tile.halt (t : Tile) (now : Nat) : Tile :=
  let t1 := t.flushPleat now
  let t2 := match t.blocked with
    | some iw => if t.mode == TileMode.stop || isOp iw 7 3 then t1 else t1.setPred (iwPS iw) false
    | none => t1
  { t2 with blocked := none, lendSince := none, mode := if t.mode == TileMode.stop then TileMode.stop else TileMode.idle }

/-- A tile is blocked in a wait on a thimble register (R269). -/
def Tile.inThimWait (t : Tile) : Bool := match t.blocked with
  | some iw => t.mode != TileMode.stop && isOp iw 6 2 && decide (8 ≤ iwObj iw)
  | none => false

/-- R396: the running Seam ends as at a hold abort, tiles halt, and spool and Harvest streams stop; the thimble waits that end
ABANDONED are counted (R281).
(DEDUCED, log entry 26) -/
def State.haltStep (s : State) : State :=
  let n := (s.tiles.filter (fun e => e.2.inThimWait)).length
  let s1 := (s.abortSeam.countRing 4 n).mapTiles (fun _ t => t.halt s.now)
  { s1 with streams := s1.streams.map (fun (e : Nat × StreamSt) => (e.1, if e.2.state = 1 then { e.2 with state := 3 } else e.2)),
            harvest := s1.harvest.map (fun h => { h with state := hvIdle, syncWait := none }),
            seam := { s1.seam with seamAt := none } }

/-- The physical positions whose tile has a class H fault of its own: ECC_UNCORR from the sender's poison is not counted
(R403). -/
def State.hardTiles (s : State) : List (Nat × Nat) := s.tiles.filterMap (fun e =>
  if e.2.fault.valid && e.2.fault.hw && !(e.2.fault.code == fcEcc && bitOf e.2.fault.detail 31) then
    some (e.1, e.2.fault.code) else none)

/-- A fault at a position calls for a remap (R403): at once after PORT, and after a second class H fault within the
window. -/
def State.wantsRemap (s : State) (p code : Nat) : Bool :=
  let win := 64 * max 1 (s.rd Reg.JB_RCV_CTL_HWIN)
  code == fcPort || s.rcv.history.any (fun h => h.1 == p && decide (s.rcv.committed ≤ h.2 + win))

/-- The positions that are to be moved away from. -/
def State.remaps (s : State) : List Nat := (s.hardTiles.filter (fun e => s.wantsRemap e.1 e.2)).map (fun e => e.1)

/-- A spare claim for a position is possible (R403). -/
def State.canRemap (s : State) (others : List Nat) (p : Nat) : Bool :=
  let d := p / 1584
  let r := p % 1584 / 33
  s.on Reg.JB_RCV_CTL_REMAP_EN && s.rowsWanted == 48 && s.rowMode d r == 0 && !(s.badCols d r).contains 32 &&
    decide (p % 33 < 32) && !s.fab.staged.any (fun e => e.1 == d * 48 + r && e.2 != p % 33) &&
    !others.any (fun q => q != p && q / 33 == p / 33)

/-- Every position that is to be moved can be.
(DEDUCED, log entry 49) -/
def State.remapOk (s : State) : Bool := s.remaps.all (s.canRemap s.remaps)

/-- A poisoned block has a source to restore it from (R401): a mirror, for banked state; the host, for batches and for the
tables of the job image; a block that a replay rewrites needs none. -/
def State.restoreSource (s : State) (b : Nat) : Option Bool :=
  let a := b * 256
  match dieOf a with
  | none => none
  | some m =>
    let h := s.hv m
    let page := (a - halfBase m) / 65536
    let off := s.rd (Reg.HV_BOFF_PAGES m)
    let tid := match smFind h.banked page with
      | some t => some t
      | none => if off ≤ page then smFind h.banked (page - off) else none
    match tid with
    | some t => some (tdMirror (leWords (s.view (s.hvTdesc m + 128 * t) 128)))
    | none =>
      if (smFind h.mirror page).isSome then some true
      else match s.host.img with
        | some g =>
          if g.batches.any (fun x => decide (x.1 ≤ a ∧ a < x.1 + x.2)) ||
              g.blobs.any (fun x => decide (x.1 < a + 256 ∧ a < x.1 + x.2.length)) then some true else none
        | none => none

/-- A persistent error of the step lies in data without a restore source (R413).
(DEDUCED, log entry 49) -/
def State.lostData (s : State) : Bool :=
  s.rcv.opens.any (fun r => r.layer == 3) && s.poison.any (fun b => s.restoreSource b == some false)

/-- The loss of a device that carries work (R410, R413, R522). -/
def faultIsLoss (r : FaultRec) : Bool := r.layer == 11 && r.code == 3

/-- The fault that ends the job at a roll-back Hem (R390, R400, R403, R410, R413), if there is one; `n` roll-backs of the step
number have been taken. -/
def State.endingFault (s : State) (n : Nat) : Option FaultRec :=
  match (s.rcv.opens ++ (if s.isRoot then s.rcv.reports else [])).find? (fun r => faultIsP r || faultIsLoss r) with
  | some r => some r
  | none =>
    if s.lostData then s.rcv.opens.find? (fun r => r.layer == 3)
    else if !s.remapOk then some (s.faultRec 11 4)
    else if max 1 (s.rd Reg.JB_RCV_CTL_MAXREP) < n then some (s.faultRec 11 2)
    else none

/-- The job ends visibly at a roll-back Hem or in the rewind after it (R413, R414). -/
def State.endInWindow (s : State) (r : FaultRec) : State :=
  ((s.endVisibly r).wr Reg.TK_STAT_PHASE phIdle).logRec 3 5 jbEnded

/-- The rest of a roll-back Hem (R389, R396, R398, R400): the roll-back is counted, open faults are closed, and the rewind
begins, or the job ends.
(DEDUCED, log entry 26; DEDUCED, log entry 33) -/
def State.rollBack (s : State) (h : Nat) : State :=
  let n := s.rd Reg.JB_RCV_STAT_REPLAYS + 1
  let s1 := ((s.wr Reg.JB_RCV_STAT_REPLAYS (min 15 n)).bump Reg.JB_RCV_CNT_REPLAYS 1).bump Reg.HV_COMMIT_ROLLBACKS 1
  let last := s1.endingFault n
  let by_ := h + 1000 * max 64 (s1.rd Reg.JB_RCV_CTL_RWIN)
  let s2 := { s1 with
    tacks := [],
    rcv := { s1.rcv with fault := none, opens := [], reports := [], rewindBy := by_, rewindMore := false } }
  if s2.jobState ≠ jbRunning then s2
  else match last with
    | some r => s2.endInWindow r
    | none => s2.wr Reg.JB_RCV_STAT_STATE 2

/- ### The Hem -/

/-- The rest of a committing Hem (R51, R401): the step number has moved on, and the batch of the step is free. -/
def State.commitStep (s : State) (step : Nat) : State :=
  { s.wr Reg.JB_RCV_STAT_REPLAYS 0 with
    rcv := { s.rcv with committed := s.rcv.committed + 1, reports := [] },
    host := { s.host with batches := modNth s.host.batches (step % 2) (fun _ => none) },
    tacks := s.tacks.map (fun (e : Nat × TackSt) => (e.1, { e.2 with abandoned := false })) }

/-- The pending admission takes effect unless a check bars it, and the admitted count changes (R39, R71, R235).
(DEDUCED, log entry 23) -/
def State.admitAtHem (s : State) : State :=
  let s0 := if s.time.pendingAdmit then s.checkCables else s
  let ok := s0.time.pendingAdmit && s0.admissible
  let s1 := if ok then s0.wr Reg.TK_STAT_ADMITTED 1 else s0
  (State.refresh { s1 with time := { s1.time with
    pendingAdmit := s1.time.pendingAdmit && !ok, admitted := s1.time.admitted + s1.time.newlyAdmitted, newlyAdmitted := 0 } })

/-- The length of the policy window in ns (R72). -/
def State.hemWin (s : State) : Nat := 64 * max 64 (s.rd Reg.TK_HEM_WIN)

/-- The policy deadline before the end of the window in ns (R72). -/
def State.hemDeadline (s : State) : Nat := 64 * clamp 1 (max 64 (s.rd Reg.TK_HEM_WIN) - 1) (s.rd Reg.TK_HEM_DEADLINE)

def State.lastHem (s : State) : Nat := s.rd Reg.TK_HEM_AT_LO_VALUE + 2 ^ 32 * s.rd Reg.TK_HEM_AT_HI_VALUE

/-- What was staged in the window takes effect (R72, R251, R309, R448): the power limit, the lane variant, the micro-batch
count, and, after a commit, the commands of the sequence table.
(DEDUCED, log entry 26; DEDUCED, log entry 45) -/
def State.applyStagedParams (s : State) (commit : Bool) : State :=
  let s1 := match s.step.limitStaged with
    | some w => { s.wr Reg.PW_LIMIT_MODULE w with step := { s.step with limitStaged := none } }
    | none => s
  let s2 := match s1.step.param with
    | some r => (if r.mbCount = 0 then s1 else s1.wr Reg.TK_STAT_MB_COUNT r.mbCount.toNat).wr Reg.SM_TT_LANE3 (b2n r.lane3)
    | none => s1
  if commit then (s2.applySlots 0).applySlots 1 else s2

/-- A Hem that falls in the window of a committing Hem, which is that of a forced roll-back (R395), cuts the window short:
what is staged in it takes effect.
(DESIGN CHOICE, log entry 83) -/
def State.cutWindow (s : State) : State :=
  if s.step.winOpen ∧ s.on Reg.TK_STAT_LAST_COMMIT then s.applyStagedParams true else s

/-- What a Hem does at its AT (R71, R396).
(DEDUCED, log entry 26) -/
def State.atHem (s : State) (h : Nat) : State :=
  let commit := s.step.hemCommit
  let step := s.stepNo
  let s1 := s.cutWindow.latchAll
  let s2 := if commit then s1 else s1.haltStep
  let s3 := { s2 with harvest := s2.harvest.map (fun (x : HarvestSt) => x.atHem commit) }
  let s4 := ((if commit then s3.setStepNo (step + 1) else s3).wr Reg.TK_STAT_LAST_COMMIT (b2n commit)).wr
    Reg.HV_COMMIT_COMMIT (b2n commit)
  let s5 := (((s4.admitAtHem).wr Reg.TK_HEM_AT_LO_VALUE h).wr Reg.TK_HEM_AT_HI_VALUE (h / 2 ^ 32)).wr Reg.TK_STAT_PHASE phHem
  let s6 := { s5 with step := { s5.step with
    hemAt := none, held := 0, winOpen := true, winLen := s5.hemWin, captured := false, param := none, parkNotice := none, timed := false } }
  (if commit then s6.commitStep step else s6.rollBack h).logRec 3 3 (b2n commit)

/- ### The policy window -/

/-- The device asks the manager for a park (R430, R431): the request is held until it is withdrawn.
(DEDUCED, log entry 60) -/
def State.requestPark (s : State) (reason : Nat) : State :=
  if s.host.ownPark.contains reason then s
  else
    let s1 := (({ s with host := { s.host with ownPark := s.host.ownPark ++ [reason] } }).wr Reg.JB_STAT_PARKREQ reason)
    if s1.isRoot then { s1 with host := { s1.host with parkHeld := s1.host.parkHeld ++ [(s1.devId.toNat, reason)] } }
    else s1.sendRoot 7 [reason]

/-- A park request of the device is withdrawn.
(DEDUCED, log entry 60) -/
def State.withdrawPark (s : State) (reason : Nat) : State :=
  let own := s.host.ownPark.filter (· != reason)
  { s.wr Reg.JB_STAT_PARKREQ (own.getLast?.getD 0) with host := { s.host with
    ownPark := own, parkHeld := s.host.parkHeld.filter (fun x => !(x.1 == s.devId.toNat && x.2 == reason)) } }

/-- The step that the Hem whose window is open ended (R72, R322). -/
def State.hemStep (s : State) : Option Word64 := if s.step.winOpen then some (BitVec.ofNat 64 s.step.latched) else none

/-- A parameter record is taken in for the Hem whose window is open, and flooded on (R60, R72). On a device that runs the
step and has accepted no release for it, the record shows that the release was missed (R407).
(DEDUCED, log entry 26) -/
def State.acceptParam (s : State) (r : ParamRec) : State :=
  if s.step.winOpen then
    if s.step.param.isNone && s.hemStep == some r.step then
      { s.floodCtl (paramPayload r) with step := { s.step with param := some r } }
    else s
  else if s.jobState = jbRunning ∧ s.step.hemAt = none ∧ r.step.toNat = s.stepNo ∧ ¬ s.rcv.missed then
    { s.floodCtl (paramPayload r) with rcv := { s.rcv with missed := true } }
  else s

/-- PARAMETER_RECORD (R72). -/
def execParameterRecord (_link : LinkId) (rc : ParamRec) (s : State) : Res := .next (s.acceptParam rc)

/-- What the capture finds in `TK_NEXT`: its count, VALID, and whether a write has landed in the capture cycle itself, which is
kept for the next Hem (R72). -/
def State.nextHeld (s : State) : Nat × Bool × Bool := match s.step.nextOld with
  | some (a, c, v) => if a = s.now then (c, v, true) else (s.rd Reg.TK_NEXT_MB_COUNT, s.on Reg.TK_NEXT_VALID, false)
  | none => (s.rd Reg.TK_NEXT_MB_COUNT, s.on Reg.TK_NEXT_VALID, false)

/-- The micro-batch count that the capture takes (R72): a staged count within the bounds of the job image, or 0 for no
change. R72 says that a count must lie within the bounds and not what becomes of another one: it is a free value.
(DESIGN CHOICE, log entry 13) -/
def State.nextCount (s : State) : Nat :=
  let m := s.nextHeld.1
  if s.nextHeld.2.1 ∧ m ≠ 0 then if s.step.mbMin ≤ m ∧ m ≤ s.step.mbMax then m else Config.freeValue s.fresh
  else 0

/-- The manager captures the parameters and floods them, after a PARK record where a request is held (R72, R251, R399,
R431).
(DEDUCED, log entry 60) -/
def State.capture (s : State) (commit : Bool) : State :=
  let step := (s.hemStep).getD 0
  let lane3 := match s.commit.own with
    | some f => f.lane3
    | none => s.on Reg.SM_TT_LANE3_REQ
  let s1 := if commit ∧ s.host.parkHeld ≠ [] then
      let kind := s.host.parkHeld.any (fun x => x.2 == 4)
      { s.emit (.flood 8 [step.toNat, b2n kind]) with
        step := { s.step with parkNotice := some kind }, host := { s.host with parkHeld := [] } }
    else s
  let rc : ParamRec := { step := step, mbCount := BitVec.ofNat 8 (if commit then s1.nextCount else 0), lane3 := lane3 }
  let s2 := if commit ∧ ¬ s1.nextHeld.2.2 then s1.wr Reg.TK_NEXT_VALID 0 else s1
  { s2.floodCtl (paramPayload rc) with fresh := s1.fresh + 1, step := { s2.step with param := some rc } }

/-- POLICY_DEADLINE (R72, R399, R431). -/
def execPolicyDeadline (s : State) : Res :=
  .next (
    if s.step.winOpen ∧ ¬ s.step.captured ∧ s.lastHem + s.step.winLen ≤ s.now + s.hemDeadline then
      let s1 := { s with step := { s.step with captured := true } }
      let commit := s1.on Reg.TK_STAT_LAST_COMMIT
      let s2 := if commit ∧ s1.jobState = jbRunning ∧ ¬ s1.batchReady s1.stepNo then s1.requestPark 3 else s1
      if s2.isRoot then s2.capture commit else s2
    else s)

/- ### The start of a step -/

/-- A tile at the start of a step (R83, R116, R521): its registers are 0, and issue begins at the step entry; a tile that has
stopped stays stopped until a reset, a replay or a remap restarts it.
(DEDUCED, log entry 50) -/
def Tile.startStep (t : Tile) (entry now : Nat) : Tile :=
  let t1 := { t with g := [], p := 0, v := [], badRegs := [] }
  if t.mode = .stop then t1
  else { t1 with pc := entry, entry := entry, mode := .run, blocked := none, lendSince := none, since := now }

/-- The tiles that the job image gives a program start (R521). -/
def State.startTiles (s : State) : State := match s.host.img with
  | some g => g.tiles.foldl (fun s x => match s.physOf x.tile.val with
    | some p => s.modTile p (fun t => t.startStep x.entry s.now)
    | none => s) s
  | none => s

/-- A Harvest engine at the start of a step (R360): a stream of the job image runs from its first command. -/
def HarvestSt.startStep (runs : Bool) (h : HarvestSt) : HarvestSt :=
  { h with idx := 0, state := if runs then hvRun else hvIdle, marks := [], ended := false, err := false, normed := false,
           normAb := false, syncWait := none, kappa := h.kappa }

/-- The step that the step number names starts on every tile (R49, R83, R360, R377, R398, R430, R521). -/
def State.startStep (s : State) : State :=
  let n := match s.host.img with
    | some g => g.harvest.length
    | none => 0
  let s1 := { s with
    step := { s.step with winOpen := false, param := none, parkNotice := none, startAt := none, captured := false },
    commit := {}, rcv := { s.rcv with missed := false, reportStep := none },
    harvest := s.harvest.zipIdx.map (fun (e : HarvestSt × Nat) => e.1.startStep (decide (e.2 < n))),
    streams := s.streams.map (fun (e : Nat × StreamSt) => (e.1, { e.2 with startIdx := e.2.idx, marks := [] })),
    seam := { s.seam with index := 0 } }
  let s2 := (s1.startTiles.enterSuperstep 0 0).startLoader 0 false
  if s2.host.stepLimit ≠ 0 ∧ s2.host.stepLimit ≤ s2.stepNo + 1 then s2.requestPark 4 else s2

/-- The job parks or ends at H + W (R431, R521): each tile leaves its final TSEAM without status and reads IDLE.
(DEDUCED, log entry 60) -/
def State.parkJob (s : State) (ends : Bool) : State :=
  let s1 := s.mapTiles (fun _ t => { t with mode := if t.mode == TileMode.stop then TileMode.stop else TileMode.idle, blocked := none, lendSince := none })
  let s2 := ((s1.wr Reg.TK_STAT_PHASE phIdle).wr Reg.JB_STAT_STATE (if ends then jbEnded else jbParked)).logRec 3 4 (b2n ends)
  { s2 with step := { s2.step with winOpen := false, param := none, parkNotice := none, captured := false } }

/-- H + W after a committing Hem (R72, R431): a missing parameter record is a tack-layer fault.
(DEDUCED, log entry 26) -/
def State.windowEnd (s : State) : State :=
  let s0 := if s.step.param.isNone then (s.flag Reg.TK_FLT_PARAM).openFault (s.faultRec 9 4) else s
  let s1 := s0.applyStagedParams true
  if s1.jobState ≠ jbRunning then
    { s1.wr Reg.TK_STAT_PHASE phIdle with step := { s1.step with winOpen := false, param := none, parkNotice := none, captured := false } }
  else match s1.step.parkNotice with
    | some e => s1.parkJob e
    | none => s1.startStep

/-- A tile's resident image is written (R398, R402).
(DEDUCED, log entry 15; DEDUCED, log entry 50) -/
def Tile.loadImage (t : Tile) (now : Nat) (x : TileProg) : Tile :=
  x.resident.foldl (fun t r => t.writeMem (meshAt now) r.1 r.2) { t.dropBuffer with entry := x.entry }

/-- The tiles of a list of logical numbers take their images and their spools at the positions that hold them now (R213,
R287). -/
def State.placeTiles (s : State) (ts : List Nat) : State := match s.host.img with
  | some g =>
    let s1 := g.tiles.foldl (fun s (x : TileProg) => match s.physOf x.tile.val with
      | some p => if ts.contains x.tile.val then s.modTile p (fun t => Tile.loadImage { t with pc := x.entry } s.now x) else s
      | none => s) s
    s1.bindSpools (fun p => p) (g.spools.filter (fun x => ts.contains x.tile.val))
  | none => s

/-- The start AT of a start release (R61, R398, R430): a rewound step starts again under the row map as claimed (R213), or
the job starts or resumes; of the park requests that the manager holds, those to end the job stay (R431).
(DEDUCED, log entry 26) -/
def State.startRelease (s : State) : State :=
  let s1 := { s with step := { s.step with startAt := none } }
  if s1.jobState = jbRunning ∧ s1.step.winOpen then
    let s2 := (s1.applyStaged).applyStagedParams false
    let s2 := { s2 with fab := { s2.fab with moved := [] } }
    (s2.wr Reg.JB_RCV_STAT_STATE (if s2.rcv.opens.isEmpty then 0 else 1)).startStep
  else if s1.jobState = jbLoaded ∨ s1.jobState = jbParked then
    let s2 := s1.placeTiles s1.fab.moved
    let s3 := { s2 with fab := { s2.fab with moved := [] },
                        host := { s2.host with parkHeld := s2.host.parkHeld.filter (fun x => x.2 == 4) } }
    ((s3.wr Reg.JB_STAT_STATE jbRunning).logRec 3 5 jbRunning).startStep
  else s1

/-- STEP_START (R61, R72, R83, R398, R407, R430, R431, R521): the start AT of a start release, or the end of the window of a
committing Hem. A device that has missed the release asks for the decision.
(DESIGN CHOICE, log entry 2) -/
def execStepStart (s : State) : Res :=
  .next (
    match s.step.startAt with
    | some t => if t ≤ s.now then s.startRelease else s
    | none =>
      if s.step.winOpen then
        if s.on Reg.TK_STAT_LAST_COMMIT ∧ s.lastHem + s.step.winLen ≤ s.now ∧ ¬ s.rcv.missed then s.windowEnd else s
      else if s.rcv.missed then s.sendRoot 4 [s.stepNo]
      else s)

end Sys2Proof.Machine
end

