-- ==== Sys2Proof/Machine/Thimbles.lean ====
section
/-! DEFINITION. THIMBLE packets at ring managers and at thimble registers (R265–R267, R270, R279), the request sent again
after RETRY, and the end of a slot's zeroing (R272). -/

namespace Sys2Proof.Machine

/-- A THIMBLE packet of a sub-kind arrives. -/
def thimbleAt (q : Pkt) (sub : Nat) (f : Nat → State → State) (s : State) : Res :=
  arriveAt q (pkKind q == pkThimble && pkSub q == sub) f s

/-- THIMBLE_REQUEST (R266, R267, R279). -/
def execThimbleRequest (pkt : Pkt) (s : State) : Res :=
  thimbleAt pkt suRequest (fun p s => (s.request p pkt).ringWake p) s

/-- The units of the slot that a combining grant covers: the slot size of the ring on this device; a free value for a ring
on another device, whose slot size no packet carries.
(DESIGN CHOICE, log entry 13) -/
def State.slotSpan (s : State) (h : ThimSt) : Nat × State :=
  if h.remote then s.draw
  else match s.physOf h.tile with
    | some p => (((s.tile p).ring h.ring).slotUnits, s)
    | none => (0, s)

/-- THIMBLE_GRANT (R265, R279): the register is HELD; that of a stopped tile is released at once. -/
def execThimbleGrant (pkt : Pkt) (s : State) : Res :=
  thimbleAt pkt suGrant (fun p s =>
    let k := pkTag pkt % 8
    let h := (s.tile p).thim k
    if h.mode = .requested then
      let sp := s.slotSpan h
      let h1 := { h with mode := .held, granted := true, left := h.units, addr := pkAddr pkt, etype := pkEtype pkt,
                         span := if h.form = rkCombining then sp.1 else 0, retryAt := none }
      let s1 := (if h.form = rkCombining then sp.2 else s).modTile p (fun t => t.setThim k h1)
      if (s1.tile p).mode = .stop then s1.releaseThim p k else s1.ringWake p
    else s) s

/-- THIMBLE_RELEASE (R262, R265, R271, R275). -/
def execThimbleRelease (pkt : Pkt) (s : State) : Res :=
  thimbleAt pkt suRelease (fun p s => (s.releaseArrives p pkt).ringWake p) s

/-- THIMBLE_REFUSE (R265, R267): the register is FREE, and the tile faults asynchronously on its TREQ. -/
def execThimbleRefuse (pkt : Pkt) (s : State) : Res :=
  thimbleAt pkt suRefuse (fun p s =>
    let k := pkTag pkt % 8
    let h := (s.tile p).thim k
    if h.mode = .requested ∨ (h.mode = .draining ∧ h.form = 3) then
      (s.modTile p (fun t => t.setThim k { h with mode := .free, retryAt := none })).tileFault p fcRing (thimDetail k)
        h.pc h.iw true
    else s) s

/-- An unanswered request is abandoned (R265, R269, R278): the register is FREE, and its waits end ABANDONED. -/
def State.abandonThim (s : State) (p k : Nat) : State :=
  let h := (s.tile p).thim k
  if h.mode = .requested ∨ (h.mode = .draining ∧ h.form = 3) then
    (s.modTile p (fun t => t.setThim k { h with mode := .free, abandoned := true, retryAt := none })).ringWake p
  else s

/-- THIMBLE_ABANDONED (R265, R269). -/
def execThimbleAbandoned (pkt : Pkt) (s : State) : Res :=
  thimbleAt pkt suAbandoned (fun p s => s.abandonThim p (pkTag pkt % 8)) s

/-- THIMBLE_RETRY (R267): the register is to send its request again after `BB_CTL.RETRY` × 16 cy. -/
def execThimbleRetry (pkt : Pkt) (s : State) : Res :=
  thimbleAt pkt suRetry (fun p s =>
    let k := pkTag pkt % 8
    let h := (s.tile p).thim k
    if h.mode = .requested then
      s.modTile p (fun t => t.setThim k { h with retryAt := some (s.now + 16 * max 1 (s.rd Reg.BB_CTL_RETRY)) })
    else s) s

/-- THIMBLE_REREQUEST (R116, R267): a tile that has stopped requests no thimble. -/
def execThimbleRerequest (tile : TileId) (reg : Fin 8) (s : State) : Res :=
  match s.physOf tile.val with
  | none => .fault .noSuchTile
  | some p =>
    let h := (s.tile p).thim reg.val
    .next (match h.retryAt with
      | some a =>
        if a ≤ s.now ∧ h.mode = .requested ∧ (s.tile p).mode ≠ .stop then
          (s.modTile p (fun t => t.setThim reg.val { h with retryAt := none })).sendRequest p reg.val
        else s
      | none => s)

/-- SLOT_ZEROED (R272): the slot is zero, and the contributions held for it are added in the order of their arrival. -/
def execSlotZeroed (tile : TileId) (ring : Fin 8) (slot : Fin 64) (s : State) : Res :=
  match s.physOf tile.val with
  | none => .fault .noSuchTile
  | some p =>
    let t := s.tile p
    let r := t.ring ring.val
    let c := r.comb slot.val
    .next (
      if r.kind = rkCombining ∧ c.mode = .zeroing then
        let n := r.slotUnits * 16
        let t1 := t.writeMem (meshAt s.now) (r.base + slot.val * n) (List.replicate n 0)
        let s1 := s.setTile p (t1.setRing ring.val { r with slots := smPut r.slots slot.val { c with mode := .armed, held := [] } })
        c.held.foldl (fun s q => s.addPacket p q) s1
      else s)

end Sys2Proof.Machine
end

