-- ==== Sys2Proof/Machine/Links.lean ====
section
/-! DEFINITION. Afpen link states: training (R338, R339), authentication and the map check (R340, R341), entering and leaving
UP (R40, R250, R332), lane sparing (R342), give-up (R331, R278), and reset and re-arm (R350). -/

namespace Sys2Proof.Machine

/- ### Pattern links -/

/-- `SM_TT.LANE3_REQ` follows the lane counts of the pattern links (R251).
(DEDUCED, log entry 45) -/
def State.noteLanes (s : State) : State :=
  s.wr Reg.SM_TT_LANE3_REQ (b2n (s.patternLinks.any (fun n => s.linkUp n && s.lane3 n)))

/- ### Leaving and entering UP -/

/-- A link that leaves UP (R332, R342): its records and failed blocks are dropped, and it plays its time and tack roles no
more (R41, R44, R59). -/
def State.leaveUp (s : State) (n st : Nat) : State :=
  let s1 := (s.wr (Reg.LK_STAT_STATE n) st).wr (Reg.LK_STAT_LANES n) 0
  if !s.linkUp n then s1
  else
    let s2 := (s1.flag (Reg.LK_STAT_LEFT_UP n)).modLink n (fun l => { l with
      due := [], budgets := [], resend := [], winResend := [], winSide := [], winNaks := [], nakS := false, nakAt := none,
      rxUp := 0, uncRun := 0, replay := l.replay.map (fun e => { e with side := none }), samples := [], techo := none, echoSent := none, treeSent := none })
    let s3 := s2.noteManagerLink n
    let s4 := if s.parent = some n then s3.loseParent else s3
    ((s4.modLink n (fun l => { l with tree := {}, foldOk := false })).refresh).noteLanes

/-- A full training starts (R339). -/
def State.startTrain (s : State) (n : Nat) : State :=
  (s.leaveUp n lkPhy).modLink n (fun l => { l with
    trainSince := s.now, retryAt := none, lanes := [], ownNonce := [], peer := none })

/-- The crossing between the link clock and the core clock is armed (R350). -/
def State.armed (s : State) (n : Nat) : Bool := s.on (Reg.LK_XARM_DONE n)

/-- A link that is enabled, and whose crossings are armed, starts to train from DOWN. -/
def State.tryTrain (s : State) (n : Nat) : State :=
  if s.on (Reg.LK_CTL_EN n) ∧ s.armed n = true ∧ s.lkState n = lkDown ∧ (s.link n).retryAt = none then s.startTrain n else s

/-- The freed count of a VC as a link reaches UP (R334): what the receive buffer still holds is not free.
(DESIGN CHOICE, log entry 80) -/
def LinkSt.freshFreed (l : LinkSt) (v : Nat) : Nat :=
  (2 ^ 24 - ((l.rxPkts.filter (fun q => pkVc q == v)).map pkWire).foldl (· + ·) 0) % 2 ^ 24

/-- The state of a link that reaches UP: its sequence numbers, credits and streams start anew (R323, R327, R334); what its
receive buffers hold stays, and after a lane-sparing retrain so does what waits to be sent for the first time.
(DESIGN CHOICE, log entry 80) -/
def freshLink (full : Bool) (l : LinkSt) : LinkSt :=
  { ladj := l.ladj, rej := l.rej, lanes := l.lanes, spared := l.spared, rxPkts := l.rxPkts, msgs := l.msgs, peer := l.peer,
    freed := (List.range 3).map l.freshFreed,
    pktQ := if full then [] else l.pktQ, ctlQ := if full then [] else l.ctlQ,
    trainSince := l.trainSince, corr := l.corr, crcAt := l.crcAt, rsnAt := l.rsnAt }

/-- The window blocks of the running Seam that departed, or were to depart, while the link was not UP, and that are not
held good (R250). -/
def State.missedBlocks (s : State) (n : Nat) : List NakRec :=
  s.seam.rxWins.flatMap (fun w =>
    if w.link = n then (List.range w.blocks).filterMap (fun k =>
      match s.departs s.seam.rxWins w k with
      | some t => if t < s.now ∧ ¬ w.got.contains k then some { ord := w.ord, k := k } else none
      | none => none)
    else [])

/-- The window blocks whose slot passed while the link was not UP do not take a later one; the peer's NAKs bring them
(R250). -/
def State.skipSlots (s : State) (n : Nat) : State :=
  { s with seam := { s.seam with txWins := s.seam.txWins.map (fun w =>
    if w.link = n then { w with sent := (List.range w.blocks).filter (fun k => w.sent.contains k ||
      (match s.departs s.seam.txWins w k with
      | some t => decide (t < s.now)
      | none => false)) }
    else w) } }

/-- The lane that is not in use while three are.
(DEDUCED, log entry 44) -/
def sparedLane (lanes : List (Fin 4)) : Nat := ((List.range 4).find? (fun i => !lanes.any (fun l => l.val == i))).getD 0

/-- A link enters UP (R27, R40, R250, R327, R339, R342, R349), after a full training or after a lane-sparing retrain; a link
that comes up on three lanes keeps the fourth spared.
(DEDUCED, log entry 44) -/
def State.enterUp (s : State) (n : Nat) (cal : LinkCal) (full : Bool) : State :=
  let three := (s.link n).lanes.length = 3
  let s1 := s.modLink n (fun l0 =>
    let l := freshLink full l0
    { l with spared := if three then some (sparedLane l.lanes) else none, ownTRx := cal.t - cal.rx, peerTRx := cal.peerT - cal.peerRx, rxLat := cal.rx,
             pipe := (cal.t + cal.rx + cal.peerT + cal.peerRx) / 2, winSince := s.now, lastTime := s.now,
             rotAt := s.now, rotLeft := [], tries := 0, retryAt := none, cableDue := true })
  let s2 := ((s1.wr (Reg.LK_STAT_STATE n) lkUp).wr (Reg.LK_STAT_LANES n) (if three then 3 else 4)).wr (Reg.LK_STAT_SPARED n)
    (if three then sparedLane (s.link n).lanes else 0)
  let s3 := ((s2.wr (Reg.LK_TRAIN_RESULT n) (if three then 2 else 1)).wr (Reg.LK_TRAIN_TIME n)
    (min cal.micros (2 ^ 20 - 1))).bump (Reg.LK_TRAIN_COUNT n) 1
  let s4 := match (s3.link n).peer with
    | some p => ((s3.wr (Reg.LK_PEER_DEV n) p.dev.toNat).wr (Reg.LK_PEER_LINK n) p.link.val).wr (Reg.LK_PEER_VALID n) 1
    | none => s3
  let s5 := if s4.holdsEpoch then s4.queueCtl n (epochPayload s4.epochRec) else s4
  let s6 := (s5.modLink n (fun l => { l with winNaks := s5.missedBlocks n })).skipSlots n
  ((s6.noteManagerBack n).noteLanes).refresh

/- ### Training -/

/-- LINK_ENABLE (R339, R349): EN is set, unless the block is locked, and training starts. -/
def execLinkEnable (link : LinkId) (s : State) : Res :=
  let n := link.val
  .next ((if s.on (Reg.LK_CTL_LOCK n) then s else s.wr (Reg.LK_CTL_EN n) 1).tryTrain n)

/-- A training ends without reaching UP: its result, its time and its count (R349). -/
def State.trainEnds (s : State) (n result : Nat) : State :=
  ((s.wr (Reg.LK_TRAIN_RESULT n) result).wr (Reg.LK_TRAIN_TIME n)
    (min ((s.now - (s.link n).trainSince) / 1000) (2 ^ 20 - 1))).bump (Reg.LK_TRAIN_COUNT n) 1

/-- A stage fails (R339, R349): the link goes DOWN and tries again after 100 ms, or stops after 8 tries; a training that has
not come through AUTH did not authenticate the peer. -/
def State.trainFail (s : State) (n result : Nat) : State :=
  let s0 := s.trainEnds n result
  let s1 := if s.lkState n = lkCal ∨ s.lkState n = lkRetrain then s0 else s0.wr (Reg.LK_STAT_AUTH_OK n) 0
  let tries := (s.link n).tries + 1
  if 8 ≤ tries then
    let s2 := (s1.leaveUp n lkFailed).modLink n (fun l => { l with tries := tries, retryAt := none })
    s2.openFault { s2.faultRec 1 2 with link := n }
  else (s1.leaveUp n lkDown).modLink n (fun l => { l with tries := tries, retryAt := some (s.now + 100000000) })

/-- LINK_PHY_DONE (R339, R342): electrical training ends with the usable lanes; fewer than three fail it. A lane that is
spared is used again only after LINK_RETRAIN.
(DEDUCED, log entry 44) -/
def execLinkPhyDone (link : LinkId) (lanes : List (Fin 4)) (s : State) : Res :=
  let n := link.val
  let l := lanes.eraseDups.filter (fun x => (s.link n).spared != some x.val)
  .next (
    if s.lkState n = lkPhy then
      if l.length < 3 then s.trainFail n 3
      else (s.wr (Reg.LK_STAT_STATE n) lkLock).modLink n (fun x => { x with lanes := l })
    else s)

/-- The message that a signature of AUTH covers (R340): both nonces, both device IDs and both link numbers, those of the
signing end first. -/
def authMessage (n1 n2 : List Byte) (d1 d2 l1 l2 : Nat) : List Byte :=
  n1 ++ n2 ++ natLe d1 2 ++ natLe d2 2 ++ natLe l1 1 ++ natLe l2 1

def State.domainId (s : State) : Nat := match s.cfg with
  | some c => c.domain
  | none => 0

/-- LINK_LOCK_DONE (R339, R340): codewords, lanes and blocks are aligned, and the first AUTH message leaves. -/
def execLinkLockDone (link : LinkId) (nonce : Vector Byte 48) (s : State) : Res :=
  let n := link.val
  .next (
    if s.lkState n = lkLock then
      ((s.wr (Reg.LK_STAT_STATE n) lkAuth).modLink n (fun l => { l with ownNonce := nonce.toList, peer := none })).emit
        (.auth n nonce.toList s.devId.toNat s.domainId n (Config.sha384 Config.ownChain))
    else s)

/-- A check of AUTH fails: the link stops, and its peer is not authenticated (R340, R341, R349). -/
def State.authFail (s : State) (n result : Nat) : State :=
  ((s.trainEnds n result).leaveUp n lkFailed).wr (Reg.LK_STAT_AUTH_OK n) 0

/-- AUTH_NONCE (R340, R341): the peer is compared with the map; the own signature leaves. While AUTH_EN is 0 the link goes
on to CAL without signatures. -/
def execAuthNonce (link : LinkId) (peer : AuthPeer) (s : State) : Res :=
  let n := link.val
  .next (
    if s.lkState n = lkAuth then
      if peer.dev.toNat ≠ s.rd (Reg.LK_MAP_PEER_DEV n) ∨ peer.link.val ≠ s.rd (Reg.LK_MAP_PEER_LINK n) ∨
          peer.domain ≠ s.domainId then
        (s.flag (Reg.LK_STAT_MAP_ERR n)).authFail n 6
      else
        let s1 := s.modLink n (fun l => { l with peer := some peer })
        if s.on (Reg.LK_CTL_AUTH_EN n) then
          s1.emit (.authSig n (Config.ecdsaSign (authMessage (s.link n).ownNonce peer.nonce s.devId.toNat peer.dev.toNat n
            peer.link.val)))
        else (s1.wr (Reg.LK_STAT_AUTH_OK n) 0).wr (Reg.LK_STAT_STATE n) lkCal
    else s)

/-- The device can authenticate links: its identity object was accepted (R489), and it is not in scan (R500). -/
def State.canAuth (s : State) : Bool := s.on Reg.SC_STAT_IDCERT_OK && !s.on Reg.SC_DBG_STAT_SCAN

/-- AUTH_SIGNATURE (R340, R489, R493, R500): the peer's chain and signature are verified. -/
def execAuthSignature (link : LinkId) (sig : List Byte) (cert : CertChain) (s : State) : Res :=
  let n := link.val
  .next (
    match s.lkState n == lkAuth, (s.link n).peer with
    | true, some p =>
      let msg := authMessage p.nonce (s.link n).ownNonce p.dev.toNat s.devId.toNat p.link.val n
      if s.canAuth && Config.sha384 cert.bytes == p.digest && Config.chainTrusted cert.bytes && Config.ecdsaVerify cert.key msg sig then
        (s.wr (Reg.LK_STAT_AUTH_OK n) 1).wr (Reg.LK_STAT_STATE n) lkCal
      else (s.flag (Reg.LK_STAT_AUTH_FAIL n)).authFail n 5
    | _, _ => s)

/-- LINK_UP (R27, R40, R250, R339): both ends have completed CAL.
(DESIGN CHOICE, log entry 17) -/
def execLinkUp (link : LinkId) (cal : LinkCal) (s : State) : Res :=
  .next (if s.lkState link.val = lkCal then s.enterUp link.val cal true else s)

/-- LINK_RETRY_TIMER (R339): 100 ms after a failed stage the link tries again.
(DESIGN CHOICE, log entry 2) -/
def execLinkRetryTimer (link : LinkId) (s : State) : Res :=
  let n := link.val
  .next (
    match (s.link n).retryAt with
    | some t =>
      if t ≤ s.now ∧ s.lkState n = lkDown then (s.modLink n (fun l => { l with retryAt := none })).tryTrain n else s
    | none => s)

/-- TRAINING_STAGE_FAIL (R339): a stage that the link is in fails; an absent peer is reported, and the link stays in PHY. -/
def execTrainingStageFail (link : LinkId) (stage : TrainFail) (s : State) : Res :=
  let n := link.val
  let st := s.lkState n
  .next (
    match stage with
    | .absent => if st = lkPhy then s.wr (Reg.LK_TRAIN_RESULT n) 7 else s
    | .phy => if st = lkPhy then s.trainFail n 3 else s
    | .lock => if st = lkLock ∨ st = lkRetrain then s.trainFail n 4 else s
    | .cal => if st = lkCal ∨ st = lkRetrain then s.trainFail n 8 else s)

/- ### Losses, lane sparing and give-up -/

/-- The lane-sparing retrain starts on the lanes that remain (R342).
(DEDUCED, log entry 44) -/
def State.startRetrain (s : State) (n : Nat) (drop : Nat) : State :=
  (s.leaveUp n lkRetrain).modLink n (fun l => { l with
    trainSince := s.now, lanes := l.lanes.filter (fun x => x.val != drop) })

/-- A retrain may drop a lane: sparing is permitted, and the link runs on four. -/
def State.canSpare (s : State) (n : Nat) : Bool := s.on (Reg.LK_CTL_SPARE_EN n) && (s.link n).lanes.length == 4

/-- LOSS_OF_LOCK (R318, R339): eight uncorrectable codewords in a row. -/
def execLossOfLock (link : LinkId) (s : State) : Res :=
  .next (if s.linkUp link.val then s.startTrain link.val else s)

/-- LANE_LOSS (R342): lanes lose signal. -/
def execLaneLoss (link : LinkId) (lanes : List (Fin 4)) (s : State) : Res :=
  let n := link.val
  let lost := (s.link n).lanes.filter (fun l => lanes.contains l)
  .next (
    if s.linkUp n ∧ lost ≠ [] then
      match lost with
      | [x] => if s.canSpare n then s.startRetrain n x.val else s.startTrain n
      | _ => s.startTrain n
    else s)

/-- `LK_nn_LANE`: the symbol errors of the last 1 ms in units of 1,024. -/
def State.noteErrs (s : State) (n : Nat) (errs : LaneErrs) : State :=
  let b := fun (i : Nat) => min 255 (nth errs.toList i 0 / 1024)
  s.wr (Reg.LK_LANE_SER n) (b 0 + 2 ^ 8 * b 1 + 2 ^ 16 * b 2 + 2 ^ 24 * b 3)

/-- LANE_ERROR_THRESHOLD (R342): a lane's symbol errors over 1 ms exceed the threshold. -/
def execLaneErrorThreshold (link : LinkId) (errs : LaneErrs) (s : State) : Res :=
  let n := link.val
  let s1 := s.noteErrs n errs
  .next (
    if s1.linkUp n && s1.canSpare n then
      match (List.range 4).find? (fun i => decide (1024 * max 1 (s1.rd (Reg.LK_CTL_SPARE_THR n)) < nth errs.toList i 0)) with
      | some i => s1.startRetrain n i
      | none => s1
    else s1)

/-- RETRAIN_DONE (R342): LOCK and CAL have been repeated on three lanes. -/
def execRetrainDone (link : LinkId) (cal : LinkCal) (s : State) : Res :=
  .next (if s.lkState link.val = lkRetrain then s.enterUp link.val cal false else s)

/-- The remote requests pending on the routes over a link are answered ABANDONED (R278): whether there was one, and the
state after it.
(DEDUCED, log entry 36) -/
def State.giveUpRoutes (s : State) (n : Nat) : Bool × State :=
  s.tiles.foldl (fun x e => (List.range 8).foldl (fun x k =>
    let h := e.2.thim k
    if h.remote && (h.mode == .requested || (h.mode == .draining && h.form == 3)) && s.routeTo h.dev == some n then
      (true, x.2.abandonThim e.1 k)
    else x) x) (false, s)

/-- The wire delay of a link in ns, rounded up. -/
def State.wireNs (s : State) (n : Nat) : Nat := ceilDiv (s.wireDelay n).toNat 65536

/-- The time from a block's departure to its acknowledgement (R329): TX_LAT + blk + RX_LAT + SB_LAT + 2w.
(DESIGN CHOICE, log entry 42) -/
def State.flight (s : State) (n : Nat) : Nat :=
  let t := s.table
  t.txLat + ceilDiv (period5 (s.lane3 n)) 5 + t.rxLat + t.sbLat + 2 * s.wireNs n

/-- The time of a failed block's budget is over (R331). -/
def State.timeSpent (s : State) (n : Nat) (b : Budget) : Bool :=
  decide (b.firstNak + max 256 (s.rd (Reg.LK_BUDGET_TIME n)) ≤ s.now)

/-- A failed block's budget permits no further re-send (R331). -/
def State.resendsSpent (s : State) (n : Nat) (b : Budget) : Bool :=
  decide (max 1 (s.rd (Reg.LK_BUDGET_RESENDS n)) ≤ b.resends) || s.timeSpent n b

/-- The budget of a failed block has ended without a good copy (R331): its time is over, or the last re-send that it permits
would have been acknowledged by now.
(DESIGN CHOICE, log entry 42) -/
def State.budgetOver (s : State) (n : Nat) : Bool :=
  (s.link n).budgets.any (fun b => s.timeSpent n b || (s.resendsSpent n b && decide (b.last + s.flight n ≤ s.now)))

/-- The lane that a give-up names: one whose errors exceed those of the other three together (R342). -/
def badLane (errs : LaneErrs) : Option Nat :=
  (List.range 4).find? (fun i => decide ((errs.toList.foldl (· + ·) 0) < 2 * nth errs.toList i 0))

/-- LINK_GIVE_UP (R278, R331, R342, R365, R389): the link layer gives up. It hands a fault up when a wait on its routes was
abandoned (R391).
(DEDUCED, log entry 44) -/
def execLinkGiveUp (link : LinkId) (errs : LaneErrs) (s : State) : Res :=
  let n := link.val
  .next (
    if s.linkUp n && s.budgetOver n then
      let s1 := (((s.flag (Reg.LK_STAT_GAVE_UP n)).bump (Reg.LK_RETRY_GIVEUPS n) 1).noteErrs n errs).logRec 1 7 n
      let s2 := match s1.canSpare n, badLane errs with
        | true, some i => s1.startRetrain n i
        | _, _ => s1.startTrain n
      let r := (s2.wr (Reg.LK_XARM_DONE n) 1).giveUpRoutes n
      let s3 := r.2.abandonNorm n
      if r.1 then s3.openFault { s3.faultRec 1 1 with link := n } else s3
    else s)

/-- LINK_RETRAIN (R338, R342): a full training on four lanes, honoured only while the phase is idle.
(DEDUCED, log entry 44) -/
def execLinkRetrain (link : LinkId) (s : State) : Res :=
  let n := link.val
  .next (
    if s.phase = phIdle ∧ s.on (Reg.LK_CTL_EN n) ∧ s.armed n = true then
      (s.startTrain n).modLink n (fun l => { l with tries := 0, spared := none })
    else s)

/- ### Reset and re-arm -/

/-- LINK_RESET (R350): the link side alone is reset; its crossings must be armed again.
(DEDUCED, log entry 44) -/
def execLinkReset (link : LinkId) (s : State) : Res :=
  let n := link.val
  let s1 := (s.leaveUp n lkDown).wr (Reg.LK_XARM_DONE n) 0
  .next (s1.setLink n { ladj := (s.link n).ladj, rej := (s.link n).rej, spared := (s.link n).spared, rxPkts := (s.link n).rxPkts })

/-- XARM_ARM (R350): the crossings of a link that is DOWN are being armed. -/
def execXarmArm (link : LinkId) (s : State) : Res :=
  .next (
    if s.lkState link.val = lkDown then s.modLink link.val (fun l => { l with arming := true }) else s)

/-- XARM_DONE (R350): DONE reads 1, and the link trains again if it is enabled. -/
def execXarmDone (link : LinkId) (s : State) : Res :=
  let n := link.val
  .next (
    if (s.link n).arming then
      ((s.wr (Reg.LK_XARM_DONE n) 1).modLink n (fun l => { l with arming := false })).tryTrain n
    else s)

end Sys2Proof.Machine
end

