-- ==== Sys2Proof/Machine/Blocks.lean ====
section
/-! DEFINITION. Blocks on the links: the control field and the CRC (R319–R324), what a block slot carries (R325–R330, R333),
and what a received block does (R324–R337). -/

namespace Sys2Proof.Machine

/- ### Fields -/

/-- The block kinds (R321). -/
def bkIdle : Nat := 0
def bkPkt : Nat := 1
def bkWin : Nat := 2
def bkSbo : Nat := 3
def bkCtl : Nat := 4
def bkTrn : Nat := 5

/-- The kinds that take consecutive sequence numbers (R321, R327). -/
def bkSequenced (k : Nat) : Bool := k == bkPkt || k == bkSbo || k == bkCtl

/-- The control field of a block (R320). -/
structure BlockCtl where
  kind : Nat
  rsnd : Bool
  seq : Nat
  aseq : Nat
  ak : Nat
  up : Nat
  dts : Nat
  side : SideRec
deriving DecidableEq, Repr

/-- The control field as a 96-bit value, each part cut to its width (R320). -/
def BlockCtl.value (c : BlockCtl) : Nat :=
  c.kind % 2 ^ 3 + 2 ^ 3 * b2n c.rsnd + 2 ^ 4 * (c.seq % 2 ^ 12) + 2 ^ 16 * (c.aseq % 2 ^ 12) + 2 ^ 28 * (c.ak % 2 ^ 2) +
    2 ^ 30 * (c.up % 2 ^ 8) + 2 ^ 38 * (c.dts % 2 ^ 24) + 2 ^ 64 * (c.side.sbk % 2 ^ 4) + 2 ^ 68 * (c.side.sbw % 2 ^ 28)

/-- The control field that a 96-bit value spells. -/
def blockCtl (v : Nat) : BlockCtl :=
  { kind := bitsOf v 2 0, rsnd := bitOf v 3, seq := bitsOf v 15 4, aseq := bitsOf v 27 16, ak := bitsOf v 29 28,
    up := bitsOf v 37 30, dts := bitsOf v 61 38, side := ⟨bitsOf v 67 64, bitsOf v 95 68⟩ }

/-- A payload of 240 bytes. -/
def padPayload (bs : List Byte) : List Byte := (bs ++ List.replicate (240 - bs.length) 0).take 240

/-- The 256 bytes of a block: control field, payload and CRC-32 (R319). -/
def blockBytes (c : BlockCtl) (payload : List Byte) : List Byte :=
  let body := natLe c.value 12 ++ padPayload payload
  body ++ natLe (crc32 body) 4

/-- A block passes its CRC-32, and is not of a reserved kind (R319, R321). -/
def blockGood (bs : List Byte) : Bool :=
  bs.length == 256 && crc32 (bs.take 252) == leNat (bs.drop 252) && decide ((blockCtl (leNat (bs.take 12))).kind < 6)

/-- The number whose low bits are given and that lies nearest to another (R324, R327). -/
def nearest (m base low : Nat) : Nat :=
  let c := base / m * m + low % m
  if base + m / 2 < c ∧ m ≤ c then c - m else if c + m / 2 ≤ base then c + m else c

/-- The digest of a WIN data block (R377); `o` is the window ordinal, counted modulo 16. -/
def blockDigest (src dst q o k step : Nat) (payload : List Byte) : Word64 :=
  let key := BitVec.ofNat 64 (2 ^ 51 * src) ^^^ BitVec.ofNat 64 (2 ^ 38 * dst) ^^^ BitVec.ofNat 64 (2 ^ 12 * q) ^^^
    BitVec.ofNat 64 (2 ^ 8 * (o % 16)) ^^^ BitVec.ofNat 64 k
  (List.range 30).foldl (fun h i => mix64 (h ^^^ BitVec.ofNat 64 (leNat ((payload.drop (8 * i)).take 8))))
    (mix64 (key ^^^ mix64 (BitVec.ofNat 64 step + 0x9E3779B97F4A7C15)))

/- ### Sideband -/

/-- The records that are still to be sent: a record is repeated until its AT (R60), and sent at least once.
(DESIGN CHOICE, log entry 42) -/
def liveDue (now : Nat) (l : List DueRec) : List DueRec :=
  l.filter (fun r => r.lastSlot.isNone || decide (now ≤ r.until_))

/-- A record is due (R325).
(DESIGN CHOICE, log entry 42) -/
def DueRec.isDue (r : DueRec) (slot : Nat) : Bool := match r.lastSlot with
  | none => true
  | some x => decide (x + 16 ≤ slot)

/-- The sideband word of TREE (R323). -/
def treeWord (t : TreeField) : Nat := min 15 t.depth + 2 ^ 4 * treeClassCode t.cls + 2 ^ 6 * (t.gen % 256) + 2 ^ 14 * (t.count % 2 ^ 14)

def treeOfWord (w : Nat) : TreeField :=
  { depth := bitsOf w 3 0, cls := treeClassOf (bitsOf w 5 4), gen := bitsOf w 13 6, count := bitsOf w 27 14 }

/-- A VC whose freed count has changed since it was last sent, round-robin (R325). -/
def LinkSt.credDue (l : LinkSt) : Option Nat :=
  ((List.range 3).map (fun i => (l.credVc + i) % 3)).find? (fun v => nth l.freed v 0 != nth l.credSent v 0)

/-- The record that rides in a block, oldest first (R325): its place among the due records. -/
def LinkSt.dueAt (l : LinkSt) : Option Nat := (List.range l.due.length).find? (fun i => match l.due[i]? with
  | some r => r.isDue l.slot
  | none => false)

/-- A record rides in this block: its copy is noted, and the sequenced block that first carries it. -/
def LinkSt.carry (l : LinkSt) (i : Nat) (seq : Option Nat) : LinkSt :=
  { l with due := modNth l.due i (fun r => { r with lastSlot := some l.slot, seq := match r.seq with
    | some q => some q
    | none => seq }) }

/-- The rotation of time fields starts again every 1,024 ns (R325). -/
def LinkSt.rotate (l : LinkSt) (now : Nat) : LinkSt :=
  if l.rotLeft = [] ∧ l.rotAt ≤ now then { l with rotLeft := [3, 1, 2, 5, 6], rotAt := now + 1024 } else l

/-- The field that a block carries for want of a record (R325): the second block of a pair, a changed TREE, a changed CRED,
the rotation, or none. -/
def sideField (now dts : Nat) (own : TreeField) (l0 : LinkSt) : SideRec × LinkSt :=
  let l := l0.rotate now
  match l.echoSent with
  | some t2 => (⟨4, t2⟩, { l with echoSent := none })
  | none =>
    if l.treeSent ≠ some own then (⟨6, treeWord own⟩, { l with treeSent := some own })
    else match l.credDue with
      | some v => (⟨11, v + 4 * nth l.freed v 0⟩, { l with
          credSent := modNth l.credSent v (fun _ => nth l.freed v 0), credVc := (v + 1) % 3 })
      | none =>
        match l.rotLeft with
        | [] => (⟨0, 0⟩, l)
        | x :: xs =>
          let l1 := { l with rotLeft := xs }
          if x = 3 then
            match l.echo with
            | some (t1, t2) => (⟨3, t1⟩, { l1 with echoSent := some t2 })
            | none => (⟨0, 0⟩, l1)
          else if x = 1 then (⟨1, dts / 65536 / 2 ^ 8 % 2 ^ 28⟩, l1)
          else if x = 2 then (⟨2, dts / 65536 / 2 ^ 36 % 2 ^ 28⟩, l1)
          else if x = 5 then (⟨5, toSigned 24 l.ownTRx + 2 ^ 24 * l.lanes.length⟩, l1)
          else (⟨6, treeWord own⟩, l1)

/-- The sideband of a block that is no repeat: a due record goes first. The third part is the record, if there is one. -/
def sideOf (now dts : Nat) (own : TreeField) (seq : Option Nat) (l : LinkSt) : SideRec × LinkSt × Option SideRec :=
  match l.dueAt with
  | some i =>
    match l.due[i]? with
    | some r => (r.rc, l.carry i seq, some r.rc)
    | none => (⟨0, 0⟩, l, none)
  | none => let x := sideField now dts own l; (x.1, x.2, none)

/- ### Packets into the stream -/

/-- The credit of the three VCs in 16 B units (R334). -/
def vcUnits (v : Nat) : Nat := if v = 2 then 256 else 1024

/-- A packet as it stands on the wire (R333).
(DESIGN CHOICE, log entry 32) -/
def pktBytes (p : Pkt) : List Byte := natLe p.hdr.toNat 16 ++ natLe (p.relay.getD 0).toNat 16 ++ p.data

def pktUnits (p : Pkt) : Nat := (pktBytes p).length / 16

/-- What the waiting packets do to the stream: packets that hold credit follow one another in each VC's order, until a
block is full (R333, R334). -/
def fillStream (freed : List Nat) : List Pkt → List Byte → List Nat → List Nat → List Pkt → List Byte × List Nat × List Pkt
  | [], st, used, _, kept => (st, used, kept)
  | p :: ps, st, used, stuck, kept =>
    let v := pkVc p
    let u := nth used v 0
    if decide (240 ≤ st.length) || stuck.contains v || decide (vcUnits v < (u + pktUnits p + 2 ^ 24 - nth freed v 0) % 2 ^ 24) then
      fillStream freed ps st used (v :: stuck) (kept ++ [p])
    else fillStream freed ps (st ++ pktBytes p) (modNth used v (fun x => (x + pktUnits p) % 2 ^ 24)) stuck kept

def LinkSt.fill (l : LinkSt) : LinkSt :=
  let r := fillStream l.peerFreed l.pktQ l.txStream l.used [] []
  { l with txStream := r.1, used := r.2.1, pktQ := r.2.2 }

/- ### Block slots -/

/-- What a slot carries: the kind, the sequence field, the payload, the record of an earlier copy, and the kind of
re-send. -/
structure SlotItem where
  kind : Nat
  seq : Nat
  payload : List Byte
  rsnd : Bool := false
  old : Option SideRec := none
deriving DecidableEq, Repr

/-- The window payload of a data block (R229, R337). -/
def State.winPayload (s : State) (w : WinSt) (k : Nat) : List Byte :=
  Memory.readN (smGet s.seam.txBuf w.link []) (w.base + 240 * k) 240

/-- The data block whose position has come on a link, in the order of the windows (R230, R234). -/
def State.dueData (s : State) (n : Nat) : Option (WinSt × Nat) :=
  (s.seam.txWins.filter (fun w => w.link == n)).findSome? (fun w =>
    match (List.range w.blocks).find? (fun k => !w.sent.contains k) with
    | some k => (match s.departs s.seam.txWins w k with
      | some t => if t ≤ s.now then some (w, k) else none
      | none => none)
    | none => none)

/-- A window of the running Seam by its link and its ordinal. -/
def winAt (ws : List WinSt) (n ord : Nat) : Option WinSt := ws.find? (fun w => w.link == n && w.ord == ord)

/-- The window that a block names by an ordinal modulo 16 (R327): the last one of that remainder for which the block can
stand.
(DEDUCED, log entry 79) -/
def winNamed (ws : List WinSt) (n o : Nat) (can : WinSt → Bool) : Option WinSt :=
  (ws.filter (fun w => w.link == n && w.ord % 16 == o % 16 && can w)).getLast?

/-- The block of a window enters a digest the first time that it is transmitted (R377). -/
def State.hashSent (s : State) (w : WinSt) (k : Nat) (payload : List Byte) : State :=
  let mark := fun (x : WinSt) => if x.link = w.link ∧ x.ord = w.ord then
    { x with sent := if x.sent.contains k then x.sent else k :: x.sent,
             hashed := if x.hashed.contains k then x.hashed else k :: x.hashed } else x
  let s1 := { s with seam := { s.seam with txWins := s.seam.txWins.map mark } }
  if s.seam.digestSeam ∧ ¬ w.hashed.contains k then
    { s1 with commit := { s1.commit with
      sent := s1.commit.sent ^^^ blockDigest s.devId.toNat (s.rd (Reg.LK_PEER_DEV w.link)) s.seam.index w.ord k s.stepNo payload } }
  else s1

/-- A re-send leaves: its budget counts it (R331), and it is counted (R349). A re-send in a darn slot is counted apart
(R254).
(DEDUCED, log entry 85) -/
def State.countResend (s : State) (n : Nat) (win : Bool) (id : Nat) : State :=
  let spent : Bool := match (s.link n).rsnAt with
    | some t => decide (s.now < t + 4)
    | none => false
  let s1 := s.modLink n (fun l => { l with rsnAt := some s.now, budgets := l.budgets.map (fun b =>
    if b.win = win ∧ b.id = id then { b with resends := b.resends + 1, last := s.now } else b) })
  let s2 := if spent then s1.flag (Reg.LK_XARM_OVR n) else s1.bump (Reg.LK_RETRY_RESENT n) 1
  if s2.on Reg.TK_STAT_IN_SEAM then { s2 with seam := { s2.seam with darnUsed := s2.seam.darnUsed + 1 } } else s2

/-- The budget of a failed block permits another re-send (R331). -/
def State.mayResend (s : State) (n : Nat) (win : Bool) (id : Nat) : Bool :=
  (s.link n).budgets.all (fun b => b.win != win || b.id != id || !s.resendsSpent n b)

/-- A window re-send that waits (R329–R331). -/
def State.nextWinResend (s : State) (n : Nat) : Option (WinSt × Nat) :=
  ((s.link n).winResend.filter (fun e => s.mayResend n true (e.1 * 256 + e.2))).findSome? (fun e =>
    (winAt s.seam.txWins n e.1).map (fun w => (w, e.2)))

/-- In Drowse and in Standby the packet and window paths of a link are gated (R343). -/
def State.keepAlive (s : State) : Bool := s.rd Reg.PW_STAT_STATE == 2 || s.rd Reg.PW_STAT_STATE == 3

/-- A packet-mode re-send that waits (R329, R331): a PKT block waits for the end of a keep-alive (R343). -/
def State.nextResend (s : State) (n : Nat) : Option ReplayEnt :=
  ((s.link n).resend.filter (fun q => s.mayResend n false q)).findSome? (fun q =>
    (s.link n).replay.find? (fun e => e.seq == q && !(s.keepAlive && e.kind == bkPkt)))

/-- The payload is a management fragment of a HEM_FOLD message (R322, R432). -/
def isFold (payload : List Byte) : Bool := nth payload 0 0 == 3 && nth payload 9 0 == 2

/-- A new sequenced block (R329, R330): a control record, a part of the packet stream, or an empty block for a record that
no sequenced block has carried yet. In keep-alive the packet path is gated (R343). -/
def State.newBlock (s : State) (n : Nat) : Option (Nat × List Byte) × State :=
  let gated := s.keepAlive
  let l0 := s.link n
  let l := if gated then l0 else l0.fill
  if 64 ≤ l.replay.length then (none, s)
  else match l.ctlQ with
    | x :: xs => (some (bkCtl, x), s.setLink n { l with ctlQ := xs })
    | [] =>
      if !gated && l.txStream != [] then
        (some (bkPkt, l.txStream.take 240), s.setLink n { l with txStream := l.txStream.drop 240 })
      else if l.due.any (fun r => r.seq.isNone && r.isDue l.slot) then (some (bkSbo, []), s.setLink n l)
      else (none, s.setLink n l)

/-- What the slot carries (R230, R330), and the state without it in the queues. -/
def State.pickItem (s : State) (n : Nat) : SlotItem × State :=
  let data := if s.on Reg.TK_STAT_IN_SEAM then s.dueData n else none
  match data with
  | some (w, k) =>
    let p := s.winPayload w k
    ({ kind := bkWin, seq := w.ord * 256 + k, payload := p }, s.hashSent w k p)
  | none =>
    match (if s.on Reg.TK_STAT_IN_SEAM then s.nextWinResend n else none) with
    | some (w, k) =>
      let p := s.winPayload w k
      let id := w.ord * 256 + k
      let s1 := (s.hashSent w k p).modLink n (fun l => { l with winResend := l.winResend.erase (w.ord, k) })
      ({ kind := bkWin, seq := id, payload := p, rsnd := true, old := smFind (s.link n).winSide id },
        s1.countResend n true id)
    | none =>
      match s.nextResend n with
      | some e =>
        let s1 := s.modLink n (fun l => { l with resend := l.resend.erase e.seq })
        ({ kind := e.kind, seq := e.seq, payload := e.payload, rsnd := true, old := e.side }, s1.countResend n false e.seq)
      | none =>
        match s.newBlock n with
        | (some (kind, p), s1) => ({ kind := kind, seq := (s.link n).nextS, payload := p }, s1)
        | (none, s1) => ({ kind := bkIdle, seq := 0, payload := [] }, s1)

/-- The acknowledgement that a block carries (R328): the first NAK that is due, or an ACK of the highest number received
in order. A NAK is repeated until the block is good. -/
def State.pickAck (s : State) (n : Nat) : Nat × Nat × State :=
  let l := s.link n
  let wait := s.flight n
  let due := fun (t : Option Nat) => match t with
    | none => true
    | some x => decide (x + wait ≤ s.now)
  if l.nakS && due l.nakAt then (2, l.expS % 2 ^ 12, s.setLink n { l with nakAt := some s.now })
  else match l.winNaks.find? (fun x => due x.sentAt) with
    | some x => (3, x.ord * 256 + x.k, s.setLink n { l with winNaks := l.winNaks.map (fun y =>
        if y.ord = x.ord ∧ y.k = x.k then { y with sentAt := some s.now } else y) })
    | none => if l.expS = 0 then (0, 0, s) else (1, (l.expS - 1) % 2 ^ 12, s)

/-- Window re-sends whose NAK has not come again are done (R328). -/
def State.pruneBudgets (s : State) (n : Nat) : State :=
  let t := 2 * s.flight n
  s.modLink n (fun l => { l with budgets := l.budgets.filter (fun b =>
    !b.win || l.winResend.contains (b.id / 256, b.id % 256) || b.resends == 0 || decide (s.now < b.last + t)) })

/-- BLOCK_SLOT (R229, R230, R234, R320, R323, R325, R327–R330, R333, R343, R377): the block that departs on a link at the
current AT and a fraction in 2^-16 ns.
(DESIGN CHOICE, log entry 42) -/
def execBlockSlot (link : LinkId) (frac : BitVec 16) (s : State) : Res :=
  let n := link.val
  .next (
    if s.linkUp n then
      let dts := 65536 * s.now + frac.toNat
      let s0 := (s.pruneBudgets n).modLink n (fun l => { l with slot := l.slot + 1, due := liveDue s.now l.due })
      let pick := s0.pickItem n
      let it := pick.1
      let ack := pick.2.pickAck n
      let s2 := ack.2.2
      let new : Bool := bkSequenced it.kind && !it.rsnd
      let side : SideRec × LinkSt × Option SideRec := match it.rsnd, it.old with
        | true, some r => (r, s2.link n, none)
        | _, _ => sideOf s2.now dts (s2.ownTree n) (if new then some it.seq else none) (s2.link n)
      let ctl : BlockCtl := { kind := it.kind, rsnd := it.rsnd, seq := if it.kind = bkIdle then 0 else it.seq % 2 ^ 12,
                              aseq := ack.2.1, ak := ack.1, up := s2.upLevels, dts := dts % 2 ^ 24, side := side.1 }
      let s3 := s2.setLink n side.2.1
      let s4 := if new then
          s3.modLink n (fun l => { l with nextS := it.seq + 1, replay := l.replay ++ [⟨it.seq, it.kind, side.2.2, it.payload⟩] })
        else if it.kind = bkWin ∧ ¬ it.rsnd then
          s3.modLink n (fun l => { l with winSide := match side.2.2 with
            | some r => smPut l.winSide it.seq r
            | none => smDel l.winSide it.seq })
        else s3
      let s5 := if new && it.kind == bkCtl && isFold it.payload then
          { s4 with commit := { s4.commit with ownSeq := some (n, it.seq) } } else s4
      s5.emit (.block n (blockBytes ctl it.payload))
    else s)

/- ### Received blocks: time and levels -/

/-- The link's own instant of a received 24-bit timestamp: the value nearest to an estimate (R324). -/
def stampNear (est : Int) (low : Nat) : Int :=
  let m : Int := 2 ^ 24
  let c := est / m * m + (low : Int)
  if m < 2 * (c - est) then c - m else if 2 * (c - est) ≤ -m then c + m else c

/-- The sender's AT at an own instant, in 2^-16 ns, from its last TCOARSE and THIGH advanced by the elapsed time (R324). -/
def LinkSt.peerAt (l : LinkSt) (arr : Nat) : Option Int := match l.tcoarse, l.thigh with
  | some (v, t), some h => some (((2 ^ 36 * h + v : Nat) : Int) * 65536 + ((arr : Int) - (t : Int)))
  | _, _ => none

/-- A completed pair forms one sample (R26, R29): t1 on the own AT, t2 and t3 on the sender's, t4 the arrival. Samples taken
while the link replays are not formed. -/
def LinkSt.sampleOf (l : LinkSt) (t2 dts arr : Nat) (rsnd : Bool) : Option Sample :=
  match l.techo, l.peerAt arr with
  | some t1, some p =>
    if rsnd || l.resend != [] || l.winResend != [] then none
    else some { t1 := stampNear arr t1, t2 := stampNear p t2, t3 := stampNear p dts, t4 := arr }
  | _, _ => none

/-- A sideband word is taken in (R26, R36, R323–R325, R334); `arr` is the arrival instant in 2^-16 ns. -/
def State.takeSide (s : State) (n : Nat) (c : BlockCtl) (arr : Nat) : State :=
  let w := c.side.sbw
  let time := fun (f : LinkSt → LinkSt) => (s.modLink n (fun l => f { l with lastTime := s.now })).noteManagerBack n
  let h : Fin 8 := BitVec.toFin (BitVec.ofNat 3 w)
  if c.side.sbk = 1 then time (fun l => { l with tcoarse := some (w * 256 + c.dts / 65536, arr - c.dts % 65536) })
  else if c.side.sbk = 2 then time (fun l => { l with thigh := some w })
  else if c.side.sbk = 3 then time (fun l => { l with techo := some (w % 2 ^ 24) })
  else if c.side.sbk = 4 then
    time (fun l => { l with techo := none, samples := match l.sampleOf (w % 2 ^ 24) c.dts arr c.rsnd with
      | some x => l.samples ++ [x]
      | none => l.samples })
  else if c.side.sbk = 5 then time (fun l => { l with peerTRx := ofSigned 24 (w % 2 ^ 24) })
  else if c.side.sbk = 6 then s.treeArrived n (treeOfWord w)
  else if c.side.sbk = 7 then
    s.acceptRelease { h := h, parity := bitOf w 3, commit := bitOf w 4, start := bitOf w 5, s := BitVec.ofNat 16 (bitsOf w 21 6) }
  else if c.side.sbk = 8 then
    s.acceptHold { h := h, parity := bitOf w 3, span := BitVec.toFin (BitVec.ofNat 5 (bitsOf w 8 4)),
                   hseq := BitVec.toFin (BitVec.ofNat 4 (bitsOf w 12 9)) }
  else if c.side.sbk = 9 ∨ c.side.sbk = 10 then
    let r : GridRec := { h := h, parity := bitOf w 3, r := BitVec.ofNat 16 (bitsOf w 19 4) }
    if s.seam.seamHall = some h.val ∧ s.seam.parity = r.parity then
      (if c.side.sbk = 9 then s.acceptResume r else s.acceptAbort r)
    else s
  else if c.side.sbk = 11 ∧ w % 4 < 3 then
    s.modLink n (fun l => { l with peerFreed := modNth l.peerFreed (w % 4) (fun _ => bitsOf w 25 2) })
  else s

/- ### Received blocks: acknowledgements -/

/-- An ACK frees the replay buffer through a number (R329): queued re-sends are cancelled (R332), records are acknowledged
(R325), and so is the own fold (R378). -/
def State.takeAck (s : State) (n q : Nat) : State :=
  let s1 := s.modLink n (fun l => { l with
    replay := l.replay.filter (fun e => decide (q < e.seq)), resend := l.resend.filter (fun e => decide (q < e)),
    budgets := l.budgets.filter (fun b => b.win || decide (q < b.id)),
    due := l.due.filter (fun r => match r.seq with
      | some x => decide (q < x)
      | none => true) })
  match s1.commit.ownSeq with
  | some (m, x) => if m = n ∧ x ≤ q then { s1 with commit := { s1.commit with acked := true, ownSeq := none } } else s1
  | none => s1

/-- A NAK of a block (R328, R331, R332): one that is queued or in flight calls for no second re-send. -/
def LinkSt.owe (l : LinkSt) (now wait : Nat) (win : Bool) (id : Nat) : Bool × LinkSt :=
  let inFlight := l.budgets.any (fun b => b.win == win && b.id == id && b.resends != 0 && decide (now < b.last + wait))
  if inFlight then (false, l)
  else (true, if l.budgets.any (fun b => b.win == win && b.id == id) then l
    else { l with budgets := l.budgets ++ [⟨win, id, 0, now, now⟩] })

/-- A NAK of a sequenced block (R328, R329). -/
def State.takeNak (s : State) (n q : Nat) : State :=
  s.modLink n (fun l =>
    if l.nextS ≤ q ∨ l.resend.contains q ∨ ¬ l.replay.any (fun e => e.seq == q) then l
    else
      let x := l.owe s.now (s.flight n) false q
      if x.1 then { x.2 with resend := x.2.resend ++ [q] } else x.2)

/-- A NAK of a window block (R328, R329) that has been sent: the transmit buffer still holds it. -/
def State.takeWinNak (s : State) (n id : Nat) : State :=
  let k := id % 256
  match winNamed s.seam.txWins n (id / 256) (fun w => decide (k < w.blocks) && w.sent.contains k) with
  | some w =>
    s.modLink n (fun l =>
      if l.winResend.contains (w.ord, k) then l
      else
        let x := l.owe s.now (s.flight n) true (w.ord * 256 + k)
        if x.1 then { x.2 with winResend := x.2.winResend ++ [(w.ord, k)] } else x.2)
  | none => s

/-- The AK field is taken in. -/
def State.takeAk (s : State) (n : Nat) (c : BlockCtl) : State :=
  let q := nearest (2 ^ 12) (s.link n).nextS c.aseq
  if c.ak = 1 then (if q < (s.link n).nextS then s.takeAck n q else s)
  else if c.ak = 2 then s.takeNak n q
  else if c.ak = 3 then s.takeWinNak n c.aseq
  else s

/- ### Received blocks: payloads -/

/-- The packets of a stream of units, and what is left of it (R333): a unit that fails as a header is padding. -/
def parseStream : Nat → List Byte → List Pkt → List Byte × List Pkt
  | 0, st, ps => (st, ps)
  | fuel + 1, st, ps =>
    if st.length < 16 then (st, ps)
    else
      let hdr := BitVec.ofNat 128 (leNat (st.take 16))
      if hdr = 0 ∨ ¬ crcWordOk hdr then parseStream fuel (st.drop 16) ps
      else
        let p : Pkt := ⟨hdr, some (BitVec.ofNat 128 (leNat ((st.drop 16).take 16))), [], [], none⟩
        let need := 32 + (if pkHasData p then 16 * (pkLen p + 1) else 0)
        if st.length < need then (st, ps)
        else parseStream fuel (st.drop need) (ps ++ [{ p with data := (st.take need).drop 32 }])

/-- A PKT payload follows the stream (R333). -/
def LinkSt.takeStream (l : LinkSt) (payload : List Byte) : LinkSt :=
  let st := l.rxStream ++ payload
  let r := parseStream (st.length / 16) st []
  { l with rxStream := r.1, rxPkts := l.rxPkts ++ r.2 }

/-- The destination that a flooded management record carries in its fragments. -/
def floodDst : Nat := 0x1FFF

/-- A fragment of a flooded record that has not been seen goes on over all other links (R60, R322); whether it is new. -/
def State.floodOn (s : State) (n : Nat) (payload : List Byte) : Bool × State :=
  let w := leNat ((payload.drop 1).take 8)
  let key := (bitsOf w 12 0, bitsOf w 41 26, bitsOf w 49 42)
  if s.host.floods.contains key then (false, s)
  else
    let s1 := { s with host := { s.host with floods := key :: s.host.floods } }
    (true, (s1.upLinks.filter (fun m => m != n)).foldl (fun s m => s.queueCtl m payload) s1)

/-- A message that its fragments make up is received; one of a type that R432 does not list is discarded, logged and
counted.
(DESIGN CHOICE, log entry 43) -/
def State.takeMessage (s : State) (n : Nat) (m : List Byte) : State :=
  let ty := (m.headD 0).toNat
  if 1 ≤ ty ∧ ty ≤ 0x0D then s.modLink n (fun l => { l with msgs := l.msgs ++ [m] })
  else (s.bump Reg.FW_CNT_RANGE_MGMT 1).logRec 0 3 ty

/-- A management fragment (R322, R432): it is taken in at its destination, which puts the message together, and carried on
by the route elsewhere (R334). One of a flooded record is taken in once, and goes on over the other links.
(DESIGN CHOICE, log entry 43) -/
def State.takeFragment (s : State) (n : Nat) (payload : List Byte) : State :=
  let w := leNat ((payload.drop 1).take 8)
  let dst := bitsOf w 25 13
  let fl := if dst = floodDst then s.floodOn n payload else (true, s)
  let s := fl.2
  if !fl.1 then s
  else if dst = s.devId.toNat ∨ dst = floodDst then
    let key := fun (p : List Byte) => let v := leNat ((p.drop 1).take 8); (bitsOf v 12 0, bitsOf v 41 26)
    let fs := (s.link n).frags.filter (fun p => p != payload) ++ [payload]
    let cnt := bitsOf w 57 50
    let mine := (List.range cnt).map (fun i => fs.find? (fun p =>
      key p == key payload && bitsOf (leNat ((p.drop 1).take 8)) 49 42 == i))
    if mine.all (fun p => p.isSome) then
      (s.modLink n (fun l => { l with frags := fs.filter (fun p => key p != key payload) })).takeMessage n
        (mine.flatMap (fun p => ((p.getD []).drop 9).take 224))
    else s.modLink n (fun l => { l with frags := fs })
  else match s.routeTo dst with
    | some m => s.queueCtl m payload
    | none => s

/-- A CTL payload is taken in (R322): other types are discarded. -/
def State.takeCtl (s : State) (n : Nat) (payload : List Byte) : State :=
  let b := fun (o k : Nat) => leNat ((payload.drop o).take k)
  if b 0 1 = 1 then
    s.acceptEpoch { num := BitVec.ofNat 16 (b 1 2), gen := BitVec.ofNat 8 (b 3 1), start := BitVec.ofNat 64 (b 4 8),
                    table := BitVec.ofNat 8 (b 12 1) }
  else if b 0 1 = 2 then
    s.acceptParam { step := BitVec.ofNat 64 (b 1 8), mbCount := BitVec.ofNat 8 (b 9 1), lane3 := b 10 1 % 2 == 1 }
  else if b 0 1 = 3 then s.takeFragment n payload
  else s

/-- A sequenced block in its turn. -/
def State.takeInOrder (s : State) (n kind : Nat) (payload : List Byte) : State :=
  let s1 := s.modLink n (fun l => { l with expS := l.expS + 1, nakS := false, nakAt := none })
  if kind = bkPkt then s1.modLink n (fun l => l.takeStream payload)
  else if kind = bkCtl then s1.takeCtl n payload
  else s1

/-- Blocks that came before their turn follow. -/
def State.takeHeld (n : Nat) : Nat → State → State
  | 0, s => s
  | fuel + 1, s =>
    match smFind (s.link n).rxHeld (s.link n).expS with
    | some (kind, p) =>
      State.takeHeld n fuel ((s.modLink n (fun l => { l with rxHeld := smDel l.rxHeld l.expS })).takeInOrder n kind p)
    | none => s

/-- A sequenced block arrives (R327, R328): one behind its turn waits for the missing ones, which are NAKed. -/
def State.takeSequenced (s : State) (n : Nat) (c : BlockCtl) (payload : List Byte) : State :=
  let e := (s.link n).expS
  let q := nearest (2 ^ 12) e c.seq
  if q < e then s
  else if q = e then
    let s1 := s.takeInOrder n c.kind payload
    let s2 := State.takeHeld n 64 s1
    s2.modLink n (fun l => { l with nakS := l.rxHeld != [] })
  else s.modLink n (fun l => { l with rxHeld := smPut l.rxHeld q (c.kind, payload), nakS := true })

/-- A WIN block is accepted if it is still awaited (R337) and its departure has come (R230): it is written by its position,
enters the received digest (R377), and may clear the own hold (R246).
(DEDUCED, log entry 79) -/
def State.takeWin (s : State) (n : Nat) (c : BlockCtl) (payload : List Byte) : State :=
  let k := c.seq % 256
  let can := fun (w : WinSt) => decide (k < w.blocks) && !w.got.contains k && (match s.departs s.seam.rxWins w k with
    | some t => decide (t ≤ s.now)
    | none => false)
  match (if s.on Reg.TK_STAT_IN_SEAM then winNamed s.seam.rxWins n (c.seq / 256) can else none) with
  | some w =>
    let s1 := { s with seam := { s.seam with
      rxWins := s.seam.rxWins.map (fun (x : WinSt) => if x.link = n ∧ x.ord = w.ord then { x with got := k :: x.got } else x),
      rxBuf := smPut s.seam.rxBuf n (Memory.writeN (smGet s.seam.rxBuf n []) (w.base + 240 * k) payload) } }
    let s2 := if s1.seam.digestSeam then { s1 with commit := { s1.commit with
        recv := s1.commit.recv ^^^ blockDigest (s1.rd (Reg.LK_PEER_DEV n)) s1.devId.toNat s1.seam.index w.ord k s1.stepNo
          payload } }
      else s1
    (s2.modLink n (fun l => { l with winNaks := l.winNaks.filter (fun x => !(x.ord == w.ord && x.k == k)) })).clearHold
  | none => s

/- ### Failed blocks -/

/-- The window block that was expected in the slot of a failed block (R328): its position arrives TX_LAT, the wire delay and
the own receive latency after it departs. -/
def State.expectedBlock (s : State) (n arr : Nat) : Option (Nat × Nat) :=
  let per := 65536 * period5 (s.lane3 n)
  let lag : Int := (s.table.txLat : Int) * 65536 + s.wireDelay n + (s.link n).rxLat
  s.seam.rxWins.findSome? (fun w =>
    if w.link = n then
      ((List.range w.blocks).find? (fun k => !w.got.contains k && (match s.departs s.seam.rxWins w k with
        | some t => decide (10 * ((t : Int) * 65536 + lag - (arr : Int)).natAbs ≤ per)
        | none => false))).map (fun k => (w.ord, k))
    else none)

/-- A block fails (R318, R324, R328): it is counted, and NAKed as the expected window block or as the next number.
(DEDUCED, log entry 85) -/
def State.blockFailed (s : State) (n arr : Nat) : State :=
  let spent : Bool := match (s.link n).crcAt with
    | some t => decide (s.now < t + 4)
    | none => false
  let s1 := if spent then s.flag (Reg.LK_XARM_OVR n) else s.bump (Reg.LK_CRC_COUNT n) 1
  let exp := if s1.on Reg.TK_STAT_IN_SEAM then s1.expectedBlock n arr else none
  s1.modLink n (fun l0 =>
    let l := { l0 with crcAt := some s.now, techo := none }
    match exp with
    | some (o, k) => if l.winNaks.any (fun x => x.ord == o && x.k == k) then l
        else { l with winNaks := l.winNaks ++ [{ ord := o, k := k }] }
    | none => { l with nakS := true })

/-- Codewords corrected are counted in units of 1,024, and uncorrectable ones singly (R349). -/
def State.countFec (s : State) (n corr uncorr : Nat) : State :=
  let c := (s.link n).corr + corr
  ((s.modLink n (fun l => { l with corr := c % 1024 })).bump (Reg.LK_FEC_CORR n) (c / 1024)).bump (Reg.LK_FEC_UNCORR n) uncorr

/-- The uncorrectable codewords in a row up to a block (R318): one that touches no uncorrectable codeword ends the run.
(DEDUCED, log entry 79) -/
def State.runOf (s : State) (n : Nat) (rx : RxBlock) : Nat :=
  if rx.uncorr = 0 then (if rx.fecOk then 0 else (s.link n).uncRun) else (s.link n).uncRun + rx.uncorr

/-- The peer trains (R342): this end of the link trains too, and on four lanes where the phase is idle.
(DEDUCED, log entry 44) -/
def State.followPeer (s : State) (n : Nat) : State :=
  (s.startTrain n).modLink n (fun l => { l with spared := if s.phase = phIdle then none else l.spared })

/-- BLOCK_RECEIVE (R26, R36, R58, R318–R337, R342, R377): a block arrives at a link that is UP. Eight uncorrectable codewords
in a row are a loss of lock, and a training block says that the peer trains.
(DESIGN CHOICE, log entry 42) -/
def execBlockReceive (link : LinkId) (rx : RxBlock) (s : State) : Res :=
  let n := link.val
  .next (
    if s.linkUp n then
      let arr := 65536 * rx.arrNs + rx.arrFrac.toNat
      let s0 := (s.countFec n rx.corr rx.uncorr).modLink n (fun l => { l with uncRun := s.runOf n rx })
      if 8 ≤ s.runOf n rx then s0.startTrain n
      else if rx.fecOk && blockGood rx.bytes then
        let c := blockCtl (leNat (rx.bytes.take 12))
        let payload := (rx.bytes.drop 12).take 240
        if c.kind = bkTrn then s0.followPeer n
        else
          let s1 := s0.modLink n (fun l => { l with rxUp := c.up, echo := some (c.dts, arr % 2 ^ 24) })
          let s2 := (s1.takeAk n c).takeSide n c arr
          if bkSequenced c.kind then s2.takeSequenced n c payload
          else if c.kind = bkWin then s2.takeWin n c payload
          else s2
      else s0.blockFailed n arr
    else s)

end Sys2Proof.Machine
end

