-- ==== Sys2Proof/Machine/Commit.lean ====
section
/-! DEFINITION. The Hem fold (R69, R378): the message up the time tree, and the folds of the child links. -/

namespace Sys2Proof.Machine

/-- Done of the device itself: both engines report their updates (R69). -/
def State.ownDone (s : State) : Bool := s.harvest.all (fun h => h.updateDone)

/-- The conditions of R69 on the device itself: the round of the tree of kind Hem is complete, and both engines report. -/
def State.foldReady (s : State) : Bool :=
  s.jobState == jbRunning && s.ownDone && (match s.hemTree with
    | some k => (s.tack k).done && !(s.tack k).abandoned
    | none => false)

/-- The fold of a child link for the current step: one that came before the link stopped being a child link is dropped (R383). -/
def State.childFold (s : State) (n : Nat) : Option Fold := match smFind s.commit.folds n with
  | some f => if f.step.toNat = s.stepNo % 2 ^ 32 ∧ (s.link n).foldOk = true then some f else none
  | none => none

/-- The fold that the device sends: its own part with the folds of the current child links (R378). -/
def State.makeFold (s : State) : Fold :=
  (s.childLinks.filterMap s.childFold).foldl (fun a f =>
    { a with count := a.count + f.count, sent := a.sent ^^^ f.sent, recv := a.recv ^^^ f.recv, done := a.done && f.done,
             fault := a.fault || f.fault, lane3 := a.lane3 || f.lane3 })
    { step := BitVec.ofNat 32 s.stepNo, count := 1, sent := s.commit.sent, recv := s.commit.recv, done := s.ownDone,
      fault := s.rcv.fault.isSome, lane3 := s.on Reg.SM_TT_LANE3_REQ }

/-- The CTL payload of a management message of one fragment (R322): the header's fields are packed from bit 0 of its eight
bytes. -/
def fragment (src dst num : Nat) (msg : List Byte) : List Byte :=
  3 :: (natLe (src + 2 ^ 13 * dst + 2 ^ 26 * num + 2 ^ 42 * 0 + 2 ^ 50 * 1) 8 ++ msg)

/-- The message bytes of a fold (R378, R432).
(DESIGN CHOICE, log entry 43) -/
def foldBytes (f : Fold) : List Byte :=
  2 :: (natLe f.step.toNat 4 ++ natLe f.count 2 ++ natLe f.sent.toNat 8 ++ natLe f.recv.toNat 8 ++
    natLe (b2n f.done + 2 * b2n f.fault + 4 * b2n f.lane3) 1)

/-- A fold goes to the parent: the up level of H7 waits for the acknowledgement of its block (R378). The root keeps it. -/
def State.sendFold (s : State) (f : Fold) : State :=
  match s.parent with
  | some n =>
    let dst := s.rd (Reg.LK_PEER_DEV n)
    let s1 := s.queueCtl n (fragment s.devId.toNat dst s.host.msgNum (foldBytes f))
    { s1 with commit := { s1.commit with own := some f, ownFrom := s1.childLinks, ownTo := some n,
                                          ownSeq := none, acked := false },
              host := { s1.host with msgNum := (s1.host.msgNum + 1) % 2 ^ 16 } }
  | none =>
    if s.isRoot then
      { s with commit := { s.commit with own := some f, ownFrom := s.childLinks, ownTo := none, ownSeq := none, acked := true } }
    else s

/-- FOLD_SEND (R69, R378): once the device's own conditions hold and every current child link has sent its fold of the step.
A fold that has been sent is sent again when its content or the parent has changed. -/
def execFoldSend (s : State) : Res :=
  .next (
    if s.foldReady && s.childLinks.all (fun n => (s.childFold n).isSome) then
      let f := s.makeFold
      if s.commit.own = some f ∧ s.commit.ownTo = s.parent then s else s.sendFold f
    else s)

/-- HEM_FOLD (R378): a child's fold is kept for its link; a message from a device that is no child is discarded. A change of
the own fold takes the up level back until it has been sent again. -/
def execHemFold (msg : MsgId) (fold : Fold) (s : State) : Res :=
  .next (s.takeMsg msg (fun s =>
    match s.childLinks.find? (fun n => s.rd (Reg.LK_PEER_DEV n) == msg.src.toNat) with
    | some n =>
      let s0 := s.modLink n (fun l => { l with foldOk := true })
      let s1 := { s0 with commit := { s0.commit with folds := smPut s0.commit.folds n fold } }
      if s1.commit.own.isSome ∧ s1.commit.own ≠ some s1.makeFold then { s1 with commit := { s1.commit with acked := false } }
      else s1
    | none => s.bump Reg.FW_CNT_RANGE_MGMT 1))

end Sys2Proof.Machine
end

