-- ==== Sys2Proof/Machine/Recovery.lean ====
section
/-! DEFINITION. Recovery (R68, R280, R386–R414): the phase watchdog and the search for mutual waits, fault reports and the
forced roll-back, the rewind, decisions that were missed, and the thaw window. -/

namespace Sys2Proof.Machine

/- ### The phase watchdog -/

/-- What remains of the budget of a lower layer that owns a fault: a link, the time layer in HOLDOVER, or the Seam layer in
a pause (R386–R388). -/
def State.heldBudget (s : State) : Option Nat :=
  match (List.range 36).findSome? s.linkLeft with
  | some n => some n
  | none =>
    if s.tstate = tsHoldover then some (s.time.holdSince + 100000000 - s.now)
    else match s.seam.pausedAt with
      | some p => some (p + 1000 * max 1 (s.rd Reg.SM_HOLD_LIM_LIMIT) - s.now)
      | none => none

/-- A tile that waits in BWAIT IMM 0 on a thimble register that has asked a ring for a message or a write, and is not to ask
again (R267, R280): the register's number and the register. -/
def Tile.waitsOn (t : Tile) : Option (Nat × ThimSt) := match t.blocked with
  | some iw =>
    let k := iwObj iw - 8
    let h := t.thim k
    if isOp iw 6 2 && decide (8 ≤ iwObj iw ∧ iwObj iw ≤ 15) && iwImm iw == 0 && h.mode == .requested && h.retryAt.isNone &&
        (h.form == rkMessage || h.form == rkWindow) then some (k, h)
    else none
  | none => none

/-- The request of a tile's register stands in the queue of a local tile, which has no space or credit for it (R266, R280). -/
def State.queuedAt (s : State) (p reg owner ring : Nat) : Bool := (s.tile owner).reqs.any (fun q =>
  q.relay.isNone && pkSrc q == (s.logicalOf p).getD 0x1FFF && pkTag q == reg && pkRing q == ring)

/-- A message or write request of a tile of another device stands in the queue of a tile. -/
def Tile.queuedFrom (t : Tile) (dev tile : Nat) : Bool := t.reqs.any (fun q => pkForm q != rkCombining && match q.relay with
  | some w => rlSdev w == dev && rlStile w == tile
  | none => false)

/-- The local tile on whose full ring a tile is blocked. -/
def State.blockedOn (s : State) (p : Nat) : Option Nat := match (s.tile p).waitsOn with
  | some (k, h) => if h.remote then none else match s.physOf h.tile with
    | some o => if s.queuedAt p k o h.ring then some o else none
    | none => none
  | none => none

/-- Pairs of tiles that are blocked on a ring of each other, the lower position first. -/
def State.mutualPairs (s : State) : List (Nat × Nat) := s.tiles.filterMap (fun e =>
  match s.blockedOn e.1 with
  | some o => if e.1 < o ∧ s.blockedOn o = some e.1 then some (e.1, o) else none
  | none => none)

/-- MUTUAL_WAIT is recorded in both tiles, each naming the other (R118, R280). -/
def State.mutualFault (s : State) (a b : Nat) : State :=
  let f := fun (s : State) (p other : Nat) =>
    let t := s.tile p
    s.tileFault p fcMutual ((s.logicalOf other).getD 0x1FFF) t.pc (t.blocked.getD 0) false
  f (f s a b) b a

/-- For a tile that is blocked on a remote ring the peer device is asked (R280). -/
def State.askPeers (s : State) : State := s.tiles.foldl (fun s e =>
  match e.2.waitsOn with
  | some (_, h) => if h.remote then
      s.sendMsg (BitVec.ofNat 13 h.dev) 0x0B [h.tile, s.devId.toNat, (s.logicalOf e.1).getD 0x1FFF] else s
  | none => s) s

/-- The first engine member that holds a tree out: 0 M0, 1 M1, 2 X0, 3 X1. -/
def State.firstEngine (s : State) (k : Nat) : Option Nat := (List.range 4).find? (fun i => hasBit (s.engHoldout k) i)

/-- The watchdog expires (R68): the fault names the tree and its lowest-numbered holdout tile, or its first engine holdout
when no tile holds out. -/
def State.watchdogFires (s : State) : State :=
  let k := match s.superstep with
    | some st => st.tree.val
    | none => 0
  let eng := if (s.tileHoldouts k).isEmpty then s.firstEngine k else none
  let s1 := { s.flag Reg.TK_FLT_WDOG with step := { s.step with
    timed := false, wdog := some ⟨k, (s.tileHoldouts k).head?, eng⟩ } }
  let r := s1.faultRec 9 1
  let s2 := match (s1.tileHoldouts k).head? with
    | some t => s1.openFault { r with ltile := t, ptile := (s1.physOf t).getD 0x1FFF }
    | none => s1.openFault r
  let s3 := s2.logRec 0 1 k
  if s3.on Reg.BB_CTL_MW_EN then (s3.mutualPairs.foldl (fun s x => s.mutualFault x.1 x.2) s3).askPeers else s3

/-- PHASE_WATCHDOG (R68, R280, R388): the compute phase has lasted its limit, which the budget of a lower layer that owns a
fault extends once. -/
def execPhaseWatchdog (s : State) : Res :=
  .next (
    let limit := 1000 * max 1 (s.rd Reg.TK_WDOG_LIMIT)
    if s.on Reg.TK_CTL_WDOG_EN ∧ s.step.timed ∧ s.phase ≠ phIdle ∧ s.phase ≠ phHem ∧
        s.step.phaseSince + limit + s.step.wdogMore ≤ s.now then
      match s.heldBudget with
      | some n => if s.step.wdogMore = 0 ∧ n ≠ 0 then { s with step := { s.step with wdogMore := n } } else s.watchdogFires
      | none => s.watchdogFires
    else s)

/-- MW_QUERY (R280): a device asks whether the tile that owns the ring is itself blocked on a ring of the asking tile. If
it is, and the asking tile's own request stands in its queue, the pair is recorded here too, and the answer says so. -/
def execMwQuery (msg : MsgId) (q : MwPair) (s : State) : Res :=
  .next (s.takeMsg msg (fun s =>
    let hit : Bool := match s.physOf q.tile.val with
      | some p => (match (s.tile p).waitsOn with
        | some (_, h) => h.remote && h.dev == q.dev.toNat && h.tile == q.peer.val && (s.tile p).queuedFrom q.dev.toNat q.peer.val
        | none => false)
      | none => false
    let s1 := if hit then
        (((((s.wr Reg.BB_MW_LOCAL_TILE q.tile.val).wr Reg.BB_MW_LOCAL_DEV s.devId.toNat).wr Reg.BB_MW_LOCAL_VALID 1).wr
          Reg.BB_MW_PEER_TILE q.peer.val).wr Reg.BB_MW_PEER_DEV q.dev.toNat).wr Reg.BB_MW_PEER_VALID 1
      else s
    s1.sendMsg msg.src 0x0C [q.tile.val, s.devId.toNat, q.peer.val, b2n hit]))

/-- MW_REPLY (R280): a confirmed pair is recorded; `tile` is the own tile, `dev` and `peer` the other. -/
def execMwReply (msg : MsgId) (q : MwPair) (s : State) : Res :=
  .next (s.takeMsg msg (fun s =>
    if q.confirmed then
      (((((s.wr Reg.BB_MW_LOCAL_TILE q.tile.val).wr Reg.BB_MW_LOCAL_DEV s.devId.toNat).wr Reg.BB_MW_LOCAL_VALID 1).wr
        Reg.BB_MW_PEER_TILE q.peer.val).wr Reg.BB_MW_PEER_DEV q.dev.toNat).wr Reg.BB_MW_PEER_VALID 1
    else s))

/- ### Fault reports -/

/-- FAULT_REPORT (R389, R395, R408, R413): the first report for the current step makes the manager flood a forced roll-back,
unless the H7 release of the step has been sent; a later one is logged. A report that joins the rewind after a roll-back Hem
ends the job visibly where its fault would (R411, R415).
(DEDUCED, log entry 49) -/
def execFaultReport (msg : MsgId) (step : Word64) (rc : FaultRec) (s : State) : Res :=
  .next (s.takeMsg msg (fun s =>
    if s.isRoot ∧ s.jobState = jbRunning ∧ step.toNat = s.stepNo then
      let s1 := { s with rcv := { s.rcv with reports := s.rcv.reports ++ [rc] } }
      let rewinds : Bool := s1.step.winOpen && !s1.on Reg.TK_STAT_LAST_COMMIT
      if s1.step.hemAt = none ∧ rewinds = false ∧ s1.rcv.reportStep ≠ some s1.stepNo then
        State.sendRelease { s1 with rcv := { s1.rcv with reportStep := some s1.stepNo } } 7 false false
      else if rewinds && (faultIsP rc || faultIsLoss rc) then s1.endInWindow rc
      else s1.logRec 0 3 rc.code
    else s.logRec 0 3 rc.code))

/- ### The rewind -/

/-- A tile after the rewind (R398). What the resident image does not hold stays in the scratchpad.
(DEDUCED, log entry 50) -/
def Tile.rewind (t : Tile) : Tile :=
  { t.dropBuffer with
           mode := .idle, pc := t.entry, g := [], p := 0, v := [], badRegs := [], badPat := false, slots := List.replicate 8 {}, drains := [], mover := [],
           rings := List.replicate 8 {}, reqs := [], thims := List.replicate 8 {}, flags := 0, member := 0, fault := {},
           spools := [{}, {}, {}, {}], blocked := none, lendSince := none, patIdle := {}, patActive := {} }

/-- The position at which a logical tile lies once the staged claims take effect (R404, R214). -/
def State.stagedPos (s : State) (p : Nat) : Nat :=
  match s.fab.staged.find? (fun e => e.1 == p / 33) with
  | some e => if e.2 ≤ p % 33 then p + 1 else p
  | none => p

/-- The claims that the faults of the step call for are staged, unless they are already (R403, R404). -/
def State.stageClaims (s : State) : State :=
  s.remaps.foldl (fun s p =>
    if s.fab.staged.any (fun e => e.1 == p / 33) then s
    else { s.bump Reg.JB_RCV_CNT_REMAPS 1 with fab := { s.fab with staged := s.fab.staged ++ [(p / 33, p % 33)] } }.logRec 3 6
      (p % 2 ^ 16) [] (dieCore (p / 1584))) s

/-- A tile's resident image is written anew in three cases (R398): it stopped on a fault, it reported a latent error, or it
moves. -/
def State.needsImage (s : State) (p : Nat) : Bool :=
  let t := s.tile p
  t.fault.valid || t.rd Reg.MN_TILE_ECC_LATENT == 1 || s.stagedPos p != p

/-- The tiles' part of the rewind (R398, R404). A tile that moves keeps nothing but its image at the new position. -/
def State.rewindTiles (s : State) : State :=
  let need := match s.host.img with
    | some g => g.tiles.filterMap (fun (x : TileProg) => match s.physOf x.tile.val with
      | some p => if s.needsImage p then some (s.stagedPos p, x) else none
      | none => none)
    | none => []
  let s1 := s.mapTiles (fun _ t => t.rewind)
  let s2 := need.foldl (fun s (e : Nat × TileProg) => s.modTile e.1 (fun t => (t.wr Reg.MN_TILE_ECC_LATENT 0).loadImage s.now e.2)) s1
  match s.host.img with
  | some g => s2.bindSpools s.stagedPos g.spools
  | none => s2

/-- Streams go back to the start of the step (R398): each stream takes up the descriptor index it held there. -/
def StreamSt.rewind (x : StreamSt) : StreamSt :=
  { x with idx := x.startIdx, state := if x.state = 3 ∨ x.state = 4 then 1 else x.state, marks := [], desc := [], buf := [],
           flight := 0, credit := 32, landing := [], tails := [], pos := 0 }

/-- Blocks whose persistent error has a source are restored as whole blocks, which clears their poison (R401). -/
def State.restoreBlocks (s : State) : State :=
  if s.rcv.opens.any (fun r => r.layer == 3) || s.poison != [] then
    let src := s.poison.filter (fun b => s.restoreSource b == some true)
    { s.bump Reg.JB_RCV_CNT_RESTORES src.length with poison := s.poison.filter (fun b => !src.contains b) }
  else s

/-- REWIND_DONE (R398, R401, R403, R404): firmware has carried out the rewind, and the device contributes 1 to H7. The class H
faults of the step enter the record that R403 looks at. A fault that joined the rewind may end the job instead (R411, R413).
(DESIGN CHOICE, log entry 2; DEDUCED, log entry 49) -/
def execRewindDone (s : State) : Res :=
  .next (
    if s.phase = phHem ∧ (s.rd Reg.JB_RCV_STAT_STATE = 2 ∨ s.rd Reg.JB_RCV_STAT_STATE = 3) then
      match s.endingFault 0 with
      | some r => s.endInWindow r
      | none =>
      let hard := s.hardTiles.map (fun e => (e.1, s.rcv.committed))
      let s1 := (s.restoreBlocks).stageClaims.rewindTiles
      let s2 := { s1 with
        streams := s1.streams.map (fun (e : Nat × StreamSt) => (e.1, e.2.rewind)),
        rcv := { s1.rcv with history := hard ++ s1.rcv.history, opens := [], fault := none },
        seam := { s1.seam with xhalf := [{}, {}], xhalfNext := [{}, {}], desc := none, descNext := none,
                               routesReady := [false, false], reloaded := [], seamAt := none } }
      (s2.wr Reg.PT_STAT_LOADER 0).wr Reg.JB_RCV_STAT_STATE 4
    else s)

/-- REWIND_TIMEOUT (R388, R398, R413): the round of the rewind has not completed within `RWIN`; a lower layer that owns a
fault extends the limit once. The manager ends the job visibly. -/
def execRewindTimeout (s : State) : Res :=
  .next (
    let st := s.rd Reg.JB_RCV_STAT_STATE
    if s.isRoot ∧ s.phase = phHem ∧ 2 ≤ st ∧ st ≤ 4 ∧ s.step.startAt = none ∧ s.rcv.rewindBy ≤ s.now then
      let ended := ((s.endVisibly (s.faultRec 11 1)).wr Reg.TK_STAT_PHASE phIdle).logRec 0 3 1
      match s.heldBudget with
      | some n =>
        if ¬ s.rcv.rewindMore ∧ n ≠ 0 then { s with rcv := { s.rcv with rewindMore := true, rewindBy := s.rcv.rewindBy + n } }
        else ended
      | none => ended
    else s)

/- ### Decisions -/

/-- DECISION_REQ (R406–R408): the root answers from its log of decisions. -/
def execDecisionReq (msg : MsgId) (step : Word64) (s : State) : Res :=
  .next (s.takeMsg msg (fun s =>
    match s.isRoot, s.rcv.log.find? (fun d => d.step == step) with
    | true, some d =>
      s.sendMsg msg.src 5 [d.step.toNat, b2n d.commit, d.mbCount.toNat, d.hem, d.s, b2n d.parity, 0]
    | _, _ => s))

/- ### The thaw window -/

/-- The cores that own firmware-owned objects: the privileged collective cores (R392, R419). -/
def ownsObjects (core : Nat) : Bool := core == 0 || core == 1 || core == 4 || core == 5

/-- THAW_WINDOW_EXPIRY (R365, R388, R392, R393): 50 ms after its watchdog expired, a core has not resumed its objects: the
waiters of those, a norm exchange that runs, are released ABANDONED. A lower layer that owns a fault extends the window once.
(DEDUCED, log entry 49) -/
def execThawWindowExpiry (core : Fin 20) (resumed : Bool) (s : State) : Res :=
  .next (
    match (nth s.host.cores core.val {}).thawAt with
    | some t =>
      if s.now < t + 50000000 then s
      else
        let core1 := fun (f : CoreSt → CoreSt) => { s with host := { s.host with cores := modNth s.host.cores core.val f } }
        let s1 := core1 (fun c => { c with thawAt := none })
        let ended := s1.endNorm.openFault (s1.faultRec 10 1)
        if resumed || !ownsObjects core.val then s1
        else match s.heldBudget with
          | some n =>
            if (nth s.host.cores core.val {}).thawMore = false ∧ n ≠ 0 then
              core1 (fun c => { c with thawAt := some (t + n), thawMore := true })
            else ended
          | none => ended
    | none => s)

end Sys2Proof.Machine
end

