-- ==== Sys2Proof/Machine/Survival.lean ====
section
/-! DEFINITION. What each reset leaves (R15, R465–R468, R490): the cold resets P and W, the host-side reset F, the job scrub J,
and the Drowse exit D; the measurement registers; and the loss of power (R446). -/

namespace Sys2Proof.Machine

/- ### Measurements -/

def zeros48 : List Byte := List.replicate 48 0

/-- The ASCII texts that measurement 4 is extended with (R490). -/
def textLocked : List Byte := [0x4C, 0x4F, 0x43, 0x4B, 0x45, 0x44]
def textScan : List Byte := [0x53, 0x43, 0x41, 0x4E]

/-- Measurement i, 1–5; other indices read zeros (R490, R502). -/
def State.measurement (s : State) (i : Nat) : List Byte :=
  if 1 ≤ i ∧ i ≤ 5 then nth s.sec.measurements (i - 1) zeros48 else zeros48

/-- Measurement i is set. -/
def State.setMeasurement (s : State) (i : Nat) (v : List Byte) : State :=
  let l := (List.range 5).map (fun j => if j + 1 = i then v else s.measurement (j + 1))
  { s with sec := { s.sec with measurements := l } }

/-- Measurement i is extended (R490). -/
def State.extend (s : State) (i : Nat) (x : List Byte) : State :=
  s.setMeasurement i (Config.sha384 (s.measurement i ++ x))

/-- The unlock ends, and measurement 4 starts anew (R490, R499). -/
def State.relock (s : State) : State :=
  State.extend (State.setMeasurement { s with sec := { s.sec with nonce := [], unlocked := none } } 4 zeros48) 4 textLocked

/- ### P and W -/

/-- What fuses and NVM hold, and what counts random draws: all that a cold reset leaves of the security state (R468).
(DESIGN CHOICE, log entry 5) -/
def keptSec (x : SecSt) : SecSt :=
  { fwSvn := x.fwSvn, cfgSvn := x.cfgSvn, revoked := x.revoked, mark := x.mark, gradeB := x.gradeB, capacity := x.capacity,
    dies := x.dies, serial := x.serial, images := x.images, configs := x.configs, ident := x.ident, journal := x.journal,
    nonces := x.nonces }

/-- The allowances and the limit take the values of the fused grade (R447, R464).
(DESIGN CHOICE, log entry 5) -/
def State.gradePower (s : State) : State :=
  if s.sec.gradeB then (s.wr Reg.PW_LIMIT_MODULE 2400).wr Reg.PW_ALLOW_C 384 else s

/-- Everything but fuses and NVM is at its reset value (R465, R468).
(DESIGN CHOICE, log entry 4; DESIGN CHOICE, log entry 8; DEDUCED, log entry 55) -/
def State.coldState (s : State) : State :=
  State.gradePower { pending := s.pending, fresh := s.fresh, out := s.out, fab := { outBase := s.out.length },
                     power := { cause := s.power.cause }, test := { nvm := s.test.nvm }, sec := keptSec s.sec }

/-- A P reset (R465): the switch has closed.
(DESIGN CHOICE, log entry 4) -/
def State.resetP (s : State) : State :=
  let s1 := s.coldState
  { s1 with power := { s1.power with closed := true, mated := true } }

/-- A W reset (R465, R483): the switch, the bulk capacitance and the NVM keep their state.
(DEDUCED, log entry 55) -/
def State.resetW (s : State) (cause : Nat) : State :=
  let s1 := s.coldState
  let s2 := { s1 with power := { s1.power with closed := s.power.closed, bulk := s.power.bulk, mated := s.power.mated,
                                               afterFault := s.power.afterFault } }
  (s2.wr Reg.BI_CAUSE_KIND 1).wr Reg.BI_CAUSE_CAUSE cause

/- ### Loss of power -/

/-- The cause codes of `PW_EVT.PREV` (R464). -/
def inputCode : InputKind → Nat
  | .underVoltage => 1
  | .overVoltage => 2
  | .overCurrent => 3

/-- The tiles halt as a forced roll-back halts them, and any Seam ends at once (R446). -/
def State.haltAll (s : State) : State := s.haltStep

/-- The module loses its power (R446): the cause record is written, and no state but fuses and NVM is left. A trip that is in
force is named beside an input fault (R463). -/
def State.powerOff (s : State) (causes : List Nat) : State :=
  let s1 := s.haltAll.coldState
  { s1 with power := { s1.power with cause := causes ++ (if s.power.trip then [4] else []), mated := s.power.mated, afterFault := true } }

/- ### F -/

/-- The words of the attach area that the driver writes lie below this offset (R422). -/
def driverWords : Nat := 0x80

/-- The offset of `ATT_STATE` (R422). -/
def attState : Nat := 0x94

/-- An F reset (R422, R465, R481, R497): the host-side fields, the driver words and every IDE stream; the PCIe crossings
are disarmed, and the unlock ends.
(DEDUCED, log entry 55) -/
def State.resetF (s : State) : State :=
  let s1 := ((s.resetRegs .f).wr Reg.BI_XARM_DONE 0).mapTiles (fun _ t => t.wr Reg.MN_TILE_DBG_ACC_EN 0)
  State.relock { s1 with
    host := { s1.host with bar4 := (smDelRange s1.host.bar4 0 driverWords).filter (fun e => e.1 != attState), beatSince := none,
                           beatAfterF := true, request := 0, features := 0,
                           lossDue := s.host.lossDue || s.on Reg.JB_STAT_ATTACHED },
    test := { s1.test with pcieArming := false },
    sec := { s1.sec with ide := [] },
    snaps := s1.snaps.filter (fun x => x.port != .host) }

/- ### J -/

/-- A field of a tile survives a reset (R468): the counts and the scrub interval. -/
def Tile.keepRegs (k : ResetKind) (t : Tile) : SMap Nat :=
  t.regs.filter (fun e => Reg.blockTILE.any (fun f => f.key == e.1 && f.kept.survives k))

/-- A tile at a job scrub (R434, R468): the scratchpad is zero, and all else but the counts is cleared. -/
def Tile.scrub (t : Tile) : Tile := { regs := t.keepRegs .j, scrubAt := t.scrubAt }

/-- A J reset (R434, R468, R490): job state on every die. A device that was admitted is
admitted again with the next job that it takes. The round parities and the accepted marks stay (R60: they restart at P or W),
though `TK_HALL.ROUND` reads 0 by its Kept column; abandoned trees stay so, and their up levels at 0, until the next Hem or the
next job (R65). Without a job no link is a pattern link that could run on three lanes (R251, R252).
(DEDUCED, log entry 55; DESIGN CHOICE, log entry 68) -/
def State.resetJ (s : State) : State :=
  let s0 := s.abandonTrees s.memberMask
  let r := s0.resetRegs .j
  let s1 := (if s.memberMask = 0 then r else r.flag Reg.TK_FLT_ABANDON).mapTiles (fun _ t => t.scrub)
  let s2 : State := { s1 with
    time := { s1.time with scrubbed := s1.time.scrubbed || s.admitted }
    tacks := s1.tacks.filterMap (fun e => if e.2.abandoned then some (e.1, { abandoned := true }) else none)
    step := { round := s1.step.round, relAccepted := s1.step.relAccepted, held := s1.step.held }
    seam := {}
    fab := { s1.fab with staged := [], merges := [], edges := List.replicate 12 0, ringCounts := [0, 0, 0, 0, 0], moved := [],
                          outBase := s1.out.length, landed := [] }
    streams := []
    mdies := s1.mdies.map (fun d => { d with waiting := [], staleWr := 0, staleRd := 0, offSat := 0 })
    seqs := []
    harvest := [{}, {}]
    commit := {}
    monitors := []
    rcv := {}
    host := { s1.host with img := none, loading := none, staged := none, scrubSlot := none, runDone := false, stepLimit := 0,
                           batches := [none, none], batchFill := none, parkHeld := [], ownPark := [], winBase := 0, winLen := 0,
                           imgAddr := 0 } }
  ((State.setMeasurement s2.relock 5 zeros48).wr Reg.SM_TT_LANE3_REQ 0).refresh

/- ### T -/

/-- The thaws of a core within the last 60 s (R420). -/
def CoreSt.lately (c : CoreSt) (now : Nat) : List Nat := c.recent.filter (fun t => decide (now ≤ t + 60000000000))

/-- A core alone takes a T reset and thaws (R420). With eight thaws in 60 s, and at each further one, a class H fault opens.
(DEDUCED, log entry 55) -/
def State.thawCore (s : State) (core : Nat) : State :=
  let c := nth s.host.cores core {}
  let recent := s.now :: c.lately s.now
  let many : Bool := decide (8 ≤ recent.length) || decide (8 ≤ c.recent.length)
  let c1 := { c with state := 1, thaws := min 0xFFFF (c.thaws + 1), thawAt := some s.now, thawMore := false,
                     recent := if many then (s.now :: c.recent) else recent }
  let s0 := s.resetRegs .t
  let s1 := State.logRec { s0 with host := { s0.host with cores := modNth s0.host.cores core (fun _ => c1) } } 2 2 core [] core
  if many then s1.openFault (s1.faultRec 10 2) else s1

/-- The T resets that a scrub has held back are applied (R467).
(DEDUCED, log entry 55) -/
def State.thawHeld (s : State) : State :=
  s.host.heldT.reverse.foldl State.thawCore { s with host := { s.host with heldT := [] } }

/- ### D -/

/-- A D reset (R456, R465, R468): the compute dies, and the M dies after Standby; the unlock ends.
(DESIGN CHOICE, log entry 8; DEDUCED, log entry 53; DEDUCED, log entry 55) -/
def State.resetD (s : State) (standby : Bool) : State :=
  let s1 := s.resetRegs .d
  let cut := fun (x : SnapPend) => match x.blk with
    | .bb => true
    | .sp _ | .sq _ | .hv _ => standby
    | _ => false
  let off := fun (i : Nat) => if standby then i != 2 && i != 3 && i != 6 && i != 7 else decide (12 ≤ i)
  State.relock { s1 with
    tiles := []
    tacks := []
    fab := { s1.fab with merges := [], outBase := s1.out.length, landed := [] }
    snaps := s1.snaps.filter (fun x => !cut x)
    streams := if standby then [] else s1.streams.map (fun (e : Nat × StreamSt) =>
      (e.1, { e.2 with desc := [], buf := [], flight := 0, credit := 32, landing := [], tails := [], pos := 0 }))
    harvest := if standby then s1.harvest.map (fun h => { h with idx := 0, state := 0, marks := [] }) else s1.harvest
    seam := { s1.seam with xhalf := [{}, {}], xhalfNext := [{}, {}], desc := none, descNext := none,
                           routesReady := [false, false], reloaded := [] }
    host := { s1.host with cores := s1.host.cores.zipIdx.map (fun (e : CoreSt × Nat) =>
      if off e.2 then { e.1 with state := 0, armedAt := s1.now, thawAt := none } else e.1) } }

/-- The exit from Drowse or Standby (R456): the dies take D, and a loaded or parked job's resident images are rewritten. -/
def State.drowseExit (s : State) (standby : Bool) : State :=
  let s1 := ((s.resetD standby).wr (Reg.MM_STAT_STATE 0) 2).wr (Reg.MM_STAT_STATE 1) 2
  match s1.host.img with
  | some g =>
    if s1.jobState = jbLoaded ∨ s1.jobState = jbParked then s1.placeTiles (g.tiles.map (fun x => x.tile.val)) else s1
  | none => s1

end Sys2Proof.Machine
end

