-- ==== Sys2Proof/Machine/Power.lean ====
section
/-! DEFINITION. Power, input and cooling (R441–R464): the hot-swap switch and input faults, the power budget with lending and
stutter, the thermal rules and the trip, the power states, and the sensors. Powers are in mW. -/

namespace Sys2Proof.Machine

/- ### The input -/

/-- INPUT_QUALIFIED (R443, R465): the switch closes, which applies a P reset. -/
def execInputQualified (s : State) : Res := .next (if s.power.closed then s else s.resetP)

/-- ENABLE_CONTACT_BREAK (R443): the switch opens. What the bulk capacitance still feeds runs on until the input fault. -/
def execEnableContactBreak (s : State) : Res :=
  .next { s with power := { s.power with mated := false, closed := false } }

/-- The module has power: from the feed, or from its bulk capacitance (R446). -/
def State.powered (s : State) : Bool := s.power.closed || s.power.bulk

/-- INPUT_FAULT (R445, R446). -/
def execInputFault (kind : InputKind) (s : State) : Res :=
  .next (if s.powered then s.powerOff [inputCode kind] else s)

/-- SHORT_CIRCUIT (R445): the switch opens at once, as an input fault. -/
def execShortCircuit (s : State) : Res := .next (if s.powered then s.powerOff [3] else s)

/-- INPUT_GLITCH (R445). -/
def execInputGlitch (s : State) : Res := .next (s.bump Reg.PW_EVT_GLITCH 1)

/- ### The power budget -/

/-- The TDP of the grade in force in W (R4, R6, R447). -/
def State.tdp (s : State) : Nat := if s.rowsWanted = 44 then 2400 else 2600

/-- The module limit in W; a value outside its range acts as the nearer bound (R448). -/
def State.moduleLimit (s : State) : Nat := clamp 1200 s.tdp (s.rd Reg.PW_LIMIT_MODULE)

/-- The nominal allowance of a die in mW: C0–C3, M0, M1, X0, X1 (R447). -/
def State.nominal (s : State) (d : Nat) : Nat :=
  1000 * (if d < 4 then s.rd Reg.PW_ALLOW_C else if d < 6 then s.rd Reg.PW_ALLOW_M else s.rd Reg.PW_ALLOW_X)

/-- The own allowance of a die in mW, after the reductions of R448 and R452. -/
def State.ownAllow (s : State) (d : Nat) : Nat :=
  if d < 4 then s.nominal d - (s.tdp - s.moduleLimit) * 250 - nth s.power.reduced d 0 * (s.nominal d / 20) else s.nominal d

/-- A credit: lender, borrower, mW. -/
abbrev Credit := Nat × Nat × Nat

/-- What a die has lent, and what it has borrowed. -/
def lentBy (cs : List Credit) (d : Nat) : Nat := ((cs.filter (fun c => c.1 == d)).map (fun c => c.2.2)).foldl (· + ·) 0

def borrowedBy (cs : List Credit) (d : Nat) : Nat := ((cs.filter (fun c => c.2.1 == d)).map (fun c => c.2.2)).foldl (· + ·) 0

/-- The allowance in force of a die (R451). -/
def State.allow (s : State) (cs : List Credit) (d : Nat) : Nat := s.ownAllow d - lentBy cs d + borrowedBy cs d

/-- A lender whose power exceeds what it has kept takes its credit back (R451).
(DEDUCED, log entry 51) -/
def State.reclaim (s : State) (p : Nat → Nat) (cs : List Credit) : List Credit :=
  cs.filter (fun c => !decide (s.ownAllow c.1 < p c.1 + lentBy cs c.1))

/-- What a die offers (R451). -/
def State.offer (s : State) (p : Nat → Nat) (cs : List Credit) (d : Nat) : Nat :=
  s.ownAllow d - lentBy cs d - p d - 1000 * s.rd Reg.PW_CTL_MARGIN

/-- Place a die among the borrowers: the larger excess first, ties to the lower die. -/
def insertBy (key : Nat → Nat) (d : Nat) : List Nat → List Nat
  | [] => [d]
  | e :: l => if key e < key d then d :: e :: l else e :: insertBy key d l

/-- The compute dies in the order in which they borrow (R451). -/
def State.borrowers (s : State) (p : Nat → Nat) : List Nat :=
  (List.range 4).foldl (fun l d => insertBy (fun e => p e - s.ownAllow e) d l) []

/-- Borrow up to `want` from the offers of a list of dies (R451). -/
def State.borrowFrom (s : State) (offer : Nat → Nat) (d : Nat) : Nat → List Nat → List Credit → List Credit
  | _, [], cs => cs
  | want, l :: ls, cs =>
    let given := ((cs.filter (fun c => c.1 == l)).map (fun c => c.2.2)).foldl (· + ·) 0
    let n := min want (offer l - given)
    s.borrowFrom offer d (want - n) ls (if n = 0 then cs else cs ++ [(l, d, n)])

/-- One die borrows: up to 520 W in all, what it has borrowed included, and nothing under a thermal reduction (R451, R463).
(DEDUCED, log entry 51) -/
def State.borrow (s : State) (p offer : Nat → Nat) (old : List Credit) (d : Nat) (new : List Credit) : List Credit :=
  let want := min (p d - s.ownAllow d) (520000 - s.ownAllow d) - borrowedBy old d
  if want = 0 ∨ nth s.power.reduced d 0 ≠ 0 then new else s.borrowFrom offer d want (List.range 8) new

/-- The stutter of a die after an evaluation (R451).
(DEDUCED, log entry 51) -/
def nextStutter (p a n : Nat) : Nat :=
  if a < p then min 56 (n + ceilDiv (64 * (p - a)) p)
  else if 20 * p < 19 * a then n - 1
  else n

/-- One evaluation (R451).
(DEDUCED, log entry 51) -/
def State.evaluate (s : State) : State :=
  let p := fun (d : Nat) => nth s.power.power d 0
  let kept := if s.on Reg.PW_CTL_LEND_EN then s.reclaim p s.power.credits else []
  let offer := fun (d : Nat) => s.offer p kept d
  let new := if s.on Reg.PW_CTL_LEND_EN then (s.borrowers p).foldl (fun cs d => s.borrow p offer kept d cs) [] else []
  let cs := kept ++ new
  let ns := (List.range 4).map (fun d =>
    if s.on Reg.PW_CTL_STUT_EN then nextStutter (p d) (s.allow cs d) (nth s.power.stutter d 0) else 0)
  { s with power := { s.power with credits := cs, stutter := ns } }

/-- The compute cycles among the preceding 1,000 (R450, R451): those of the running compute phase, of the one before the last
Seam, and of the one before the last Hem. -/
def State.computeCycles (s : State) : Nat :=
  let lo := s.now - 1000
  let running := if s.computing then s.now - max lo s.step.phaseSince else 0
  let before := if s.seam.s ≤ s.now then s.seam.s - lo else 0
  let ended := if s.phase = phHem then s.lastHem - max lo s.step.phaseSince else 0
  running + (if s.phase = phIdle ∨ s.phase = phHem then 0 else before) + ended

/-- POWER_EVALUATION (R449–R451, R457, R463): at each AT that is a multiple of 1,000 ns. A sample outside its range is not
used.
(DESIGN CHOICE, log entry 17; DEDUCED, log entry 51) -/
def execPowerEvaluation (sample : PowerSample) (s : State) : Res :=
  .next (
    if s.now % 1000 ≠ 0 ∨ s.power.evalAt = some s.now then s
    else
      let p := sample.dies.toList.zipIdx.map (fun (e : Nat × Nat) => if e.1 ≤ 1000000 then e.1 else nth s.power.power e.2 0)
      let s1 := { s with power := { s.power with
        evalAt := some s.now, power := p, volts := if sample.volts ≤ 8000 then sample.volts else s.power.volts,
        amps := if sample.amps ≤ 15000 then sample.amps else s.power.amps, watts := sample.watts,
        energy := s.power.energy + sample.watts } }
      if s1.on Reg.TK_STAT_IN_SEAM ∨ s1.seam.seamAt = some s1.now ∨ s1.computeCycles < 500 then s1 else s1.evaluate)

/-- POWER_LIMIT_WRITE (R448): at once while idle, at H + W in the Hem window; otherwise ignored and counted.
(DEDUCED, log entry 51) -/
def execPowerLimitWrite (value : Word32) (s : State) : Res :=
  .next (
    if s.phase = phIdle then s.wr Reg.PW_LIMIT_MODULE value.toNat
    else if s.phase = phHem then { s with step := { s.step with limitStaged := some value.toNat } }
    else s.bump Reg.FW_CNT_RANGE_HOST 1)

/- ### Heat -/

/-- The temperature of a die: its highest sensor median within the accepted range (R457). -/
def dieHeat (t : TempReadings) (d : Nat) : Nat := ((nth t.dies d []).filter (fun x => decide (x ≤ 150))).foldl max 0

/-- The temperature of the hottest GDDR7 device. -/
def gddrHeat (t : TempReadings) : Nat := (t.gddr.filter (fun x => decide (x ≤ 150))).foldl max 0

/-- The throttle thresholds (R452, R464). -/
def State.dieLimit (s : State) : Nat := clamp 80 100 (s.rd Reg.PW_THERM_THROTTLE)

def State.gddrLimit (s : State) : Nat := clamp 75 92 (s.rd Reg.PW_THERM_GDDR)

/-- A cause throttles compute die d (R452). -/
def State.throttles (s : State) (t : TempReadings) (d : Nat) : Bool :=
  decide (s.dieLimit ≤ dieHeat t d) || [4, 5, 6, 7].any (fun e => decide (s.dieLimit ≤ dieHeat t e)) ||
    decide (s.gddrLimit ≤ gddrHeat t)

/-- Every cause has fallen 3 °C below its threshold (R452). -/
def State.cooled (s : State) (t : TempReadings) (d : Nat) : Bool :=
  decide (dieHeat t d + 3 ≤ s.dieLimit) && [4, 5, 6, 7].all (fun e => decide (dieHeat t e + 3 ≤ s.dieLimit)) &&
    decide (gddrHeat t + 3 ≤ s.gddrLimit)

/-- THERMAL_CHECK (R452): a throttling die loses 5 % of its allowance, down to 50 %, and gets it back once it has cooled.
(DESIGN CHOICE, log entry 17; DEDUCED, log entry 52) -/
def execThermalCheck (temps : TempReadings) (s : State) : Res :=
  let s1 := { s with power := { s.power with temps := temps, reduced := (List.range 4).map (fun d =>
    let k := nth s.power.reduced d 0
    if s.throttles temps d then min 10 (k + 1) else if s.cooled temps d then k - 1 else k) } }
  .next (if (List.range 4).any (s.throttles temps) then (s1.flag Reg.PW_STAT_THERM).emit .alert else s1)

/-- THERMAL_TRIP (R453): the tiles halt, the compute dies, the M dies and GDDR7 are turned off, and the cause record is
written.
(DEDUCED, log entry 52) -/
def execThermalTrip (temps : TempReadings) (s : State) : Res :=
  .next (
    if s.powered ∧ ¬ s.power.trip ∧ ((List.range 8).any (fun d => decide (105 ≤ dieHeat temps d)) ∨ 100 ≤ gddrHeat temps) then
      let s1 := (s.haltAll.flag Reg.PW_EVT_TRIP).emit .alert
      { s1 with tiles := [], mem := [], poison := [],
                power := { s1.power with temps := temps, trip := true, cause := [4] } }
    else s)

/-- Every reading is at least 10 °C below its throttle threshold (R453). -/
def State.safeHeat (s : State) (t : TempReadings) : Bool :=
  (List.range 8).all (fun d => decide (dieHeat t d + 10 ≤ s.dieLimit)) && decide (gddrHeat t + 10 ≤ s.gddrLimit)

/-- LOWFLOW (R459, R462): it changes no allowance. -/
def execLowflow (s : State) : Res := .next ((s.flag Reg.PW_STAT_LOWFLOW).emit .alert)

/- ### Sensors -/

/-- A die's reading takes a value. -/
def setDieHeat (t : TempReadings) (d v : Nat) : TempReadings :=
  { t with dies := (List.range 8).map (fun e => if e = d then [v] else nth t.dies e []) }

/-- SENSOR_TIMEOUT (R457, R462): the reading takes its fail-safe value. Without an input sample the module takes an input
fault. The input power and the power state are no readings of their own, and time out with none.
(DEDUCED, log entry 52) -/
def execSensorTimeout (x : SensorId) (s : State) : Res :=
  let stale := (s.flag Reg.PW_STAT_STALE).emit .alert
  match x with
  | .volts => .next (if s.powered then s.powerOff [1] else s)
  | .amps => .next (if s.powered then s.powerOff [3] else s)
  | .diePower d => .next { stale with power := { stale.power with stutter := modNth stale.power.stutter d.val (fun _ => 56) } }
  | .dieTemp d => .next { stale with power := { stale.power with temps := setDieHeat stale.power.temps d.val s.dieLimit } }
  | .gddr => .next { stale with power := { stale.power with temps := { stale.power.temps with gddr := [s.gddrLimit] } } }
  | .inlet => .next stale
  | .outlet => .next stale
  | .watts => .next s
  | .powerState => .next s

/-- The value of a numeric sensor (R462); the power of a die is none. -/
def State.sensor (s : State) (x : SensorId) : Option Nat := match x with
  | .volts => some s.power.volts
  | .amps => some s.power.amps
  | .watts => some s.power.watts
  | .diePower _ => none
  | .dieTemp d => some (dieHeat s.power.temps d.val)
  | .gddr => some (gddrHeat s.power.temps)
  | .inlet => some s.power.temps.inlet
  | .outlet => some s.power.temps.outlet
  | .powerState => some (s.rd Reg.PW_STAT_STATE)

/-- PLDM_SENSOR_READ (R462): PLDM answers with the value of a sensor that it exposes, and with none for another one.
(DEDUCED, log entry 52) -/
def execPldmSensorRead (x : SensorId) (s : State) : Res := match s.sensor x with
  | some v => .next (s.emit (.reply 0 (natLe v 4)))
  | none => .next s

/- ### Power states -/

/-- Entry to a power state is allowed (R454). A device that has contributed 1 to a start round refuses (R463).
(DEDUCED, log entry 53) -/
def State.mayEnter (s : State) (r : Nat) : Bool :=
  if r = 0 then true
  else if s.startReady && s.jobState != jbRunning then false
  else if r = 1 then s.phase == phIdle && s.jobState != jbRunning
  else if r = 2 then s.jobState == jbEmpty || s.jobState == jbLoaded || s.jobState == jbParked
  else s.jobState == jbEmpty

/-- POWER_STATE_REQUEST (R455, R463): the scan that finds a request.
(DEDUCED, log entry 53) -/
def execPowerStateRequest (s : State) : Res :=
  let r := s.rd Reg.PW_REQ_STATE
  .next (
    if s.on Reg.PW_STAT_TRANS ∨ r = s.rd Reg.PW_STAT_STATE then s
    else if s.mayEnter r then { s.flag Reg.PW_STAT_TRANS with power := { s.power with target := some r } }
    else s.flag Reg.PW_STAT_REFUSED)

/-- A state that leaves the compute dies unpowered is entered: their contents are lost, and GDDR7 goes into self-refresh
(R454). -/
def State.unpower (s : State) : State :=
  ({ s with tiles := [] }.wr (Reg.MM_STAT_SELFREF 0) 1).wr (Reg.MM_STAT_SELFREF 1) 1

/-- POWER_TRANSITION_DONE (R454, R456, R462).
(DEDUCED, log entry 53) -/
def execPowerTransitionDone (s : State) : Res :=
  .next (
    match s.power.target with
    | none => s
    | some r =>
      let cur := s.rd Reg.PW_STAT_STATE
      let s1 := if cur = 3 then (if 2 ≤ r then (s.drowseExit true).unpower else s.drowseExit true)
        else if cur = 2 ∧ r < 2 then s.drowseExit false
        else if 2 ≤ r then s.unpower
        else s
      let s2 := ((s1.wr Reg.PW_STAT_STATE r).wr Reg.PW_STAT_TRANS 0).emit .alert
      { s2 with power := { s2.power with target := none } })

end Sys2Proof.Machine
end

