-- ==== Sys2Proof/Machine/RegWrite.lean ====
section
/-! DEFINITION. A write of a register word, field by field as the Type column says (R14, R513–R515), with the fields that are
writable only under the debug unlock (R340, R464, R499). What a write starts beside that is in the file of `REGISTER_WRITE`. -/

namespace Sys2Proof.Machine

/-- The value that a word holds for a field. -/
def Fld.pick (f : Fld) (v : Nat) : Nat := v / 2 ^ f.lo % 2 ^ f.width

/-- The word that the stored fields of a register spell, on a port. -/
def State.storedWord (s : State) (port : Port) (a : Nat) : Nat :=
  (Reg.fieldsAt a).foldl (fun x f => x + 2 ^ f.lo * s.rdAt port f) 0

/-- The LOCK bit of the block that holds an offset (R513). -/
def blockLock (a : Nat) : Option Fld :=
  match a / 0x10000 with
  | 0x00 => some Reg.AT_CTL_LOCK
  | 0x01 => some Reg.TK_CTL_LOCK
  | 0x02 => some Reg.MN_FAB_CTL_LOCK
  | 0x04 => some Reg.SM_CTL_LOCK
  | 0x05 => some Reg.BB_CTL_LOCK
  | 0x10 => some (Reg.SP_CTL_LOCK 0)
  | 0x11 => some (Reg.MM_CTL_LOCK 0)
  | 0x13 => some (Reg.HV_CTL_LOCK 0)
  | 0x18 => some (Reg.SP_CTL_LOCK 1)
  | 0x19 => some (Reg.MM_CTL_LOCK 1)
  | 0x1B => some (Reg.HV_CTL_LOCK 1)
  | 0x20 | 0x21 | 0x22 => some (Reg.LK_CTL_LOCK ((a - 0x200000) / 0x1000))
  | 0x30 => some Reg.JB_CTL_LOCK
  | 0x38 => some Reg.PW_CTL_LOCK
  | 0x39 => some Reg.BI_CTL_LOCK
  | 0x3A => some Reg.SC_CTL_LOCK
  | _ => none

/-- The RWL fields of the block that holds an offset are locked. -/
def State.lockedAt (s : State) (a : Nat) : Bool := match blockLock a with
  | some f => s.on f
  | none => false

/-- A field takes its part of a written word (R14, R513): a LOCK bit is only ever set. -/
def State.writeField (locked : Bool) (port : Port) (v : Nat) (s : State) (f : Fld) : State :=
  match f.ty with
  | .rw => if f.dual then s.wrPort port f (f.pick v) else s.wr f (f.pick v)
  | .rwl =>
    if locked then s
    else if f.lo = 31 ∧ f.width = 1 ∧ f.pick v = 0 then s
    else s.wr f (f.pick v)
  | .w1c => s.wr f (s.rd f - (s.rd f &&& f.pick v))
  | .ro => s
  | .wo => s
  | .rc => s

/-- A word as the device takes it: what needs the debug unlock keeps its safe value (R340, R464, R499), and the trace points
0–15 stay enabled (R439). -/
def State.guardWord (s : State) (a v : Nat) : Nat :=
  if a = Reg.PW_CTL_STUT_EN.addr then (if s.unlockScope 2 then v else setBit v Reg.PW_CTL_STUT_EN.lo)
  else if a / 0x1000 < 0x224 ∧ 0x200 ≤ a / 0x1000 ∧ a % 0x1000 = 0 then
    (if s.unlockScope 1 then v else setBit v (Reg.LK_CTL_AUTH_EN 0).lo)
  else if a = (Reg.FW_TRACE_EN_EN 0).addr then v ||| 0xFFFF
  else v

/-- A record whose VALID bit a write has cleared (R514): its other words are cleared in the same cycle. -/
def State.clearRecord (s : State) (a : Nat) : State :=
  let zero := fun (s : State) (fs : List Fld) => fs.foldl (fun s f => s.wr f f.reset) s
  if a = Reg.BI_FAIL_UNIT_VALID.addr ∧ ¬ s.on Reg.BI_FAIL_UNIT_VALID then
    zero s ((Reg.blockBI.filter (fun f => decide (0x390014 ≤ f.addr ∧ f.addr ≤ 0x390024))))
  else if a = Reg.PT_ERR_VALID.addr ∧ ¬ s.on Reg.PT_ERR_VALID then zero s (Reg.fieldsAt a)
  else if a = Reg.SM_HOLD_SRC_VALID.addr ∧ ¬ s.on Reg.SM_HOLD_SRC_VALID then zero s (Reg.fieldsAt a)
  else if a = Reg.BB_MW_LOCAL_VALID.addr ∧ ¬ s.on Reg.BB_MW_LOCAL_VALID then
    zero s (Reg.fieldsAt a ++ Reg.fieldsAt Reg.BB_MW_PEER_VALID.addr)
  else if a = Reg.BB_MW_PEER_VALID.addr ∧ ¬ s.on Reg.BB_MW_PEER_VALID then zero s (Reg.fieldsAt a)
  else
    (List.range 2).foldl (fun s m =>
      if a = (Reg.SP_ERR_VALID m).addr ∧ ¬ s.on (Reg.SP_ERR_VALID m) then zero s (Reg.fieldsAt a ++ Reg.fieldsAt (a + 4))
      else if a = (Reg.MM_ERR_HI_VALID m).addr ∧ ¬ s.on (Reg.MM_ERR_HI_VALID m) then zero s (Reg.fieldsAt a ++ Reg.fieldsAt (a - 4))
      else if a = (Reg.HV_ERR_VALID m).addr ∧ ¬ s.on (Reg.HV_ERR_VALID m) then zero s (Reg.fieldsAt a)
      else s) s

/-- The two LOCK bits of the JB_ block are one bit (R513). -/
def State.tieLocks (s : State) : State :=
  if s.on Reg.JB_CTL_LOCK || s.on Reg.JB_RCV_CTL_LOCK then (s.flag Reg.JB_CTL_LOCK).flag Reg.JB_RCV_CTL_LOCK else s

/-- A word is written to a register (R14, R509, R513, R514).
(DEDUCED, log entry 63) -/
def State.storeWord (s : State) (port : Port) (a v : Nat) : State :=
  let v1 := s.guardWord a v
  let s1 := (Reg.fieldsAt a).foldl (fun x f => x.writeField (s.lockedAt a) port v1 f) s
  (s1.clearRecord a).tieLocks

/-- Every LOCK bit (R418, R513). -/
def lockFields : List Fld :=
  [Reg.AT_CTL_LOCK, Reg.TK_CTL_LOCK, Reg.MN_FAB_CTL_LOCK, Reg.SM_CTL_LOCK, Reg.BB_CTL_LOCK, Reg.JB_CTL_LOCK,
    Reg.JB_RCV_CTL_LOCK, Reg.PW_CTL_LOCK, Reg.BI_CTL_LOCK, Reg.SC_CTL_LOCK] ++
  (List.range 2).flatMap (fun m => [Reg.SP_CTL_LOCK m, Reg.MM_CTL_LOCK m, Reg.HV_CTL_LOCK m]) ++
  (List.range 36).map Reg.LK_CTL_LOCK

end Sys2Proof.Machine
end

