-- ==== Sys2Proof/Machine/SelfTest.lean ====
section
/-! DEFINITION. Self-test and repair (R469–R475): what a failing unit does to the device, the record of the first failure,
the row map built from the bad positions (R5–R7, R211), and the module's stop. -/

namespace Sys2Proof.Machine

/-- The die and the index that a UNIT names (R483). -/
def unitDie (u : Nat) : Nat := u % 16
def unitIndex (u : Nat) : Nat := u / 16

/-- The module stops (R475); the first cause stays. -/
def State.stopModule (s : State) (code die : Nat) : State :=
  if s.rd Reg.BI_STAT_STOP ≠ 0 then s else (s.wr Reg.BI_STAT_STOP code).wr Reg.BI_STAT_DIE die

/-- A position is bad (R211, R469).
(DEDUCED, log entry 56) -/
def State.markBad (s : State) (p : Nat) : State :=
  if s.test.bad.contains p then s else { s with test := { s.test with bad := s.test.bad ++ [p] } }

/-- Spare rows of a macro repair a memory failure, while soft repair is enabled (R472). -/
def State.softRepaired (s : State) (r : TestResult) : Bool := r.memFail && r.repaired && s.on Reg.BI_CTL_SOFTREP_EN

/-- A unit cannot be repaired (R469, R471, R472). -/
def State.unusable (s : State) (r : TestResult) : Bool := r.logicFail || (r.memFail && !s.softRepaired r)

/-- The failure registers take the first failure since VALID was cleared (R472, R483). -/
def State.noteFailure (s : State) (r : TestResult) : State :=
  if s.on Reg.BI_FAIL_UNIT_VALID || !(r.logicFail || r.memFail) then s
  else
    let s1 := ((((s.wr Reg.BI_FAIL_UNIT_UNIT r.unit.toNat).wr Reg.BI_FAIL_UNIT_LOGIC (b2n r.logicFail)).wr Reg.BI_FAIL_UNIT_REPAIRED
      (b2n (s.softRepaired r && !r.logicFail))).wr Reg.BI_FAIL_UNIT_VALID 1)
    let s2 := if r.memFail then
        ((s1.wr Reg.BI_FAIL_ADDR_ADDR (r.address / 8 * 8)).wr Reg.BI_FAIL_ADDR_MACRO r.macro_).wr Reg.BI_FAIL_BIT_BIT r.bit
      else s1
    if r.logicFail then (s2.wr Reg.BI_SIG_LO_VALUE r.signature.toNat).wr Reg.BI_SIG_HI_VALUE (r.signature.toNat / 2 ^ 32) else s2

/-- The effect of a failure that cannot be repaired (R469). -/
def State.failUnit (s : State) (r : TestResult) : State :=
  let d := unitDie r.unit.toNat
  let p := d * 1584 + unitIndex r.unit.toNat
  match r.kind with
  | .tile => s.markBad p
  | .router =>
    let s1 := s.markBad p
    { s1 with fab := { s1.fab with routerFail := (p / 33) :: s1.fab.routerFail } }
  | .paths row => (List.range 33).foldl (fun s c => s.markBad (d * 1584 + row.val * 33 + c)) s
  | .mUnit => s.stopModule 4 d
  | .xLink n => s.wr (Reg.LK_STAT_STATE n.val) lkFailed
  | .xWindow => s.stopModule 4 d
  | .core => s.stopModule 5 d

/-- The result of one unit's test (R469–R472).
(DEDUCED, log entry 56) -/
def State.takeResult (s : State) (r : TestResult) : State :=
  let s1 := s.noteFailure r
  let s2 := if s1.softRepaired r then
      { s1.bump Reg.BI_REPAIR_SPARES r.spares with test := { s1.test with softRows := r.unit.toNat :: s1.test.softRows } }
    else s1
  if s2.unusable r then (s2.bump Reg.BI_REPAIR_UNUSABLE 1).failUnit r else s2

/-- The row word of a usable row: with its spare for a bad column below 32 (R211). -/
def State.rowFor (s : State) (d r : Nat) : Nat := match (s.badCols d r).head? with
  | some b => if b < 32 then 1 + 4 * b else 0
  | none => 0

/-- The rows of a die that are enabled: every usable row, or the 44 lowest (R6, R211). -/
def State.rowsToEnable (s : State) (d : Nat) : List Nat :=
  let l := (List.range 48).filter (s.rowUsable d)
  if s.rowsWanted = 44 then l.take 44 else l

/-- A die's row map as self-test builds it (R475). -/
def State.buildDie (s : State) (d : Nat) : State :=
  let on := s.rowsToEnable d
  let s1 := (List.range 48).foldl (fun x r => x.setRow d r (if on.contains r then s.rowFor d r else 2)) s
  { s1 with fab := { s1.fab with built := d :: s1.fab.built } }

/-- A die can enable the rows that its grade calls for (R7). -/
def State.dieOk (s : State) (d : Nat) : Bool := (s.rowsToEnable d).length == s.rowsWanted

/-- The row maps of all dies, and the stop of a module that cannot enable its rows (R7, R475).
(DEDUCED, log entry 56) -/
def State.buildRows (s : State) : State :=
  let s1 := (List.range 4).foldl (fun x d => x.buildDie d) s
  match (List.range 4).find? (fun d => !s.dieOk d) with
  | some d => s1.stopModule 1 d
  | none => s1

/-- Stage 4 of a boot (R469–R475): results, the bad-position record, and the row map.
(DESIGN CHOICE, log entry 6) -/
def State.selfTest (s : State) (env : BootEnv) : State :=
  let s1 := match env.noSig with
    | some d => s.stopModule 6 d.val
    | none => s
  let s2 := env.tests.foldl State.takeResult s1
  let s3 := s2.test.nvm.foldl State.markBad s2
  let s4 := match env.edge with
    | some d => s3.stopModule 2 d.val
    | none => s3
  s4.buildRows.wr Reg.ID_MOD_GRADE_NOW (b2n (s4.rowsWanted == 44))

end Sys2Proof.Machine
end

