-- ==== Sys2Proof/Machine/Signed.lean ====
section
/-! DEFINITION. Signed objects and the checks that admit one (R486, R487). -/

namespace Sys2Proof.Machine

/-- A little-endian number in a run of bytes. -/
def leAt (l : List Byte) (i n : Nat) : Nat := leNat ((l.drop i).take n)

/-- Bytes of a range are all zero. -/
def zeroAt (l : List Byte) (i n : Nat) : Bool := ((l.drop i).take n).all (fun b => b == 0)

/-- The fields of an object header (R486). -/
def hdType (h : List Byte) : Nat := leAt h 4 1
def hdSlot (h : List Byte) : Nat := leAt h 5 1
def hdSvn (h : List Byte) : Nat := leAt h 6 2
def hdPlen (h : List Byte) : Nat := leAt h 8 4
def hdFlags (h : List Byte) : Nat := leAt h 12 1

/-- What a header must hold whatever its type: its size, MAGIC, the payload length and the zero fields (R486, R487). -/
def headShape (h payload : List Byte) (type : Nat) : Bool :=
  h.length == 64 && leAt h 0 4 == 0x435A534F && hdType h == type && hdPlen h == payload.length && decide (hdFlags h ≤ 1) &&
    zeroAt h 13 3 && zeroAt h 32 32

/-- A root slot is in use: one of the four that is not revoked (R487, R488). -/
def State.slotLive (s : State) (k : Nat) : Bool := decide (k < 4) && !hasBit s.sec.revoked k

def certBytes (c : SignerCert) : List Byte := c.head ++ c.payload ++ c.sigE ++ c.sigL

/-- A digest verifies under an ECDSA key and an LMS key (R486). -/
def bothVerify (keyE keyL d sigE sigL : List Byte) : Bool := Config.ecdsaVerify keyE d sigE && Config.lmsVerify keyL d sigL

/-- An embedded certificate is accepted for a slot (R486, R487). -/
def State.certOk (s : State) (c : SignerCert) (slot : Nat) : Bool :=
  headShape c.head c.payload 5 && c.payload.length == 156 && hdFlags c.head == 0 && hdSvn c.head == 0 && zeroAt c.head 16 16 &&
    zeroAt c.payload 154 2 && hdSlot c.head == slot && s.slotLive slot &&
    bothVerify (Config.rootKey (2 * slot)) (Config.rootKey (2 * slot + 1)) (Config.sha384 (c.head ++ c.payload)) c.sigE c.sigL

/-- The digest D of an object (R486). -/
def objDigest (o : SignedObj) : List Byte :=
  Config.sha384 (o.head ++ o.payload ++ (match o.cert with
    | some c => certBytes c
    | none => []))

/-- The words of `ID_DIE_POS` for a die (R503): its wafer, column, row, type and stepping. -/
def State.diePos (s : State) (d : Nat) : Nat :=
  let f := nth s.sec.dies d {}
  let type := if d < 4 then 0 else if d < 6 then 1 else 2
  f.wafer % 32 + 2 ^ 5 * (f.x % 256) + 2 ^ 13 * (f.y % 256) + 2 ^ 21 * type + 2 ^ 23 * (f.step % 16)

/-- The device's own TARGET (R486): X0's `ID_DIE_LOT` and `ID_DIE_POS`, and the module serial. -/
def State.ownTarget (s : State) : List Byte :=
  natLe (nth s.sec.dies 6 {}).lot 4 ++ natLe (s.diePos 6) 4 ++ natLe s.sec.serial 8

/-- The signatures of an object verify (R487): under its certificate's keys where it carries one that permits its type, else
under the root keys of its slot. -/
def State.sigsOk (s : State) (o : SignedObj) (type : Nat) : Bool :=
  let slot := hdSlot o.head
  match o.cert with
  | some c =>
    hdFlags o.head == 1 && s.certOk c slot && hasBit (leAt c.payload 153 1) type &&
      bothVerify (c.payload.take 97) ((c.payload.drop 97).take 56) (objDigest o) o.sigE o.sigL
  | none =>
    hdFlags o.head == 0 && bothVerify (Config.rootKey (2 * slot)) (Config.rootKey (2 * slot + 1)) (objDigest o) o.sigE o.sigL

/-- The security version is admissible (R487): at least the fused counter for types 1 and 2, and 0 for the others. -/
def State.svnOk (s : State) (o : SignedObj) (type : Nat) : Bool :=
  let v := hdSvn o.head
  if type = 1 then decide (s.sec.fwSvn ≤ v ∧ v ≤ 64) else if type = 2 then decide (s.sec.cfgSvn ≤ v ∧ v ≤ 64) else v == 0

/-- An object is accepted (R487).
(DESIGN CHOICE, log entry 12) -/
def State.accepts (s : State) (o : SignedObj) (type : Nat) : Bool :=
  headShape o.head o.payload type && s.slotLive (hdSlot o.head) &&
    (if type = 4 then (o.head.drop 16).take 16 == s.ownTarget else zeroAt o.head 16 16) && s.svnOk o type && s.sigsOk o type

end Sys2Proof.Machine
end

