-- ==== Sys2Proof/Machine/Boot.lean ====
section
/-! DEFINITION. The boot (R417, R418, R489–R491, R496), stage by stage up to ISOLATED, and the commands that begin with a boot:
the bulk charge and the warm resets. -/

namespace Sys2Proof.Machine

/-- The boot stops in a stage (R417): `BOOT_ERR` names the stage and the cause.
(DEDUCED, log entry 54) -/
def State.bootStop (s : State) (stage cause : Nat) : State :=
  ((s.wr Reg.FW_STAT_STAGE stage).wr Reg.FW_STAT_BOOT_ERR (16 * stage + cause)).logRec 1 0 (16 * stage + cause)

/-- `SC_FUSE` (R502). -/
def State.fuseWord (s : State) : Nat := s.sec.fwSvn + 2 ^ 7 * s.sec.cfgSvn + 2 ^ 14 * s.sec.revoked

/-- The next HSS index is taken up from the journal, or restored to a new window (R496). -/
def State.restoreLms (s : State) : State :=
  match s.sec.journal with
  | some i =>
    if i / 1024 + 1 = s.sec.mark then { s with sec := { s.sec with lmsIdx := i + 1 } }
    else { s.bump Reg.SC_LMS_MARK_RESTORES 1 with sec := { s.sec with lmsIdx := s.sec.mark * 1024 } }
  | none => { s.bump Reg.SC_LMS_MARK_RESTORES 1 with sec := { s.sec with lmsIdx := s.sec.mark * 1024 } }

/-- NVM contents that were programmed from outside (R418, R489, R496).
(DESIGN CHOICE, log entry 6) -/
def State.program (s : State) (f : Flash) : State :=
  { s with sec := { s.sec with images := f.images.toList, configs := f.configs.toList, ident := f.ident, journal := f.journal } }

/-- Stage 1 and the start of the chain (R417, R489, R490, R496).
(DEDUCED, log entry 54) -/
def State.bootRom (s : State) (env : BootEnv) : State :=
  let s1 := match env.flash with
    | some f => s.program f
    | none => s
  let s2 := State.relock { s1 with sec := { s1.sec with measurements := [] } }
  (s2.extend 1 (Config.romVersion ++ natLe s2.sec.revoked 1 ++ natLe s2.fuseWord 4 ++ natLe (b2n s2.sec.gradeB) 1)).restoreLms

/-- The image that runs: A, or B if A is refused (R489). -/
def State.pickImage (s : State) : Option (Nat × SignedObj) :=
  (List.range 2).findSome? (fun k => match nth s.sec.images k none with
    | some o => if s.accepts o 1 then some (k, o) else none
    | none => none)

/-- The configuration copy in use: the valid copy with the higher generation (R418).
(DESIGN CHOICE, log entry 12) -/
def State.pickConfig (s : State) : Option (Nat × SignedObj × ConfigRec) :=
  (List.range 2).foldl (fun best k => match nth s.sec.configs k none with
    | some o => (match o.cfg with
      | some c =>
        if s.accepts o 2 then
          (match best with
          | some (j, p, b) => if b.gen < c.gen then some (k, o, c) else some (j, p, b)
          | none => some (k, o, c))
        else best
      | none => best)
    | none => best) none

/-- The blocks that REGINIT may write (R418). -/
def regInitOk (a : Nat) : Bool :=
  [0x00, 0x01, 0x04, 0x05, 0x06, 0x10, 0x11, 0x13, 0x18, 0x19, 0x1B, 0x30, 0x31].contains (a / 0x10000) ||
    decide ((0x200000 ≤ a ∧ a < 0x224000) ∨ (0x200C0 ≤ a ∧ a < 0x200D0) ∨ (0x20100 ≤ a ∧ a < 0x20130))

/-- The entry of a link in the map (R344, R418). -/
def State.mapLink (s : State) (n : Nat) (c : LinkCfg) : State :=
  let s1 := ((s.wr (Reg.LK_CTL_EN n) (b2n c.en)).wr (Reg.LK_MAP_PEER_DEV n) c.peerDev.toNat).wr (Reg.LK_MAP_PEER_LINK n) c.peerLink.val
  ((s1.wr (Reg.LK_MAP_LEVEL n) c.level.val).wr (Reg.LK_MAP_PORT n) c.port.val).modLink n (fun l => { l with ladj := c.ladj })

/-- The watchdog limit that the WDOG section gives a core (R420): 1 to 1,000 ms, by default 100 ms. The spec does not say what
another value of the section does: it is a free value.
(DESIGN CHOICE, log entry 13) -/
def State.wdogLimit (s : State) (c : ConfigRec) (k : Nat) : Nat :=
  let w := nth c.wdog k 100
  if 1 ≤ w ∧ w ≤ 1000 then w else Config.freeValue (s.fresh + k)

/-- The ROLE, LINKMAP and WDOG sections (R47, R344, R418, R420).
(DESIGN CHOICE, log entry 13) -/
def State.configureLinks (s : State) (c : ConfigRec) : State :=
  let cores := s.host.cores.zipIdx.map (fun (e : CoreSt × Nat) => { e.1 with limit := s.wdogLimit c e.2 })
  let s1 : State := { s with fresh := s.fresh + 20, host := { s.host with cfg := some c, cores := cores } }
  let s2 := c.links.zipIdx.foldl (fun (s : State) (e : LinkCfg × Nat) => if e.2 < 36 then s.mapLink e.2 e.1 else s) s1
  s2.wr Reg.AT_CTL_ROLE c.role.val

/-- The POWER section, and the values of `BI_CTL` and `SC_CTL` (R448, R464, R483, R502). The allowances of grade B hold for a grade
A module in graded mode, too (R447). -/
def State.configurePower (s : State) (c : ConfigRec) : State :=
  let s1 := s.storeWord .fw 0x380000 (c.pwCtl.toNat % 2 ^ 31)
  let s2 := s1.storeWord .fw 0x380004 c.pwLimit.toNat
  let s3 := s2.storeWord .fw 0x380008 c.pwAllow.toNat
  let s4 := s3.storeWord .fw 0x38000C c.pwTherm.toNat
  let s5 := if s4.rowsWanted = 44 then s4.wr Reg.PW_ALLOW_C (min 384 (s4.rd Reg.PW_ALLOW_C)) else s4
  (s5.storeWord .fw 0x390000 c.biCtl.toNat).storeWord .fw 0x3A0000 c.scCtl.toNat

/-- What the sections of the configuration record set; then every LOCK bit is set (R418). -/
def State.configure (s : State) (c : ConfigRec) : State :=
  let s1 := (s.configureLinks c).configurePower c
  let s2 := c.regInit.foldl (fun (s : State) (e : Nat × Word32) => s.storeWord .fw e.1 e.2.toNat) s1
  lockFields.foldl (fun (s : State) (f : Fld) => s.flag f) s2

/-- The identity object is verified (R489). -/
def State.checkIdentity (s : State) : State :=
  let ok := match s.sec.ident with
    | some o => s.accepts o 3 && Config.certKey (o.payload.take (o.payload.length - 60)) == Config.idkPublic
    | none => false
  s.wr Reg.SC_STAT_IDCERT_OK (b2n ok)

/-- Stage 2 (R489): the image in use, or none.
(DESIGN CHOICE, log entry 6; DEDUCED, log entry 54) -/
def State.bootImage (s : State) : Option State :=
  (s.pickImage).map (fun e =>
    let s1 := (((s.wr Reg.FW_STAT_STAGE 2).wr Reg.FW_STAT_IMAGE e.1).wr Reg.SC_STAT_SLOT (hdSlot e.2.head)).extend 2 (objDigest e.2)
    { s1 with sec := { s1.sec with runSvn := hdSvn e.2.head } })

/-- Stage 3 (R418, R489, R491): the configuration copy in use is applied; none where there is no valid one, or where it breaks
the rules of R418.
(DEDUCED, log entry 54) -/
def State.bootConfig (s : State) : Option State :=
  match s.pickConfig with
  | some (k, o, c) =>
    if c.sound && c.regInit.all (fun e => regInitOk e.1) then
      let s1 := (((s.wr Reg.FW_STAT_STAGE 3).wr Reg.FW_STAT_CFG_COPY k).wr Reg.SC_STAT_CFG_OK 1).extend 3 (objDigest o)
      let s2 := { s1 with sec := { s1.sec with runCfgSvn := hdSvn o.head } }
      let pend := decide (s2.sec.fwSvn < s2.sec.runSvn ∨ s2.sec.cfgSvn < s2.sec.runCfgSvn)
      some (((s2.wr Reg.SC_STAT_SVN_PEND (b2n pend)).configure c).checkIdentity)
    else none
  | none => none

/-- The memory devices that trained (R295). -/
def State.trainMemory (s : State) (bad : List (Fin 32)) : State :=
  (List.range 2).foldl (fun s m =>
    let ok := (List.range 16).foldl (fun x k => if bad.any (fun g => g.val == 16 * m + k) then x else setBit x k) 0
    (s.wr (Reg.MM_STAT_DEV_OK m) ok).wr (Reg.MM_STAT_STATE m) (if ok = 0xFFFF then 2 else 3)) s

/-- The cause record of the last shutdown is logged (R446), once there is memory to take the record (R437).
(DESIGN CHOICE, log entry 84) -/
def State.logCause (s : State) : State := match s.power.cause with
  | c :: _ => s.logRec 3 0 c
  | [] => s

/-- Stages 4 to 7 (R417): self-test, memory, links; AT enters ISOLATED.
(DEDUCED, log entry 54) -/
def State.bootTests (s : State) (env : BootEnv) : State :=
  let s1 := (s.wr Reg.FW_STAT_STAGE 4).selfTest env
  if s1.rd Reg.BI_STAT_STOP ≠ 0 then s1.bootStop 4 (s1.rd Reg.BI_STAT_STOP)
  else
    let s2 := ((s1.wr Reg.FW_STAT_STAGE 5).trainMemory env.gddr).logCause
    match env.gddr.head? with
    | some g => (s2.stopModule 3 (4 + g.val / 16)).bootStop 5 3
    | none =>
      let s3 := (s2.wr Reg.FW_STAT_STAGE 6).wr Reg.AT_STAT_STATE tsIsolated
      ((List.range 36).foldl State.tryTrain s3).wr Reg.FW_STAT_STAGE 7

/-- The boot (R417): a stage that fails stops it. The cause record of the last shutdown is read (R446).
(DEDUCED, log entry 54) -/
def State.boot (s : State) (env : BootEnv) : State :=
  let s1 := s.bootRom env
  match s1.bootImage with
  | none =>
    let s2 := s1.bootStop 2 1
    { s2 with host := { s2.host with cores := s2.host.cores.map (fun c => { c with state := 2 }) } }
  | some s2 =>
    let s3 := s2.wr Reg.PW_EVT_PREV (s2.power.cause.head?.getD 0)
    match s3.bootConfig with
    | none => s3.bootStop 3 1
    | some s4 => s4.bootTests env

/-- BULK_CHARGED (R444, R417): the regulators start, and the module boots. -/
def execBulkCharged (boot : BootEnv) (s : State) : Res :=
  .next (
    if s.power.closed ∧ ¬ s.power.bulk then State.boot { s with power := { s.power with bulk := true } } boot else s)

/-- A W reset, and the boot that follows it (R465, R466). -/
def State.warm (s : State) (cause : Nat) (env : BootEnv) : State := (s.resetW cause).boot env

/-- A W reset is requested (R453, R465): while a thermal trip is in force it is held.
(DEDUCED, log entry 55) -/
def State.requestWarm (s : State) (cause : Nat) (env : BootEnv) : State :=
  if s.power.trip then { s with power := { s.power with heldW := true } }
  else if s.power.bulk then s.warm cause env
  else s

/-- WARM_RESET (R465, R483): a write of `BI_RST`; without WARM and its key it is ignored. -/
def execWarmReset (value : Word32) (boot : BootEnv) (s : State) : Res :=
  .next (if Reg.BI_RST_WARM.pick value.toNat = 1 ∧ Reg.BI_RST_KEY.pick value.toNat = 0x5754 then s.requestWarm 1 boot else s)

/-- PLDM_RESET (R465). -/
def execPldmReset (boot : BootEnv) (s : State) : Res := .next (s.requestWarm 2 boot)

/-- TRIP_RELEASE (R453, R466, R482): once every reading is 10 °C below its threshold the trip is released by one W reset. -/
def execTripRelease (temps : TempReadings) (boot : BootEnv) (s : State) : Res :=
  .next (if s.power.trip ∧ s.safeHeat temps then s.warm 3 boot else s)

end Sys2Proof.Machine
end

