-- ==== Sys2Proof/Machine/Vector.lean ====
section
/-! DEFINITION. The vector and the convert instructions of a tile (R139–R149, R153, R155). -/

namespace Sys2Proof.Machine

/-- One lane of a vector operation (R148, R155). -/
def vecLane (iw : Word64) (op : VecOp) (l : Nat) (a b c : Word32) : Word32 :=
  let rd := fun (w : Word32) => if op.her then fp32Ftz w.toNat else fp32 w.toNat
  let out := fun (x : Num) => BitVec.ofNat 32 (if op.her then rneFtz32 x else rne32 x)
  match op.kind with
  | .add => out ((rd a).add (rd b))
  | .mul => out ((rd a).mul (rd b))
  | .fma _ => out (((rd a).mul (rd b)).add (rd c))
  | .min => out (numMin (rd a) (rd b))
  | .max => out (numMax (rd a) (rd b))
  | .cmp rel => Config.laneMask (numCmp rel (rd a) (rd b))
  | .other | .unlisted => Config.vectorOther (iwOp iw) (iwBits iw 49 0) l a b

/-- The third source register of a vector operation. -/
def vecThird : VecKind → Nat
  | .fma c => c.val
  | _ => 0

def bodyVector (iw : Word64) (op : VecOp) (s : State) (p : Nat) : Issued :=
  let t := s.tile p
  .done (s.setTile p (t.setLanes (iwD iw) ((List.range 32).map (fun l =>
    vecLane iw op l (t.lane (iwA iw) l) (t.lane (iwB iw) l) (t.lane (vecThird op.kind) l)))))

/-- VECTOR_OP (R87, R148, R153, R155): an opcode that is not listed, and a vector operation outside R148 under heritage semantics,
are ILLEGAL_OP.
(DESIGN CHOICE, log entry 9) -/
def execVectorOp (tile : TileId) (iw : Word64) (op : VecOp) (s : State) : Res :=
  issue tile iw (iwClass iw == 2) [32 + iwA iw, 32 + iwB iw, 32 + vecThird op.kind]
    (op.kind == .unlisted || (op.her && op.kind == .other)) (bodyVector iw op) s

/- ### Converts -/

/-- HER, FMT, RND, NSAT and TID of a convert (R139). -/
def cvHer (iw : Word64) : Bool := bitOf iw.toNat 34
def cvFmt (iw : Word64) : Nat := iwBits iw 33 30
def cvRnd (iw : Word64) : Nat := iwBits iw 29 28
def cvNsat (iw : Word64) : Bool := bitOf iw.toNat 27
def cvTid (iw : Word64) : Nat := iwBits iw 26 13

def rndOf : Nat → Rnd
  | 1 => .sr
  | 2 => .rz
  | _ => .rne

/-- The combinations of a convert's fields that are ILLEGAL_OP (R122, R139, R155).
(DEDUCED, log entry 27) -/
def illegalConvert (iw : Word64) : Bool :=
  let f := cvFmt iw
  f == 15 || cvRnd iw == 3 || iwBits iw 12 0 != 0 || (cvNsat iw && decide (3 < f)) ||
    (cvHer iw != fmtHeritage f) || (cvHer iw && (cvRnd iw != 0 || cvNsat iw)) || (fmtScaled f && iwA iw == 31)

/-- The bytes of 32 packed elements of a format. -/
def cvBytes (f : Nat) : Nat := 4 * fmtBits f

/-- The element address and the address of the scale entry of a convert (R139). -/
def Tile.cvElem (t : Tile) (iw : Word64) : Nat := (t.reg (iwA iw)).toNat
def Tile.cvScale (t : Tile) (iw : Word64) : Nat := (t.reg (iwA iw + 1)).toNat

/-- The alignment and range faults of a convert's scratchpad operands (R139, R101): for an unscaled format the whole
access is aligned to its size. -/
def Tile.cvFault (t : Tile) (iw : Word64) : Option (Nat × Nat) :=
  let f := cvFmt iw
  let a := t.cvElem iw
  if fmtScaled f then
    let b := t.cvScale iw
    if a % 8 ≠ 0 then some (fcAlign, a)
    else if b % fmtScaleBytes f ≠ 0 then some (fcAlign, b)
    else match rangeBad a (cvBytes f), rangeBad b (fmtScaleBytes f) with
      | some x, _ => some (fcRange, x)
      | none, some x => some (fcRange, x)
      | none, none => none
  else accessFault a (cvBytes f) (cvBytes f)

/-- The values that 32 element codes decode to, with their scale entry (R130, R131). -/
def widenLanes (f : Nat) (elems scale : List Byte) : List Word32 :=
  (List.range 32).map (fun i =>
    BitVec.ofNat 32 (rne32 (codeNum f (nth scale 0 0).toNat (subScale (nth scale 1 0).toNat i)
      (unpackElem (fmtBits f) elems i))))

/-- The job seed (R145). -/
def State.srSeed (s : State) : Word64 :=
  BitVec.ofNat 64 (s.rd Reg.MN_SR_SEED_LO_VALUE + 2 ^ 32 * s.rd Reg.MN_SR_SEED_HI_VALUE)

/-- The random bits of lane `l` of a convert (R139, R145). -/
def State.cvRandom (s : State) (t : Tile) (iw : Word64) (l : Nat) : Nat :=
  srBits s.srSeed (BitVec.ofNat 64 s.stepNo) (cvTid iw) (((t.reg (iwB iw)).toNat + l) % 2 ^ 48)

/-- What narrowing the 32 lanes of a register gives (R141–R144, R155). -/
def State.narrowLanes (s : State) (t : Tile) (iw : Word64) (ws : List Word32) : NarrowBlock :=
  let f := cvFmt iw
  let u := s.cvRandom t iw
  if cvHer iw then ⟨ws.map (fun w => narrowT5 f w.toNat), []⟩
  else if fmtScaled f then narrowBlock f (rndOf (cvRnd iw)) u (ws.map (fun w => fp32 w.toNat))
  else ⟨ws.zipIdx.map (fun p => narrowElem f (rndOf (cvRnd iw)) (u p.2) (cvNsat iw) (fp32 p.1.toNat)), []⟩

/-- The bytes of the elements of a narrowed block. -/
def NarrowBlock.bytes (b : NarrowBlock) (f : Nat) : List Byte := packElems (fmtBits f) (b.elems.map (fun e => e.code))

/-- Every value that a convert has written is counted by the armed monitors (R114, R149). -/
def Tile.countConvert (t : Tile) (f a : Nat) (b : NarrowBlock) : Tile :=
  b.elems.zipIdx.foldl (fun t p =>
    t.monitor (a + fmtBits f * p.2 / 8)
      (codeNum f (nth b.scale 0 0).toNat (subScale (nth b.scale 1 0).toNat p.2) p.1.code) p.1.sat p.1.nonfin) t

/-- Narrow and widen again within v registers (R139): register D takes the lanes of register A. -/
def bodyInReg (iw : Word64) (s : State) (p : Nat) : Issued :=
  let t := s.tile p
  let b := s.narrowLanes t iw (t.lanes (iwA iw))
  .done (s.setTile p (t.setLanes (iwD iw) (widenLanes (cvFmt iw) (b.bytes (cvFmt iw)) b.scale)))

def bodyWiden (iw : Word64) (s : State) (p : Nat) : Issued :=
  let t := s.tile p
  let f := cvFmt iw
  let a := t.cvElem iw
  match t.cvFault iw with
  | some x => .fault x.1 x.2
  | none =>
    let t1 := t.senseProgram a (cvBytes f)
    let t2 := if fmtScaled f then t1.senseProgram (t.cvScale iw) (fmtScaleBytes f) else t1
    match t2.poisonSeen a (cvBytes f) with
    | some e => .faultIn (s.setTile p t2) fcEcc (eccDetail e)
    | none =>
      let bad := if fmtScaled f then t2.poisonSeen (t.cvScale iw) (fmtScaleBytes f) else none
      match bad with
      | some e => .faultIn (s.setTile p t2) fcEcc (eccDetail e)
      | none =>
        let v := t2.seen (localAt s.now)
        let sc := if fmtScaled f then v.bytes (t.cvScale iw) (fmtScaleBytes f) else []
        .done (s.setTile p (t2.setLanes (iwD iw) (widenLanes f (v.bytes a (cvBytes f)) sc)))

/-- The registers that a convert reads (R139): the addresses in g[A] and, for a scaled format, the next one; g[B] in stochastic
rounding; and the lanes that it narrows. -/
def cvReads (iw : Word64) (cv : CvtArgs) (narrow : Bool) : List Nat :=
  (if cvRnd iw = 1 then [iwB iw] else []) ++
    (if cv.inReg then [32 + iwA iw]
    else iwA iw :: ((if fmtScaled (cvFmt iw) then [iwA iw + 1] else []) ++ (if narrow then [32 + iwD iw] else [])))

/-- CONVERT_WIDEN (R103, R109, R132, R139, R140): register D takes the 32 values at the address in g[A].
(DESIGN CHOICE, log entry 9; DEDUCED, log entry 27) -/
def execConvertWiden (tile : TileId) (iw : Word64) (cv : CvtArgs) (s : State) : Res :=
  issue tile iw (iwClass iw == 4) (cvReads iw cv false) (!cv.listed || illegalConvert iw)
    (if cv.inReg then bodyInReg iw else bodyWiden iw) s

/-- The effect of a narrowing convert to memory (R139, R141–R146).
(DEDUCED, log entry 27) -/
def bodyNarrow (iw : Word64) (s : State) (p : Nat) : Issued :=
  let t := s.tile p
  let f := cvFmt iw
  let a := t.cvElem iw
  match t.cvFault iw with
  | some x => .fault x.1 x.2
  | none =>
    let b := s.narrowLanes t iw (t.lanes (iwD iw))
    let t1 := t.wideStore s.now a (b.bytes f)
    let t2 := if fmtScaled f then t1.wideStore s.now (t.cvScale iw) b.scale else t1
    .done (s.setTile p (t2.countConvert f a b))

/-- CONVERT_NARROW (R139, R141–R146, R149, R155): the lanes of register D are written at the address in g[A].
(DESIGN CHOICE, log entry 9; DEDUCED, log entry 27) -/
def execConvertNarrow (tile : TileId) (iw : Word64) (cv : CvtArgs) (s : State) : Res :=
  issue tile iw (iwClass iw == 4) (cvReads iw cv true) (!cv.listed || illegalConvert iw)
    (if cv.inReg then bodyInReg iw else bodyNarrow iw) s

end Sys2Proof.Machine
end

