-- ==== Sys2Proof/Machine/HarvestUpdate.lean ====
section
/-! DEFINITION. UPDATE (R365–R371, R382): clipping, momentum, the blockwise preconditioner with its roots, the weights and the
compute copy, written through the alternate view and to the mirror. -/

namespace Sys2Proof.Machine

/- ### The schedule -/

/-- A schedule entry (R359). -/
structure SchedEnt where
  eta : Nat
  lam : Nat
  b1 : Nat
  b2 : Nat
  eps : Nat
  gmul : Nat
  due : Nat
deriving DecidableEq, Repr

def schedOf (ws : List Word64) : SchedEnt :=
  { eta := dBits ws 0 31 0, lam := dBits ws 0 63 32, b1 := dBits ws 1 31 0, b2 := dBits ws 1 63 32,
    eps := dBits ws 2 31 0, gmul := dBits ws 2 63 32, due := dBits ws 3 7 0 }

/-- The index of the entry of the running step (R359). -/
def State.schedIndex (s : State) (m : Nat) : Nat :=
  min (s.stepNo + s.rd (Reg.HV_SCHED_OFF_VALUE m)) (max 1 (s.rd (Reg.HV_SCHED_LEN_VALUE m)) - 1)

/- ### Blocks -/

/-- What an UPDATE knows of a block: its place and size, its gradient and momentum values, its weights, and its
preconditioner region as it was read. -/
structure BlockIn where
  r0 : Nat
  c0 : Nat
  br : Nat
  bc : Nat
  g : Mat
  m : Mat
  w : Mat
  hdr : Nat
  sides : List Mat
deriving DecidableEq, Repr

/-- What an UPDATE makes of a block: the weights, the header, the matrices, and whether it tried its roots and whether it
is in FALLBACK. -/
structure BlockOut where
  w : Mat
  hdr : Nat
  sides : List Mat
  tried : Bool
  fallback : Bool
deriving DecidableEq, Repr

/-- The elements of the br × br corner of a stored matrix are replaced; the rest stays as it was read. -/
def corner (bw n : Nat) (old new : Mat) : Mat :=
  mat bw bw (fun i j => if i < n ∧ j < n then new.get i j else old.get i j)

/-- The statistics of a side (R368): fma(β2, S, rne32(rne32(1 − β2) × gram)). -/
def statSide (b2 n : Nat) (old gram : Mat) : Mat :=
  mat n n (fun i j => fma32 b2 (old.get i j) (mul32 (oneMinus b2) (gram.get i j)))

/-- The sign of an FP32 value, with sign(0) = 0 (R368). -/
def sign32 (a : Nat) : Nat :=
  match fp32 a with
  | .nan => fmtFP32.nanCode
  | .inf n => if n then 0xBF800000 else one32
  | .fin n k _ => if k = 0 then 0 else if n then 0xBF800000 else one32

/-- The constants of an UPDATE: the schedule entry, the descriptor, the iteration limit and the tolerance. -/
structure UpdCtx where
  e : SchedEnt
  prec : Nat
  bw : Nat
  due : Bool
  decay : Bool
  iters : Nat
  tol : Nat
deriving DecidableEq, Repr

/-- A block of R368 and R369. The stored matrices are L, Lr, R, Rr for PREC 2, and L, Lr for PREC 1. -/
def blockUpdate (u : UpdCtx) (b : BlockIn) : BlockOut :=
  let l0 := nth b.sides 0 []
  let lr0 := nth b.sides 1 []
  let rr0 := nth b.sides 3 []
  let l := statSide u.e.b2 b.br l0 (gramRows b.br b.bc b.g)
  let r := statSide u.e.b2 b.bc (nth b.sides 2 []) (gramCols b.br b.bc b.g)
  let p := if u.prec = 2 then 4 else 2
  let tried := u.due && u.prec != 0
  let rootL := if tried then inverseRoot p b.br u.iters u.tol u.e.eps l else ([], true, 0)
  let rootR := if tried && u.prec == 2 then inverseRoot p b.bc u.iters u.tol u.e.eps r else ([], true, 0)
  let good := rootL.2.1 && rootR.2.1
  let lr := if tried && good then rootL.1 else lr0
  let rr := if tried && good && u.prec == 2 then rootR.1 else rr0
  let hdr := if tried then (if good then 0 else 1) + 4 * (max rootL.2.2 rootR.2.2) + (if good then 0 else 256) else b.hdr
  let fallback := u.prec != 0 && hdr % 4 == 1
  let d0 : Mat :=
    if u.prec = 2 then matMul b.br b.bc b.bc (matMul b.br b.br b.bc lr b.m) rr
    else if u.prec = 1 then matMul b.br b.br b.bc lr b.m
    else b.m
  let d1 : Mat := if fallback then b.m.map (fun row => row.map sign32) else d0
  let sd := sumSq d1.flatten
  let f := if (fp64 sd).isZero then 0 else thin32 (div64 (sqrt64 (sumSq b.m.flatten)) (sqrt64 sd))
  let lam := if u.decay then u.e.lam else 0
  let w := mat b.br b.bc (fun i j =>
    let old := b.w.get i j
    fma32 (neg32 u.e.eta) (fma32 lam old (mul32 (d1.get i j) f)) old)
  let sides :=
    if u.prec = 2 then
      [corner u.bw b.br l0 l, corner u.bw b.br lr0 lr, corner u.bw b.bc (nth b.sides 2 []) r, corner u.bw b.bc rr0 rr]
    else if u.prec = 1 then [corner u.bw b.br l0 l, corner u.bw b.br lr0 lr]
    else []
  ⟨w, hdr, sides, tried, fallback⟩

/-- A stored preconditioner block: the header word and the matrices by rows (R366). -/
def parseBlock (bw sides : Nat) (bs : List Byte) : Nat × List Mat :=
  let ws := leWords32 (bs.drop 256)
  (leNat (bs.take 8), (List.range sides).map (fun k => mat bw bw (fun i j => nth ws (k * bw * bw + i * bw + j) 0)))

def savedBytes (b : BlockOut) : List Byte :=
  natLe b.hdr 256 ++ b.sides.flatMap (fun m => m.flatMap (fun row => row.flatMap (fun x => natLe x 4)))

/- ### Momentum and compute copy -/

/-- The random bits of an element (R145). -/
def State.srAt (s : State) (t idx : Nat) : Nat := srBits s.srSeed (BitVec.ofNat 64 s.stepNo) t (idx % 2 ^ 48)

/-- The bytes of a momentum element (R368). -/
def State.momBytes (s : State) (t : Nat) (d : List Word64) (x v : Nat) : List Byte :=
  if tdMtype d = 1 then
    natLe (narrowElem 0 .sr (s.srAt t ((tdIdx0 d + x) ^^^ 2 ^ 47)) false (fp32 v)).code 2
  else natLe v 4

/-- The compute copy of the new weights (R368): BF16 elements, or MXFP8 elements followed by their scales. -/
def State.copyBytes (s : State) (t : Nat) (d : List Word64) (w : List Nat) : List Byte :=
  let r : Rnd := if tdCrnd d then .sr else .rne
  if tdCfmt d = 1 then
    w.zipIdx.flatMap (fun p => natLe (narrowElem 0 r (s.srAt t (tdIdx0 d + p.2)) false (fp32 p.1)).code 2)
  else
    let blocks := (List.range (tdElems d / 32)).map (fun k =>
      narrowBlock 6 r (fun i => s.srAt t (tdIdx0 d + 32 * k + i)) ((List.range 32).map (fun i => fp32 (nth w (32 * k + i) 0))))
    let el := blocks.flatMap (fun b => b.elems.flatMap (fun e => natLe e.code 1))
    el ++ List.replicate (ceilDiv (tdElems d) 256 * 256 - tdElems d) 0 ++ blocks.flatMap (fun b => b.scale)

/- ### UPDATE -/

/-- The clip factor κ in FP64 (R368, R382): N not finite gives 0. -/
def clipFactor (tau gs n : Nat) : Nat :=
  if (fp32 tau).isZero then one64
  else if !finite64 n then 0
  else rne64 (numMin (fp64 one64) (fp64 (div64 (wide64 tau) (mul64 gs (sqrt64 n)))))

/-- The parts of a region of elements that a block covers. -/
def cutBlock (cols r0 c0 br bc : Nat) (l : List Nat) : Mat := mat br bc (fun i j => nth l ((r0 + i) * cols + c0 + j) 0)

/-- UPDATE of a shard that is not empty, with its sums, its schedule entry and the arrays it has read.
(DEDUCED, log entry 47) -/
def State.applyUpdate (s : State) (env : MemEnv) (m t : Nat) (d : List Word64) (e : SchedEnt) (n : Nat) (g w mo : List Nat)
    (pre : List (Nat × List Mat)) : State :=
  let cols := tdCols d
  let bw := tdBw d
  let p := max 1 (s.rd (Reg.HV_DPR_P m))
  let gs := div64 (wide64 e.gmul) (nat64 (s.rd Reg.TK_STAT_MB_COUNT * p))
  let kap := clipFactor (tdTau d) gs n
  let c := thin32 (mul64 gs kap)
  let gn := g.map (fun x => mul32 x c)
  let mn := (mo.zip gn).map (fun x => fma32 e.b1 x.1 (mul32 (oneMinus e.b1) x.2))
  let u : UpdCtx := { e := e, prec := tdPrec d, bw := bw, due := hasBit e.due (tdCad d), decay := tdDecay d,
                      iters := max 1 (s.rd (Reg.HV_CTL_ITERS m)), tol := clamp 1 40 (s.rd (Reg.HV_CTL_TOL m)) }
  let outs := (List.range (tdBlockRows d * tdBlockCols d)).map (fun k =>
    let r0 := k / tdBlockCols d * bw
    let c0 := k % tdBlockCols d * bw
    let br := min bw (tdRows d - r0)
    let bc := min bw (cols - c0)
    let q := nth pre k (0, [])
    blockUpdate u { r0 := r0, c0 := c0, br := br, bc := bc, g := cutBlock cols r0 c0 br bc gn, m := cutBlock cols r0 c0 br bc mn,
                    w := cutBlock cols r0 c0 br bc w, hdr := q.1, sides := q.2 })
  let wn := (List.range (tdElems d)).map (fun x =>
    let i := x / cols
    let j := x % cols
    match outs[i / bw * tdBlockCols d + j / bw]? with
    | some b => b.w.get (i % bw) (j % bw)
    | none => 0)
  let s1 := s.writeAlt env m d (tdM d) (mn.zipIdx.flatMap (fun x => s.momBytes t d x.2 x.1))
  let s2 := if tdPrec d = 0 then s1 else s1.writeAlt env m d (tdS d) (outs.flatMap savedBytes)
  let s3 := s2.writeAlt env m d (tdW d) (wn.flatMap (fun x => natLe x 4))
  let s4 := if tdCfmt d = 0 then s3 else s3.writeAlt env m d (tdC d) (s.copyBytes t d wn)
  let clipped := !(fp32 (tdTau d)).isZero && !finite64 n
  s4.modHv m (fun h => { h.touch t with
    kappa := smPut h.kappa t (BitVec.ofNat 32 (thin32 kap)),
    fallback := smPut h.fallback t (outs.filter (fun b => b.fallback)).length,
    cntGood := h.cntGood + (outs.filter (fun b => b.tried && !b.fallback)).length,
    cntFail := h.cntFail + (outs.filter (fun b => b.tried && b.fallback)).length,
    cntNorm := h.cntNorm + b2n clipped,
    cntW := h.cntW + (wn.filter (fun x => !finite32 x)).length })

/-- One more array is read. -/
def readMore (env : MemEnv) (m : Nat) (x : List (Except Nat (List Byte)) × State) (a k : Nat) :
    List (Except Nat (List Byte)) × State :=
  let r := x.2.hvRead env m a k
  (x.1 ++ [r.1], r.2)

/-- What an UPDATE reads: the schedule entry, the gradient, the weights, the momentum and the preconditioner region.
(DEDUCED, log entry 47) -/
def State.updateReads (s : State) (env : MemEnv) (m : Nat) (d : List Word64) : List (Except Nat (List Byte)) × State :=
  let n := tdElems d
  let x0 := readMore env m ([], s) (s.hvSched m + 32 * s.schedIndex m) 32
  let x1 := readMore env m x0 (tdG d) (4 * n)
  let x2 := readMore env m x1 (tdW d) (4 * n)
  let x3 := readMore env m x2 (tdM d) (if tdMtype d = 1 then 2 * n else 4 * n)
  if tdPrec d = 0 then x3 else readMore env m x3 (tdS d) (tdBlockRows d * tdBlockCols d * tdBlockBytes d)

/-- The first error among what was read.
(DEDUCED, log entry 47) -/
def firstError (l : List (Except Nat (List Byte))) : Option Nat :=
  l.findSome? (fun x => match x with
    | .error e => some e
    | .ok _ => none)

def okBytes (l : List (Except Nat (List Byte))) (i : Nat) : List Byte :=
  match nth l i (.ok []) with
  | .ok b => b
  | .error _ => []

/-- The errors that an UPDATE finds before it reads (R357, R365, R381). -/
def State.updateError (s : State) (m t : Nat) (d : List Word64) : Option Nat :=
  let h := s.hv m
  let clips := !(fp32 (tdTau d)).isZero
  let tapped := (smFind h.taps t).isSome
  if tdCfmt d = 2 ∧ tdCols d % 32 ≠ 0 then some 6
  else if !s.tdAddrOk m t d then some 2
  else if clips ∧ !h.normed then some 1
  else if clips ∧ h.normAb then some 4
  else if (clips ∨ tapped) ∧ smGet h.tapCount t 0 ≠ 4 * tdElems d then some 3
  else none

/-- An UPDATE goes on with what it has read (R357, R365, R371). The sum N of a TID that the norm list does not name is a free
value.
(DESIGN CHOICE, log entry 13; DEDUCED, log entry 47) -/
def State.finishUpdate (s : State) (env : MemEnv) (k t : Nat) (d : List Word64) (l : List (Except Nat (List Byte))) : State :=
  match firstError l with
  | some e => s.harvestError k e t
  | none =>
    let sw := leWords (okBytes l 0)
    let pre := (chunksOf (tdBlockBytes d) (tdBlockRows d * tdBlockCols d) (okBytes l 4)).map (parseBlock (tdBw d) (tdSides d))
    let mo := if tdMtype d = 1 then (chunksOf 2 (tdElems d) (okBytes l 3)).map (fun b => leNat b * 65536)
      else leWords32 (okBytes l 3)
    let known := (smFind (s.hv k).nsum t).map (fun w => w.toNat)
    let dr := s.draw
    let n := known.getD (dr.1 % 2 ^ 64)
    let s1 := if known.isNone && !(fp32 (tdTau d)).isZero then dr.2 else s
    if dBits sw 3 63 8 ≠ 0 then s1.harvestError k 1 t
    else
      let s2 := s1.applyUpdate env k t d (schedOf sw) n (leWords32 (okBytes l 1)) (leWords32 (okBytes l 2)) mo pre
      if tdMirror d && !env.extOk then s2.harvestError k 5 t else s2.nextCmd k

/-- UPDATE of a shard whose descriptor is read: a zero-length one is only touched (R362). -/
def State.doUpdate (s : State) (env : MemEnv) (k t : Nat) (d : List Word64) : State :=
  if tdFrost d then s.skipFrozen k
  else match s.updateError k t d with
    | some e => s.harvestError k e t
    | none =>
      if tdElems d = 0 then (s.modHv k (fun h => h.touch t)).nextCmd k
      else (s.updateReads env k d).2.finishUpdate env k t d (s.updateReads env k d).1

/-- UPDATE (R362, R365–R371). -/
def execUpdate (m : Fin 2) (env : MemEnv) (s : State) : Res :=
  harvestRow m.val opUpdate env
    (fun s c => s.readDesc env m.val (cTid c) (fun s d => s.doUpdate env m.val (cTid c) d)) s

end Sys2Proof.Machine
end

