-- ==== Sys2Proof/Machine/HostIf.lean ====
section
/-! DEFINITION. BAR4 with its attach area and job slots (R421, R422, R426), attach and detach (R423), driver loss (R424, R425),
and the status beat (R436). -/

namespace Sys2Proof.Machine

/- ### BAR4 -/

/-- A stored word of BAR4. -/
def State.b4 (s : State) (o : Nat) : Nat := (smGet s.host.bar4 o (0 : Word32)).toNat

def State.setB4 (s : State) (o w : Nat) : State :=
  { s with host := { s.host with bar4 := smSet s.host.bar4 o (BitVec.ofNat 32 w) 0 } }

/-- The offsets of the attach area (R422). -/
def b4DrvVer : Nat := 0x000
def b4DrvFeat : Nat := 0x004
def b4Attach : Nat := 0x014
def b4BeatAddr : Nat := 0x018
def b4BeatUs : Nat := 0x020
def b4Heartbeat : Nat := 0x024
def b4FwVer : Nat := 0x080
def b4FwFeat : Nat := 0x084
def b4AgreedVer : Nat := 0x098
def b4AgreedFeat : Nat := 0x09C
def b4DevId : Nat := 0x0AC

/-- The interface version 1.0, and the features that the firmware supports: bits 0 to 6 (R423). -/
def fwVersion : Nat := 0x00010000
def fwFeatures : Nat := 0x7F

/-- The start of job slot k, and of its command i (R421, R426). -/
def slotBase (k : Nat) : Nat := 0x10000 + 0x1000 * k
def cmdBase (k i : Nat) : Nat := slotBase k + 64 + 64 * i

/-- The words of BAR4 that the driver writes: the driver words, and in a slot the JOBID, the half-word HEAD and the commands
(R422, R426). -/
def driverWord (o : Nat) : Bool :=
  decide (o < 0x028) || (decide (0x10000 ≤ o ∧ o < 0x20000) &&
    (decide (o % 0x1000 < 0x00C) || decide (64 ≤ o % 0x1000)))

/-- The job slot of an offset holds the current job, a queued LOAD, an ended job, or is free (R426).
(DEDUCED, log entry 58) -/
def State.slotState (s : State) (k : Nat) : Nat :=
  if s.host.queued.contains k then 1
  else if s.rd Reg.JB_STAT_SLOT = k then
    (if s.jobState = jbEnded then 3 else if 1 ≤ s.jobState ∧ s.jobState ≤ 4 then 2 else 0)
  else 0

/-- A word of BAR4 as it reads (R421, R422, R426). -/
def State.readB4 (s : State) (o : Nat) : Nat :=
  if o = b4FwVer then fwVersion
  else if o = b4FwFeat then fwFeatures
  else if o = b4DevId then s.devId.toNat + 2 ^ 13 * s.rd Reg.AT_CTL_ROLE
  else if 0x10000 ≤ o ∧ o < 0x20000 ∧ o % 0x1000 = 0x00C then s.slotState ((o - 0x10000) / 0x1000)
  else if driverWord o || decide (attState ≤ o ∧ o < b4DevId) then s.b4 o
  else 0

/- ### Attach and loss -/

/-- `JB_CTL.GRACE` in ns; 0 acts as 1 s (R440). -/
def State.grace (s : State) : Nat := 1000000000 * max 1 (s.rd Reg.JB_CTL_GRACE)

/-- The heartbeat is lost (R424, R425): beats stop, and a park request goes to the manager where the policy asks for one and
there is a job.
(DEDUCED, log entry 57) -/
def State.loseHeart (s : State) : State :=
  let s1 : State := { s with host := { s.host with beatSince := none, lossDue := false } }
  let s2 := s1.flag Reg.JB_STAT_HB_LOST
  if ¬ s2.on Reg.JB_CTL_UNATTENDED ∧ 1 ≤ s2.jobState ∧ s2.jobState ≤ jbParked then s2.requestPark 2 else s2

/-- An attach is accepted (R423): the agreed version and features, and the start of the beat. -/
def State.acceptAttach (s : State) : State :=
  let minor := min (s.b4 b4DrvVer % 65536) (fwVersion % 65536)
  let feats := s.b4 b4DrvFeat &&& fwFeatures
  let s1 := ((s.setB4 b4AgreedVer (fwVersion / 65536 * 65536 + minor)).setB4 b4AgreedFeat feats).setB4 attState 1
  let s2 := (s1.flag Reg.JB_STAT_ATTACHED).wr Reg.JB_STAT_HB_LOST 0
  { s2 with host := { s2.host with
    features := feats, beatSince := some s2.now, beatSeq := 0, beatLast := none,
    beatAddr := s2.b4 b4BeatAddr + 2 ^ 32 * s2.b4 (b4BeatAddr + 4), beatUs := s2.b4 b4BeatUs } }

/-- The checks of an attach request (R422, R423).
(DEDUCED, log entry 57) -/
def State.tryAttach (s : State) : State :=
  if s.b4 b4DrvVer / 65536 ≠ fwVersion / 65536 then s.setB4 attState 2
  else if s.b4 b4BeatAddr % 256 ≠ 0 ∨ s.b4 b4BeatUs < 10 ∨ 10000 < s.b4 b4BeatUs then s.setB4 attState 3
  else s.acceptAttach

/-- ATTACH (R423, R481): a scan finds the request, once the PCIe crossings are armed. A loss that the same scan finds comes
first.
(DEDUCED, log entry 57) -/
def execAttach (s : State) : Res :=
  .next (
    if s.host.request = 1 ∧ s.on Reg.BI_XARM_DONE then
      let s1 := if s.host.lossDue then s.loseHeart else s
      State.tryAttach { s1 with host := { s1.host with request := 0 } }
    else s)

/-- DETACH (R422, R424): the driver is gone, and its heartbeat is lost.
(DEDUCED, log entry 57) -/
def execDetach (s : State) : Res :=
  .next (
    if s.host.request = 2 then
      let s1 : State := { s with host := { s.host with request := 0 } }
      if s1.on Reg.JB_STAT_ATTACHED then
        let s2 := (s1.setB4 attState 0).wr Reg.JB_STAT_ATTACHED 0
        let s3 : State := { s2 with host := { s2.host with features := 0, beatAfterF := false } }
        if s3.on Reg.JB_STAT_HB_LOST then s3 else s3.loseHeart
      else s1
    else s)

/-- The heartbeat has not changed for the grace while attached (R424). -/
def State.heartOverdue (s : State) : Bool := match s.host.beatSince with
  | some t => decide (max t s.host.hbAt + s.grace ≤ s.now)
  | none => false

/-- HEARTBEAT_LOST (R424, R425): the scan that finds the grace expired, or an F reset.
(DESIGN CHOICE, log entry 2; DEDUCED, log entry 57) -/
def execHeartbeatLost (s : State) : Res :=
  .next (if s.host.lossDue || s.heartOverdue then s.loseHeart else s)

/- ### The status beat -/

/-- The flags of the beat (R436).
(DEDUCED, log entry 57) -/
def State.beatFlags (s : State) : Nat :=
  b2n (decide (0 < s.host.hbAt ∧ s.now < s.host.hbAt + 1000000000)) + 2 * b2n (s.on Reg.JB_CTL_UNATTENDED) +
    4 * b2n (s.rd Reg.JB_STAT_PARKREQ != 0) + 8 * b2n s.host.beatAfterF

/-- Bytes 0–99 of the beat (R436); `last` is the last committed step. -/
def State.beatHead (s : State) (seq last : Nat) : List Byte :=
  natLe seq 4 ++ natLe s.beatFlags 4 ++ natLe s.now 8 ++ natLe (s.storedWord .fw Reg.JB_ID_LO_VALUE.addr) 4 ++
    natLe (s.storedWord .fw Reg.JB_ID_HI_VALUE.addr) 4 ++ natLe s.jobState 1 ++ natLe s.tstate 1 ++
    natLe (s.rd Reg.AT_CTL_ROLE) 1 ++ natLe (s.rd Reg.JB_STAT_SLOT) 1 ++ natLe s.stepNo 8 ++ natLe last 8 ++
    natLe s.lastHem 8 ++ (List.range 16).flatMap (fun k => natLe (s.b4 (slotBase k + 8) / 65536) 1) ++
    ([Reg.JB_RCV_LAST_0_LAYER.addr, Reg.JB_RCV_LAST_1_LTILE.addr, Reg.JB_RCV_LAST_2_VALUE.addr, Reg.JB_RCV_LAST_3_VALUE.addr,
      Reg.JB_RCV_STAT_STATE.addr, Reg.FW_LOG_WP_SEQ.addr].flatMap (fun a => natLe (s.storedWord .fw a) 4)) ++
    natLe (s.rd Reg.TK_STAT_MB_COUNT) 1 ++ natLe 0 3 ++ natLe (s.storedWord .fw Reg.HV_NOISE_VALUE.addr) 4

/-- The beat: its body, SEQ again, and the CRC (R436). -/
def State.beatBytes (s : State) (seq last : Nat) : List Byte :=
  let body := s.beatHead seq last ++ List.replicate 148 0 ++ natLe seq 4
  body ++ natLe (crc32c body) 4

/-- The last committed step: the one before the step number (R51); before the first commit the spec names no value.
(DESIGN CHOICE, log entry 13) -/
def State.lastCommitted (s : State) : Nat × State :=
  if s.stepNo = 0 then s.draw else (s.stepNo - 1, s)

/-- STATUS_BEAT (R436): at an AT that is a multiple of the period, while attached.
(DESIGN CHOICE, log entry 2; DEDUCED, log entry 57) -/
def execStatusBeat (s : State) : Res :=
  .next (
    if s.host.beatSince.isSome && s.now % (s.host.beatUs * 1000) == 0 && s.host.beatLast != some s.now then
      let seq := s.host.beatSeq + 1
      let r := s.lastCommitted
      { r.2.emit (.hostWrite s.host.beatAddr (s.beatBytes seq r.1)) with
        host := { s.host with beatSeq := seq, beatLast := some s.now } }
    else s)

end Sys2Proof.Machine
end

