-- ==== Sys2Proof/Machine/LoadChecks.lean ====
section
/-! DEFINITION. The checks of a job image at LOAD (R58, R75, R76, R218, R228, R232, R233, R239, R240, R252, R353, R357, R438). -/

namespace Sys2Proof.Machine

/- ### Records -/

/-- A place in a span: the span, the node (a logical tile, or 6144 + x for an X die), the port (or column, or bank), and the
cycle. -/
abbrev Spot := Nat × Nat × Nat × Nat

def countSpot (l : List Spot) (x : Spot) : Nat := (l.filter (· == x)).length

/-- The outputs that a record of a tile half drives, cycle by cycle (R205, R207, R227). -/
def recOuts (t : Nat) (r : Word64) : List Spot :=
  match recOut r with
  | some o => if o = 8 then [] else (List.range (recRun r)).map (fun i => (recSpan r, t, o, recSlot r + i + outLag r))
  | none => []

/-- The inputs that a record of a tile half takes (R227): an ejection takes its row 2 cycles before its bank write. -/
def recIns (t : Nat) (r : Word64) : List Spot :=
  (List.range (recRun r)).flatMap (fun i =>
    let slot := recSlot r + i
    if recKind r = kRecv then [(recSpan r, t, recPort r, slot - 2)]
    else if recKind r = kPass then [(recSpan r, t, passIn r, slot)]
    else if recKind r = kRadd then [(recSpan r, t, raddA r, slot), (recSpan r, t, raddB r, slot)]
    else [])

/-- The sums that a record hands to its own tile's adder output. -/
def recSums (t : Nat) (r : Word64) : List Spot :=
  if recKind r = kRadd ∧ raddOut r = 8 then
    (List.range (recRun r)).map (fun i => (recSpan r, t, 8, recSlot r + i + 2))
  else []

/-- The banks that a record uses (R101, R227). -/
def recBanks (t : Nat) (r : Word64) : List Spot :=
  (List.range (recRun r)).flatMap (fun i =>
    let bank := (recRow r i).toNat % 4
    let slot := recSlot r + i
    if recKind r = kSend then [(recSpan r, t, bank, slot)]
    else if recKind r = kRecv then
      (if recOp r = 0 then [(recSpan r, t, bank, slot)] else [(recSpan r, t, bank, slot), (recSpan r, t, bank, slot + 1)])
    else [])

/-- The input at which an output arrives (R190, R205); none where a port leads nowhere or onto an M die (R218). -/
def arrival (nr : Nat) (o : Spot) : Option Spot :=
  let (b, t, p, c) := o
  if p < 4 then
    match meshStep nr t p with
    | (.tile u, e) => some (b, u, facing p, c + hopCost p e)
    | (.xdie x, _) => some (b, 6144 + x, t / 1536 % 2 * 32 + t % 32, c + 8)
    | (.mdie _, _) => none
  else match sideStep nr t p with
    | some u => some (b, u, facing p, c + 3)
    | none => none

/-- The inputs that the XIN records of an X-die half take, and those at which its XOUT records arrive (R205, R231). -/
def xIns (x : Nat) (r : Word64) : List Spot :=
  if recKind r = kXin then (List.range (recRun r)).map (fun i => (recSpan r, 6144 + x, xCol r, recSlot r + i)) else []

def xSums (nr x : Nat) (r : Word64) : List Spot :=
  if recKind r = kXout then
    (List.range (recRun r)).map (fun i => (recSpan r, edgeTile nr x (xCol r), if x = 0 then 0 else 2, recSlot r + i + 10))
  else []

/-- A reserved kind, code or bit (R225, R226). -/
def recReserved (r : Word64) : Bool :=
  if recKind r = kSend then recBits r 63 57 != 0 || decide (7 < recPort r)
  else if recKind r = kRecv then recBits r 63 59 != 0 || decide (8 < recPort r)
  else if recKind r = kPass then recBits r 63 41 != 0 || decide (8 < passIn r) || decide (7 < passOut r)
  else if recKind r = kRadd then
    recBits r 63 47 != 0 || decide (7 < raddA r) || decide (7 < raddB r) || decide (8 < raddOut r) || raddType r == 3
  else true

def xReserved (r : Word64) : Bool :=
  if recKind r = kXin ∨ recKind r = kXout then recBits r 63 55 != 0 || decide (35 < xLink r)
  else if recKind r = kTxwin ∨ recKind r = kRxwin then
    recBits r 44 39 != 0 || recBits r 54 54 != 0 || recBits r 63 63 != 0 || decide (35 < winLink r) || recRun r != 1
  else true

/-- The length of a span of a descriptor. -/
def spanLen (d : SeamDesc) (b : Nat) : Nat := match d.spans[b]? with
  | some x => x.len
  | none => 0

/-- The last slot that a record reaches (R217, R227). -/
def recEnd (r : Word64) : Nat :=
  recSlot r + recRun r - 1 + (if recKind r = kRecv ∧ recOp r ≠ 0 then 1 else if recKind r = kRadd then 2 else 0)

/-- A span, slot or row out of range (R228). -/
def recRange (d : SeamDesc) (r : Word64) : Bool :=
  decide (d.spans.length ≤ recSpan r) || decide (spanLen d (recSpan r) ≤ recEnd r) ||
    ((recKind r == kSend || recKind r == kRecv) &&
      (List.range (recRun r)).any (fun i => decide (recRow r i < 0 ∨ 3072 ≤ recRow r i)))

def xRange (d : SeamDesc) (r : Word64) : Bool :=
  decide (d.spans.length ≤ recSpan r) || decide (spanLen d (recSpan r) < recSlot r + recRun r) ||
    ((recKind r == kXin || recKind r == kXout) && decide (1024 < xBrow r + recRun r))

/- ### Halves -/

/-- A half with its node and its records. -/
abbrev NodeRecs := List (Nat × List Word64)

/-- The inputs that something arrives at, and the inputs that are taken, over all halves of a pattern set. -/
def produced (nr : Nat) (ts xs : NodeRecs) : List Spot :=
  ts.flatMap (fun e => e.2.flatMap (fun r => (recOuts e.1 r).filterMap (arrival nr) ++ recSums e.1 r)) ++
    xs.flatMap (fun e => e.2.flatMap (xSums nr e.1))

def consumed (ts xs : NodeRecs) : List Spot :=
  ts.flatMap (fun e => e.2.flatMap (recIns e.1)) ++ xs.flatMap (fun e => e.2.flatMap (xIns e.1))

/-- Two records that use one thing in one slot; a side link carries two stitches (R188, R228). -/
def conflict (wide : Bool) (l : List Spot) : Bool :=
  l.any (fun x => decide ((if wide && decide (4 ≤ x.2.2.1 ∧ x.2.2.1 < 8) then 2 else 1) < countSpot l x))

/-- An output or an input that is not met (R228). -/
def unmet (pro con : List Spot) (l : List Spot) : Bool := l.any (fun x => countSpot pro x != countSpot con x)

/-- The header of a tile half (R224): the count, the pattern ID and the reserved bits. -/
def halfHeader (pid : Nat) (bs : List Byte) : Bool :=
  let hdr := leNat (bs.take 16)
  let n := bitsOf hdr 24 16
  bs.length == 16 + 8 * n && decide (n ≤ 510) && hdr % 65536 == pid && bitsOf hdr 63 25 == 0 && bitsOf hdr 127 96 == 0

/-- The error code of a tile half, 0 for none (R228, R255). `ok` says that the descriptor is sound: the range of a span is
checked against no other.
(DEDUCED, log entry 34) -/
def tileError (nr pid : Nat) (ok : Bool) (d : SeamDesc) (pro con : List Spot) (t : Nat) (bs : List Byte) (rs : List Word64) : Nat :=
  let outs := rs.flatMap (recOuts t)
  let ins := rs.flatMap (recIns t)
  if !halfHeader pid bs then 2
  else if rs.any recReserved then 3
  else if ok && rs.any (recRange d) then 4
  else if conflict true outs || conflict true ins || conflict false (rs.flatMap (recBanks t)) then 5
  else if outs.any (fun o => (arrival nr o).isNone) || unmet pro con (outs.filterMap (arrival nr) ++ rs.flatMap (recSums t) ++ ins)
    then 6
  else 0

/- ### Windows -/

/-- The buffer rows of a window: the first one, and the one after the last (R233). -/
def winLo (w : Word64) : Nat := winBase w * 4
def winHi (w : Word64) : Nat := (winBase w * 256 + winBlocks w * 240 + 63) / 64

/-- An XIN or XOUT record touches rows of a window of its link. -/
def touches (r w : Word64) : Bool := xLink r == winLink w && decide (xBrow r < winHi w ∧ winLo w < xBrow r + recRun r)

/-- A row of an XIN record lies in a window that departs in its span (R232). -/
def xinPlaced (rs : List Word64) (r : Word64) : Bool :=
  (List.range (recRun r)).all (fun i => rs.any (fun w => recKind w == kTxwin && xLink r == winLink w &&
    recSpan w == recSpan r && decide (winLo w ≤ xBrow r + i ∧ xBrow r + i < winHi w)))

/-- The last byte of each block of a window is in the buffer 16 cycles before the block departs (R230, R232). A block whose
last byte no XIN writes fails the check, as does, in `xinPlaced` and `xoutPlaced`, a row of an XIN or XOUT that lies in no
window: the spec says only when filling and emptying happen.
(DESIGN CHOICE, log entry 73) -/
def filledInTime (pitch : Nat) (rs : List Word64) (w : Word64) : Bool :=
  (List.range (winBlocks w)).all (fun k =>
    let row := (winBase w * 256 + (k + 1) * 240 - 1) / 64
    let xs := rs.filter (fun r => recKind r == kXin && xLink r == winLink w && recSpan r == recSpan w &&
      decide (xBrow r ≤ row ∧ row < xBrow r + recRun r))
    xs != [] && xs.all (fun r => decide (recSlot r + (row - xBrow r) + 16 ≤ recSlot w + (k + k / pitch) * 12 / 5)))

/-- The ingress span of a receive window: that of the first XOUT record that empties it (R231). -/
def rxIngress (rs : List Word64) (w : Word64) : Nat :=
  match rs.find? (fun r => recKind r == kXout && touches r w && decide (recSpan w < recSpan r)) with
  | some r => recSpan r
  | none => recSpan w

/-- A constraint is that of a transmit window (R237): it is anchored at a window of the link's run up to this one, and counts
the blocks from there to this one. `tx` holds the transmit windows in the order of their anchors, those of this link up to
this one first dropped to the run's start. -/
def runMatches (c : SpanCon) (w : Word64) (tx : List Word64) : Bool :=
  let upTo := (tx.filter (fun x => winLink x == winLink w && !recBefore w x))
  (List.range upTo.length).any (fun i =>
    let run := upTo.drop i
    match run with
    | [] => false
    | a :: _ => c.anchor == recSpan a && c.off == recSlot a && c.blocks == (run.map winBlocks).foldl (· + ·) 0)

/-- The ingress span of a transmit window, by which its receiver empties it: the last span with the window's constraint, or the
last span of the Seam where the descriptor has none. Neither the half nor the descriptor names it otherwise.
(DESIGN CHOICE, log entry 73) -/
def txIngress (d : SeamDesc) (tx : List Word64) (w : Word64) : Nat :=
  ((List.range d.spans.length).reverse.find? (fun b => decide (recSpan w < b) && match d.spans[b]? with
    | some x => x.cons.any (fun c => runMatches c w tx)
    | none => false)).getD (d.spans.length - 1)

/-- The receive window that a row of an XOUT record empties: of those of its link with that row, the last one anchored before
the record's span. -/
def rowWindow (rs : List Word64) (r : Word64) (row : Nat) : Option Word64 :=
  rs.foldl (fun best w =>
    if recKind w == kRxwin && xLink r == winLink w && decide (winLo w ≤ row ∧ row < winHi w ∧ recSpan w < recSpan r) then some w
    else best) none

/-- Each row of an XOUT record lies in a window whose ingress span is the record's (R232). -/
def xoutPlaced (rs : List Word64) (r : Word64) : Bool :=
  (List.range (recRun r)).all (fun i => match rowWindow rs r (xBrow r + i) with
    | some w => rxIngress rs w == recSpan r
    | none => false)

/-- Two windows of one link direction share bytes while both are alive (R233). -/
def shareBytes (ingress : Word64 → Nat) (a b : Word64) : Bool :=
  winLink a == winLink b && decide (recSpan a ≤ ingress b ∧ recSpan b ≤ ingress a) &&
    decide (winBase a * 256 < winBase b * 256 + winBlocks b * 240 ∧ winBase b * 256 < winBase a * 256 + winBlocks a * 240)

def anyPair {α : Type} (f : α → α → Bool) : List α → Bool
  | [] => false
  | a :: l => l.any (f a) || anyPair f l

/-- A condition on the windows of an X-die half fails (R232, R233, R239). -/
def windowsBad (pitch : Nat) (d : SeamDesc) (half : List Word64) : Bool :=
  let rs := sortRecs half
  let tx := rs.filter (fun r => recKind r == kTxwin)
  let rx := rs.filter (fun r => recKind r == kRxwin)
  (!d.hall && (tx ++ rx) != []) ||
    (tx ++ rx).any (fun w => decide (65536 < winBase w * 256 + winBlocks w * 240)) ||
    rs.any (fun r => recKind r == kXin && !xinPlaced rs r) || rs.any (fun r => recKind r == kXout && !xoutPlaced rs r) ||
    !tx.all (filledInTime pitch rs) || anyPair (shareBytes (txIngress d tx)) tx || anyPair (shareBytes (rxIngress rs)) rx

/-- The error code of an X-die half, 0 for none (R228, R232, R233, R255).
(DEDUCED, log entry 34) -/
def xdieError (nr pitch : Nat) (ok : Bool) (d : SeamDesc) (pro con : List Spot) (x : Nat) (rs : List Word64) : Nat :=
  if rs.any xReserved then 3
  else if ok && rs.any (xRange d) then 4
  else if conflict false (rs.flatMap (xIns x)) || conflict false (rs.flatMap (xSums nr x)) then 5
  else if unmet pro con (rs.flatMap (xIns x) ++ rs.flatMap (xSums nr x)) then 6
  else if ok && windowsBad pitch d rs then 7
  else 0

/- ### The descriptor -/

/-- The span entries of a descriptor follow the rules of R240: reserved bits, lengths, counts and anchors. -/
def spansOk : Nat → Nat → List Word64 → Bool
  | 0, _, ws => ws == []
  | _ + 1, _, [] => false
  | n + 1, b, w :: ws =>
    let k := recBits w 18 16
    recBits w 63 19 == 0 && decide (1 ≤ recBits w 15 0 ∧ k ≤ 4) && (b != 0 || k == 0) && decide (k ≤ ws.length) &&
      (ws.take k).all (fun c => recBits c 63 30 == 0 && decide (recBits c 4 0 < b)) && spansOk n (b + 1) (ws.drop k)

/-- A descriptor is sound (R240). -/
def descOk (pid : Nat) (bs : List Byte) : Bool :=
  let hdr := leNat (bs.take 16)
  (parseDesc bs).1 && hdr % 65536 == pid && bitsOf hdr 63 22 == 0 && bitsOf hdr 127 96 == 0 && bs.length % 8 == 0 &&
    spansOk (bitsOf hdr 20 16 + 1) 0 (words64 ((bs.length - 16) / 8) (bs.drop 16))

/- ### A pattern set -/

/-- The errors of a pattern set: the place as `PT_ERR.WHERE` reads it, and the code. `bound` says that the device has a tree
bound to the hall tack of every hall-bound Seam of the set (R58). Beside a descriptor that is not sound the halves are checked
for what does not depend on it (R255).
(DEDUCED, log entry 34; DESIGN CHOICE, log entry 73) -/
def setErrors (nr pitch : Nat) (bound : Bool) (p : PatSet) : List (Nat × Nat) :=
  let ok := descOk p.pid.toNat p.desc
  let d := (parseDesc p.desc).2
  let ts := p.tiles.map (fun e => (e.1.val, (parseHalf false e.2).2.recs))
  let xs := p.xhalf.zipIdx.map (fun (e : List Byte × Nat) => (e.2, (parseHalf true e.1).2.recs))
  let pro := produced nr ts xs
  let con := consumed ts xs
  let es := (p.tiles.map (fun e => (e.1.val, tileError nr p.pid.toNat ok d pro con e.1.val e.2 (parseHalf false e.2).2.recs))) ++
    (xs.map (fun (e : Nat × List Word64) => (0x1802 + e.1, xdieError nr pitch ok d pro con e.1 e.2)))
  if !ok then es.filter (fun e => e.2 != 0) ++ [(0x1FFF, 8)]
  else es.filter (fun e => e.2 != 0) ++
    (if d.hall && !bound && (ts.any (fun e => e.2 != []) || xs.any (fun e => e.2 != [])) then [(0x1FFF, 8)] else [])

/-- Every superstep that uses a hall-bound pattern set is closed by a tree that is bound to a program hall tack (R57, R58). -/
def boundFor (g : JobImage) (p : PatSet) : Bool :=
  (g.steps.filter (fun st => st.pid == p.pid)).all (fun st =>
    g.binds.any (fun b => b.tree == st.tree && b.kind.val == tkHall && decide (b.hall < 6)))

/-- The lowest place of a list of errors, with its code.
(DEDUCED, log entry 34) -/
def lowestError : List (Nat × Nat) → Option (Nat × Nat)
  | [] => none
  | e :: es => match lowestError es with
    | some f => some (if f.1 < e.1 then f else e)
    | none => some e

/-- The first pattern error of a job image (R228, R252, R255).
(DEDUCED, log entry 34) -/
def State.patternError (s : State) (g : JobImage) : Option (Nat × Nat) :=
  lowestError (g.patterns.flatMap (fun p => setErrors s.nr s.pitch (boundFor g p) p) ++
    (if g.routes.any (fun r => anyPair (fun (a b : Nat) => a == b && decide (a < 36)) r.2) then [(0x1802, 9)] else []))

/- ### The rest of the image -/

/-- The trees of a job image (R76): exactly one of kind Hem, and no two bound to one program hall tack. -/
def treesOk (g : JobImage) : Bool :=
  g.binds.all (fun b => b.kind.val != tkHall || decide (b.hall < 6)) &&
  (g.binds.filter (fun b => b.kind.val == tkHem)).length == 1 &&
    !anyPair (fun (a b : TreeBind) => a.kind.val == tkHall && b.kind.val == tkHall && a.hall == b.hall) g.binds

/-- Each stream has a spool of its own: spools 0 and 1 of a tile read, 2 and 3 write (R75, R287). -/
def spoolsOk (g : JobImage) : Bool :=
  !anyPair (fun (a b : SpoolBind) => a.tile == b.tile && a.spool == b.spool) g.spools

/-- The tile programs keep to the scratchpad, and name each tile that exists once (R8, R75). -/
def State.programsOk (s : State) (g : JobImage) : Bool :=
  g.tiles.all (fun x => (s.physOf x.tile.val).isSome && x.entry % 8 == 0 && decide (x.entry + 8 ≤ scratchBytes) &&
    x.resident.all (fun r => decide (r.1 + r.2.length ≤ scratchBytes))) &&
    !anyPair (fun (a b : TileProg) => a.tile == b.tile) g.tiles

/-- A region lies in one half, outside the firmware region (R428, R438). -/
def regionOutside (a n : Nat) : Bool := (inHalf 0 a n || inHalf 1 a n) && decide (a + n ≤ fwRegion)

def regionsOk (g : JobImage) : Bool :=
  g.regions.all (fun r => regionOutside r.1 r.2) && g.batches.all (fun r => regionOutside r.1 r.2) &&
    decide (g.batches.length = 0 ∨ g.batches.length = 2) && g.blobs.all (fun b => regionOutside b.1 b.2.length)

/-- No partner page is itself marked banked (R353). -/
def banksOk (h : HarvestImg) : Bool :=
  h.banked.all (fun e => !h.banked.any (fun f => f.1 == e.1 + h.boff) && decide (e.1 + h.boff < 1032192))

/-- A byte of the tables of the image. -/
def blobByte (g : JobImage) (a : Nat) : Byte :=
  match g.blobs.find? (fun b => decide (b.1 ≤ a ∧ a < b.1 + b.2.length)) with
  | some b => nth b.2 (a - b.1) 0
  | none => 0

/-- Every page of a range is banked with a TID in the image (R357). -/
def imgBanked (h : HarvestImg) (m t a n : Nat) : Bool :=
  n == 0 || (List.range ((a + n - 1) / 65536 - a / 65536 + 1)).all (fun i =>
    h.banked.any (fun e => e.1 == (a - halfBase m) / 65536 + i && e.2 == t))

def imgRegion (h : HarvestImg) (m t a n : Nat) (banked : Bool) : Bool :=
  a % 256 == 0 && inHalf m a n && (!banked || imgBanked h m t a n)

/-- The descriptor of a TID fits the bank map of the image (R357): every address that names something is a multiple of 256 and
lies in the half, also that of a zero-length shard. -/
def imgDesc (h : HarvestImg) (m t : Nat) (d : List Word64) : Bool :=
  let n := tdElems d
  !tdReserved t d && (tdCfmt d != 2 || tdCols d % 32 == 0) && (tdPrec d != 0 || tdS d == 0) && (tdCfmt d != 0 || tdC d == 0) &&
    (tdThinned d || tdR d == 0) &&
    imgRegion h m t (tdW d) (4 * n) true && imgRegion h m t (tdM d) (if tdMtype d = 1 then 2 * n else 4 * n) true &&
    imgRegion h m t (tdG d) (4 * n) false &&
    (tdPrec d == 0 || imgRegion h m t (tdS d) (tdBlockRows d * tdBlockCols d * tdBlockBytes d) true) &&
    (tdCfmt d == 0 || imgRegion h m t (tdC d) (tdCopyBytes d) true) &&
    (!tdThinned d || imgRegion h m t (tdR d) (4 * n) true) &&
    (tdNcnt d == 0 || imgRegion h m t (tdN d) (4 * tdNcnt d) false)

/-- The TIDs that the commands of a stream of the image name (R360), from an address up to END. -/
def streamTids (g : JobImage) : Nat → Nat → List Nat
  | 0, _ => []
  | fuel + 1, a =>
    let w := leNat ((List.range 8).map (fun i => blobByte g (a + i)))
    if w % 16 = opHEnd ∨ w % 16 = 0 then []
    else if [opTap, opUpdate, opThin, opNoise, opTouch].contains (w % 16) then w / 16 % 2 ^ 14 :: streamTids g fuel (a + 32)
    else streamTids g fuel (a + 32)

/-- The TIDs of an engine: those that the bank map names, and those that the command stream names. -/
def imgTids (g : JobImage) (h : HarvestImg) : List Nat :=
  (h.banked.map (fun x => x.2) ++ streamTids g ((g.blobs.map (fun b => b.2.length)).foldl (· + ·) 0) h.cmd).eraseDups

/-- The Harvest parts of the image (R353, R357): the bank map, and the descriptors of the TIDs of each engine. -/
def harvestOk (g : JobImage) : Bool :=
  decide (g.harvest.length ≤ 2) && g.harvest.zipIdx.all (fun (e : HarvestImg × Nat) =>
    banksOk e.1 && (imgTids g e.1).all (fun t =>
      imgDesc e.1 e.2 t (leWords ((List.range 128).map (fun i => blobByte g (e.1.tdesc + 128 * t + i))))))

/-- A job image passes every check but those of its patterns.
(DESIGN CHOICE, log entry 12) -/
def State.imageOk (s : State) (g : JobImage) : Bool :=
  g.sound && g.dev == s.devId && treesOk g && s.programsOk g && spoolsOk g && regionsOk g && harvestOk g

end Sys2Proof.Machine
end

