-- ==== Sys2Proof/Machine/Jobs.lean ====
section
/-! DEFINITION. Job slots and the life cycle of a job (R426–R434): the load and its digests, the start, batches, parks, adoption,
the scrub, and the slot command of serving jobs. -/

namespace Sys2Proof.Machine

/- ### Slots and their commands -/

/-- The STATUS codes (R427). -/
def stDone : Nat := 1
def stRange : Nat := 2
def stState : Nat := 3
def stFeature : Nat := 4
def stCheck : Nat := 5
def stJobId : Nat := 6

/-- The OP codes (R427). -/
def opLoad : Nat := 1
def opRun : Nat := 2
def opBatch : Nat := 3
def opPark : Nat := 4
def opResume : Nat := 5
def opStop : Nat := 6
def opAdopt : Nat := 7
def opScrub : Nat := 8
def opSeq : Nat := 9

/-- HEAD and TAIL of a slot (R426). -/
def State.slotHead (s : State) (k : Nat) : Nat := s.b4 (slotBase k + 8) % 65536
def State.slotTail (s : State) (k : Nat) : Nat := s.b4 (slotBase k + 8) / 65536

/-- The JOBID of a slot. -/
def State.slotJob (s : State) (k : Nat) : Nat := s.b4 (slotBase k) + 2 ^ 32 * s.b4 (slotBase k + 4)

/-- The offset of the command at TAIL, if the ring holds one (R426). -/
def State.cmdAt (s : State) (k : Nat) : Option Nat :=
  if s.slotHead k = s.slotTail k ∨ 62 < s.slotHead k then none else some (cmdBase k (s.slotTail k))

/-- A 64-bit word of a command. -/
def State.cmdWord (s : State) (o j : Nat) : Nat := s.b4 (o + 8 * j) + 2 ^ 32 * s.b4 (o + 8 * j + 4)

/-- The command at TAIL is finished (R426, R427): its STATUS is written, TAIL advances, and a status other than DONE counts. -/
def State.complete (s : State) (k status : Nat) : State :=
  let o := cmdBase k (s.slotTail k)
  let w := s.b4 o
  let s1 := s.setB4 o (w - w / 256 % 256 * 256 + status * 256)
  let s2 := s1.setB4 (slotBase k + 8) (s1.slotHead k + 65536 * ((s1.slotTail k + 1) % 63))
  if status = stDone then s2 else s2.bump Reg.FW_CNT_RANGE_HOST 1

/-- Commands with an OP that is not listed complete with RANGE.
(DEDUCED, log entry 58) -/
def dropUnlisted (k : Nat) : Nat → State → State
  | 0, s => s
  | n + 1, s => match s.cmdAt k with
    | some o =>
      let op := s.b4 o % 256
      if 1 ≤ op ∧ op ≤ 9 then s else dropUnlisted k n (s.complete k stRange)
    | none => s

/-- The scan of a slot meets a command of a kind: what it does with the offset of the command (R426).
(DEDUCED, log entry 58) -/
def State.scan (s : State) (k op : Nat) (f : Nat → State → State) : State :=
  let s1 := dropUnlisted k 63 s
  match s1.cmdAt k with
  | some o => if s1.b4 o % 256 = op then f o s1 else s1
  | none => s1

/-- The job ID of the current job (R440). -/
def State.jobId (s : State) : Nat := s.rd Reg.JB_ID_LO_VALUE + 2 ^ 32 * s.rd Reg.JB_ID_HI_VALUE

/-- The status of a command on the current job (R427): DONE where the slot has the job's ID and its state allows the command.
(DEDUCED, log entry 58) -/
def State.jobStatus (s : State) (k : Nat) (allowed : List Nat) : Nat :=
  if s.jobState = jbEmpty then stState
  else if s.slotJob k ≠ s.jobId then stJobId
  else if allowed.contains s.jobState then stDone
  else stState

/-- A command that acts at once and completes (R427). -/
def State.simple (s : State) (k : Nat) (allowed : List Nat) (f : State → State) : State :=
  if s.jobStatus k allowed = stDone then (f s).complete k stDone else s.complete k (s.jobStatus k allowed)

/-- The states in which a job can be parked, resumed, stopped and fed. -/
def liveStates : List Nat := [jbLoaded, jbRunning, jbParked]

/- ### The load -/

/-- The word of `TK_LEAD`, `TK_HEM` or `TK_WDOG` from the configuration record, or its reset value (R80). -/
def State.recordWord (s : State) (a : Nat) : Nat :=
  let base := (Reg.fieldsAt a).foldl (fun x f => x + 2 ^ f.lo * f.reset) 0
  match s.cfg with
  | some c => c.regInit.foldl (fun x e => if e.1 = a then e.2.toNat else x) base
  | none => base

/-- The registers that the overrides section may set (R80, R428). -/
def overridable : List Nat :=
  [Reg.TK_LEAD_HALL.addr, Reg.TK_HEM_WIN.addr, Reg.TK_WDOG_LIMIT.addr, Reg.MN_NUM_CTL_LIMIT.addr]

/-- The tack registers, the seed and the overrides of a job (R80, R157, R184).
(DEDUCED, log entry 59) -/
def State.jobRegs (s : State) (g : JobImage) : State :=
  let s1 := [Reg.TK_LEAD_HALL.addr, Reg.TK_HEM_WIN.addr, Reg.TK_WDOG_LIMIT.addr].foldl
    (fun (s : State) a => s.storeWord .fw a (s.recordWord a)) s
  let s2 := g.overrides.foldl (fun (s : State) e => if overridable.contains e.1 then s.storeWord .fw e.1 e.2.toNat else s) s1
  let s3 := (s2.wr Reg.MN_SR_SEED_LO_VALUE g.seed.toNat).wr Reg.MN_SR_SEED_HI_VALUE (g.seed.toNat / 2 ^ 32)
  g.binds.foldl (fun (s : State) b =>
    ((s.wr (Reg.TK_BIND_KIND b.tree.val) b.kind.val).wr (Reg.TK_BIND_HALL b.tree.val) b.hall).wr
      (Reg.TK_BIND_ENG b.tree.val) b.eng) s3

/-- The Harvest registers and maps of an M die (R353, R354, R384). -/
def State.jobHarvest (s : State) (m : Nat) (h : HarvestImg) : State :=
  let pair := fun (s : State) (lo hi : Fld) (v : Nat) => (s.wr lo v).wr hi (v / 2 ^ 32)
  let s1 := pair (pair (pair (pair s (Reg.HV_CMD_LO_VALUE m) (Reg.HV_CMD_HI_VALUE m) h.cmd)
    (Reg.HV_TDESC_LO_VALUE m) (Reg.HV_TDESC_HI_VALUE m) h.tdesc) (Reg.HV_SCHED_LO_VALUE m) (Reg.HV_SCHED_HI_VALUE m) h.sched)
    (Reg.HV_MOFF_LO_VALUE m) (Reg.HV_MOFF_HI_VALUE m) h.moff
  let s2 := ((((s1.wr (Reg.HV_SCHED_LEN_VALUE m) h.schedLen).wr (Reg.HV_SCHED_OFF_VALUE m) h.schedOff).wr
    (Reg.HV_DPR_P m) h.p).wr (Reg.HV_DPR_B m) h.b).wr (Reg.HV_BOFF_PAGES m) h.boff
  s2.modHv m (fun x => { x with banked := h.banked.foldl (fun (t : SMap Nat) e => smPut t e.1 e.2) [],
                                mirror := h.mirror.foldl (fun (t : SMap Nat) e => smPut t e.1 e.2) [] })

/-- The spools of the job are bound to their streams (R287): a stream may run while its tile's spool has room. -/
def State.jobSpools (s : State) (g : JobImage) : State :=
  { s with streams := g.spools.foldl (fun (t : SMap StreamSt) b =>
      smPut t (spoolKey b.tile.val b.spool.val) { m := b.m.val, base := b.base, state := 1, credit := 32 }) s.streams }

/-- The image is in place (R235, R251, R287, R353, R402, R428).
(DEDUCED, log entry 59) -/
def State.install (s : State) (g : JobImage) : State :=
  let s1 := s.jobRegs g
  let s2 := g.harvest.zipIdx.foldl (fun (s : State) (e : HarvestImg × Nat) => s.jobHarvest e.2 e.1) s1
  let s3 := g.blobs.foldl (fun (s : State) b => s.memWrite cleanEnv false b.1 b.2 []) s2
  let s4 : State := { s3 with
    host := { s3.host with img := some g, staged := none, loading := none, runDone := false, stepLimit := 0, batches := [none, none] },
    tacks := [], step := { s3.step with steps := g.steps, idx := 0, held := 0, mbMin := g.mbMin, mbMax := g.mbMax } }
  let s5 := ((s4.wr Reg.TK_STAT_MB_COUNT g.mbMin).jobSpools g).placeTiles (g.tiles.map (fun x => x.tile.val))
  (s5.patternLinks.foldl (fun (s : State) n => if s.linkUp n then s.checkCable n else s) s5).noteLanes

/-- What the manager compares at a job load (R240, R428): DDIGEST, and the CRC of each Seam descriptor. -/
def jobDigest (g : JobImage) : List Byte := g.digest ++ g.patterns.flatMap (fun p => (p.desc.drop 8).take 4)

/-- The load ends well: the job is LOADED (R428, R429). -/
def State.loadDone (s : State) : State :=
  match s.host.loading, s.host.staged with
  | some k, some g => (((s.install g).wr Reg.JB_STAT_STATE jbLoaded).logRec 3 5 jbLoaded).complete k stDone
  | _, _ => s

/-- The load fails: the job is EMPTY (R428, R429). -/
def State.loadFailed (s : State) : State :=
  match s.host.loading with
  | some k =>
    let s1 := (((s.wr Reg.JB_STAT_STATE jbEmpty).wr Reg.JB_STAT_SLOT 0).wr Reg.JB_ID_LO_VALUE 0).wr Reg.JB_ID_HI_VALUE 0
    State.complete { s1 with host := { s1.host with loading := none, staged := none } } k stCheck
  | none => s

/-- The manager's answer about a job, on this device. -/
def State.loadAnswer (s : State) (ok : Bool) (job : Nat) : State :=
  if s.jobState = jbLoading ∧ s.jobId = job then (if ok then s.loadDone else s.loadFailed) else s

/-- The manager answers every device that has sent a digest (R428, R432).
(DEDUCED, log entry 59) -/
def State.answerLoads (s : State) (ok : Bool) : State :=
  let ds := s.host.digests
  let s1 : State := { s with host := { s.host with digests := [], digestSince := none } }
  ds.foldl (fun (s : State) (d : DevId × Word64 × List Byte) =>
    if d.1 = s.devId then s.loadAnswer ok d.2.1.toNat else s.sendMsg d.1 0x0A [d.2.1.toNat, b2n ok]) s1

/-- Every digest is for one job and of one content. -/
def sameDigests : List (DevId × Word64 × List Byte) → Bool
  | [] => true
  | d :: ds => ds.all (fun e => e.2 == d.2)

/-- The manager takes in a digest, and answers once every admitted device has sent one (R428).
(DEDUCED, log entry 59) -/
def State.noteDigest (s : State) (dev : DevId) (job : Word64) (digest : List Byte) : State :=
  let ds := (dev, job, digest) :: s.host.digests.filter (fun e => e.1 != dev)
  let s1 : State := { s with host := { s.host with digests := ds, digestSince := some (s.host.digestSince.getD s.now) } }
  if s1.time.admitted ≤ ds.length then s1.answerLoads (sameDigests ds) else s1

/-- A job image that has passed its checks is LOADING (R428, R429, R490): its digest goes to the manager, which negotiates the
timing table again (R242).
(DEDUCED, log entry 59) -/
def State.startLoad (s : State) (k : Nat) (g : JobImage) (base len addr : Nat) : State :=
  let s1 := (((s.wr Reg.JB_STAT_STATE jbLoading).wr Reg.JB_STAT_SLOT k).wr Reg.JB_ID_LO_VALUE g.jobId.toNat).wr
    Reg.JB_ID_HI_VALUE (g.jobId.toNat / 2 ^ 32)
  let s2 := if s1.time.scrubbed then s1.wr Reg.TK_STAT_ADMITTED 1 else s1
  let s3 : State := { s2 with
    time := { s2.time with scrubbed := false },
    host := { s2.host with loading := some k, staged := some g, winBase := base, winLen := len, imgAddr := addr } }
  let s4 := ((s3.extend 5 g.hash).refresh).logRec 3 5 jbLoading
  if s4.isRoot then s4.renegotiate.noteDigest s4.devId g.jobId (jobDigest g)
  else s4.sendRoot 9 [g.jobId.toNat, leNat (jobDigest g)]

/-- The status of a LOAD before its image is in place: 0 where it goes on (R423, R427, R428, R471). A pattern error is recorded in
`PT_ERR`.
(DEDUCED, log entry 59) -/
def State.loadStatus (s : State) (k : Nat) (g : JobImage) (len winLen : Nat) : Nat :=
  if s.rd Reg.BI_STAT_STOP ≠ 0 then stState
  else if (g.serving ∧ !hasBit s.host.features 2) ∨ (g.heritage ∧ !hasBit s.host.features 5) ∨
      (g.offload ∧ !hasBit s.host.features 3) then stFeature
  else if len = 0 ∨ winLen < g.hostLen then stRange
  else if s.slotJob k ≠ g.jobId.toNat then stJobId
  else if !s.imageOk g || (s.patternError g).isSome then stCheck
  else 0

/-- The first pattern error of a refused image is recorded (R228, R255). -/
def State.notePatternError (s : State) (g : JobImage) : State :=
  match s.patternError g with
  | some (w, c) =>
    if s.on Reg.PT_ERR_VALID then s else ((s.wr Reg.PT_ERR_CODE c).wr Reg.PT_ERR_WHERE w).flag Reg.PT_ERR_VALID
  | none => s

/-- A LOAD that has to wait stays queued in its slot (R429). -/
def State.queueLoad (s : State) (k : Nat) : State :=
  if s.host.queued.contains k then s else { s with host := { s.host with queued := s.host.queued ++ [k] } }

def State.unqueue (s : State) (k : Nat) : State :=
  { s with host := { s.host with queued := s.host.queued.filter (· != k) } }

/-- A LOAD in an EMPTY device (R428): the image is checked, and LOADING begins. -/
def State.loadNow (s : State) (k o : Nat) (g : JobImage) : State :=
  let s1 := s.unqueue k
  let st := s1.loadStatus k g (s1.cmdWord o 2) (s1.cmdWord o 4)
  if st = 0 then s1.startLoad k g (s1.cmdWord o 3) (s1.cmdWord o 4) (s1.cmdWord o 1)
  else if st = stCheck then (s1.notePatternError g).complete k stCheck
  else s1.complete k st

/- ### The scrub -/

/-- The storage of a region of a half is zeroed by the half's engine (R304, R434). -/
def State.zeroRegion (s : State) (r : Nat × Nat) : State :=
  match dieOf r.1 with
  | some m => ((s.zeroStorage r.1 r.2).modMdie m (fun x => { x with zero := (r.1 / 256, ceilDiv r.2 256) :: x.zero })).flag
      (Reg.MM_ZCTL_BUSY m)
  | none => s

/-- The job scrub begins (R434): a J reset, and both zeroing engines run over the regions of the job. -/
def State.beginScrub (s : State) (slot : Option Nat) : State :=
  let regions := match s.host.img with
    | some g => g.regions
    | none => []
  let s1 := (s.resetJ.wr Reg.JB_STAT_STATE jbScrubbing).logRec 3 5 jbScrubbing
  regions.foldl State.zeroRegion { s1 with host := { s1.host with scrubSlot := slot, scrubSince := s1.now } }

/-- A test that was requested in the cycle of a LOAD is refused (R482).
(DEDUCED, log entry 59) -/
def State.yieldTest (s : State) : State :=
  if s.test.running.isSome ∧ s.test.since = s.now then
    { s.wr Reg.BI_STAT_STATE 3 with test := { s.test with running := none } }
  else s

/-- LOAD (R427, R428, R429, R482): in an EMPTY device the image is checked and LOADING begins, in the order in which the slots queue;
an ended job of another slot is scrubbed first; behind another job the LOAD waits.
(DEDUCED, log entry 59) -/
def execLoad (slot : Fin 16) (img : JobImage) (s : State) : Res :=
  .next (s.scan slot.val opLoad (fun o s =>
    let k := slot.val
    if s.host.loading = some k then s
    else if s.jobState = jbEmpty then
      let s := s.yieldTest
      if s.test.running.isSome then s.queueLoad k
      else if (s.host.queued.head?).any (· != k) then s.queueLoad k
      else s.loadNow k o img
    else if s.jobState = jbScrubbing then s.queueLoad k
    else if s.rd Reg.JB_STAT_SLOT = k then s.complete k stState
    else if s.jobState = jbEnded then (s.beginScrub none).queueLoad k
    else s.queueLoad k))

/-- JOB_DIGEST (R428). -/
def execJobDigest (msg : MsgId) (jobId : Word64) (digest : List Byte) (s : State) : Res :=
  .next (s.takeMsg msg (fun s => if s.isRoot then s.noteDigest msg.src jobId digest else s))

/-- LOAD_OK (R428). -/
def execLoadOk (msg : MsgId) (jobId : Word64) (s : State) : Res :=
  .next (s.takeMsg msg (fun s => s.loadAnswer true jobId.toNat))

/-- LOAD_CHECK (R428). -/
def execLoadCheck (msg : MsgId) (jobId : Word64) (s : State) : Res :=
  .next (s.takeMsg msg (fun s => s.loadAnswer false jobId.toNat))

/-- LOAD_DIGEST_TIMEOUT (R428): 10 s after the first digest. -/
def execLoadDigestTimeout (s : State) : Res :=
  .next (
    match s.host.digestSince with
    | some t => if s.isRoot ∧ t + 10000000000 ≤ s.now then s.answerLoads false else s
    | none => s)

/- ### The life of a job -/

/-- RUN (R427, R430): the job is ready to start; a step limit ends it (R430).
(DEDUCED, log entry 58) -/
def execRun (slot : Fin 16) (s : State) : Res :=
  .next (s.scan slot.val opRun (fun o s => s.simple slot.val [jbLoaded] (fun s =>
    { s with host := { s.host with runDone := true, stepLimit := s.cmdWord o 1 } })))

/-- The status of a BATCH (R427, R430, R431): its buffer has to be free, and its step is the present or the next one. -/
def State.batchStatus (s : State) (k n off len : Nat) : Nat :=
  let st := s.jobStatus k liveStates
  if st ≠ stDone then st
  else match s.host.img with
    | none => stState
    | some g =>
      let buf := nth g.batches (n % 2) (0, 0)
      if g.batches = [] ∨ n < s.stepNo ∨ s.stepNo + 1 < n ∨ s.host.winLen < off + len ∨ buf.2 < len then stRange
      else if (nth s.host.batches (n % 2) none).isSome then stState
      else stDone

/-- BATCH (R427): the fill of buffer n mod 2 begins; one fill is under way at a time.
(DEDUCED, log entry 58) -/
def execBatch (slot : Fin 16) (s : State) : Res :=
  .next (s.scan slot.val opBatch (fun o s =>
    let k := slot.val
    if s.host.batchFill.isSome then s
    else
      let st := s.batchStatus k (s.cmdWord o 1) (s.cmdWord o 2) (s.cmdWord o 3)
      if st = stDone then { s with host := { s.host with batchFill := some (k, s.cmdWord o 1, s.cmdWord o 3) } }
      else s.complete k st))

/-- BATCH_FILLED (R430, R431): the bytes of the host window are in the buffer, and the device asks no more for a park. Without
all of its bytes the fill is not complete. -/
def execBatchFilled (data : List Byte) (s : State) : Res :=
  match s.host.batchFill with
  | none => .next s
  | some (k, n, len) =>
    if data.length ≠ len then .next s
    else
      let base := match s.host.img with
        | some g => (nth g.batches (n % 2) (0, 0)).1
        | none => 0
      let s1 := s.memWrite cleanEnv false base data []
      let s2 : State := { s1 with host := { s1.host with batchFill := none, batches := modNth s1.host.batches (n % 2) (fun _ => some n) } }
      .next ((s2.withdrawPark 3).complete k stDone)

/-- PARK (R427, R431): a park request with reason HOST.
(DEDUCED, log entry 58) -/
def execPark (slot : Fin 16) (s : State) : Res :=
  .next (s.scan slot.val opPark (fun _ s => s.simple slot.val liveStates (fun s => s.requestPark 1)))

/-- RESUME (R427): this device's HOST request is withdrawn.
(DEDUCED, log entry 58) -/
def execJobResume (slot : Fin 16) (s : State) : Res :=
  .next (s.scan slot.val opResume (fun _ s => s.simple slot.val liveStates (fun s => s.withdrawPark 1)))

/-- STOP (R427): a park request with reason END.
(DEDUCED, log entry 58) -/
def execStop (slot : Fin 16) (s : State) : Res :=
  .next (s.scan slot.val opStop (fun _ s => s.simple slot.val liveStates (fun s => s.requestPark 4)))

/-- The device takes up a parked job for a new driver (R433). -/
def State.adopt (s : State) (k base addr : Nat) : State :=
  let s1 := ({ s with host := { s.host with winBase := base, imgAddr := addr } } : State).wr Reg.JB_STAT_SLOT k
  (s1.withdrawPark 2).sendRoot 0x0D [s1.devId.toNat, s1.jobId]

/-- ADOPT (R433).
(DEDUCED, log entry 58) -/
def execAdopt (slot : Fin 16) (s : State) : Res :=
  .next (s.scan slot.val opAdopt (fun o s =>
    if ¬ s.on Reg.JB_STAT_ATTACHED ∨ !hasBit s.host.features 1 then s.complete slot.val stState
    else s.simple slot.val [jbParked] (fun s => s.adopt slot.val (s.cmdWord o 1) (s.cmdWord o 2))))

/-- ADOPTED (R433): the manager holds the device's DRIVER request no more.
(DEDUCED, log entry 60) -/
def execAdopted (msg : MsgId) (_jobId : Word64) (s : State) : Res :=
  .next (s.takeMsg msg (fun s =>
    { s with host := { s.host with parkHeld := s.host.parkHeld.filter (fun x => !(x.1 == msg.src.toNat && x.2 == 2)) } }))

/-- SCRUB (R434): an ended job is scrubbed; the command completes with the scrub.
(DEDUCED, log entry 58) -/
def execScrub (slot : Fin 16) (s : State) : Res :=
  .next (s.scan slot.val opScrub (fun _ s =>
    if s.host.scrubSlot = some slot.val then s
    else if s.jobStatus slot.val [jbEnded] = stDone then s.beginScrub (some slot.val)
    else s.complete slot.val (s.jobStatus slot.val [jbEnded])))

/-- SCRUB_DONE (R434, R440, R467): once both zeroing engines have finished the device is EMPTY; T resets that came due follow. -/
def execScrubDone (s : State) : Res :=
  .next (
    if s.jobState = jbScrubbing ∧ ¬ s.on (Reg.MM_ZCTL_BUSY 0) ∧ ¬ s.on (Reg.MM_ZCTL_BUSY 1) then
      let ms := min 0xFFFF ((s.now - s.host.scrubSince) / 1000000)
      let s1 := ((s.flag Reg.JB_SCRUB_TILES_DONE).flag Reg.JB_SCRUB_GDDR_DONE).wr Reg.JB_SCRUB_MS ms
      let s2 := ((s1.wr Reg.JB_STAT_STATE jbEmpty).logRec 3 5 jbEmpty).thawHeld
      match s2.host.scrubSlot with
      | some k => State.complete { s2 with host := { s2.host with scrubSlot := none } } k stDone
      | none => s2
    else s)

/-- The entry of a SEQ command is staged and its slot command issued (R309, R427). -/
def State.seqCommand (s : State) (o : Nat) : State :=
  let w := s.cmdWord o 1
  let n := w / 2 ^ 16 % 4096
  let m := n / 2048
  let s1 := s.wr (Reg.SQ_SEL_SLOT m) n
  let s2 := (List.range 8).foldl (fun (x : State) j => x.wr (Reg.SQ_ENT_VALUE m j) (s.b4 (o + 16 + 4 * j))) s1
  s2.slotCommand m (w % 65536)

/-- SEQ (R309, R423, R427): for the feature of serving jobs.
(DEDUCED, log entry 58) -/
def execSeq (slot : Fin 16) (s : State) : Res :=
  .next (s.scan slot.val opSeq (fun o s =>
    let cmd := s.cmdWord o 1 % 65536
    if !hasBit s.host.features 2 then s.complete slot.val stFeature
    else if cmd = 0 ∨ 3 < cmd then s.complete slot.val stRange
    else s.simple slot.val liveStates (fun s => s.seqCommand o)))

/- ### Parks in the domain -/

/-- PARK_REQ (R431, R432): the manager holds the request until the next capture.
(DEDUCED, log entry 60) -/
def execParkReq (msg : MsgId) (reason : BitVec 3) (s : State) : Res :=
  .next (s.takeMsg msg (fun s =>
    if s.isRoot ∧ 1 ≤ reason.toNat ∧ reason.toNat ≤ 4 then
      { s with host := { s.host with parkHeld := s.host.parkHeld ++ [(msg.src.toNat, reason.toNat)] } }
    else s))

/-- PARK_RECORD (R431, R432): the record of the Hem whose window is open is taken in once, and flooded on.
(DEDUCED, log entry 26) -/
def execParkRecord (_link : LinkId) (_msg : MsgId) (step : Word64) (kind : Bool) (s : State) : Res :=
  .next (
    if s.step.winOpen ∧ s.step.parkNotice = none ∧ s.hemStep = some step then
      ({ s with step := { s.step with parkNotice := some kind } } : State).emit (.flood 8 [step.toNat, b2n kind])
    else s)

end Sys2Proof.Machine
end

