-- ==== Sys2Proof/Machine/Snapshots.lean ====
section
/-! DEFINITION. Snapshots (R17, R480, R515): SNAP of each block that has a snapshot set, for the selection of the port that
writes it, and the arrival of the captured set. -/

namespace Sys2Proof.Machine

/-- Captured values of fields. -/
abbrev Captured := List (Fld × Nat)

/-- A 64-bit value in a low and a high field. -/
def pair64 (lo hi : Fld) (v : Nat) : Captured := [(lo, v), (hi, v / 2 ^ 32)]

/-- The µs spent in the current or last holdover (R46). -/
def State.holdElapsed (s : State) : Nat :=
  if s.tstate = tsHoldover then (s.now - s.time.holdSince) / 1000 else s.time.elapsed

/-- The snapshot set of AT (R46). -/
def State.captureAt (s : State) : Captured :=
  pair64 Reg.AT_NOW_LO_VALUE Reg.AT_NOW_HI_VALUE s.now ++
    [(Reg.AT_OFFSET_THETA, toSigned 32 s.time.theta), (Reg.AT_TRIM_PHASE, s.time.phase), (Reg.AT_TRIM_FREQ, toSigned 24 s.time.freq),
      (Reg.AT_HOLD_ELAPSED, min s.holdElapsed (2 ^ 24 - 1)), (Reg.AT_HOLD_EST_ERR, s.time.estErr)]

/-- The snapshot set of the TK_ block (R80). -/
def State.captureTk (s : State) : Captured :=
  [(Reg.TK_STEP_LO_VALUE, s.rd Reg.TK_STEP_LO_VALUE), (Reg.TK_STEP_HI_VALUE, s.rd Reg.TK_STEP_HI_VALUE),
    (Reg.TK_HEM_AT_LO_VALUE, s.rd Reg.TK_HEM_AT_LO_VALUE), (Reg.TK_HEM_AT_HI_VALUE, s.rd Reg.TK_HEM_AT_HI_VALUE)]

/-- The monitor entry of a TID (R151, R157); of one that no tile counted, zeros under the step of the last Hem.
(DEDUCED, log entry 64) -/
def State.monitorOf (s : State) (t : Nat) : Nat × MonCounts :=
  smGet s.monitors t (s.step.latched, {})

def State.captureMn (s : State) (port : Port) : Captured :=
  let e := s.monitorOf (s.rdPort port Reg.MN_TSEL_TID)
  pair64 Reg.MN_T_STEP_LO_VALUE Reg.MN_T_STEP_HI_VALUE e.1 ++
    [(Reg.MN_T_TOTAL_COUNT, e.2.total), (Reg.MN_T_ZERO_COUNT, e.2.zero), (Reg.MN_T_SAT_COUNT, e.2.sat),
      (Reg.MN_T_NONFIN_COUNT, e.2.nonfin)] ++
    (List.range 16).map (fun b => (Reg.MN_T_HIST_COUNT b, nth e.2.hist b 0))

/-- The pointers of a message ring: offset and wrap bit (R281). -/
def RingSt.offset (r : RingSt) (x : Nat) : Nat := x % max 1 r.units
def RingSt.wrap (r : RingSt) (x : Nat) : Nat := x / max 1 r.units % 2

/-- Slots of a combining ring in a state. -/
def RingSt.slotsIn (r : RingSt) (m : CombMode) : Nat := (r.slots.filter (fun e => e.2.mode == m)).length

/-- `BB_RPTR` and `BB_RQ` of a ring (R281): a slot that is being zeroed is ARMED (R272). -/
def ringPointers (r : RingSt) : Nat × Nat × Nat × Nat × Nat × Nat :=
  if r.kind = rkMessage then (r.offset r.rp, r.wrap r.rp, r.offset r.wp, r.wrap r.wp, r.offset r.resv, r.wrap r.resv)
  else if r.kind = rkWindow then (r.credit, 0, r.landed, 0, 0, 0)
  else if r.kind = rkCombining then (r.slotsIn .armed + r.slotsIn .zeroing, 0, r.slotsIn .complete, 0, 0, 0)
  else (0, 0, 0, 0, 0, 0)

/-- The code of a thimble register's state (R264, R281). -/
def thimCode : ThimMode → Nat
  | .free => 0
  | .requested => 1
  | .held => 2
  | .draining => 3

/-- The snapshot set of the BB_ block (R281); of a tile that does not exist, a ring that is not configured. -/
def State.captureBb (s : State) (port : Port) : Captured :=
  let t := match s.physOf (s.rdPort port Reg.BB_SEL_TILE) with
    | some p => s.tile p
    | none => {}
  let k := s.rdPort port Reg.BB_SEL_RING
  let r := t.ring k
  let (a, aw, b, bw, q, qw) := ringPointers r
  let c := r.kind != rkNone
  [(Reg.BB_RCFG_KIND, r.kind), (Reg.BB_RCFG_SIZE, if c then r.size else 0), (Reg.BB_RCFG_SLOT, if c then r.slotSz else 0),
    (Reg.BB_RCFG_ETYPE, if c then r.etype else 0), (Reg.BB_RCFG_BASE, if c then r.base else 0), (Reg.BB_RPTR_A, a), (Reg.BB_RPTR_AW, aw),
    (Reg.BB_RPTR_B, b), (Reg.BB_RPTR_BW, bw), (Reg.BB_RQ_RESV, q), (Reg.BB_RQ_RW, qw),
    (Reg.BB_RQ_QUEUED, (t.reqs.filter (fun x => pkRing x == k)).length),
    (Reg.BB_THIM_STATE, t.thims.zipIdx.foldl (fun x (e : ThimSt × Nat) => x + thimCode e.1.mode * 4 ^ e.2) 0)]

/-- The state of a stream as `SP_STAT.STREAM` reads it: a running stream whose descriptor waits for room or for words in the
spool reads 2 (R313).
(DEDUCED, log entry 40) -/
def streamCode (k : Nat) (x : StreamSt) : Nat :=
  if x.state = 1 ∧ x.desc ≠ [] ∧ (if k < 2 then x.buf ≠ [] ∧ x.credit = 0 else x.landing = []) then 2 else x.state

/-- The snapshot set of an SP_ block (R313): of a stream that is not bound to this M die, zeros.
(DEDUCED, log entry 40) -/
def State.captureSp (s : State) (port : Port) (m : Nat) : Captured :=
  let t := s.rdPort port (Reg.SP_SEL_TILE m)
  let k := s.rdPort port (Reg.SP_SEL_SPOOL m)
  let x := s.stream t k
  let sp := match s.physOf t with
    | some p => (s.tile p).spool k
    | none => {}
  let here := x.m == m && x.state != 0
  [(Reg.SP_STAT_WORDS m, if here then sp.words.length else 0), (Reg.SP_STAT_PKTS m, if here && decide (k < 2) then sp.packets s.now else 0),
    (Reg.SP_STAT_STREAM m, if here then streamCode k x else 0), (Reg.SP_STAT_DIDX m, if here then x.idx % 65536 else 0)]

/-- The snapshot set of an SQ_ block (R309, R315): a slot of the other M die reads 0. -/
def State.captureSq (s : State) (port : Port) (m : Nat) : Captured :=
  let k := s.rdPort port (Reg.SQ_SEL_SLOT m)
  let e : SeqEnt := if k / 2048 = m then s.slot k else {}
  [e.w0, e.w1, e.w2, e.w3].zipIdx.flatMap (fun (x : Word64 × Nat) =>
    pair64 (Reg.SQ_ENT_VALUE m (2 * x.2)) (Reg.SQ_ENT_VALUE m (2 * x.2 + 1)) x.1.toNat)

/-- The snapshot set of an HV_ block (R384). -/
def State.captureHv (s : State) (port : Port) (m : Nat) : Captured :=
  let t := s.rdPort port (Reg.HV_TSEL_TID m)
  let h := s.hv m
  [(Reg.HV_T_STAT_GEN m, b2n (h.genOf t)), (Reg.HV_T_STAT_FROST m, b2n (h.frost.contains t)),
    (Reg.HV_T_STAT_TOUCHED m, b2n (h.touched.contains t)), (Reg.HV_T_STAT_FALLBACK m, min (smGet h.fallback t 0) (2 ^ 20 - 1))] ++
    pair64 (Reg.HV_T_N_LO_VALUE m) (Reg.HV_T_N_HI_VALUE m) (smGet h.nLast t 0).toNat ++
    pair64 (Reg.HV_T_S_LO_VALUE m) (Reg.HV_T_S_HI_VALUE m) (smGet h.sLast t 0).toNat ++
    [(Reg.HV_T_KAPPA_VALUE m, (smGet h.kappa t 0).toNat)]

/-- Four bytes in a word, the first in bits [7:0]. -/
def fourBytes (l : List Nat) : Nat := leNat ((l.take 4).map (fun x => BitVec.ofNat 8 x))

/-- The snapshot set of the PW_ block (R449, R464). -/
def State.capturePw (s : State) : Captured :=
  let heat := (List.range 8).map (dieHeat s.power.temps)
  [(Reg.PW_IN_V_VALUE, s.power.volts), (Reg.PW_IN_I_VALUE, s.power.amps), (Reg.PW_IN_P_VALUE, s.power.watts),
    (Reg.PW_TEMP_C_T, fourBytes heat), (Reg.PW_TEMP_MX_T, fourBytes (heat.drop 4)),
    (Reg.PW_TEMP_AUX_T, fourBytes [s.power.temps.inlet, s.power.temps.outlet, gddrHeat s.power.temps, s.power.temps.regulator]),
    (Reg.PW_STUT_N, fourBytes s.power.stutter)] ++
    (List.range 8).flatMap (fun d => [(Reg.PW_DIE_P_POWER d, nth s.power.power d 0 / 1000),
      (Reg.PW_DIE_P_ALLOW d, s.allow s.power.credits d / 1000)])

/-- The snapshot set of the SC_ block (R502). -/
def State.captureSc (s : State) (port : Port) : Captured :=
  let m := s.measurement (s.rdPort port Reg.SC_MSEL_INDEX)
  (List.range 12).map (fun k => (Reg.SC_MDATA_VALUE k, leNat ((m.drop (4 * k)).take 4)))

/- ### SNAP and READY -/

/-- The snapshot set of a block, as a port selects it.
(DEDUCED, log entry 64) -/
def State.captureBlock (s : State) (blk : SnapBlock) (port : Port) : Captured :=
  match blk with
  | .at_ => s.captureAt
  | .tk => s.captureTk
  | .mn => s.captureMn port
  | .bb => s.captureBb port
  | .sp m => s.captureSp port m.val
  | .sq m => s.captureSq port m.val
  | .hv m => s.captureHv port m.val
  | .pw => s.capturePw
  | .sc => s.captureSc port

/-- The READY bit of a block. -/
def readyField : SnapBlock → Fld
  | .at_ => Reg.AT_SNAP_READY
  | .tk => Reg.TK_SNAP_READY
  | .mn => Reg.MN_SNAP_READY
  | .bb => Reg.BB_SNAP_READY
  | .sp m => Reg.SP_SNAP_READY m.val
  | .sq m => Reg.SQ_SNAP_READY m.val
  | .hv m => Reg.HV_SNAP_READY m.val
  | .pw => Reg.PW_SNAP_READY
  | .sc => Reg.SC_SNAP_READY

/-- The captured values of a set, as they are to be put into the copy of a port. -/
def State.captured (s : State) (blk : SnapBlock) (port : Port) : List (Nat × Nat × Nat) :=
  (s.captureBlock blk port).map (fun e => (e.1.portKey port, e.2 % 2 ^ e.1.width, e.1.reset))

/-- A capture taken in the cycle of a Hem latch holds the values after the latch (R516).
(DEDUCED, log entry 64) -/
def State.resnap (s : State) : State :=
  { s with snaps := s.snaps.map (fun x => if x.at_ = s.now then { x with vals := s.captured x.blk x.port } else x) }

/-- SNAP is written (R480): READY clears and the set is captured; while a capture is under way a further SNAP is ignored. -/
def State.snap (s : State) (blk : SnapBlock) (port : Port) : State :=
  if s.snaps.any (fun x => x.blk == blk && x.port == port) then s
  else
    { s.wrPort port (readyField blk) 0 with
      snaps := s.snaps ++ [{ blk := blk, port := port, vals := s.captured blk port, at_ := s.now }] }

/-- AT_SNAP (R46).
(DEDUCED, log entry 64) -/
def execAtSnap (port : Port) (s : State) : Res := .next (s.snap .at_ port)

/-- TK_SNAP (R80). -/
def execTkSnap (port : Port) (s : State) : Res := .next (s.snap .tk port)

/-- MN_SNAP (R157). -/
def execMnSnap (port : Port) (s : State) : Res := .next (s.snap .mn port)

/-- BB_SNAP (R281). -/
def execBbSnap (port : Port) (s : State) : Res := .next (s.snap .bb port)

/-- SP_SNAP (R313). -/
def execSpSnap (port : Port) (m : Fin 2) (s : State) : Res := .next (s.snap (.sp m) port)

/-- SQ_SNAP (R315). -/
def execSqSnap (port : Port) (m : Fin 2) (s : State) : Res := .next (s.snap (.sq m) port)

/-- HV_SNAP (R384). -/
def execHvSnap (port : Port) (m : Fin 2) (s : State) : Res := .next (s.snap (.hv m) port)

/-- PW_SNAP (R464). -/
def execPwSnap (port : Port) (s : State) : Res := .next (s.snap .pw port)

/-- SC_SNAP (R502). -/
def execScSnap (port : Port) (s : State) : Res := .next (s.snap .sc port)

/-- SNAPSHOT_READY (R480): the captured set arrives at its port, and READY becomes 1.
(DEDUCED, log entry 64) -/
def execSnapshotReady (blk : SnapBlock) (port : Port) (s : State) : Res :=
  .next (
    match s.snaps.find? (fun x => x.blk == blk && x.port == port) with
    | some x =>
      let s1 : State := { s with
        regs := x.vals.foldl (fun (m : SMap Nat) e => smSet m e.1 e.2.1 e.2.2) s.regs,
        snaps := s.snaps.filter (fun y => !(y.blk == blk && y.port == port)) }
      s1.wrPort port (readyField blk) 1
    | none => s)

end Sys2Proof.Machine
end

