-- ==== Sys2Proof/Machine/Latch.lean ====
section
/-! DEFINITION. The Hem of the device (R71, R396, R407): at its release's s, or at the reply that brings a decision that was
missed. -/

namespace Sys2Proof.Machine

/-- HEM (R71, R396–R400, R516): at H, or at the acceptance of a late release (R397).
(DESIGN CHOICE, log entry 2) -/
def execHem (s : State) : Res :=
  .next (
    match s.step.hemAt with
    | some h => if s.step.hemDue ≤ s.now then (s.atHem h).resnap else s
    | none => s)

/-- DECISION_REPLY (R407, R516): the decision that was missed is carried out as a Hem, and a tack-layer fault opens. -/
def execDecisionReply (msg : MsgId) (rep : DecisionRep) (s : State) : Res :=
  .next (s.takeMsg msg (fun s =>
    if s.rcv.missed ∧ rep.step.toNat = s.stepNo ∧ ¬ s.step.winOpen then
      let s1 := s.noteRound 7 rep.parity
      let d : Decision := ⟨rep.step, rep.commit, rep.mbCount, rep.hem.toNat, rep.s.toNat, rep.parity⟩
      let s2 := (s1.releaseChip 7).logDecision d
      let s3 := (State.atHem { s2 with step := { s2.step with hemCommit := rep.commit } } rep.hem.toNat).resnap
      (s3.flag Reg.TK_FLT_LATE).openFault (s3.faultRec 9 2)
    else s))

end Sys2Proof.Machine
end

