-- ==== Sys2Proof/Machine/Matrix.lean ====
section
/-! DEFINITION. The matrix instructions of a tile: operand layout (R134–R136), format pairs (R137), the slots (R111,
R112, R159–R163), drains into partial sums (R164–R170), XWAIT and ACCRD (R183). -/

namespace Sys2Proof.Machine

/- ### Operand planes -/

def pad16 (n : Nat) : Nat := 16 * ceilDiv n 16

/-- The elements of a row of operand A that are stored: half of K when it is sparse (R136). -/
def storedK (iw : Word64) : Nat := if iwSparse iw then iwK iw / 2 else iwK iw

/-- Strides of a row of elements, of scales and of metadata (R134, R136). -/
def elemStride (f k : Nat) : Nat := pad16 (ceilDiv (fmtBits f * k) 8)
def scaleStride (f k : Nat) : Nat := pad16 (k / 32 * fmtScaleBytes f)
def metaStride (k : Nat) : Nat := pad16 (ceilDiv k 8)

/-- The planes of an operand: address and extent, in the order of R134. -/
def planesA (iw : Word64) (a : Nat) : List (Nat × Nat) :=
  let e := 32 * elemStride (iwFA iw) (storedK iw)
  let m := if iwSparse iw then 32 * metaStride (iwK iw) else 0
  [(a, e), (a + e, m), (a + e + m, 32 * scaleStride (iwFA iw) (iwK iw))]

def planesB (iw : Word64) (b : Nat) : List (Nat × Nat) :=
  let e := 24 * elemStride (iwFB iw) (iwK iw)
  [(b, e), (b + e, 24 * scaleStride (iwFB iw) (iwK iw))]

/-- The first byte of a list of planes that lies outside the scratchpad; an empty plane has none. -/
def planesBad (l : List (Nat × Nat)) : Option Nat :=
  l.findSome? (fun p => if p.2 = 0 then none else rangeBad p.1 p.2)

/-- The format pairs that R137 permits. -/
def pairOk (fa fb : Nat) : Bool :=
  if fmtHeritage fa || fmtHeritage fb then fmtHeritage fa && fmtHeritage fb
  else if fmtInteger fa || fmtInteger fb then
    (fmtInteger fa || fa == 0xC) && (fmtInteger fb || fb == 0xC)
  else true

/-- The reserved values of an MMA in START or ACC (R86, R112, R122, R135–R137). -/
def illegalMma (iw : Word64) : Bool :=
  let fa := iwFA iw
  let fb := iwFB iw
  let k := iwK iw
  iwBits iw 12 0 != 0 || k == 0 || decide (4096 < k) || fa == 15 || fb == 15 || !pairOk fa fb ||
    (iwSparse iw && (fmtHeritage fa || k % 4 != 0)) || ((fmtScaled fa || fmtScaled fb) && k % 32 != 0)

/-- Element `i` of a row whose elements start at an address, with the scale entry of dense position `d` of its block
(R130, R131, R134). -/
def Tile.operand (t : Tile) (f row scaleRow i d : Nat) : Num :=
  let w := fmtBits f
  let code := leNat (Memory.readN t.mem (row + w * i / 8) 3) / 2 ^ (w * i % 8) % 2 ^ w
  if fmtScaled f then
    let b := scaleRow + d / 32 * fmtScaleBytes f
    codeNum f (Memory.read t.mem b).toNat (if f = 0xB then subScale (Memory.read t.mem (b + 1)).toNat (d % 32) else 0)
      code
  else elemNum f code

/-- The stored elements of row i of operand A in a group of four dense positions: value and dense position (R136,
R161). -/
def Tile.groupA (t : Tile) (iw : Word64) (a i g : Nat) : List (Num × Nat) :=
  let f := iwFA iw
  let e := elemStride f (storedK iw)
  let row := a + e * i
  if iwSparse iw then
    let mrow := a + 32 * e + metaStride (iwK iw) * i
    let srow := a + 32 * e + 32 * metaStride (iwK iw) + scaleStride f (iwK iw) * i
    let nib := (Memory.read t.mem (mrow + g / 2)).toNat / (if g % 2 = 0 then 1 else 16) % 16
    [(t.operand f row srow (2 * g) (4 * g), 4 * g + nib % 4), (t.operand f row srow (2 * g + 1) (4 * g), 4 * g + nib / 4)]
  else
    let srow := a + 32 * e + scaleStride f (iwK iw) * i
    ((List.range 4).map (fun x => 4 * g + x)).filterMap (fun d =>
      if d < iwK iw then some (t.operand f row srow d d, d) else none)

/-- The element of column j of operand B at a dense position. -/
def Tile.elemB (t : Tile) (iw : Word64) (b j d : Nat) : Num :=
  let f := iwFB iw
  let e := elemStride f (iwK iw)
  t.operand f (b + e * j) (b + 24 * e + scaleStride f (iwK iw) * j) d d

/-- The products of cell (i, j) in a group. -/
def Tile.products (t : Tile) (iw : Word64) (a b i j g : Nat) : List Num :=
  (t.groupA iw a i g).map (fun x => x.1.mul (t.elemB iw b j x.2))

/-- A group is added with one rounding: the exact sum of s and its terms (R161, R163). -/
def addGroup (s : Nat) (xs : List Num) : Nat := rnd40 (xs.foldl Num.add (w40 s))

/-- In a heritage slot each product is added with one rounding (R154). -/
def addHeritage (s : Nat) (xs : List Num) : Nat := xs.foldl (fun s x => rneFtz32 ((fp32Ftz s).add x)) s

/-- K products per cell are added to a cell (R161, R162). -/
def Tile.cell (t : Tile) (iw : Word64) (a b i j s : Nat) : Nat :=
  (List.range (ceilDiv (iwK iw) 4)).foldl (fun s g =>
    if fmtHeritage (iwFA iw) then addHeritage s (t.products iw a b i j g) else addGroup s (t.products iw a b i j g)) s

/-- The 768 cells of a slot; no cell is listed for a zeroed slot. -/
def SlotSt.cell (x : SlotSt) (n : Nat) : Nat := nth x.cells n 0

/-- The cells after an MMA. -/
def Tile.accumulate (t : Tile) (iw : Word64) (a b : Nat) (x : SlotSt) : List Nat :=
  (List.range 768).map (fun n => t.cell iw a b (n / 24) (n % 24) (x.cell n))

/-- The first poisoned word among the operand planes.
(DEDUCED, log entry 28) -/
def Tile.planesPoison (t : Tile) (l : List (Nat × Nat)) : Option (Nat × Bool) :=
  l.findSome? (fun p => if p.2 = 0 then none else t.poisonIn p.1 p.2)

/-- DETAIL of SLOT_STATE (R118). -/
def slotDetail (slot : Nat) (x : SlotSt) (kind : Bool) : Nat :=
  slot + 8 * (match x.mode with
    | .empty => 0
    | .opened => 1
    | .draining => 2) + (if kind then 32 else 0)

def Tile.setSlot (t : Tile) (n : Nat) (x : SlotSt) : Tile := { t with slots := modNth t.slots n (fun _ => x) }

/-- The matrix unit reads its operands and adds; a poisoned operand word is an asynchronous fault (R104, R134), after
which the cells hold free values.
(DESIGN CHOICE, log entry 13; DESIGN CHOICE, log entry 18; DEDUCED, log entry 28) -/
def runMma (iw : Word64) (s : State) (p a b slot : Nat) (x : SlotSt) : State :=
  let planes := planesA iw a ++ planesB iw b
  let t := planes.foldl (fun t q => t.senseRange q.1 q.2) (s.tile p)
  let y : SlotSt := { mode := .opened, heritage := fmtHeritage (iwFA iw), count := x.count + iwK iw, cells := [] }
  match t.planesPoison planes with
  | none => s.setTile p (t.setSlot slot { y with cells := (t.seen (localAt s.now)).accumulate iw a b x })
  | some e =>
    let d := s.drawN 768
    let w := if y.heritage then 2 ^ 32 else 2 ^ 40
    (d.2.setTile p (t.setSlot slot { y with cells := d.1.map (fun v => v % w) })).tileFault p fcEcc (eccDetail e) t.pc
      iw true

/-- The alignment and range faults of an MMA (R134, R520). -/
def mmaFault (iw : Word64) (a b : Nat) : Option (Nat × Nat) :=
  if a % 16 ≠ 0 then some (fcAlign, a)
  else if b % 16 ≠ 0 then some (fcAlign, b)
  else match planesBad (planesA iw a ++ planesB iw b) with
    | some x => some (fcRange, x)
    | none => none

def bodyMma (iw : Word64) (acc : Bool) (s : State) (p : Nat) : Issued :=
  let t := s.tile p
  let a := (t.reg (iwA iw)).toNat
  let b := (t.reg (iwB iw)).toNat
  let n := iwSlot iw
  let x := nth t.slots n {}
  match mmaFault iw a b with
  | some f => .fault f.1 f.2
  | none =>
    if acc then
      if x.mode ≠ .opened then .fault fcSlot (slotDetail n x false)
      else if x.heritage ≠ fmtHeritage (iwFA iw) then .fault fcSlot (slotDetail n x true)
      else if 4096 < x.count + iwK iw then .fault fcChunk (n + 65536 * (x.count + iwK iw))
      else .done (runMma iw s p a b n x)
    else match x.mode with
      | .opened => .fault fcSlot (slotDetail n x false)
      | .draining => .stall s
      | .empty => .done (runMma iw s p a b n {})

/-- A word of the MMA rows: OP 0x00 with the row's MODE, the reserved MODE 3, or an unlisted OP of the class. -/
def mmaRow (iw : Word64) (mode : Nat) : Bool :=
  iwClass iw == 3 && ((iwOp iw == 0 && (iwMode iw == mode || iwMode iw == 3)) || !listedOp 3 (iwOp iw))

/-- MMA_START (R111, R112, R134–R137, R161). -/
def execMmaStart (tile : TileId) (iw : Word64) (s : State) : Res :=
  issue tile iw (mmaRow iw 0) [iwA iw, iwB iw] (opIllegal iw 0 || iwMode iw == 3 || illegalMma iw) (bodyMma iw false) s

/-- MMA_ACC (R111, R112, R161, R162). -/
def execMmaAcc (tile : TileId) (iw : Word64) (s : State) : Res :=
  issue tile iw (mmaRow iw 1) [iwA iw, iwB iw] (opIllegal iw 0 || iwMode iw == 3 || illegalMma iw) (bodyMma iw true) s

/- ### Drains -/

/-- LINED on a heritage slot is ILLEGAL_OP (R154), also while the slot drains (R520). -/
def State.linedHeritage (s : State) (tile : TileId) (iw : Word64) : Bool :=
  match s.physOf tile.val with
  | none => false
  | some p =>
    let x := nth (s.tile p).slots (iwSlot iw) {}
    x.mode != .empty && x.heritage && iwDMode iw == 2

def bodyDrain (iw : Word64) (s : State) (p : Nat) : Issued :=
  let t := s.tile p
  let n := iwSlot iw
  let x := nth t.slots n {}
  if x.mode ≠ .opened then .fault fcSlot (slotDetail n x false)
  else .done (s.setTile p { t.setSlot n { x with mode := .draining } with
    drains := t.drains ++ [{ slot := n, dst := (t.reg (iwA iw)).toNat, mode := iwDMode iw, pc := t.pc, iw := iw }] })

/-- MMA_DRAIN (R111, R166): the slot starts to drain; the plane is checked and written when the drain completes. -/
def execMmaDrain (tile : TileId) (iw : Word64) (s : State) : Res :=
  issue tile iw (mmaRow iw 2) [iwA iw]
    (opIllegal iw 0 || iwMode iw == 3 || iwDMode iw == 3 || iwBits iw 32 0 != 0 || s.linedHeritage tile iw)
    (bodyDrain iw) s

/-- What a drain writes to one cell: hi and lo (R154, R166); the lo of a non-finite sum is ignored. -/
def drainCell (heritage restart lined : Bool) (hi lo v : Nat) : Nat × Nat :=
  if heritage then
    (if restart then (v, 0) else (rneFtz32 ((fp32Ftz hi).add (fp32Ftz v)), 0))
  else
    let x := if restart then w40 v
      else if lined && (fp32 hi).isFin then ((fp32 hi).add (fp32 lo)).add (w40 v) else (fp32 hi).add (w40 v)
    let h := rne32 x
    if lined then
      if (fp32 h).isFin then (h, rne32 (x.add (fp32 h).negate)) else (h, h)
    else (h, 0)

/-- The tag of a partial sum (R165). -/
structure DrainTag where
  count : Nat
  chunks : Nat
  lined : Bool
  longsum : Bool
  nonfin : Bool
deriving DecidableEq, Repr

def readTag (w : Nat) : DrainTag :=
  ⟨w % 2 ^ 64, w / 2 ^ 64 % 2 ^ 32, hasBit w 96, hasBit w 97, hasBit w 98⟩

def tagWord (g : DrainTag) : Nat :=
  g.count + 2 ^ 64 * g.chunks + 2 ^ 96 * b2n g.lined + 2 ^ 97 * b2n g.longsum + 2 ^ 98 * b2n g.nonfin

/-- Whether a drain starts the sum anew, and whether it leaves a lined sum (R166). -/
def drainRestart (mode : Nat) (g : DrainTag) : Bool := mode == 0 || (mode == 2 && !g.lined)
def drainLined (mode : Nat) (g : DrainTag) : Bool := mode == 2 || (mode == 1 && g.lined)

/-- The tag that a drain writes, before R169 (R166). -/
def nextTag (mode count : Nat) (g : DrainTag) (nonfin : Bool) : DrainTag :=
  if drainRestart mode g then ⟨count, 1, drainLined mode g, false, nonfin⟩
  else ⟨min (g.count + count) (2 ^ 64 - 1), min (g.chunks + 1) (2 ^ 32 - 1), drainLined mode g, g.longsum,
    g.nonfin || nonfin⟩

/-- The product limit of R169. -/
def State.sumLimit (s : State) (lined : Bool) : Nat :=
  if lined then 2 ^ 40 else 2 ^ clamp 10 22 (s.rd Reg.MN_NUM_CTL_LIMIT)

/-- The values of the 768 cells after a drain. -/
def Tile.drainCells (t : Tile) (x : SlotSt) (dst : Nat) (restart lined : Bool) : List (Nat × Nat) :=
  (List.range 768).map (fun n =>
    let hi := if restart then 0 else leNat (Memory.readN t.mem (dst + 16 + 4 * n) 4)
    let lo := if restart || !lined then 0 else leNat (Memory.readN t.mem (dst + 3088 + 4 * n) 4)
    drainCell x.heritage restart lined hi lo (x.cell n))

/-- The slot of a drain becomes EMPTY, and the drain leaves the queue. -/
def Tile.endDrain (t : Tile) : Tile :=
  match t.drains with
  | [] => t
  | d :: ds => { t.setSlot d.slot {} with drains := ds }

/-- The drain at the head of the queue takes effect (R103, R109, R164–R169); a heritage slot writes no lo plane (R154). One that faults
writes nothing of its plane or tag, and leaves its slot EMPTY; where the tag is poisoned and the rest of the plane leaves the
scratchpad, the tag's ECC_UNCORR is the fault: the spec says neither.
(DEDUCED, log entry 28; DESIGN CHOICE, log entry 72) -/
def State.runDrain (s : State) (p : Nat) (d : DrainOp) : State :=
  let t := if d.mode = 0 then s.tile p else (s.tile p).senseRange d.dst 16
  let x := nth t.slots d.slot {}
  let stop := fun (t : Tile) (c v : Nat) => (s.setTile p t.endDrain).tileFault p c v d.pc d.iw true
  if d.dst % 16 ≠ 0 then stop (s.tile p) fcAlign d.dst
  else match rangeBad d.dst 16 with
    | some b => stop (s.tile p) fcRange b
    | none =>
      match (if d.mode = 0 then none else t.poisonIn d.dst 16) with
      | some e => stop t fcEcc (eccDetail e)
      | none =>
        let g := readTag (leNat (Memory.readN (t.seen (localAt s.now)).mem d.dst 16))
        let restart := drainRestart d.mode g
        let lined := drainLined d.mode g && !x.heritage
        let n := if lined then 6160 else 3088
        match rangeBad d.dst n with
        | some b => stop t fcRange b
        | none =>
          let t1 := if restart then t else t.senseRange d.dst n
          match (if restart then none else t1.poisonIn d.dst n) with
          | some e => stop t1 fcEcc (eccDetail e)
          | none =>
            let cs := (t1.seen (localAt s.now)).drainCells x d.dst restart lined
            let nonfin := cs.any (fun c => !(fp32 c.1).isFin)
            let g1 := nextTag d.mode x.count g nonfin
            let long := !g1.longsum && decide (s.sumLimit g1.lined < g1.count)
            let g2 := { g1 with longsum := g1.longsum || long }
            let bs := natLe (tagWord g2) 16 ++ cs.flatMap (fun c => natLe c.1 4) ++
              (if lined then cs.flatMap (fun c => natLe c.2 4) else [])
            let t2 := t1.writeMem (localAt s.now) d.dst bs
            let t3 := cs.zipIdx.foldl (fun t c => t.monitor (d.dst + 16 + 4 * c.2) (fp32 c.1.1) false false) t2
            let t4 := { t3 with longsum := t3.longsum + b2n long,
                                nonfin := t3.nonfin + b2n (nonfin && (restart || !g.nonfin)) }
            s.setTile p t4.endDrain

/-- DRAIN_COMPLETE (R111, R164–R170): the tile's oldest drain takes effect, if it drains this slot.
(DESIGN CHOICE, log entry 18) -/
def execDrainComplete (tile : TileId) (slot : Fin 8) (s : State) : Res :=
  match s.physOf tile.val with
  | none => .fault .noSuchTile
  | some p =>
    .next (match (s.tile p).drains with
      | d :: _ => if d.slot = slot.val then (s.runDrain p d).asyncDone p else s
      | [] => s)

/- ### XWAIT and ACCRD -/

def bodyXwait (iw : Word64) (s : State) (p : Nat) : Issued :=
  let t := s.tile p
  if (nth t.slots (iwObj iw) {}).mode = .draining then .stall s else .done (s.setTile p (t.setPred (iwPS iw) true))

/-- XWAIT (R88, R92, R111): it returns when the slot is not DRAINING. -/
def execXwait (tile : TileId) (iw : Word64) (s : State) : Res :=
  issue tile iw (rowOf iw 3 2) [] (opIllegal iw 2 || !wFormOk iw || decide (7 < iwObj iw) || iwImm iw != 0)
    (bodyXwait iw) s

/-- The 6,160 B that ACCRD writes (R183). -/
def accrdBytes (x : SlotSt) : List Byte :=
  (List.range 768).flatMap (fun n =>
    natLe (if x.heritage then fmtW40.rne (fp32 (x.cell n)) else x.cell n) 8) ++
    natLe (x.count % 2 ^ 13 + 2 ^ 16 * (if x.mode = .opened then 1 else 0)) 16

def bodyAccrd (iw : Word64) (s : State) (p : Nat) : Issued :=
  let t := s.tile p
  let a := (t.reg (iwA iw)).toNat
  let x := nth t.slots (iwObj iw) {}
  if t.rd Reg.MN_TILE_DBG_ACC_EN = 0 then .fault fcDebug 0
  else match accessFault a 6160 16 with
    | some f => .fault f.1 f.2
    | none =>
      if x.mode = .draining then .stall s
      else .done (s.setTile p (t.wideStore s.now a (accrdBytes x)))

/-- ACCRD (R113, R183). -/
def execAccrd (tile : TileId) (iw : Word64) (s : State) : Res :=
  issue tile iw (rowOf iw 9 2) [iwA iw] (opIllegal iw 2 || !wFormOk iw || iwPS iw != 0 || decide (7 < iwObj iw) ||
    iwImm iw != 0) (bodyAccrd iw) s

end Sys2Proof.Machine
end

