-- ==== Sys2Proof/Machine/Resets.lean ====
section
/-! DEFINITION. The host-side reset and the PCIe crossings (R465, R481), the on-demand test (R476), and the thaw of a
firmware core (R420). -/

namespace Sys2Proof.Machine

/-- PCIE_RESET (R422, R424, R465, R481, R497): an F reset. -/
def execPcieReset (s : State) : Res :=
  let s1 := s.resetF
  .next { s1 with snaps := s1.snaps.filter (fun x => x.port != .host) }

/-- PCIE_XARM (R481): the PCIe crossings are being armed. -/
def execPcieXarm (s : State) : Res := .next { s with test := { s.test with pcieArming := true } }

/-- PCIE_XARM_DONE (R481). -/
def execPcieXarmDone (s : State) : Res :=
  .next (
    if s.test.pcieArming then { s.flag Reg.BI_XARM_DONE with test := { s.test with pcieArming := false } } else s)

/-- ONDEMAND_TEST (R476, R483): a write of `BI_REQ.START` starts a test while the job is EMPTY and the phase idle; any other
request, and one with the reserved TEST code, is refused.
(DEDUCED, log entry 56) -/
def execOndemandTest (s : State) : Res :=
  .next (
    if s.jobState = jbEmpty ∧ s.phase = phIdle ∧ s.test.running = none ∧ s.rd Reg.BI_REQ_TEST ≠ 3 then
      { s.wr Reg.BI_STAT_STATE 1 with test := { s.test with running := some (s.rd Reg.BI_REQ_UNIT), since := s.now } }
    else if s.test.running = none then s.wr Reg.BI_STAT_STATE 3
    else s)

/-- A tile position that the test found bad changes the row map of its die, or the module takes no further job (R213). -/
def State.dropPosition (s : State) (d r : Nat) : State :=
  if s.dieOk d then
    if s.rowsWanted = 48 then s.setRow d r (s.rowFor d r) else s.buildDie d
  else s.stopModule 1 d

/-- The unit is at its reset values and its memory zero after the test (R470); a link core's link is DOWN.
(DEDUCED, log entry 56) -/
def State.reinitUnit (s : State) (r : TestResult) : State := match r.kind with
  | .tile => { s with tiles := smDel s.tiles (unitDie r.unit.toNat * 1584 + unitIndex r.unit.toNat) }
  | .xLink n => (Reg.blockLK n.val).foldl (fun s f => s.wr f f.reset) ((s.leaveUp n.val lkDown).setLink n.val {})
  | _ => s

/-- The positions that a result makes bad are recorded (R474, R476). -/
def State.recordResult (s : State) (r : TestResult) : State :=
  let d := unitDie r.unit.toNat
  let i := unitIndex r.unit.toNat
  match r.kind with
  | .tile => (s.recordBad (d * 1584 + i)).dropPosition d (i / 33)
  | .router => (s.recordBad (d * 1584 + i)).dropPosition d (i / 33)
  | .paths row => ((List.range 33).foldl (fun (s : State) c => s.recordBad (d * 1584 + row.val * 33 + c)) s).dropPosition d row.val
  | _ => s

/-- ONDEMAND_TEST_DONE (R470, R474, R476): the result is taken, and a bad position changes the row map and is recorded. The end
of a test that does not run is none.
(DEDUCED, log entry 56) -/
def execOndemandTestDone (res : TestResult) (s : State) : Res :=
  match s.test.running with
  | none => .next s
  | some u =>
    if res.unit.toNat ≠ u then .next s
    else
      let bad := s.unusable res
      let s1 := (State.reinitUnit { s with test := { s.test with running := none } } res).takeResult res
      let s2 := if bad then s1.recordResult res else s1
      .next (s2.wr Reg.BI_STAT_STATE (if bad then 3 else 2))

/-- CORE_WATCHDOG (R393, R420, R467): the core takes a T reset and thaws; during a scrub, which is a J reset, once that completes.
(DEDUCED, log entry 55) -/
def execCoreWatchdog (core : Fin 20) (s : State) : Res :=
  .next (
    if (nth s.host.cores core.val {}).state ≠ 0 then s
    else if s.jobState = jbScrubbing then
      if s.host.heldT.contains core.val then s else { s with host := { s.host with heldT := core.val :: s.host.heldT } }
    else s.thawCore core.val)

/-- CORE_THAW_DONE (R420): the core runs again and re-arms its watchdog. -/
def execCoreThawDone (core : Fin 20) (s : State) : Res :=
  .next (
    if (nth s.host.cores core.val {}).state = 1 then
      { s with host := { s.host with cores := modNth s.host.cores core.val (fun c => { c with state := 0, armedAt := s.now }) } }
    else s)

end Sys2Proof.Machine
end

