-- ==== Sys2Proof/Machine/Security.lean ====
section
/-! DEFINITION. Security commands: revocation (R488), firmware update (R492), SPDM and CSIGN (R493–R496), the debug unlock and
scan (R499, R500), and the keys of PCIe IDE (R497). -/

namespace Sys2Proof.Machine

/-- The codes of a reply: the request was served, or it receives an error. -/
def rpDone : Nat := 0
def rpUnsupported : Nat := 1
def rpBusy : Nat := 2
def rpRefused : Nat := 3

/-- The answer to a request of the management port.
(DESIGN CHOICE, log entry 62) -/
def State.reply (s : State) (code : Nat) (data : List Byte) : State := s.emit (.reply code data)

/-- The device is in scan (R500). -/
def State.inScan (s : State) : Bool := s.on Reg.SC_DBG_STAT_SCAN

/- ### Objects -/

/-- The mask of a revocation order (R488). -/
def orderMask (o : SignedObj) : Nat := leNat o.payload % 16

/-- A revocation order is accepted (R487, R488). -/
def State.orderOk (s : State) (o : SignedObj) : Bool :=
  s.accepts o 6 && o.payload.length == 1 && !hasBit (orderMask o) (hdSlot o.head) &&
    (List.range 4).any (fun k => !hasBit (orderMask o) k && s.slotLive k)

/-- REVOCATION_ORDER (R488).
(DEDUCED, log entry 61) -/
def execRevocationOrder (ord : SignedObj) (s : State) : Res :=
  .next (
    if s.orderOk ord then
      State.reply { s with sec := { s.sec with revoked := s.sec.revoked ||| orderMask ord } } rpDone []
    else s.reply rpRefused [])

/-- PLDM_FW_UPDATE (R492): the image that is not running, or a configuration copy, is replaced by an object that is accepted; it
takes effect at the next P or W.
(DESIGN CHOICE, log entry 62) -/
def execPldmFwUpdate (up : UpdateObj) (s : State) : Res :=
  .next (
    if up.image then
      (if s.accepts up.obj 1 then
        State.reply { s with sec := { s.sec with
          images := modNth s.sec.images (1 - s.rd Reg.FW_STAT_IMAGE) (fun _ => some up.obj) } } rpDone []
      else s.reply rpRefused [])
    else if s.accepts up.obj 2 then
      State.reply { s with sec := { s.sec with configs := modNth s.sec.configs up.copy.val (fun _ => some up.obj) } } rpDone []
    else s.reply rpRefused [])

/- ### SPDM -/

/-- The highest of the versions 1.2 and 1.3 that is offered, as 0x12 and 0x13 (R493). -/
def spdmVersion (offered : List Nat) : Option Nat := [0x13, 0x12].find? (fun v => offered.contains v)

/-- The measurements that a request names (R493): one of 1–5, or all of them. -/
def State.measured (s : State) (index : Nat) : Option (List Byte) :=
  if 1 ≤ index ∧ index ≤ 5 then some (s.measurement index)
  else if index = 0xFF then some ((List.range 5).flatMap (fun i => s.measurement (i + 1)))
  else if index = 0 then some [5]
  else none

/-- What the responder answers to a request (R493, R500): the supported capabilities CERT, CHAL, MEAS with signature, KEY_EX,
ENCRYPT and MAC are numbered in this order, and so are the four algorithms.
(DESIGN CHOICE, log entry 62) -/
def State.spdmAnswer (s : State) : SpdmReq → Nat × List Byte
  | .version offered => (match spdmVersion offered with
    | some v => (rpDone, natLe v 1)
    | none => (rpUnsupported, []))
  | .capabilities => (rpDone, natLe 0x3F 1)
  | .algorithms => (rpDone, natLe 0x0F 1)
  | .certificate slot => if slot.val = 0 ∧ ¬ s.inScan then (rpDone, Config.ownChain) else (rpUnsupported, [])
  | .challenge slot transcript =>
    if slot.val = 0 ∧ ¬ s.inScan then (rpDone, Config.ecdsaSign (Config.sha384 transcript)) else (rpUnsupported, [])
  | .measurements index signed transcript => (match s.measured index with
    | some m =>
      if s.inScan then (rpUnsupported, [])
      else if signed then (rpDone, m ++ Config.ecdsaSign (Config.sha384 (transcript ++ m)))
      else (rpDone, m)
    | none => (rpUnsupported, []))
  | .keyExchange transcript =>
    if s.inScan then (rpUnsupported, []) else (rpDone, Config.ecdsaSign (Config.sha384 transcript))
  | .finish ok => if ok ∧ ¬ s.inScan then (rpDone, []) else (rpRefused, [])
  | .endSession => (rpDone, [])
  | .other => (rpUnsupported, [])

/-- Whether a session is up after a request. -/
def State.spdmSession (s : State) : SpdmReq → Bool
  | .finish ok => s.sec.session || (ok && !s.inScan)
  | .endSession => false
  | _ => s.sec.session

/-- SPDM_REQUEST (R493).
(DESIGN CHOICE, log entry 62) -/
def execSpdmRequest (rq : SpdmReq) (s : State) : Res :=
  let r := s.spdmAnswer rq
  .next (State.reply { s with sec := { s.sec with session := s.spdmSession rq } } r.1 r.2)

/-- The interval between two CSIGN signatures in ns (R494, R502). -/
def State.signGap (s : State) : Nat := 1000000000 * max 30 (s.rd Reg.SC_CTL_LMS_INT)

/-- A CSIGN comes too soon (R494). -/
def State.signBusy (s : State) : Bool := match s.sec.lastSign with
  | some t => decide (s.now < t + s.signGap)
  | none => false

/-- CSIGN (R494–R496): the value is signed with the next index, whose window has been marked and which the journal holds before
the signature is released. A request without a 48 B value is outside the list of R493.
(DEDUCED, log entry 61) -/
def execCsign (msg : List Byte) (s : State) : Res :=
  .next (
    if msg.length ≠ 48 ∨ s.inScan ∨ 16384 ≤ s.sec.mark then s.reply rpUnsupported []
    else if s.signBusy then s.reply rpBusy []
    else
      let q := s.sec.lmsIdx
      State.reply { s with sec := { s.sec with
        mark := if q = s.sec.mark * 1024 then s.sec.mark + 1 else s.sec.mark, journal := some q, lmsIdx := q + 1,
        lastSign := some s.now } } rpDone (Config.hssSign q msg ++ natLe q 4))

/- ### Debug unlock and scan -/

/-- A request of the debug unlock (R499): a new nonce is drawn, and any earlier one is discarded. -/
def State.issueNonce (s : State) : State :=
  { s with sec := { s.sec with
    nonce := (List.range 16).map (Config.nonceByte s.sec.nonces), unlocked := none, nonces := s.sec.nonces + 1 } }

/-- DEBUG_NONCE_REQUEST (R499).
(DEDUCED, log entry 61) -/
def execDebugNonceRequest (s : State) : Res := .next s.issueNonce

/-- A token is accepted (R487, R499): for the nonce that is issued, with a scope that has no reserved bit.
(DEDUCED, log entry 61) -/
def State.tokenOk (s : State) (o : SignedObj) : Bool :=
  s.accepts o 4 && o.payload.length == 32 && s.sec.nonce != [] && o.payload.take 16 == s.sec.nonce &&
    decide (leAt o.payload 16 4 < 64) && zeroAt o.payload 24 8

/-- UNLOCK (R499): inside a secured session, an accepted token unlocks the device for its scope.
(DEDUCED, log entry 61) -/
def execUnlock (tok : DebugToken) (s : State) : Res :=
  .next (
    if s.sec.session && s.tokenOk tok.obj then
      State.reply (State.extend { s with sec := { s.sec with
        nonce := [], unlocked := some (leAt tok.obj.payload 16 4) } } 4 (objDigest tok.obj)) rpDone []
    else (s.flag Reg.SC_DBG_STAT_TOKEN_FAIL).reply rpRefused [])

/-- The unlock ends (R499). -/
def State.endUnlock (s : State) : State := { s with sec := { s.sec with unlocked := none } }

/-- RELOCK (R499).
(DEDUCED, log entry 61) -/
def execRelock (s : State) : Res := .next s.endUnlock

/-- The device enters scan (R500): the links go DOWN, AT enters ISOLATED, and every secret and session is gone. -/
def State.enterScan (s : State) : State :=
  let s1 := (List.range 36).foldl (fun (s : State) n => s.leaveUp n lkDown) s
  let s2 := s1.enterIsolated
  let s3 : State := { s2 with sec := { s2.sec with session := false, ide := [] } }
  (((s3.extend 4 textScan).flag Reg.SC_DBG_STAT_ZERO_DONE).flag Reg.SC_DBG_STAT_SCAN)

/-- A scan request (R500): refused unless the device is unlocked for it and holds no job. -/
def State.requestScan (s : State) : State :=
  if s.unlockScope 4 ∧ s.jobState = jbEmpty then s.enterScan else s.flag Reg.SC_DBG_STAT_TOKEN_FAIL

/-- SCAN_EN (R500).
(DEDUCED, log entry 61) -/
def execScanEn (s : State) : Res := .next s.requestScan

/- ### PCIe IDE -/

/-- IDE_KM (R497): inside a secured session, the keys of a stream are set, or the stream ends. -/
def execIdeKm (rq : IdeReq) (s : State) : Res :=
  .next (
    if s.sec.session then
      let rest := s.sec.ide.filter (· != rq.stream.val)
      State.reply { s with sec := { s.sec with ide := if rq.on then rq.stream.val :: rest else rest } } rpDone []
    else s.reply rpRefused [])

end Sys2Proof.Machine
end

