-- ==== Sys2Proof/Machine/Registers.lean ====
section
/-! DEFINITION. Register words as they read, and reads and writes of the CSR space and of BAR4 (R14, R16, R421, R422,
R509–R515). An address is a BAR0 offset on both ports; from 0x100_0000 on it is a BAR4 offset of the host. -/

namespace Sys2Proof.Machine

/- ### Fields that are not stored -/

/-- `AT_LDELAY`, `AT_LASYM`, `AT_LADJ` and `AT_LSTAT` of the link that the port selects (R46); links 36–63 read 0. -/
def State.readLinkTime (s : State) (port : Port) (f : Fld) : Option Nat :=
  let n := s.rdPort port Reg.AT_LSEL_LINK
  let l := s.link n
  let v : Option Nat :=
    if f = Reg.AT_LDELAY_DELAY then some (max 0 l.d).toNat
    else if f = Reg.AT_LASYM_ASYM then some (toSigned 20 l.alpha)
    else if f = Reg.AT_LADJ_ADJ then some l.ladj.toNat
    else if f = Reg.AT_LSTAT_REJ then some l.rej
    else if f = Reg.AT_LSTAT_PEER_DEPTH then some (s.peerTree n).depth
    else if f = Reg.AT_LSTAT_PEER_GEN then some (s.peerTree n).gen
    else if f = Reg.AT_LSTAT_IS_PARENT then some (b2n (s.parent == some n))
    else none
  if n < 36 then v else v.map (fun _ => 0)

/-- `TK_HALL.UP`, `TK_PEND` and `TK_HOLDOUT` (R52, R65, R80). A tree has an open round while it has a member tile and its round
is not complete.
(DEDUCED, log entry 24) -/
def State.readTack (s : State) (port : Port) (f : Fld) : Option Nat :=
  let k := s.rdPort port Reg.TK_SEL_TREE
  if f = Reg.TK_HALL_UP then some s.upLevels
  else if f = Reg.TK_PEND_PEND then
    some ((List.range 32).foldl (fun m t =>
      if s.tiles.any (fun e => e.2.isMember t) && !(smGet s.tacks t {}).done then setBit m t else m) 0)
  else if f = Reg.TK_HOLDOUT_FIRST then some ((s.tileHoldouts k).head?.getD 0x1FFF)
  else if f = Reg.TK_HOLDOUT_COUNT then some (s.tileHoldouts k).length
  else if f = Reg.TK_HOLDOUT_ENG then some (s.engHoldout k)
  else none

/-- `MN_FAB_ROW` of the row that the port selects (R213, R215): a staged claim reads as its row will be; LROW has its Reset value
until the self-test has built the map of the die. -/
def State.readRow (s : State) (port : Port) (f : Fld) : Option Nat :=
  let d := s.rdPort port Reg.MN_FAB_ROWSEL_DIE
  let r := s.rdPort port Reg.MN_FAB_ROWSEL_PROW
  let st := s.fab.staged.find? (fun e => e.1 == d * 48 + r)
  let v : Option Nat :=
    if f = Reg.MN_FAB_ROW_MODE then some (match st with
      | some _ => 1
      | none => s.rowMode d r)
    else if f = Reg.MN_FAB_ROW_BAD then some (match st with
      | some e => e.2
      | none => s.rowBad d r)
    else if f = Reg.MN_FAB_ROW_LROW then
      some (if s.fab.built.contains d ∧ (s.enabledRows d).contains r then (s.enabledRows d).idxOf r else 63)
    else if f = Reg.MN_FAB_ROW_RTR_FAIL then some (b2n (s.fab.routerFail.contains (d * 48 + r)))
    else none
  if r < 48 then v else v.map (fun _ => 0)

/-- The logical tiles whose idle half is not ready, in rising order (R255); none, as the reset value says, while no job is
loaded.
(DEDUCED, log entry 24; DEDUCED, log entry 24) -/
def State.notReady (s : State) : List Nat :=
  if s.host.img.isSome then
    (List.range 6144).filter (fun t => match s.physOf t with
      | some p => !(s.tile p).patIdle.ready
      | none => false)
  else []

/-- `PT_NR` and `SM_TT.NATIVE` (R236, R254). -/
def State.readSeam (s : State) (f : Fld) : Option Nat :=
  if f = Reg.PT_NR_FIRST then some (s.notReady.head?.getD 0x1FFF)
  else if f = Reg.PT_NR_COUNT then some s.notReady.length
  else if f = Reg.SM_TT_NATIVE then some s.nativeTable
  else none

/-- `SQ_STAT` and `HV_STAT` of an M die (R315, R384): BUSY counts the entries of its half of the table that are in use. -/
def State.readMdie (s : State) (m : Nat) (f : Fld) : Option Nat :=
  if f = Reg.SQ_STAT_BUSY m then
    some (s.seqs.filter (fun e => e.1 / 2048 == m && e.2.w0.toNat % 4 != 0)).length
  else if f = Reg.SQ_STAT_QUEUED m then some (nth s.mdies m {}).waiting.length
  else if f = Reg.HV_STAT_STATE m then some (s.hv m).state
  else if f = Reg.HV_STAT_CIDX m then some (s.hv m).idx
  else none

/-- `JB_STAT.BATCH_OK` and `JB_HB_AGE` (R440): the next step is the one after the running one, else the one to start.
(DEDUCED, log entry 24) -/
def State.readJob (s : State) (f : Fld) : Option Nat :=
  if f = Reg.JB_STAT_BATCH_OK then
    some (b2n (s.host.img.isSome &&
      s.batchReady (if s.phase = phIdle ∨ s.phase = phHem then s.stepNo else s.stepNo + 1)))
  else if f = Reg.JB_HB_AGE_MS then some (min ((s.now - s.host.hbAt) / 1000000) (2 ^ 32 - 1))
  else none

/-- `FW_CORE_WDOG` and `FW_CORE_STAT` of the core that the port selects (R439); cores 20–31 read 0. -/
def State.readCore (s : State) (port : Port) (f : Fld) : Option Nat :=
  let k := s.rdPort port Reg.FW_CORE_SEL_CORE
  let c := nth s.host.cores k { limit := 0 }
  if f = Reg.FW_CORE_WDOG_LIMIT then some c.limit
  else if f = Reg.FW_CORE_STAT_STATE then some c.state
  else if f = Reg.FW_CORE_STAT_THAWS then some c.thaws
  else none

/-- `SC_` fields that the fuses, the journal, the debug unlock and IDE give (R488, R494, R497, R499, R502). -/
def State.readSec (s : State) (f : Fld) : Option Nat :=
  if f = Reg.SC_FUSE_FW_SVN then some s.sec.fwSvn
  else if f = Reg.SC_FUSE_CFG_SVN then some s.sec.cfgSvn
  else if f = Reg.SC_FUSE_REVOKED then some s.sec.revoked
  else if f = Reg.SC_LMS_IDX_NEXT then some s.sec.lmsIdx
  else if f = Reg.SC_LMS_MARK_MARK then some s.sec.mark
  else if f = Reg.SC_LMS_MARK_EXHAUSTED then some (b2n (decide (16384 ≤ s.sec.mark)))
  else if f = Reg.SC_DBG_STAT_STATE then
    some (if s.sec.unlocked.isSome then 2 else if s.sec.nonce ≠ [] then 1 else 0)
  else if f = Reg.SC_DBG_STAT_SCOPE then some (s.sec.unlocked.getD 0)
  else if f = Reg.SC_IDE_LINK then some (b2n (s.sec.ide.contains 0))
  else if f = Reg.SC_IDE_SEL then some (s.sec.ide.filter (fun x => x != 0)).length
  else if (Reg.SC_DBG_NONCE_VALUE 0).addr ≤ f.addr ∧ f.addr ≤ (Reg.SC_DBG_NONCE_VALUE 3).addr then
    some (leAt s.sec.nonce (f.addr - (Reg.SC_DBG_NONCE_VALUE 0).addr) 4)
  else none

/-- `ID_` fields, from the fuses of the die that the port selects (R503). -/
def State.readId (s : State) (port : Port) (f : Fld) : Option Nat :=
  let d := s.rdPort port Reg.ID_SEL_DIE
  if f = Reg.ID_DIE_LOT_LOT then some (nth s.sec.dies d {}).lot
  else if f.addr = Reg.ID_DIE_POS_X.addr then some (f.pick (s.diePos d))
  else if f = Reg.ID_MOD_SER_LO_VALUE then some s.sec.serial
  else if f = Reg.ID_MOD_SER_HI_VALUE then some (s.sec.serial / 2 ^ 32)
  else if f = Reg.ID_MOD_GRADE then some (b2n s.sec.gradeB)
  else if f = Reg.ID_MOD_CAP then some s.sec.capacity
  else none

/-- The value of a field that the state holds outside `regs`.
(DEDUCED, log entry 24) -/
def State.liveField (s : State) (port : Port) (f : Fld) : Option Nat :=
  match f.addr / 0x10000 with
  | 0x00 => s.readLinkTime port f
  | 0x01 => s.readTack port f
  | 0x02 => s.readRow port f
  | 0x03 => s.readSeam f
  | 0x04 => s.readSeam f
  | 0x12 => s.readMdie 0 f
  | 0x13 => s.readMdie 0 f
  | 0x1A => s.readMdie 1 f
  | 0x1B => s.readMdie 1 f
  | 0x30 => s.readJob f
  | 0x31 => s.readCore port f
  | 0x39 => if f = Reg.BI_NVREC_COUNT then some s.test.nvm.length else none
  | 0x3A => s.readSec f
  | 0x3B => s.readId port f
  | _ => none

/- ### Reads -/

/-- A field as a port reads it (R14, R515): a write-only field reads 0. -/
def State.readField (s : State) (port : Port) (f : Fld) : Nat :=
  if f.ty = .wo then 0 else ((s.liveField port f).getD (s.rdAt port f)) % 2 ^ f.width

/-- The word at a BAR0 offset (R16): reserved bits and offsets between registers read 0. -/
def State.readWord (s : State) (port : Port) (a : Nat) : Nat :=
  (Reg.fieldsAt a).foldl (fun x f => x + 2 ^ f.lo * s.readField port f) 0

/-- An RC field restarts from 0 (R14, R514). -/
def State.clearRc (s : State) (f : Fld) : State :=
  if f.ty ≠ .rc then s
  else if f = Reg.AT_LSTAT_REJ then
    let n := s.rd Reg.AT_LSEL_LINK
    if n < 36 then s.modLink n (fun l => { l with rej := 0 }) else s
  else if f = Reg.FW_CORE_STAT_THAWS then
    { s with host := { s.host with cores := modNth s.host.cores (s.rd Reg.FW_CORE_SEL_CORE) (fun c => { c with thaws := 0 }) } }
  else s.wr f 0

/-- The first BAR4 offset among the addresses of the host. -/
def bar4Base : Nat := 0x1000000

/-- The device address of BAR0 offset 0 (R504). -/
def csrBase : Nat := 0x6000000000

/-- A BAR0 offset of the tile-window aperture (R506, R511). -/
def inAperture (a : Nat) : Bool := decide (0x800000 ≤ a ∧ a < 0xC00000)

/-- RC_FIELD_READ (R14, R16, R421, R497, R509, R510, R514): the word of a register is answered, and a read by firmware
clears its RC fields. The host reaches tile windows through the aperture (R511); nothing is mapped behind the CSR space (R505).
(DEDUCED, log entry 46; DEDUCED, log entry 63) -/
def execRcFieldRead (port : Port) (addr : Nat) (s : State) : Res :=
  if port = .host ∧ inAperture addr = true then execTileWindowRead port addr 4 s
  else .next (
    if s.ideDrops port then s.countDrop.answer port [] false
    else if addr % 4 ≠ 0 then s.answer port (natLe 0 4) false
    else if port = .host ∧ bar4Base ≤ addr then s.answer port (natLe (s.readB4 (addr - bar4Base)) 4) false
    else if port = .fw ∧ bar4Base ≤ addr then (s.logUnmapped port (csrBase + addr)).answer port (natLe 0 4) false
    else
      let s1 := s.answer port (natLe (s.readWord port addr) 4) false
      if port = .fw then (Reg.fieldsAt addr).foldl State.clearRc s1 else s1)

/- ### Writes -/

/-- The SNAP register of each block, and the block. -/
def snapRegs : List (Nat × SnapBlock) :=
  [(Reg.AT_SNAP_SNAP.addr, .at_), (Reg.TK_SNAP_SNAP.addr, .tk), (Reg.MN_SNAP_SNAP.addr, .mn), (Reg.BB_SNAP_SNAP.addr, .bb),
    ((Reg.SP_SNAP_SNAP 0).addr, .sp 0), ((Reg.SP_SNAP_SNAP 1).addr, .sp 1), ((Reg.SQ_SNAP_SNAP 0).addr, .sq 0),
    ((Reg.SQ_SNAP_SNAP 1).addr, .sq 1), ((Reg.HV_SNAP_SNAP 0).addr, .hv 0), ((Reg.HV_SNAP_SNAP 1).addr, .hv 1),
    (Reg.PW_SNAP_SNAP.addr, .pw), (Reg.SC_SNAP_SNAP.addr, .sc)]

/-- A write with SNAP at 1 captures the set of the block (R17, R480); other values do nothing. -/
def State.writeSnap (s : State) (port : Port) (a v : Nat) : Option State :=
  match snapRegs.find? (fun e => e.1 == a) with
  | some e => some (if hasBit v 0 then s.snap e.2 port else s)
  | none => none

/-- `SC_DBG_CTL` (R499, R500, R502): the end of an unlock, then a scan request, then a new nonce. -/
def State.writeDebug (s : State) (v : Nat) : State :=
  let s1 := if hasBit v 2 then s.endUnlock else s
  let s2 := if hasBit v 1 then s1.requestScan else s1
  if hasBit v 0 then s2.issueNonce else s2

/-- No test result, no NVM object and no failing die comes with a reset that a register write requests.
(DESIGN CHOICE, log entry 6; DEDUCED, log entry 55) -/
def quietBoot : BootEnv := ⟨none, [], none, none, []⟩

/-- `LK_nn_CTL` (R339, R349, R350): what the written bits start, after the fields have taken their values. A link that is no
longer enabled does not run. -/
def State.writeLinkCtl (s : State) (n : Fin 36) (v : Nat) : Res :=
  let was := s.on (Reg.LK_CTL_EN n.val)
  let s1 := s.storeWord .fw (Reg.LK_CTL_EN n.val).addr v
  if hasBit v 4 then execLinkReset n s1
  else if was ∧ ¬ s1.on (Reg.LK_CTL_EN n.val) then .next (if s1.lkState n.val = lkFailed then s1 else s1.leaveUp n.val lkDown)
  else if hasBit v 3 then execLinkRetrain n s1
  else .next (s1.tryTrain n.val)

/-- A register of a link is written by firmware.
(DEDUCED, log entry 44) -/
def State.writeLink (s : State) (n : Fin 36) (a v : Nat) : Res :=
  if a = (Reg.LK_CTL_EN n.val).addr then s.writeLinkCtl n v
  else
    let s1 := s.storeWord .fw a v
    if a = (Reg.LK_XARM_ARM n.val).addr ∧ hasBit v 0 then execXarmArm n s1 else .next s1

/-- Registers that firmware may write only while the phase is idle (R80, R81, R157, R184).
(DEDUCED, log entry 63) -/
def idleOnly (a : Nat) : Bool :=
  [Reg.TK_LEAD_HALL.addr, Reg.TK_HEM_WIN.addr, Reg.TK_WDOG_LIMIT.addr, Reg.MN_SR_SEED_LO_VALUE.addr,
    Reg.MN_SR_SEED_HI_VALUE.addr, Reg.MN_NUM_CTL_LIMIT.addr].contains a ||
  decide ((Reg.TK_BIND_KIND 0).addr ≤ a ∧ a ≤ (Reg.TK_BIND_KIND 31).addr)

/-- `AT_LADJ` of the link that firmware selects (R27, R46). -/
def State.writeLadj (s : State) (v : Nat) : State :=
  let n := s.rd Reg.AT_LSEL_LINK
  if n < 36 ∧ ¬ s.on Reg.AT_CTL_LOCK then s.modLink n (fun l => { l with ladj := BitVec.ofNat 16 v }) else s

/-- `JB_RCV_LAST_0` (R416): a write with VALID at 0 clears the four words of the record. -/
def State.writeLastWord (s : State) (v : Nat) : State :=
  let s1 := s.storeWord .fw Reg.JB_RCV_LAST_0_VALID.addr v
  if hasBit v 31 then s1
  else (Reg.blockJB.filter (fun f => decide (Reg.JB_RCV_LAST_0_VALID.addr ≤ f.addr ∧ f.addr ≤ Reg.JB_RCV_LAST_3_VALUE.addr))).foldl
    (fun s f => s.wr f f.reset) s1

/-- `JB_RCV_STAT.STATE` (R398, R416): firmware writes 3, or 4 when the rewind is done; other values are ignored. -/
def State.writeRecovery (s : State) (v : Nat) : Res :=
  if v % 8 = 3 then .next (s.wr Reg.JB_RCV_STAT_STATE 3)
  else if v % 8 = 4 then execRewindDone s
  else .next s

/-- `TK_NEXT` (R72): what it held before the first write of this cycle is kept, since the capture of this cycle takes that. -/
def State.writeNext (s : State) (a v : Nat) : State :=
  let old := match s.step.nextOld with
    | some (t, c, w) => if t = s.now then (t, c, w) else (s.now, s.rd Reg.TK_NEXT_MB_COUNT, s.on Reg.TK_NEXT_VALID)
    | none => (s.now, s.rd Reg.TK_NEXT_MB_COUNT, s.on Reg.TK_NEXT_VALID)
  State.storeWord { s with step := { s.step with nextOld := some old } } .fw a v

/-- A write on an M die's engines (R304, R309): zeroing, or a slot command. -/
def State.writeEngine (s : State) (m : Fin 2) (a v : Nat) : Res :=
  let s1 := s.storeWord .fw a v
  if a = (Reg.MM_ZCTL_START m.val).addr then (if hasBit v 0 then execZeroStart m s1 else .next s1)
  else if a = (Reg.SQ_CMD_CMD m.val).addr then .next (if v % 4 = 0 then s1 else s1.slotCommand m.val (v % 4))
  else .next s1

/-- A word is written by firmware, with what it starts.
(DEDUCED, log entry 41; DEDUCED, log entry 49; DEDUCED, log entry 63) -/
def State.writeFw (s : State) (a v : Nat) : Res :=
  if idleOnly a ∧ s.phase ≠ phIdle then .next (s.bump Reg.FW_CNT_RANGE_HOST 1)
  else if h : 0x200000 ≤ a ∧ (a - 0x200000) / 0x1000 < 36 then s.writeLink ⟨(a - 0x200000) / 0x1000, h.2⟩ a v
  else if a = Reg.AT_CTL_START.addr then
    (if hasBit v Reg.AT_CTL_START.lo then execAtStart (s.storeWord .fw a v) else .next (s.storeWord .fw a v))
  else if a = Reg.AT_LADJ_ADJ.addr then .next (s.writeLadj v)
  else if a = Reg.TK_NEXT_VALID.addr then .next (s.writeNext a v)
  else if a = Reg.MN_FAB_ROW_MODE.addr then execRowMapWrite (BitVec.ofNat 32 v) s
  else if a = Reg.PW_LIMIT_MODULE.addr then execPowerLimitWrite (BitVec.ofNat 32 v) s
  else if a = Reg.BI_RST_KEY.addr then execWarmReset (BitVec.ofNat 32 v) quietBoot s
  else if a = Reg.BI_REQ_START.addr then
    (if hasBit v 31 then execOndemandTest (s.storeWord .fw a v) else .next (s.storeWord .fw a v))
  else if a = Reg.BI_XARM_PCIE.addr then
    (if hasBit v 0 then execPcieXarm (s.storeWord .fw a v) else .next (s.storeWord .fw a v))
  else if a = Reg.SC_DBG_CTL_REQ.addr then .next (s.writeDebug v)
  else if a = Reg.JB_RCV_STAT_STATE.addr then s.writeRecovery v
  else if a = Reg.JB_RCV_LAST_0_VALID.addr then .next (s.writeLastWord v)
  else if 0x110000 ≤ a ∧ a < 0x130000 then s.writeEngine 0 a v
  else if 0x190000 ≤ a ∧ a < 0x1B0000 then s.writeEngine 1 a v
  else .next (s.storeWord .fw a v)

/-- The host may write a register through BAR0 (R510): a select register of which it has a copy, or a register of the list;
the staging registers `SQ_ENT_k` have a read-only host copy (R515).
(DEDUCED, log entry 63) -/
def hostMayWrite (a : Nat) : Bool :=
  (Reg.fieldsAt a).any (fun f => f.dual && f.ty == .rw && f.width != 32) ||
  decide ((Reg.MN_TWIN_SEL_TILE 0).addr ≤ a ∧ a ≤ (Reg.MN_TWIN_SEL_TILE 15).addr) ||
  [Reg.PW_REQ_STATE.addr, Reg.FW_BAR2_BASE_BASE.addr].contains a

/-- A word is written by the host (R510).
(DEDUCED, log entry 63) -/
def State.writeHost (s : State) (a v : Nat) : Res :=
  if a = Reg.BI_RST_KEY.addr then execWarmReset (BitVec.ofNat 32 v) quietBoot s
  else if a = Reg.SC_DBG_CTL_REQ.addr then .next (s.writeDebug v)
  else if hostMayWrite a then .next (s.storeWord .host a v)
  else .next s

/-- The bytes of a BAR4 word that the driver may write: not TAIL (R426). -/
def driverByte (o i : Nat) : Bool :=
  driverWord o && !(decide (0x10000 ≤ o ∧ o % 0x1000 = 8) && decide (2 ≤ i))

/-- A BAR4 word after a write of some of its bytes. -/
def mergeB4 (old o first size v : Nat) : Nat :=
  (List.range 4).foldl (fun x i =>
    let b := if first ≤ i ∧ i < first + size ∧ driverByte o i = true then v / 2 ^ (8 * (i - first)) % 256
      else old / 2 ^ (8 * i) % 256
    x + 2 ^ (8 * i) * b) 0

/-- The driver writes BAR4 (R421–R424, R426): a new value of HEARTBEAT is a heartbeat, and 1 or 2 in ATTACH a request.
(DEDUCED, log entry 63) -/
def State.writeB4 (s : State) (a size v : Nat) : State :=
  let o := a / 4 * 4
  if ¬ ([1, 2, 4].contains size ∧ a % size = 0) ∨ ¬ driverWord o then s
  else
    let w := mergeB4 (s.b4 o) o (a % 4) size v
    let s1 := s.setB4 o w
    if o = b4Heartbeat ∧ w ≠ s.b4 o then { s1 with host := { s1.host with hbAt := s1.now } }
    else if o = b4Attach ∧ (w = 1 ∨ w = 2) then { s1 with host := { s1.host with request := w } }
    else s1

/-- REGISTER_WRITE (R14, R16, R80, R81, R157, R184, R421, R497, R505, R509–R511,
R513–R515).
(DEDUCED, log entry 46; DEDUCED, log entry 63) -/
def execRegisterWrite (port : Port) (addr : Nat) (size : Nat) (value : Word32) (s : State) : Res :=
  if port = .host ∧ inAperture addr = true then execTileWindowWrite port addr (natLe value.toNat size) s
  else if s.ideDrops port then .next s.countDrop
  else if port = .host ∧ bar4Base ≤ addr then .next (s.writeB4 (addr - bar4Base) size value.toNat)
  else if port = .fw ∧ bar4Base ≤ addr then .next (s.logUnmapped port (csrBase + addr))
  else if size ≠ 4 ∨ addr % 4 ≠ 0 then .next s
  else match s.writeSnap port addr value.toNat with
    | some t => .next t
    | none => (match port with
      | .host => s.writeHost addr value.toNat
      | .fw => s.writeFw addr value.toNat)

end Sys2Proof.Machine
end

