-- ==== Sys2Proof/Machine/Scalar.lean ====
section
/-! DEFINITION. The scalar and the load/store instructions of a tile (R84–R90, R101, R104, R106). Their opcodes are listed
outside the spec (R87): the command names the operation, and results that only the opcode decides are opaque functions. -/

namespace Sys2Proof.Machine

/-- The second operand: the immediate of format I, or register B. -/
def Tile.second (t : Tile) (iw : Word64) (imm : Bool) : Word64 := if imm then iwImm40 iw else t.reg (iwB iw)

/-- The function bits that a scalar instruction of format S carries. -/
def scalarFn (iw : Word64) (imm : Bool) : Nat := if imm then 0 else iwFn iw

/-- The target of a branch, of a call or of a return, as an 18-bit PC. -/
def Tile.target (t : Tile) (iw : Word64) : Nat :=
  Config.branchTarget (iwOp iw) (iwBits iw 49 0) t.pc (t.reg (iwA iw)) % 2 ^ 18

/-- A control transfer: a target that is not a multiple of 8 is a MISALIGN fault (R84). -/
def jumpTo (t : Tile) (iw : Word64) (s : State) : Issued :=
  if t.target iw % 8 ≠ 0 then .fault fcAlign (t.target iw) else .goto s (t.target iw)

def bodyScalar (iw : Word64) (op : ScalarOp) (s : State) (p : Nat) : Issued :=
  let t := s.tile p
  match op with
  | .unlisted => .done s
  | .arith imm =>
    .done (s.setTile p (t.setReg (iwD iw)
      (Config.scalarArith (iwOp iw) (scalarFn iw imm) (t.reg (iwA iw)) (t.second iw imm))))
  | .compare imm q =>
    .done (s.setTile p (t.setPred q.val
      (Config.scalarCompare (iwOp iw) (scalarFn iw imm) (t.reg (iwA iw)) (t.second iw imm))))
  | .select imm q =>
    .done (s.setTile p (t.setReg (iwD iw) (if t.pred q.val then t.reg (iwA iw) else t.second iw imm)))
  | .branch _ => jumpTo t iw s
  | .call _ => jumpTo t iw (s.setTile p (t.setReg (iwD iw) (BitVec.ofNat 64 ((t.pc + 8) % 2 ^ 18))))
  | .ret => jumpTo t iw s

/-- The registers that a scalar instruction reads: g[A], g[B] in format S, and the predicate of a select.
(DESIGN CHOICE, log entry 9) -/
def scalarReads (iw : Word64) : ScalarOp → List Nat
  | .unlisted => []
  | .arith imm => if imm then [iwA iw] else [iwA iw, iwB iw]
  | .compare imm _ => if imm then [iwA iw] else [iwA iw, iwB iw]
  | .select imm q => if imm then [iwA iw, 64 + q.val] else [iwA iw, iwB iw, 64 + q.val]
  | .branch _ | .call _ | .ret => [iwA iw]

/-- SCALAR_OP (R84, R85, R87, R89): an opcode that is not listed is ILLEGAL_OP.
(DESIGN CHOICE, log entry 9) -/
def execScalarOp (tile : TileId) (iw : Word64) (op : ScalarOp) (s : State) : Res :=
  issue tile iw (iwClass iw == 0) (scalarReads iw op) (op == .unlisted) (bodyScalar iw op) s

/-- An opcode that is not listed (R87), and the reserved values of format M: SIZE 5–7, bits [36:18], and a SIZE above 8 B with
a g register (R86). -/
def illegalMem (iw : Word64) (op : MemOp) : Bool :=
  !op.listed || (sizeBytes (iwSize iw)).isNone || iwBits iw 36 18 != 0 || (!op.vec && decide (1 < iwSize iw))

/-- The address of a load or store. -/
def Tile.memAddr (t : Tile) (iw : Word64) : Nat := (t.reg (iwA iw) + BitVec.ofNat 64 (iwOff iw)).toNat

/-- The register part of a load (R86): the lanes that it touches, or a general register. -/
def Tile.loadReg (t : Tile) (iw : Word64) (vec : Bool) (bs : List Byte) : Tile :=
  if vec then t.setLanes (iwD iw) ((chunksOf 4 32 bs).map (fun b => BitVec.ofNat 32 (leNat b)))
  else if bs.length = 4 then
    let w := BitVec.ofNat 32 (leNat bs)
    t.setReg (iwD iw) (Config.loadUpper (iwOp iw) w ++ w)
  else t.setReg (iwD iw) (BitVec.ofNat 64 (leNat bs))

/-- The bytes that a store writes. -/
def Tile.storeBytes (t : Tile) (iw : Word64) (vec : Bool) (n : Nat) : List Byte :=
  if vec then ((List.range (n / 4)).flatMap (fun l => natLe (t.lane (iwD iw) l).toNat 4))
  else natLe (t.reg (iwD iw)).toNat n

def bodyMem (iw : Word64) (op : MemOp) (s : State) (p : Nat) : Issued :=
  let t := s.tile p
  let a := t.memAddr iw
  let n := (sizeBytes (iwSize iw)).getD 4
  match accessFault a n n with
  | some f => .fault f.1 f.2
  | none =>
    if op.store then
      let bs := t.storeBytes iw op.vec n
      .done (s.setTile p (if n ≤ 16 then t.narrowStore s.now a bs else t.wideStore s.now a bs))
    else
      let t1 := t.senseProgram a n
      match t1.poisonSeen a n with
      | some e => .faultIn (s.setTile p t1) fcEcc (eccDetail e)
      | none => .done (s.setTile p (t1.loadReg iw op.vec ((t1.seen (localAt s.now)).bytes a n)))

/-- LOAD_STORE (R86, R90, R101, R103, R104, R106, R109).
(DESIGN CHOICE, log entry 9) -/
def execLoadStore (tile : TileId) (iw : Word64) (op : MemOp) (s : State) : Res :=
  issue tile iw (iwClass iw == 1) (if op.store then [iwA iw, iwD iw + (if op.vec then 32 else 0)] else [iwA iw]) (illegalMem iw op)
    (bodyMem iw op) s

end Sys2Proof.Machine
end

