-- ==== Sys2Proof/Machine/TackInstr.lean ====
section
/-! DEFINITION. The tack instructions of a tile (R52, R54, R55, R65, R88, R94–R96). -/

namespace Sys2Proof.Machine

/-- A tree without a member tile: a wait on it is a resource fault (R52). -/
def State.treeEmpty (s : State) (k : Nat) : Bool := s.tiles.all (fun e => !e.2.isMember k)

/-- The reserved fields of TMASK: PS is 0 (R88). -/
def illegalTmask (iw : Word64) : Bool := opIllegal iw 0 || !wFormOk iw || iwPS iw != 0

/-- The trees that a new mask would leave while the tile's flag for them is set (R96). -/
def tmaskLeaves (t : Tile) (mask : Nat) : List Nat :=
  (List.range 32).filter (fun k => t.isMember k && t.flagSet k && !hasBit mask k)

/-- The membership mask that TMASK leaves: a bit of a tree bound to a Seam or the Hem changes only while the tile's flag
for that tree is clear (R96). -/
def tmaskNew (s : State) (t : Tile) (mask : Nat) : Nat :=
  (List.range 32).foldl (fun m k =>
    let b := if t.flagSet k ∧ s.bindKind k ≠ tkPlain then t.isMember k else hasBit mask k
    if b then setBit m k else m) 0

def bodyTmask (iw : Word64) (s : State) (p : Nat) : Issued :=
  let t := s.tile p
  match tmaskLeaves t (iwImm iw) with
  | k :: _ => .fault fcTackDouble k
  | [] => .done (s.setTile p { t with member := tmaskNew s t (iwImm iw), memberOld := some (s.now, t.maskAt s.now) })

/-- TMASK (R52, R96): the membership mask is set, from the next cycle on. -/
def execTmask (tile : TileId) (iw : Word64) (s : State) : Res :=
  issue tile iw (rowOf iw 7 0) [] (illegalTmask iw) (bodyTmask iw) s

/-- The reserved fields of TSET, TWAIT and TSEAM: a tree above 31, an IMM, and in TSET a PS, are ILLEGAL_OP (R88). -/
def illegalTree (iw : Word64) (op : Nat) (psZero : Bool) : Bool :=
  opIllegal iw op || !wFormOk iw || decide (31 < iwObj iw) || iwImm iw != 0 || (psZero && iwPS iw != 0)

/-- The fence of TSET and TSEAM (R94) flushes the pleat buffer, and then the flag is set. -/
def State.setFlag (s : State) (p k : Nat) : State :=
  s.modTile p (fun t => { t.flushPleat s.now with flags := setBit t.flags k })

def bodyTset (iw : Word64) (s : State) (p : Nat) : Issued :=
  let k := iwObj iw
  let t := s.tile p
  if (s.tack k).abandoned then .done s
  else if s.bindKind k ≠ tkPlain then .fault fcTackBound k
  else if t.flagSet k then .fault fcTackDouble k
  else if ¬ t.drained then .stall (s.setTile p (t.flushPleat s.now))
  else .done (s.setFlag p k)

/-- TSET (R54, R65, R94): a fence, then the flag of a plain tree is set; on an abandoned tree it changes nothing. -/
def execTset (tile : TileId) (iw : Word64) (s : State) : Res :=
  issue tile iw (rowOf iw 7 1) [] (illegalTree iw 1 true) (bodyTset iw) s

def bodyTwait (iw : Word64) (s : State) (p : Nat) : Issued :=
  let k := iwObj iw
  let t := s.tile p
  if (s.tack k).abandoned then .done (s.setTile p (t.setPred (iwPS iw) false))
  else if s.bindKind k ≠ tkPlain then .fault fcTackBound k
  else if s.treeEmpty k then .fault fcTackEmpty k
  else if t.flagSet k then .stall s
  else .done (s.setTile p (t.setPred (iwPS iw) true))

/-- TWAIT (R54, R65): SUCCESS once the tile's own flag is clear; ABANDONED takes precedence. -/
def execTwait (tile : TileId) (iw : Word64) (s : State) : Res :=
  issue tile iw (rowOf iw 7 2) [] (illegalTree iw 2 false) (bodyTwait iw) s

def bodyTseam (iw : Word64) (s : State) (p : Nat) : Issued :=
  let k := iwObj iw
  let t := s.tile p
  if (s.tack k).abandoned then .seam (s.setTile p (t.flushPleat s.now))
  else if s.bindKind k = tkPlain then .fault fcTackBound k
  else if s.treeEmpty k then .fault fcTackEmpty k
  else if t.flagSet k then .fault fcTackDouble k
  else if ¬ t.drained then .stall (s.setTile p (t.flushPleat s.now))
  else .seam (s.setFlag p k)

/-- TSEAM (R55, R65, R94): a fence, then the flag of a Seam-bound or Hem tree is set and issue stops until the Seam ends
or the next step starts; on an abandoned tree it stops and waits for the recovery. -/
def execTseam (tile : TileId) (iw : Word64) (s : State) : Res :=
  issue tile iw (rowOf iw 7 3) [] (illegalTree iw 3 false) (bodyTseam iw) s

end Sys2Proof.Machine
end

