-- ==== Sys2Proof/Machine/Dispatch.lean ====
section
/-! DEFINITION. The meaning of every command: one arm per constructor of `Instr`. -/

namespace Sys2Proof.Machine

def exec (i : Instr) (s : State) : Host.Outcome State Fault Refusal :=
  match i with
  | .atStart => Sys2Proof.Machine.execAtStart s
  | .ppsEdge frac ref10 => Sys2Proof.Machine.execPpsEdge frac ref10 s
  | .ppsTimeout => Sys2Proof.Machine.execPpsTimeout s
  | .ref10Loss => Sys2Proof.Machine.execRef10Loss s
  | .ppsOut => Sys2Proof.Machine.execPpsOut s
  | .blockSlot link frac => Sys2Proof.Machine.execBlockSlot link frac s
  | .blockReceive link rx => Sys2Proof.Machine.execBlockReceive link rx s
  | .timeWindow link freq => Sys2Proof.Machine.execTimeWindow link freq s
  | .lockAchieved => Sys2Proof.Machine.execLockAchieved s
  | .lockTimeout => Sys2Proof.Machine.execLockTimeout s
  | .parentLossTimeout => Sys2Proof.Machine.execParentLossTimeout s
  | .holdoverTimeout estErr => Sys2Proof.Machine.execHoldoverTimeout estErr s
  | .rootLossTimeout => Sys2Proof.Machine.execRootLossTimeout s
  | .ready msg native tables => Sys2Proof.Machine.execReady msg native tables s
  | .formationTimeout => Sys2Proof.Machine.execFormationTimeout s
  | .epochRecord link rc => Sys2Proof.Machine.execEpochRecord link rc s
  | .epochStart => Sys2Proof.Machine.execEpochStart s
  | .countHoldEnd => Sys2Proof.Machine.execCountHoldEnd s
  | .tmask tile iw => Sys2Proof.Machine.execTmask tile iw s
  | .tset tile iw => Sys2Proof.Machine.execTset tile iw s
  | .twait tile iw => Sys2Proof.Machine.execTwait tile iw s
  | .tseam tile iw => Sys2Proof.Machine.execTseam tile iw s
  | .chipRoundComplete tree => Sys2Proof.Machine.execChipRoundComplete tree s
  | .tackRailFault tree => Sys2Proof.Machine.execTackRailFault tree s
  | .phaseWatchdog => Sys2Proof.Machine.execPhaseWatchdog s
  | .lendEntry tile => Sys2Proof.Machine.execLendEntry tile s
  | .hallRoundComplete h => Sys2Proof.Machine.execHallRoundComplete h s
  | .releaseRecord link rc => Sys2Proof.Machine.execReleaseRecord link rc s
  | .seamStart => Sys2Proof.Machine.execSeamStart s
  | .spanStart => Sys2Proof.Machine.execSpanStart s
  | .windowCheck span => Sys2Proof.Machine.execWindowCheck span s
  | .holdRecord link rc => Sys2Proof.Machine.execHoldRecord link rc s
  | .pause => Sys2Proof.Machine.execPause s
  | .resumeRecord link rc => Sys2Proof.Machine.execResumeRecord link rc s
  | .seamResume => Sys2Proof.Machine.execSeamResume s
  | .holdLimit => Sys2Proof.Machine.execHoldLimit s
  | .abortRecord link rc => Sys2Proof.Machine.execAbortRecord link rc s
  | .holdAbort => Sys2Proof.Machine.execHoldAbort s
  | .seamEnd => Sys2Proof.Machine.execSeamEnd s
  | .hem => Sys2Proof.Machine.execHem s
  | .policyDeadline => Sys2Proof.Machine.execPolicyDeadline s
  | .parameterRecord link rc => Sys2Proof.Machine.execParameterRecord link rc s
  | .stepStart => Sys2Proof.Machine.execStepStart s
  | .scalarOp tile iw op => Sys2Proof.Machine.execScalarOp tile iw op s
  | .loadStore tile iw op => Sys2Proof.Machine.execLoadStore tile iw op s
  | .vectorOp tile iw op => Sys2Proof.Machine.execVectorOp tile iw op s
  | .convertWiden tile iw cv => Sys2Proof.Machine.execConvertWiden tile iw cv s
  | .convertNarrow tile iw cv => Sys2Proof.Machine.execConvertNarrow tile iw cv s
  | .mmaStart tile iw => Sys2Proof.Machine.execMmaStart tile iw s
  | .mmaAcc tile iw => Sys2Proof.Machine.execMmaAcc tile iw s
  | .mmaDrain tile iw => Sys2Proof.Machine.execMmaDrain tile iw s
  | .drainComplete tile slot => Sys2Proof.Machine.execDrainComplete tile slot s
  | .xwait tile iw => Sys2Proof.Machine.execXwait tile iw s
  | .fill tile iw => Sys2Proof.Machine.execFill tile iw s
  | .copy tile iw => Sys2Proof.Machine.execCopy tile iw s
  | .moverComplete tile => Sys2Proof.Machine.execMoverComplete tile s
  | .mwait tile iw => Sys2Proof.Machine.execMwait tile iw s
  | .fence tile iw => Sys2Proof.Machine.execFence tile iw s
  | .mnon tile iw => Sys2Proof.Machine.execMnon tile iw s
  | .mnoff tile iw => Sys2Proof.Machine.execMnoff tile iw s
  | .accrd tile iw => Sys2Proof.Machine.execAccrd tile iw s
  | .pleatIdleFlush tile row => Sys2Proof.Machine.execPleatIdleFlush tile row s
  | .patrolScrub tile res => Sys2Proof.Machine.execPatrolScrub tile res s
  | .tileWindowRead port addr len => Sys2Proof.Machine.execTileWindowRead port addr len s
  | .tileWindowWrite port addr data => Sys2Proof.Machine.execTileWindowWrite port addr data s
  | .write pkt => Sys2Proof.Machine.execWrite pkt s
  | .rdreq pkt => Sys2Proof.Machine.execRdreq pkt s
  | .rdrsp pkt => Sys2Proof.Machine.execRdrsp pkt s
  | .msg pkt => Sys2Proof.Machine.execMsg pkt s
  | .add pkt => Sys2Proof.Machine.execAdd pkt s
  | .ack pkt => Sys2Proof.Machine.execAck pkt s
  | .addMerge router a b => Sys2Proof.Machine.execAddMerge router a b s
  | .packetForward x pkt => Sys2Proof.Machine.execPacketForward x pkt s
  | .rowMapWrite value => Sys2Proof.Machine.execRowMapWrite value s
  | .patternHalfLoaded part data => Sys2Proof.Machine.execPatternHalfLoaded part data s
  | .bcfg tile iw => Sys2Proof.Machine.execBcfg tile iw s
  | .bcfgUnconfigure tile iw => Sys2Proof.Machine.execBcfgUnconfigure tile iw s
  | .treqMessage tile iw => Sys2Proof.Machine.execTreqMessage tile iw s
  | .treqCombining tile iw => Sys2Proof.Machine.execTreqCombining tile iw s
  | .treqWrite tile iw => Sys2Proof.Machine.execTreqWrite tile iw s
  | .treqRead tile iw => Sys2Proof.Machine.execTreqRead tile iw s
  | .bsend tile iw => Sys2Proof.Machine.execBsend tile iw s
  | .bwait tile iw => Sys2Proof.Machine.execBwait tile iw s
  | .bwaitThimble tile iw => Sys2Proof.Machine.execBwaitThimble tile iw s
  | .badv tile iw => Sys2Proof.Machine.execBadv tile iw s
  | .thimbleRequest pkt => Sys2Proof.Machine.execThimbleRequest pkt s
  | .thimbleGrant pkt => Sys2Proof.Machine.execThimbleGrant pkt s
  | .thimbleRelease pkt => Sys2Proof.Machine.execThimbleRelease pkt s
  | .thimbleRefuse pkt => Sys2Proof.Machine.execThimbleRefuse pkt s
  | .thimbleAbandoned pkt => Sys2Proof.Machine.execThimbleAbandoned pkt s
  | .thimbleRetry pkt => Sys2Proof.Machine.execThimbleRetry pkt s
  | .thimbleRerequest tile reg => Sys2Proof.Machine.execThimbleRerequest tile reg s
  | .spush tile iw => Sys2Proof.Machine.execSpush tile iw s
  | .spop tile iw => Sys2Proof.Machine.execSpop tile iw s
  | .swait tile iw => Sys2Proof.Machine.execSwait tile iw s
  | .spoolData pkt => Sys2Proof.Machine.execSpoolData pkt s
  | .spoolCredit pkt => Sys2Proof.Machine.execSpoolCredit pkt s
  | .spoolStopped pkt => Sys2Proof.Machine.execSpoolStopped pkt s
  | .rd tile spool env => Sys2Proof.Machine.execRd tile spool env s
  | .rdp tile spool env => Sys2Proof.Machine.execRdp tile spool env s
  | .wr tile spool env => Sys2Proof.Machine.execWr tile spool env s
  | .wrp tile spool env => Sys2Proof.Machine.execWrp tile spool env s
  | .spoolMark tile spool env => Sys2Proof.Machine.execSpoolMark tile spool env s
  | .spoolEnd tile spool env => Sys2Proof.Machine.execSpoolEnd tile spool env s
  | .descriptorComplete tile spool => Sys2Proof.Machine.execDescriptorComplete tile spool s
  | .staleTailFlush tile spool env => Sys2Proof.Machine.execStaleTailFlush tile spool env s
  | .staleReadPeriod tile spool => Sys2Proof.Machine.execStaleReadPeriod tile spool s
  | .memoryPatrol m block env => Sys2Proof.Machine.execMemoryPatrol m block env s
  | .zeroStart m => Sys2Proof.Machine.execZeroStart m s
  | .zeroDone m => Sys2Proof.Machine.execZeroDone m s
  | .bar2Read off len size env => Sys2Proof.Machine.execBar2Read off len size env s
  | .bar2Write off data size env => Sys2Proof.Machine.execBar2Write off data size env s
  | .sqWrite m => Sys2Proof.Machine.execSqWrite m s
  | .sqFree m => Sys2Proof.Machine.execSqFree m s
  | .sqSetlen m => Sys2Proof.Machine.execSqSetlen m s
  | .linkEnable link => Sys2Proof.Machine.execLinkEnable link s
  | .linkPhyDone link lanes => Sys2Proof.Machine.execLinkPhyDone link lanes s
  | .linkLockDone link nonce => Sys2Proof.Machine.execLinkLockDone link nonce s
  | .authNonce link peer => Sys2Proof.Machine.execAuthNonce link peer s
  | .authSignature link sig cert => Sys2Proof.Machine.execAuthSignature link sig cert s
  | .linkUp link cal => Sys2Proof.Machine.execLinkUp link cal s
  | .linkRetryTimer link => Sys2Proof.Machine.execLinkRetryTimer link s
  | .lossOfLock link => Sys2Proof.Machine.execLossOfLock link s
  | .laneLoss link lanes => Sys2Proof.Machine.execLaneLoss link lanes s
  | .laneErrorThreshold link errs => Sys2Proof.Machine.execLaneErrorThreshold link errs s
  | .retrainDone link cal => Sys2Proof.Machine.execRetrainDone link cal s
  | .linkGiveUp link errs => Sys2Proof.Machine.execLinkGiveUp link errs s
  | .linkRetrain link => Sys2Proof.Machine.execLinkRetrain link s
  | .linkReset link => Sys2Proof.Machine.execLinkReset link s
  | .xarmArm link => Sys2Proof.Machine.execXarmArm link s
  | .xarmDone link => Sys2Proof.Machine.execXarmDone link s
  | .tap m env => Sys2Proof.Machine.execTap m env s
  | .norm m env => Sys2Proof.Machine.execNorm m env s
  | .normVector msg vec => Sys2Proof.Machine.execNormVector msg vec s
  | .update m env => Sys2Proof.Machine.execUpdate m env s
  | .thin m env => Sys2Proof.Machine.execThin m env s
  | .noise m env => Sys2Proof.Machine.execNoise m env s
  | .touch m env => Sys2Proof.Machine.execTouch m env s
  | .sync m env => Sys2Proof.Machine.execSync m env s
  | .harvestMark m env => Sys2Proof.Machine.execHarvestMark m env s
  | .harvestEnd m env => Sys2Proof.Machine.execHarvestEnd m env s
  | .mirrorWrite addr data src => Sys2Proof.Machine.execMirrorWrite addr data src s
  | .foldSend => Sys2Proof.Machine.execFoldSend s
  | .hemFold msg fold => Sys2Proof.Machine.execHemFold msg fold s
  | .faultReport msg step rc => Sys2Proof.Machine.execFaultReport msg step rc s
  | .rewindDone => Sys2Proof.Machine.execRewindDone s
  | .rewindTimeout => Sys2Proof.Machine.execRewindTimeout s
  | .decisionReq msg step => Sys2Proof.Machine.execDecisionReq msg step s
  | .decisionReply msg rep => Sys2Proof.Machine.execDecisionReply msg rep s
  | .thawWindowExpiry core resumed => Sys2Proof.Machine.execThawWindowExpiry core resumed s
  | .inputQualified => Sys2Proof.Machine.execInputQualified s
  | .bulkCharged boot => Sys2Proof.Machine.execBulkCharged boot s
  | .enableContactBreak => Sys2Proof.Machine.execEnableContactBreak s
  | .inputFault kind => Sys2Proof.Machine.execInputFault kind s
  | .shortCircuit => Sys2Proof.Machine.execShortCircuit s
  | .inputGlitch => Sys2Proof.Machine.execInputGlitch s
  | .powerEvaluation sample => Sys2Proof.Machine.execPowerEvaluation sample s
  | .thermalCheck temps => Sys2Proof.Machine.execThermalCheck temps s
  | .thermalTrip temps => Sys2Proof.Machine.execThermalTrip temps s
  | .sensorTimeout sensor => Sys2Proof.Machine.execSensorTimeout sensor s
  | .lowflow => Sys2Proof.Machine.execLowflow s
  | .powerLimitWrite value => Sys2Proof.Machine.execPowerLimitWrite value s
  | .powerStateRequest => Sys2Proof.Machine.execPowerStateRequest s
  | .powerTransitionDone => Sys2Proof.Machine.execPowerTransitionDone s
  | .warmReset value boot => Sys2Proof.Machine.execWarmReset value boot s
  | .pldmReset boot => Sys2Proof.Machine.execPldmReset boot s
  | .pcieReset => Sys2Proof.Machine.execPcieReset s
  | .pcieXarm => Sys2Proof.Machine.execPcieXarm s
  | .pcieXarmDone => Sys2Proof.Machine.execPcieXarmDone s
  | .ondemandTest => Sys2Proof.Machine.execOndemandTest s
  | .ondemandTestDone res => Sys2Proof.Machine.execOndemandTestDone res s
  | .coreWatchdog core => Sys2Proof.Machine.execCoreWatchdog core s
  | .coreThawDone core => Sys2Proof.Machine.execCoreThawDone core s
  | .attach => Sys2Proof.Machine.execAttach s
  | .detach => Sys2Proof.Machine.execDetach s
  | .heartbeatLost => Sys2Proof.Machine.execHeartbeatLost s
  | .statusBeat => Sys2Proof.Machine.execStatusBeat s
  | .load slot img => Sys2Proof.Machine.execLoad slot img s
  | .jobDigest msg jobId digest => Sys2Proof.Machine.execJobDigest msg jobId digest s
  | .loadOk msg jobId => Sys2Proof.Machine.execLoadOk msg jobId s
  | .loadCheck msg jobId => Sys2Proof.Machine.execLoadCheck msg jobId s
  | .loadDigestTimeout => Sys2Proof.Machine.execLoadDigestTimeout s
  | .run slot => Sys2Proof.Machine.execRun slot s
  | .batch slot => Sys2Proof.Machine.execBatch slot s
  | .batchFilled data => Sys2Proof.Machine.execBatchFilled data s
  | .park slot => Sys2Proof.Machine.execPark slot s
  | .jobResume slot => Sys2Proof.Machine.execJobResume slot s
  | .stop slot => Sys2Proof.Machine.execStop slot s
  | .adopt slot => Sys2Proof.Machine.execAdopt slot s
  | .adopted msg jobId => Sys2Proof.Machine.execAdopted msg jobId s
  | .scrub slot => Sys2Proof.Machine.execScrub slot s
  | .scrubDone => Sys2Proof.Machine.execScrubDone s
  | .seq slot => Sys2Proof.Machine.execSeq slot s
  | .parkReq msg reason => Sys2Proof.Machine.execParkReq msg reason s
  | .parkRecord link msg step kind => Sys2Proof.Machine.execParkRecord link msg step kind s
  | .mwQuery msg q => Sys2Proof.Machine.execMwQuery msg q s
  | .mwReply msg q => Sys2Proof.Machine.execMwReply msg q s
  | .revocationOrder ord => Sys2Proof.Machine.execRevocationOrder ord s
  | .pldmFwUpdate up => Sys2Proof.Machine.execPldmFwUpdate up s
  | .pldmSensorRead sensor => Sys2Proof.Machine.execPldmSensorRead sensor s
  | .spdmRequest rq => Sys2Proof.Machine.execSpdmRequest rq s
  | .csign msg => Sys2Proof.Machine.execCsign msg s
  | .debugNonceRequest => Sys2Proof.Machine.execDebugNonceRequest s
  | .unlock tok => Sys2Proof.Machine.execUnlock tok s
  | .relock => Sys2Proof.Machine.execRelock s
  | .scanEn => Sys2Proof.Machine.execScanEn s
  | .ideKm rq => Sys2Proof.Machine.execIdeKm rq s
  | .atSnap port => Sys2Proof.Machine.execAtSnap port s
  | .tkSnap port => Sys2Proof.Machine.execTkSnap port s
  | .mnSnap port => Sys2Proof.Machine.execMnSnap port s
  | .bbSnap port => Sys2Proof.Machine.execBbSnap port s
  | .spSnap port m => Sys2Proof.Machine.execSpSnap port m s
  | .sqSnap port m => Sys2Proof.Machine.execSqSnap port m s
  | .hvSnap port m => Sys2Proof.Machine.execHvSnap port m s
  | .pwSnap port => Sys2Proof.Machine.execPwSnap port s
  | .scSnap port => Sys2Proof.Machine.execScSnap port s
  | .snapshotReady blk port => Sys2Proof.Machine.execSnapshotReady blk port s
  | .rcFieldRead port addr => Sys2Proof.Machine.execRcFieldRead port addr s
  | .registerWrite port addr size value => Sys2Proof.Machine.execRegisterWrite port addr size value s
  | .slotZeroed tile ring slot => Sys2Proof.Machine.execSlotZeroed tile ring slot s
  | .tripRelease temps boot => Sys2Proof.Machine.execTripRelease temps boot s
  | .trainingStageFail link stage => Sys2Proof.Machine.execTrainingStageFail link stage s
  | .offloadPeerAccess m addr len data env => Sys2Proof.Machine.execOffloadPeerAccess m addr len data env s

end Sys2Proof.Machine
end

