-- ==== Sys2Proof/WellFormed.lean ====
section
/-! DEFINITION. Well-formed commands: the operands are those of the command's row, whatever the state. A tile's command
carries a word of its row (R85, R87), a packet's command a packet of its row (R194, R195). -/

namespace Sys2Proof

open Machine

/-- A packet command: a packet that fails its checks is discarded, so any is an operand; one that passes is of the row, and
its payload has the length of its header. -/
def packetOk (q : Pkt) (row : Bool) : Bool := !pkChecks q || (row && pkSized q)

/-- The same of a SPOOL packet, whose words have a count of their own (R286). -/
def spoolOk (q : Pkt) (row : Bool) : Bool := !pkChecks q || (pkKind q == pkSpool && row)

/-- A tile's command carries a word of its row, or one of a reserved class, which is the word of no row (R87). -/
def wordOk (iw : Word64) (row : Bool) : Bool := classReserved iw || row

/-- The operands of a command are those of its row. -/
def Instr.wf : Instr → Bool
  | .atStart | .ppsEdge _ _ | .ppsTimeout | .ref10Loss | .ppsOut | .blockSlot _ _ => true
  | .blockReceive _ _ | .timeWindow _ _ | .lockAchieved | .lockTimeout | .parentLossTimeout | .holdoverTimeout _ | .rootLossTimeout
  | .ready _ _ _ | .formationTimeout | .epochRecord _ _ | .epochStart | .countHoldEnd => true
  | .tmask _ iw => wordOk iw (rowOf iw 7 0)
  | .tset _ iw => wordOk iw (rowOf iw 7 1)
  | .twait _ iw => wordOk iw (rowOf iw 7 2)
  | .tseam _ iw => wordOk iw (rowOf iw 7 3)
  | .chipRoundComplete _ | .tackRailFault _ | .phaseWatchdog | .lendEntry _ | .hallRoundComplete _
  | .releaseRecord _ _ | .seamStart | .spanStart | .windowCheck _ | .holdRecord _ _ | .pause | .resumeRecord _ _
  | .seamResume | .holdLimit | .abortRecord _ _ | .holdAbort | .seamEnd | .hem | .policyDeadline
  | .parameterRecord _ _ | .stepStart => true
  | .scalarOp _ iw _ => wordOk iw (iwClass iw == 0)
  | .loadStore _ iw _ => wordOk iw (iwClass iw == 1)
  | .vectorOp _ iw _ => wordOk iw (iwClass iw == 2)
  | .convertWiden _ iw _ => wordOk iw (iwClass iw == 4)
  | .convertNarrow _ iw _ => wordOk iw (iwClass iw == 4)
  | .mmaStart _ iw => wordOk iw (mmaRow iw 0)
  | .mmaAcc _ iw => wordOk iw (mmaRow iw 1)
  | .mmaDrain _ iw => wordOk iw (mmaRow iw 2)
  | .drainComplete _ _ => true
  | .xwait _ iw => wordOk iw (rowOf iw 3 2)
  | .fill _ iw => wordOk iw (rowOf iw 8 0)
  | .copy _ iw => wordOk iw (rowOf iw 8 1)
  | .moverComplete _ => true
  | .mwait _ iw => wordOk iw (rowOf iw 8 2)
  | .fence _ iw => wordOk iw (rowOf iw 0xA 0)
  | .mnon _ iw => wordOk iw (rowOf iw 9 0)
  | .mnoff _ iw => wordOk iw (rowOf iw 9 1)
  | .accrd _ iw => wordOk iw (rowOf iw 9 2)
  | .pleatIdleFlush _ _ | .patrolScrub _ _ | .tileWindowRead _ _ _ | .tileWindowWrite _ _ _ => true
  | .write pkt => packetOk pkt (pkKind pkt == pkWrite && pkInRange pkt)
  | .rdreq pkt => packetOk pkt (pkKind pkt == pkRdreq && pkInRange pkt)
  | .rdrsp pkt => packetOk pkt (pkKind pkt == pkRdrsp && pkInRange pkt)
  | .msg pkt => packetOk pkt (pkKind pkt == pkMsg && pkInRange pkt)
  | .add pkt => packetOk pkt (pkKind pkt == pkAdd && pkInRange pkt)
  | .ack pkt => packetOk pkt (pkKind pkt == pkAck)
  | .addMerge _ _ _ | .packetForward _ _ | .rowMapWrite _ | .patternHalfLoaded _ _ => true
  | .bcfg _ iw => wordOk iw (rowOf iw 6 4 && cfgKind iw != rkNone)
  | .bcfgUnconfigure _ iw => wordOk iw (rowOf iw 6 4 && cfgKind iw == rkNone)
  | .treqMessage _ iw => wordOk iw (rowOf iw 6 0 && treqForm iw == 0)
  | .treqCombining _ iw => wordOk iw (rowOf iw 6 0 && treqForm iw == 1)
  | .treqWrite _ iw => wordOk iw (rowOf iw 6 0 && treqForm iw == 2)
  | .treqRead _ iw => wordOk iw (rowOf iw 6 0 && treqForm iw == 3)
  | .bsend _ iw => wordOk iw (rowOf iw 6 1)
  | .bwait _ iw => wordOk iw (rowOf iw 6 2 && !(decide (8 ≤ iwObj iw ∧ iwObj iw ≤ 15)))
  | .bwaitThimble _ iw => wordOk iw (rowOf iw 6 2 && decide (8 ≤ iwObj iw ∧ iwObj iw ≤ 15))
  | .badv _ iw => wordOk iw (rowOf iw 6 3)
  | .thimbleRequest pkt => packetOk pkt (pkKind pkt == pkThimble && pkSub pkt == suRequest)
  | .thimbleGrant pkt => packetOk pkt (pkKind pkt == pkThimble && pkSub pkt == suGrant)
  | .thimbleRelease pkt => packetOk pkt (pkKind pkt == pkThimble && pkSub pkt == suRelease)
  | .thimbleRefuse pkt => packetOk pkt (pkKind pkt == pkThimble && pkSub pkt == suRefuse)
  | .thimbleAbandoned pkt => packetOk pkt (pkKind pkt == pkThimble && pkSub pkt == suAbandoned)
  | .thimbleRetry pkt => packetOk pkt (pkKind pkt == pkThimble && pkSub pkt == suRetry)
  | .thimbleRerequest _ _ => true
  | .spush _ iw => wordOk iw (rowOf iw 5 0)
  | .spop _ iw => wordOk iw (rowOf iw 5 1)
  | .swait _ iw => wordOk iw (rowOf iw 5 2)
  | .spoolData pkt => spoolOk pkt (decide (pkSub pkt ≤ 1) && spoolSized pkt)
  | .spoolCredit pkt => spoolOk pkt (pkSub pkt == spCredit && pkt.data == [])
  | .spoolStopped pkt => spoolOk pkt (pkSub pkt == spStop && pkt.data == [])
  | .rd _ _ _ | .rdp _ _ _ | .wr _ _ _ | .wrp _ _ _ | .spoolMark _ _ _ | .spoolEnd _ _ _ | .descriptorComplete _ _
  | .staleTailFlush _ _ _ | .staleReadPeriod _ _ | .memoryPatrol _ _ _ | .zeroStart _ | .zeroDone _ => true
  | .bar2Read _ _ _ _ | .bar2Write _ _ _ _ | .sqWrite _ | .sqFree _ | .sqSetlen _ | .linkEnable _ | .linkPhyDone _ _
  | .linkLockDone _ _ | .authNonce _ _ | .authSignature _ _ _ | .linkUp _ _ | .linkRetryTimer _ | .lossOfLock _ | .laneLoss _ _
  | .laneErrorThreshold _ _ | .retrainDone _ _ | .linkGiveUp _ _ | .linkRetrain _ | .linkReset _ | .xarmArm _
  | .xarmDone _ | .tap _ _ | .norm _ _ | .normVector _ _ | .update _ _ | .thin _ _ | .noise _ _ | .touch _ _
  | .sync _ _ | .harvestMark _ _ | .harvestEnd _ _ | .mirrorWrite _ _ _ | .foldSend | .hemFold _ _
  | .faultReport _ _ _ | .rewindDone | .rewindTimeout | .decisionReq _ _ | .decisionReply _ _ | .thawWindowExpiry _ _
  | .inputQualified | .bulkCharged _ | .enableContactBreak | .inputFault _ | .shortCircuit | .inputGlitch
  | .powerEvaluation _ | .thermalCheck _ | .thermalTrip _ | .sensorTimeout _ | .lowflow | .powerLimitWrite _ | .powerStateRequest | .powerTransitionDone | .warmReset _ _ | .pldmReset _
  | .pcieReset | .pcieXarm | .pcieXarmDone | .ondemandTest | .ondemandTestDone _ | .coreWatchdog _ | .coreThawDone _
  | .attach | .detach | .heartbeatLost | .statusBeat | .load _ _ | .jobDigest _ _ _ | .loadOk _ _ | .loadCheck _ _
  | .loadDigestTimeout | .run _ | .batch _ | .batchFilled _ | .park _ | .jobResume _ | .stop _ | .adopt _
  | .adopted _ _ | .scrub _ | .scrubDone | .seq _ | .parkReq _ _ | .parkRecord _ _ _ _ | .mwQuery _ _ | .mwReply _ _
  | .revocationOrder _ | .pldmFwUpdate _ | .pldmSensorRead _ | .spdmRequest _ | .csign _
  | .debugNonceRequest | .unlock _ | .relock | .scanEn | .ideKm _ | .atSnap _ | .tkSnap _ | .mnSnap _ | .bbSnap _
  | .spSnap _ _ | .sqSnap _ _ | .hvSnap _ _ | .pwSnap _ | .scSnap _ | .snapshotReady _ _ | .rcFieldRead _ _
  | .registerWrite _ _ _ _ | .slotZeroed _ _ _ | .tripRelease _ _ | .trainingStageFail _ _
  | .offloadPeerAccess _ _ _ _ _ => true

end Sys2Proof
end

