-- ==== Sys2Proof/Safety.lean ====
section
/-! DEFINITION. What a safe step is: the block answers a next state, GDDR7 stays in its canonical form, and no one-time
programmable fuse is ever unburnt. -/

namespace Sys2Proof.Machine

/-- A command completes: the block answers a next state. -/
def Completes (r : Host.Outcome State Fault Refusal) : Prop := ∃ t, r = .next t

/-- The memory of the device in canonical form: the listed addresses rise strictly, and no listed byte is 0. -/
def State.Canonical (s : State) : Prop := Memory.wf s.mem = true

/-- The fuses of one state against those of a later one (R488, R494, R498): SVN counters and the signature mark only rise,
a revoked slot stays revoked, and the identity, the grade and the capacity never change. -/
structure FusesOnlyBurn (s t : State) : Prop where
  fwSvn : s.sec.fwSvn ≤ t.sec.fwSvn
  cfgSvn : s.sec.cfgSvn ≤ t.sec.cfgSvn
  mark : s.sec.mark ≤ t.sec.mark
  revoked : ∀ i, hasBit s.sec.revoked i = true → hasBit t.sec.revoked i = true
  dies : t.sec.dies = s.sec.dies
  serial : t.sec.serial = s.sec.serial
  grade : t.sec.gradeB = s.sec.gradeB
  capacity : t.sec.capacity = s.sec.capacity

/-- An address of the log ring (R437, R438). -/
def inRing (a : Nat) : Bool := decide (logBase ≤ a ∧ a < logBase + 64 * 65536)

/-- The parts of the state beside the register fields; the log ring is a part of its own, apart from the rest of device memory. -/
inductive StatePart where
  | queue | now | fresh | out | time | links | tacks | step | seam | tiles | fab | streams | mem | ring | poison | mdies | seqs
  | harvest | commit | monitors | rcv | host | power | test | sec | snaps
deriving DecidableEq, Repr

/-- A part of the state is as it was. -/
def StatePart.Same (s t : State) : StatePart → Prop
  | .queue => t.pending = s.pending
  | .now => t.now = s.now
  | .fresh => t.fresh = s.fresh
  | .out => t.out = s.out
  | .time => t.time = s.time
  | .links => t.links = s.links
  | .tacks => t.tacks = s.tacks
  | .step => t.step = s.step
  | .seam => t.seam = s.seam
  | .tiles => t.tiles = s.tiles
  | .fab => t.fab = s.fab
  | .streams => t.streams = s.streams
  | .mem => t.mem.filter (fun c => !inRing c.1) = s.mem.filter (fun c => !inRing c.1)
  | .ring => t.mem.filter (fun c => inRing c.1) = s.mem.filter (fun c => inRing c.1)
  | .poison => t.poison = s.poison
  | .mdies => t.mdies = s.mdies
  | .seqs => t.seqs = s.seqs
  | .harvest => t.harvest = s.harvest
  | .commit => t.commit = s.commit
  | .monitors => t.monitors = s.monitors
  | .rcv => t.rcv = s.rcv
  | .host => t.host = s.host
  | .power => t.power = s.power
  | .test => t.test = s.test
  | .sec => t.sec = s.sec
  | .snaps => t.snaps = s.snaps

/-- What a command leaves as it was: every register field but those of `fs`, each port's copy of a field counting as a
field of its own, and every other part of the state but those of `ps`. -/
structure Frame (fs : List Fld) (ps : List StatePart) (s t : State) : Prop where
  regs : ∀ k, k ∉ fs.map Fld.key → smFind t.regs k = smFind s.regs k
  parts : ∀ p, p ∉ ps → p.Same s t

/-- One log record of a level and a trace point has been written behind the newest one, with the AT and its number, and no other byte
of device memory changes; where the memory of M1 takes none, the record is dropped and counted (R437, R438). -/
structure Logged (s t : State) (level point : Nat) : Prop where
  written : s.rd (Reg.MM_STAT_STATE 1) = 2 → ∃ a, a = logBase + 64 * (s.host.logSeq % 65536) ∧
    leNat (Memory.readN t.mem a 8) = s.now % 2 ^ 64 ∧
    leNat (Memory.readN t.mem (a + 8) 4) % 2 ^ 16 / 2 ^ 5 = level + 2 ^ 3 * point ∧
    leNat (Memory.readN t.mem (a + 12) 4) = s.host.logSeq % 2 ^ 32 ∧ t.host.logSeq = s.host.logSeq + 1 ∧
    t.rd Reg.FW_LOG_WP_SEQ = (s.host.logSeq + 1) % 2 ^ 32 ∧
    ∀ x, x < a ∨ a + 64 ≤ x → Memory.read t.mem x = Memory.read s.mem x
  dropped : s.rd (Reg.MM_STAT_STATE 1) ≠ 2 → t.mem = s.mem ∧ t.host.logSeq = s.host.logSeq ∧
    t.rd Reg.FW_CNT_LOGDROP_COUNT = min (s.rd Reg.FW_CNT_LOGDROP_COUNT + 1) (2 ^ Reg.FW_CNT_LOGDROP_COUNT.width - 1)

/-- The fields that opening a fault may write (R389). -/
def openFields : List Fld :=
  [Reg.JB_RCV_LAST_0_LAYER, Reg.JB_RCV_LAST_0_CODE, Reg.JB_RCV_LAST_0_CLASS_H, Reg.JB_RCV_LAST_0_DEV,
   Reg.JB_RCV_LAST_0_ENDED, Reg.JB_RCV_LAST_0_VALID, Reg.JB_RCV_LAST_1_LTILE, Reg.JB_RCV_LAST_1_PTILE,
   Reg.JB_RCV_LAST_1_LINK, Reg.JB_RCV_LAST_2_VALUE, Reg.JB_RCV_LAST_3_VALUE, Reg.JB_RCV_STAT_STATE]

/-- The fields that the fault of a tile may write (R116, R121, R389), and the parts of the state that it may change. -/
def faultFields : List Fld := Reg.FW_LOG_WP_SEQ :: Reg.FW_CNT_LOGDROP_COUNT :: Reg.TK_FLT_ABANDON :: openFields

def faultParts : List StatePart := [.tiles, .out, .host, .ring, .rcv, .step, .tacks]

/-- The fields in which what a policy window stages takes effect (R72, R251, R448). -/
def stagedFields : List Fld := [Reg.PW_LIMIT_MODULE, Reg.SM_TT_LANE3, Reg.TK_STAT_MB_COUNT]

/-- Nothing that a policy window stages takes effect (R72, R251, R309, R448). -/
structure NoParams (s t : State) : Prop where
  limit : t.rd Reg.PW_LIMIT_MODULE = s.rd Reg.PW_LIMIT_MODULE
  lane3 : t.rd Reg.SM_TT_LANE3 = s.rd Reg.SM_TT_LANE3
  count : t.rd Reg.TK_STAT_MB_COUNT = s.rd Reg.TK_STAT_MB_COUNT
  slots : t.seqs = s.seqs

/-- A host request that is dropped is counted (R478, R481, R497): one less than four cycles of the management clock after another
sets the overrun bit instead, and none is counted while the PCIe crossings are disarmed. -/
structure DropCounted (s t : State) : Prop where
  counted : s.on Reg.BI_XARM_DONE = true → (∀ d, s.test.dropAt = some d → d + 20 ≤ s.now) →
    t.rd Reg.SC_IDE_DROP = min (s.rd Reg.SC_IDE_DROP + 1) (2 ^ Reg.SC_IDE_DROP.width - 1)
  overrun : ∀ d, s.on Reg.BI_XARM_DONE = true → s.test.dropAt = some d → s.now < d + 20 →
    t.on Reg.BI_XARM_OVR = true ∧ t.rd Reg.SC_IDE_DROP = s.rd Reg.SC_IDE_DROP
  disarmed : s.on Reg.BI_XARM_DONE = false → t.rd Reg.SC_IDE_DROP = s.rd Reg.SC_IDE_DROP
  frame : Frame [Reg.SC_IDE_DROP, Reg.BI_XARM_OVR] [.test, .out] s t

/-- The fields that a Hem latches (R71). -/
def latchFields : List Fld :=
  [Reg.BB_CNT_ABANDON_COUNT, Reg.BB_CNT_ADD_COUNT, Reg.BB_CNT_MSG_COUNT, Reg.BB_CNT_RELAY_COUNT,
   Reg.BB_CNT_RETRY_COUNT, Reg.HV_DG_RECV_HI_VALUE, Reg.HV_DG_RECV_LO_VALUE, Reg.HV_DG_SENT_HI_VALUE,
   Reg.HV_DG_SENT_LO_VALUE, Reg.HV_NOISE_VALUE, Reg.MN_NUM_FIRST_LTILE, Reg.MN_NUM_FIRST_VALID,
   Reg.MN_NUM_LONGSUM_COUNT, Reg.MN_NUM_NONFIN_COUNT, Reg.PW_CNT_STUT_COUNT, Reg.PW_E_STEP_HI_VALUE,
   Reg.PW_E_STEP_LO_VALUE, Reg.SM_DARN_USED_VALUE, Reg.SM_HOLD_CNT_PAUSES, Reg.SM_HOLD_CNT_RAISED,
   Reg.SM_HOLD_NS_VALUE, Reg.TK_CNT_LEND_VALUE, Reg.TK_CNT_WAIT_VALUE] ++
  (List.range 12).map Reg.MN_FAB_EDGE_WORDS ++
  (List.range 2).flatMap (fun m =>
  [Reg.HV_CNT_FROST_COUNT m, Reg.HV_CNT_NONFIN_NORM m, Reg.HV_CNT_NONFIN_W m, Reg.HV_CNT_ROOT_FAILED m,
   Reg.HV_CNT_ROOT_GOOD m, Reg.SP_CNT_OFFSAT_COUNT m, Reg.SP_CNT_STALE_RD m, Reg.SP_CNT_STALE_WR m])

/-- Nothing stands between an access to a tile and what it stores: no bit error that no read has found, no parity error, and no
write in the present cycle (R103, R109, R118). -/
structure Tile.Quiet (t : Tile) (now : Nat) : Prop where
  soft : t.soft = []
  regs : t.badRegs = []
  buffer : t.badBuf = []
  cycle : ∀ w ∈ t.cyc, w.at_ ≠ now

/-- The instruction `iw` issues at a logical tile, which lies at position `p`: the tile runs and is quiet, its PC is aligned and in
the scratchpad, the word that it fetches there is sound and is `iw`, and its guard holds (R84, R85, R520). -/
structure Issues (s : State) (tile : TileId) (iw : Word64) (p : Nat) : Prop where
  pos : s.physOf tile.val = some p
  run : (s.tile p).mode = .run
  aligned : (s.tile p).pc % 8 = 0
  inRange : (s.tile p).pc < scratchBytes
  quiet : (s.tile p).Quiet s.now
  clean : (s.tile p).fetchFault (s.tile p).pc = none
  word : (s.tile p).fetch s.now (s.tile p).pc = iw
  guard : (s.tile p).guard iw = true

/-- The tile at `p` has retired an instruction, and goes on with the word behind it. -/
structure Retired (s t : State) (p : Nat) : Prop where
  pc : (t.tile p).pc = ((s.tile p).pc + 8) % 2 ^ 18
  run : (t.tile p).mode = .run
  free : (t.tile p).blocked = none

/-- The registers that a tile's program works on are as they were: g, p and v registers. -/
structure SameRegs (a b : Tile) : Prop where
  g : b.g = a.g
  p : b.p = a.p
  v : b.v = a.v

/-- The storage of a tile is as it was: scratchpad, poison, pleat buffer, accumulator slots, spools, rings, thimbles and
monitors. -/
structure SameStore (a b : Tile) : Prop where
  mem : b.mem = a.mem
  poison : b.poison = a.poison
  pleat : b.pleat = a.pleat
  slots : b.slots = a.slots
  spools : b.spools = a.spools
  rings : b.rings = a.rings
  thims : b.thims = a.thims
  mon : b.mon = a.mon
  counts : b.counts = a.counts

/-- The tile and the word of a command that issues an instruction of a tile's program. -/
def tileWordOf : Instr → Option (TileId × Word64)
  | .tmask t w | .tset t w | .twait t w | .tseam t w | .scalarOp t w _ | .loadStore t w _ | .vectorOp t w _
  | .convertWiden t w _ | .convertNarrow t w _ | .mmaStart t w | .mmaAcc t w | .mmaDrain t w | .xwait t w | .fill t w
  | .copy t w | .mwait t w | .fence t w | .mnon t w | .mnoff t w | .accrd t w | .bcfg t w | .bcfgUnconfigure t w
  | .treqMessage t w | .treqCombining t w | .treqWrite t w | .treqRead t w | .bsend t w | .bwait t w | .bwaitThimble t w
  | .badv t w | .spush t w | .spop t w | .swait t w => some (t, w)
  | _ => none

/-- The pleat buffer of a tile in its form: one entry for each row, each with offsets in the row, listed in rising
order (R106). -/
def PleatOk (t : Tile) : Prop :=
  (t.pleat.map (fun e => e.row)).Nodup ∧ ∀ e ∈ t.pleat, smSorted 0 e.bytes = true ∧ ∀ b ∈ e.bytes, b.1 < 64

/-- The tiles but those at the positions `qs` are as they were. -/
def OtherTiles (qs : List Nat) (s t : State) : Prop := ∀ q, q ∉ qs → t.tile q = s.tile q

/-- The links but those of `ns` are as they were. -/
def OtherLinks (ns : List Nat) (s t : State) : Prop := ∀ n, n ∉ ns → t.link n = s.link n

/-- The fields that the failure of a descriptor may write on M die `m` (R65, R292), and the parts of the state that it may
change. -/
def streamFields (m : Nat) : List Fld :=
  [Reg.SP_ERR_CODE m, Reg.SP_ERR_TILE m, Reg.SP_ERR_SPOOL m, Reg.SP_ERR_IDX_INDEX m, Reg.SP_ERR_VALID m, Reg.TK_FLT_ABANDON] ++
    openFields

def streamParts : List StatePart := [.streams, .out, .rcv, .host, .tacks, .tiles, .step]

/-- The fields in which accesses to GDDR7 count what goes wrong (R298–R302, R304). -/
def memFields : List Fld := (List.range 2).flatMap (fun m =>
  [Reg.MM_CNT_LINK_COUNT m, Reg.MM_CNT_CRC_TRANSIENT m, Reg.MM_CNT_CRC_PERSIST m, Reg.MM_CNT_CRC_POISON m, Reg.MM_ERR_LO_ADDR m,
   Reg.MM_ERR_HI_ADDR m, Reg.MM_ERR_HI_PATROL m, Reg.MM_ERR_HI_WRITE m, Reg.MM_ERR_HI_VALID m, Reg.MM_ZCTL_RD_PEND m])

/-- Nothing goes wrong in an access to GDDR7: no try fails, no block is poisoned, and no engine zeroes storage (R298–R300, R304). -/
structure CleanMem (s : State) (env : MemEnv) : Prop where
  errs : env.errs = []
  poison : s.poison = []
  idle : ∀ x ∈ s.mdies, x.zero = []

/-- A stream is between descriptors, and the next one in GDDR7 is `d` (R287). -/
structure Descriptor (s : State) (env : MemEnv) (t k : Nat) (d : List Word64) : Prop where
  run : (s.stream t k).state = 1
  next : (s.stream t k).desc = []
  word : s.words4 ((s.stream t k).base + 32 * (s.stream t k).idx) = d
  clean : CleanMem s env
  die : (s.stream t k).m < 2

/-- The streams but that of spool `k` of tile `t` are as they were. -/
def OtherStreams (t k : Nat) (s u : State) : Prop := ∀ i j, j < 4 → (i, j) ≠ (t, k) → u.stream i j = s.stream i j

/-- The stream of a spool has stopped on a failure with the code `c`, which is recorded if it is the first (R292). -/
structure StreamStopped (s u : State) (t k c : Nat) : Prop where
  state : (u.stream t k).state = 3
  valid : u.on (Reg.SP_ERR_VALID (s.stream t k).m) = true
  code : s.on (Reg.SP_ERR_VALID (s.stream t k).m) = false → u.rd (Reg.SP_ERR_CODE (s.stream t k).m) = c ∧
    u.rd (Reg.SP_ERR_TILE (s.stream t k).m) = t ∧ u.rd (Reg.SP_ERR_SPOOL (s.stream t k).m) = k
  opened : ∃ r ∈ u.rcv.opens, r.layer = 5 ∧ r.code = c
  frame : Frame (streamFields (s.stream t k).m) streamParts s u

/-- The fields that a link's leaving UP may write (R41, R59, R251, R332). -/
def leaveFields (n : Nat) : List Fld :=
  [Reg.LK_STAT_STATE n, Reg.LK_STAT_LANES n, Reg.LK_STAT_LEFT_UP n, Reg.SM_TT_LANE3_REQ, Reg.AT_STAT_DEPTH, Reg.AT_STAT_PARENT,
   Reg.AT_STAT_STATE]

/-- Link `n`, which was UP, has left it for the state `st` (R332): its records, its re-sends and its budgets are gone, and no other
link has changed its state. -/
structure LeftUp (s t : State) (n st : Nat) : Prop where
  state : t.lkState n = st
  flag : t.on (Reg.LK_STAT_LEFT_UP n) = true
  lanes : t.rd (Reg.LK_STAT_LANES n) = 0
  resend : (t.link n).resend = []
  due : (t.link n).due = []
  budgets : (t.link n).budgets = []
  sides : ∀ e ∈ (t.link n).replay, e.side = none
  others : ∀ i < 36, i ≠ n → t.lkState i = s.lkState i

/-- A training of link `n` has failed with a result (R339, R349): it is counted; the link is DOWN and tries again in 100 ms, or,
after eight tries, it has stopped with a fault of layer 1, code 2. -/
structure TrainFailed (s t : State) (n result : Nat) : Prop where
  result : t.rd (Reg.LK_TRAIN_RESULT n) = result
  count : t.rd (Reg.LK_TRAIN_COUNT n) = min (s.rd (Reg.LK_TRAIN_COUNT n) + 1) 255
  time : t.rd (Reg.LK_TRAIN_TIME n) = min ((s.now - (s.link n).trainSince) / 1000) (2 ^ 20 - 1)
  auth : s.lkState n ≠ lkCal → s.lkState n ≠ lkRetrain → t.on (Reg.LK_STAT_AUTH_OK n) = false
  again : (s.link n).tries < 7 → t.lkState n = lkDown ∧ (t.link n).retryAt = some (s.now + 100000000) ∧
    (t.link n).tries = (s.link n).tries + 1 ∧ t.rcv = s.rcv
  stops : 7 ≤ (s.link n).tries → t.lkState n = lkFailed ∧ (t.link n).retryAt = none ∧
    ∃ r, t.rcv.opens = s.rcv.opens ++ [r] ∧ r.layer = 1 ∧ r.code = 2 ∧ r.link = n
  others : OtherLinks [n] s t
  frame : Frame ([Reg.LK_TRAIN_RESULT n, Reg.LK_TRAIN_COUNT n, Reg.LK_TRAIN_TIME n, Reg.LK_STAT_AUTH_OK n, Reg.LK_STAT_STATE n,
    Reg.LK_STAT_LANES n] ++ openFields) [.links, .rcv, .out, .host] s t

/-- The Harvest engine of an M die runs and stands at the command `c`, which it reads with nothing going wrong: no error
of the access, no poison, no zeroing in progress (R360). -/
structure Commanded (s : State) (env : MemEnv) (m : Nat) (c : List Word64) : Prop where
  two : s.harvest.length = 2
  run : (s.hv m).state = hvRun
  errs : env.errs = []
  poison : s.poison = []
  idle : ∀ x ∈ s.mdies, x.zero = []
  half : inHalf m (s.hvCmd m + 32 * (s.hv m).idx) 32 = true
  word : leWords (s.view (s.hvCmd m + 32 * (s.hv m).idx) 32) = c

/-- The tensor descriptor of a TID lies in the half, and has no reserved field (R357, R358). -/
structure Described (s : State) (m t : Nat) (d : List Word64) : Prop where
  half : inHalf m (s.hvTdesc m + 128 * t) 128 = true
  words : leWords (s.view (s.hvTdesc m + 128 * t) 128) = d
  clean : tdReserved t d = false

/-- The engine of an M die has gone on to its next command, and the other engine is as it was (R360). -/
structure NextCommand (s t : State) (m : Nat) : Prop where
  idx : (t.hv m).idx = (s.hv m).idx + 1
  state : (t.hv m).state = hvRun
  other : ∀ k, k ≠ m → t.hv k = s.hv k

/-- The stream of the Harvest engine of M die `m` has stopped on an error with the code `c` at TID `t` (R381): the first one is
recorded, and a fault of layer 6 is open. -/
structure HarvestStopped (s u : State) (m c t : Nat) : Prop where
  state : (u.hv m).state = hvError
  err : (u.hv m).err = true
  idx : (u.hv m).idx = (s.hv m).idx
  valid : u.on (Reg.HV_ERR_VALID m) = true
  code : s.on (Reg.HV_ERR_VALID m) = false → u.rd (Reg.HV_ERR_CODE m) = c ∧ u.rd (Reg.HV_ERR_TID m) = t
  opened : ∃ r ∈ u.rcv.opens, r.layer = 6 ∧ r.code = c
  other : ∀ k, k ≠ m → u.hv k = s.hv k
  frame : Frame ([Reg.HV_ERR_CODE m, Reg.HV_ERR_TID m, Reg.HV_ERR_VALID m] ++ openFields) [.harvest, .rcv, .out, .host] s u

/-- The command at TAIL of job slot `k` has the OP `op`, and stands at offset `o` of BAR4 (R426, R427). -/
structure SlotHolds (s : State) (k op o : Nat) : Prop where
  place : s.cmdAt k = some o
  code : s.b4 o % 256 = op

/-- The command at TAIL of job slot `k` is answered (R426, R427): its STATUS is written, its OP is as it was, TAIL has gone
on, HEAD has not, and a status other than DONE has been counted. -/
structure Answered (s t : State) (k st : Nat) : Prop where
  status : t.b4 (cmdBase k (s.slotTail k)) / 256 % 256 = st
  code : t.b4 (cmdBase k (s.slotTail k)) % 256 = s.b4 (cmdBase k (s.slotTail k)) % 256
  tail : t.slotTail k = (s.slotTail k + 1) % 63
  head : t.slotHead k = s.slotHead k
  count : st ≠ stDone →
    t.rd Reg.FW_CNT_RANGE_HOST = min (s.rd Reg.FW_CNT_RANGE_HOST + 1) (2 ^ Reg.FW_CNT_RANGE_HOST.width - 1)

/-- The job slot and the OP of a command that the scan of a slot finds (R426, R427). -/
def slotOpOf : Instr → Option (Nat × Nat)
  | .load k _ => some (k.val, opLoad)
  | .run k => some (k.val, opRun)
  | .batch k => some (k.val, opBatch)
  | .park k => some (k.val, opPark)
  | .jobResume k => some (k.val, opResume)
  | .stop k => some (k.val, opStop)
  | .adopt k => some (k.val, opAdopt)
  | .scrub k => some (k.val, opScrub)
  | .seq k => some (k.val, opSeq)
  | _ => none

end Sys2Proof.Machine
end

