-- ==== Sys2Proof/Certificates/Slice0/Obligations.lean ====
section
/-! DEFINITION. The statements about the model: one definition per statement, each a proposition about `exec`, `step` or
a definition that they rest on. A frame names the register fields and the parts of the state that may change. -/

open Sys2Proof Sys2Proof.Machine

/-- AT_START completes in every state. In ISOLATED a device whose role is not manager, and one that was root before,
enters MEASURE; a manager enters ROOT-PENDING without a parent, with AT at the formation base, unless PPS_ALIGN is set
with the reference present, when it waits for the edge and nothing else changes. In any other state nothing changes.
The frame names the register fields and parts that may change. A PPS edge at a device that is no root and does not
wait for one is captured in AT_PPS_CAP and AT_PPS_FRAC; at a root, an edge within 100 ns of a whole second with the 10
MHz input present counts as accepted and is captured, and sets REF_OK from the third in a row on; without the input it
is not accepted, and REF_OK clears; any edge further off counts as rejected. An edge with the 10 MHz input starts AT
of a waiting manager at the smallest whole second not below the base, in ROOT-PENDING, and counts as the first
accepted edge; without the input the manager goes on waiting. Two seconds without an edge, and the loss of the 10 MHz
input, clear REF_OK of a root; before the two seconds nothing changes. At a whole second of a running AT with
PPS_OUT_EN the pulse goes out, and otherwise nothing changes. (01_almanac_time.md R24, 01_almanac_time.md R35,
01_almanac_time.md R37, 01_almanac_time.md R45, 01_almanac_time.md R22, 01_almanac_time.md R23, 01_almanac_time.md
R25) -/
def Obligations.TimeStartsAndFollowsItsReference : Prop :=
  (
  (∀ s : State, s.tstate = tsIsolated → (s.rd Reg.AT_CTL_ROLE ≠ roleManager ∨ s.time.wasRoot = true) →
    ∃ t, exec .atStart s = .next t ∧ t.tstate = tsMeasure ∧
      Frame [Reg.AT_STAT_STATE, Reg.AT_STAT_PARENT, Reg.AT_STAT_DEPTH] [.links, .time] s t) ∧
  (∀ s : State, s.tstate = tsIsolated → s.rd Reg.AT_CTL_ROLE = roleManager → s.time.wasRoot = false →
    (s.on Reg.AT_CTL_PPS_ALIGN = false ∨ s.time.ref10 = false) →
    ∃ t, exec .atStart s = .next t ∧ t.tstate = tsPending ∧ t.parent = none ∧
      t.now = s.rd Reg.AT_BASE_LO_VALUE + 2 ^ 32 * s.rd Reg.AT_BASE_HI_VALUE ∧
      Frame [Reg.AT_STAT_STATE, Reg.AT_STAT_PARENT, Reg.AT_STAT_DEPTH, Reg.AT_EPOCH_NUM, Reg.AT_EPOCH_START_LO_VALUE,
        Reg.AT_EPOCH_START_HI_VALUE, Reg.SM_TT_SEL, Reg.SM_FLT_TT_MISSING] [.now, .links, .time, .host, .power] s t) ∧
  (∀ s : State, s.tstate = tsIsolated → s.rd Reg.AT_CTL_ROLE = roleManager → s.time.wasRoot = false →
    s.on Reg.AT_CTL_PPS_ALIGN = true → s.time.ref10 = true →
    exec .atStart s = .next { s with time := { s.time with ppsWait := true } }) ∧
  (∀ s : State, s.tstate ≠ tsIsolated → exec .atStart s = .next s)) ∧
  (
  (∀ (frac : BitVec 16) (ref10 : Bool) (s : State), s.isRoot = false → s.time.ppsWait = false →
    ∃ t, exec (.ppsEdge frac ref10) s = .next t ∧ t.rd Reg.AT_PPS_CAP_LO_VALUE = s.now % 2 ^ 32 ∧
      t.rd Reg.AT_PPS_CAP_HI_VALUE = s.now / 2 ^ 32 % 2 ^ 32 ∧ t.rd Reg.AT_PPS_FRAC_FRAC = frac.toNat ∧
      Frame [Reg.AT_PPS_CAP_LO_VALUE, Reg.AT_PPS_CAP_HI_VALUE, Reg.AT_PPS_FRAC_FRAC] [.time] s t) ∧
  (∀ (frac : BitVec 16) (s : State), s.isRoot = true → s.time.ppsWait = false →
    (secondError s.now frac.toNat).natAbs ≤ 100 * 65536 →
    ∃ t, exec (.ppsEdge frac true) s = .next t ∧
      t.rd Reg.AT_PPS_STAT_ACC = min (s.rd Reg.AT_PPS_STAT_ACC + 1) (2 ^ Reg.AT_PPS_STAT_ACC.width - 1) ∧
      t.rd Reg.AT_PPS_FRAC_FRAC = frac.toNat ∧ t.time.ppsRun = s.time.ppsRun + 1 ∧
      t.on Reg.AT_STAT_REF_OK = (s.on Reg.AT_STAT_REF_OK || decide (3 ≤ s.time.ppsRun + 1)) ∧
      Frame [Reg.AT_PPS_CAP_LO_VALUE, Reg.AT_PPS_CAP_HI_VALUE, Reg.AT_PPS_FRAC_FRAC, Reg.AT_PPS_STAT_ACC,
        Reg.AT_STAT_REF_OK] [.time, .fresh] s t) ∧
  (∀ (frac : BitVec 16) (s : State), s.isRoot = true → s.time.ppsWait = false →
    (secondError s.now frac.toNat).natAbs ≤ 100 * 65536 →
    ∃ t, exec (.ppsEdge frac false) s = .next t ∧ t.on Reg.AT_STAT_REF_OK = false ∧ t.time.ppsRun = 0 ∧
      Frame [Reg.AT_STAT_REF_OK] [.time] s t) ∧
  (∀ (frac : BitVec 16) (ref10 : Bool) (s : State), s.isRoot = true → s.time.ppsWait = false →
    100 * 65536 < (secondError s.now frac.toNat).natAbs →
    ∃ t, exec (.ppsEdge frac ref10) s = .next t ∧
      t.rd Reg.AT_PPS_STAT_REJ = min (s.rd Reg.AT_PPS_STAT_REJ + 1) (2 ^ Reg.AT_PPS_STAT_REJ.width - 1) ∧
      t.time.ppsRun = 0 ∧ (ref10 = false → t.on Reg.AT_STAT_REF_OK = false) ∧
      Frame [Reg.AT_PPS_STAT_REJ, Reg.AT_STAT_REF_OK] [.time] s t) ∧
  (∀ (frac : BitVec 16) (s : State), s.time.ppsWait = true →
    (∃ t, exec (.ppsEdge frac true) s = .next t ∧ t.tstate = tsPending ∧ t.on Reg.AT_STAT_REF_OK = false ∧
      t.rd Reg.AT_PPS_STAT_ACC = min (s.rd Reg.AT_PPS_STAT_ACC + 1) (2 ^ Reg.AT_PPS_STAT_ACC.width - 1) ∧
      t.time.ppsRun = 1 ∧ t.time.ppsWait = false ∧
      t.now % 1000000000 = 0 ∧ s.baseAt ≤ t.now ∧ t.now < s.baseAt + 1000000000) ∧
    ∃ t, exec (.ppsEdge frac false) s = .next t ∧ t.time.ppsWait = true ∧ Frame [] [.time] s t) ∧
  (∀ s : State, s.isRoot = true →
    (s.time.ppsLast + 2000000000 ≤ s.now → ∃ t, exec .ppsTimeout s = .next t ∧ t.on Reg.AT_STAT_REF_OK = false ∧
      Frame [Reg.AT_STAT_REF_OK] [.time] s t) ∧
    (s.now < s.time.ppsLast + 2000000000 → exec .ppsTimeout s = .next s) ∧
    ∃ t, exec .ref10Loss s = .next t ∧ t.time.ref10 = false ∧ t.on Reg.AT_STAT_REF_OK = false ∧
      Frame [Reg.AT_STAT_REF_OK] [.time] s t) ∧
  (∀ s : State, s.tstate ≠ tsOff → s.on Reg.AT_CTL_PPS_OUT_EN = true → s.now % 1000000000 = 0 →
    exec .ppsOut s = .next (s.emit .pps)) ∧
  (∀ s : State, s.tstate = tsOff ∨ s.on Reg.AT_CTL_PPS_OUT_EN = false ∨ s.now % 1000000000 ≠ 0 →
    exec .ppsOut s = .next s))

/-- In LOCK, a frequency lock between 1 ms and 20 ms after the entry leads to ALIGN, and 20 ms without one to
MEASURE. The loss of the parent, at its limit and not before, leads from MEASURE, LOCK, ALIGN and READY to MEASURE
and from RUN to HOLDOVER. In HOLDOVER, 100 ms or an estimate above the limit lead to ISOLATED with HOLD_LIMIT set,
the device no longer admitted and an open time fault of layer 2, code 1; below both the device stays in HOLDOVER
with the estimate noted. Elsewhere LOCK_ACHIEVED, LOCK_TIMEOUT and HOLDOVER_TIMEOUT change nothing. In RUN or
HOLDOVER, a standby manager whose link to the manager is down or silent, and whose interval of AT_LIMIT.ROOT_LOSS
has passed since the later of that finding and the last qualifying TREE field, enters ROOT: the generation goes up
by one modulo 256, TAKEOVER is set, the admitted count goes down by one and AT is unchanged. Before the interval's
end, and at a device that was root before, nothing changes. Where the job image and the routes do not cover the loss of
the manager, a running job opens the fault of a lost device that carries work (layer 11, code 3; outside the Hem), and a
parked job ends. A silent link to the manager is noted by the standby with its instant. (01_almanac_time.md R37,
01_almanac_time.md R41, 01_almanac_time.md R43, 01_almanac_time.md R44, 01_almanac_time.md R45, 12_faults_and_replay.md
R410; coverage and when the job ends are the model's reading, log entry 77) -/
def Obligations.TimeStatesAdvanceAndTheStandbyTakesOver : Prop :=
  (
  (∀ s : State, s.tstate = tsLock → s.time.lockSince + 1000000 ≤ s.now → s.now ≤ s.time.lockSince + 20000000 →
    ∃ t, exec .lockAchieved s = .next t ∧ t.tstate = tsAlign ∧ t.time.alignRun = 0 ∧
      Frame [Reg.AT_STAT_STATE] [.time] s t) ∧
  (∀ s : State, s.tstate = tsLock → s.time.lockSince + 20000000 ≤ s.now →
    ∃ t, exec .lockTimeout s = .next t ∧ t.tstate = tsMeasure ∧
      Frame [Reg.AT_STAT_STATE, Reg.AT_STAT_PARENT, Reg.AT_STAT_DEPTH] [.links, .time] s t) ∧
  (∀ s : State, s.tstate ≠ tsLock → exec .lockAchieved s = .next s ∧ exec .lockTimeout s = .next s) ∧
  (∀ (s : State) (n : Nat), s.parent = some n → (s.link n).lastTime + s.parentLossNs ≤ s.now →
    (s.tstate = tsMeasure ∨ s.tstate = tsLock ∨ s.tstate = tsAlign ∨ s.tstate = tsReady →
      ∃ t, exec .parentLossTimeout s = .next t ∧ t.tstate = tsMeasure ∧
        Frame [Reg.AT_STAT_STATE, Reg.AT_STAT_PARENT, Reg.AT_STAT_DEPTH] [.links, .time] s t) ∧
    (s.tstate = tsRun →
      ∃ t, exec .parentLossTimeout s = .next t ∧ t.tstate = tsHoldover ∧ t.time.holdSince = s.now ∧
        Frame [Reg.AT_STAT_STATE, Reg.AT_STAT_PARENT, Reg.AT_STAT_DEPTH] [.links, .time] s t)) ∧
  (∀ (s : State) (n : Nat), s.parent = some n → s.now < (s.link n).lastTime + s.parentLossNs →
    (∃ t, exec .parentLossTimeout s = .next t ∧ Frame [] [.time] s t) ∧
    ((∀ m ∈ s.upLinks, s.managerLink m = true → s.now < (s.link m).lastTime + s.parentLossNs) →
      exec .parentLossTimeout s = .next s)) ∧
  (∀ (s : State) (n : Nat), n ∈ s.upLinks → s.managerLink n = true → (s.link n).lastTime + s.parentLossNs ≤ s.now →
    s.time.mgrDownSince = none →
    ∃ t, exec .parentLossTimeout s = .next t ∧ t.time.mgrDownSince = some s.now) ∧
  (∀ (e : BitVec 8) (s : State), s.tstate = tsHoldover →
    (s.time.holdSince + 100000000 ≤ s.now ∨ s.rd Reg.AT_LIMIT_HOLD_ERR * 32 < e.toNat * 10) →
    ∃ t, exec (.holdoverTimeout e) s = .next t ∧ t.tstate = tsIsolated ∧ t.on Reg.AT_STAT_HOLD_LIMIT = true ∧
      t.admitted = false ∧ (∃ r ∈ t.rcv.opens, r.layer = 2 ∧ r.code = 1)) ∧
  (∀ (e : BitVec 8) (s : State), s.tstate = tsHoldover → s.now < s.time.holdSince + 100000000 →
    e.toNat * 10 ≤ s.rd Reg.AT_LIMIT_HOLD_ERR * 32 →
    ∃ t, exec (.holdoverTimeout e) s = .next t ∧ t.tstate = tsHoldover ∧ t.time.estErr = e.toNat ∧
      t.time.elapsed = (s.now - s.time.holdSince) / 1000 ∧ Frame [] [.time] s t) ∧
  (∀ (e : BitVec 8) (s : State), s.tstate ≠ tsHoldover → exec (.holdoverTimeout e) s = .next s)) ∧
  (
  (∀ (s : State) (d : Nat), s.rd Reg.AT_CTL_ROLE = roleStandby → s.time.wasRoot = false → (s.tstate = tsRun ∨ s.tstate = tsHoldover) →
    s.time.mgrDownSince = some d → max d s.time.rootSeen + 1000 * s.rd Reg.AT_LIMIT_ROOT_LOSS ≤ s.now →
    s.rd Reg.AT_EPOCH_GEN < 256 →
    ∃ t, exec .rootLossTimeout s = .next t ∧ t.tstate = tsRoot ∧ t.parent = none ∧
      t.rd Reg.AT_EPOCH_GEN = (s.rd Reg.AT_EPOCH_GEN + 1) % 256 ∧ t.on Reg.AT_STAT_TAKEOVER = true ∧
      t.time.admitted = s.time.admitted - 1 ∧ t.time.mgrDownSince = none ∧ t.now = s.now ∧ t.tiles = s.tiles ∧
      StatePart.mem.Same s t ∧
      (s.takeoverCovered = true → Frame [Reg.AT_STAT_STATE, Reg.AT_STAT_PARENT, Reg.AT_STAT_DEPTH, Reg.AT_STAT_TAKEOVER,
        Reg.AT_EPOCH_GEN] [.time, .out, .host] s t) ∧
      (s.takeoverCovered = false → s.jobState = jbRunning → s.phase ≠ phHem →
        ∃ r ∈ t.rcv.opens, r.layer = 11 ∧ r.code = 3 ∧ r.dev = s.managerId) ∧
      (s.takeoverCovered = false → s.jobState = jbParked → t.jobState = jbEnded)) ∧
  (∀ s : State, s.time.wasRoot = true → exec .rootLossTimeout s = .next s) ∧
  (∀ (s : State) (d : Nat), s.time.mgrDownSince = some d →
    s.now < max d s.time.rootSeen + 1000 * s.rd Reg.AT_LIMIT_ROOT_LOSS → exec .rootLossTimeout s = .next s))

/-- A new READY message at a manager that has not declared the epoch adds the sender, with its native table, to the
devices that count for it. Twenty seconds after AT started, the manager declares the epoch: its number goes up by
one modulo 65,536, its start is a multiple of 64 ns at least 1,000,000 ns ahead, held in AT_EPOCH_START. A device
with a parent accepts a newer epoch record of the parent's generation, and holds its number and start. At the epoch
start the manager enters ROOT and a READY device that holds the record enters RUN; each is admitted unless a cable too
long or a missing or slow timing table bars it. A repeated READY message is only counted. (01_almanac_time.md R37,
01_almanac_time.md R38, 01_almanac_time.md R40, 07_seams_and_patterns.md R235, 07_seams_and_patterns.md R241) -/
def Obligations.EpochIsFormed : Prop :=
  (∀ (m : MsgId) (native : BitVec 8) (tables : List (BitVec 8)) (s : State), s.msgSeen m = false → s.tstate = tsPending →
    s.time.epochHeld = false →
    ∃ t, exec (.ready m native tables) s = .next t ∧ (m.src, native) ∈ t.time.readyDevs ∧ t.tstate = tsPending ∧
      t.msgSeen m = true ∧ t.now = s.now ∧ t.tiles = s.tiles ∧ t.mem = s.mem) ∧
  (∀ (m : MsgId) (native : BitVec 8) (tables : List (BitVec 8)) (s : State), s.msgSeen m = true →
    exec (.ready m native tables) s = .next (s.bump Reg.FW_CNT_RANGE_MGMT 1)) ∧
  (∀ (s : State) (a : Nat), s.time.formSince = some a → s.tstate = tsPending → s.time.epochHeld = false →
    (a + 20000000000 ≤ s.now →
      ∃ t, exec .formationTimeout s = .next t ∧ t.time.epochHeld = true ∧ t.tstate = tsPending ∧
        t.rd Reg.AT_EPOCH_NUM = (s.rd Reg.AT_EPOCH_NUM + 1) % 2 ^ 16 ∧ t.time.epochStart % 64 = 0 ∧
        s.now + 1000000 ≤ t.time.epochStart ∧ t.time.epochStart < s.now + 1000064 ∧
        t.rd Reg.AT_EPOCH_START_LO_VALUE = t.time.epochStart % 2 ^ 32 ∧
        Frame [Reg.AT_EPOCH_NUM, Reg.AT_EPOCH_START_LO_VALUE, Reg.AT_EPOCH_START_HI_VALUE, Reg.SM_TT_SEL,
          Reg.SM_FLT_TT_MISSING] [.links, .time] s t) ∧
    (s.now < a + 20000000000 → exec .formationTimeout s = .next s)) ∧
  (∀ (n : LinkId) (r : EpochRec) (s : State) (p : Nat), s.parent = some p → r.gen.toNat = (s.link p).tree.gen →
    s.rd Reg.AT_EPOCH_NUM < r.num.toNat →
    ∃ t, exec (.epochRecord n r) s = .next t ∧ t.time.epochHeld = true ∧ t.time.epochStart = r.start.toNat ∧
      t.rd Reg.AT_EPOCH_NUM = r.num.toNat ∧ t.rd Reg.AT_EPOCH_START_LO_VALUE = r.start.toNat % 2 ^ 32 ∧ t.now = s.now ∧
      t.tiles = s.tiles ∧ t.mem = s.mem) ∧
  (∀ (n : LinkId) (r : EpochRec) (s : State), s.parent = none → exec (.epochRecord n r) s = .next s) ∧
  (∀ s : State, s.tstate = tsPending → s.time.epochHeld = true → s.time.epochStart ≤ s.now →
    ∃ t, exec .epochStart s = .next t ∧ t.tstate = tsRoot ∧
      (s.admissible = true → (∀ n ∈ s.upLinks, s.patternLinks.contains n = false ∨ s.cableLong n = false) →
        t.admitted = true) ∧
      (s.admissible = false → t.admitted = s.admitted) ∧
      Frame [Reg.AT_STAT_STATE, Reg.AT_STAT_DEPTH, Reg.TK_STAT_ADMITTED, Reg.FW_STAT_STAGE, Reg.SC_STAT_SVN_PEND,
        Reg.SM_FLT_CABLE] [.time, .sec] s t) ∧
  (∀ s : State, s.tstate = tsReady → s.time.epochHeld = true → s.time.epochStart ≤ s.now → s.admissible = true →
    (∀ n ∈ s.upLinks, s.patternLinks.contains n = false ∨ s.cableLong n = false) →
    ∃ t, exec .epochStart s = .next t ∧ t.tstate = tsRun ∧ t.admitted = true ∧
      Frame [Reg.AT_STAT_STATE, Reg.AT_STAT_DEPTH, Reg.TK_STAT_ADMITTED, Reg.FW_STAT_STAGE, Reg.SC_STAT_SVN_PEND]
        [.time, .sec] s t)

/-- A window of an UP link that has neither 64 samples nor run for 65,536 ns changes nothing, nor does a window of a
link that is not UP. A closed window with fewer than 16 accepted samples is discarded: a link that is no parent link
only counts it and starts anew. A closed window with 16 or more on a link that is no parent link, outside MEASURE,
gives that link its mean delay and its offset, and counts one more accepted window; the first after a training of a
pattern link compares the wire delay with the cable allowance. A discarded window of the parent is noted, and the
second in a row loses the parent: from RUN to HOLDOVER, and from the states before it to MEASURE. In HOLDOVER, a
window of the new parent within AT_LIMIT.HOLD_ERR leads to RUN. The up levels are released 1,024 ns after the last
change of the subtree count, and not before. (01_almanac_time.md R26, 01_almanac_time.md R29, 01_almanac_time.md R41,
01_almanac_time.md R42, 02_steps_tacks_hems.md R59) -/
def Obligations.TimeSampleWindowsClose : Prop :=
  (∀ (n : LinkId) (f : Int) (s : State), s.linkUp n.val = false ∨
      ((s.link n.val).samples.length < 64 ∧ s.now < (s.link n.val).winSince + 65536) →
    exec (.timeWindow n f) s = .next s) ∧
  (∀ (n : LinkId) (f : Int) (s : State), s.linkUp n.val = true →
    (64 ≤ (s.link n.val).samples.length ∨ (s.link n.val).winSince + 65536 ≤ s.now) →
    ((keptSamples (s.link n.val).samples).length < 16 → s.parent ≠ some n.val →
      ∃ t, exec (.timeWindow n f) s = .next t ∧ (t.link n.val).samples = [] ∧ (t.link n.val).winSince = s.now ∧
        (t.link n.val).rej = min 0xFFFF ((s.link n.val).rej + 1) ∧ OtherLinks [n.val] s t ∧ Frame [] [.links] s t) ∧
    (16 ≤ (keptSamples (s.link n.val).samples).length → s.parent ≠ some n.val → s.tstate ≠ tsMeasure →
      ∃ t, exec (.timeWindow n f) s = .next t ∧ (t.link n.val).samples = [] ∧ (t.link n.val).winSince = s.now ∧
        (t.link n.val).windows = (s.link n.val).windows + 1 ∧
        (t.link n.val).d = roundDiv (sumDelay (keptSamples (s.link n.val).samples))
          (2 * (keptSamples (s.link n.val).samples).length) ∧
        (t.link n.val).theta = -(roundDiv (sumOffset (keptSamples (s.link n.val).samples) * 1000 -
          (keptSamples (s.link n.val).samples).length * s.alpha2000 n.val)
          (2000 * (keptSamples (s.link n.val).samples).length)) ∧
        (t.link n.val).cableDue = false ∧ OtherLinks [n.val] s t ∧ Frame [Reg.SM_FLT_CABLE] [.links] s t ∧
        ((s.link n.val).cableDue = false ∨ s.patternLinks.contains n.val = false → Frame [] [.links] s t)) ∧
    ((keptSamples (s.link n.val).samples).length < 16 → s.parent = some n.val → s.time.badWindows = 0 →
      ∃ t, exec (.timeWindow n f) s = .next t ∧ t.time.badWindows = 1 ∧ t.tstate = s.tstate ∧ t.parent = s.parent ∧
        OtherLinks [n.val] s t ∧ Frame [] [.links, .time] s t) ∧
    ((keptSamples (s.link n.val).samples).length < 16 → s.parent = some n.val → 1 ≤ s.time.badWindows →
      (s.tstate = tsRun → ∃ t, exec (.timeWindow n f) s = .next t ∧ t.tstate = tsHoldover) ∧
      (s.tstate = tsMeasure ∨ s.tstate = tsLock ∨ s.tstate = tsAlign ∨ s.tstate = tsReady →
        ∃ t, exec (.timeWindow n f) s = .next t ∧ t.tstate = tsMeasure)) ∧
    (16 ≤ (keptSamples (s.link n.val).samples).length → s.parent = some n.val → s.tstate = tsHoldover →
      (roundDiv (sumOffset (keptSamples (s.link n.val).samples) * 1000 -
          (keptSamples (s.link n.val).samples).length * s.alpha2000 n.val)
          (2000 * (keptSamples (s.link n.val).samples).length)).natAbs * 10 ≤ s.rd Reg.AT_LIMIT_HOLD_ERR * 65536 →
      ∃ t, exec (.timeWindow n f) s = .next t ∧ t.tstate = tsRun ∧ t.now = s.now ∧ t.tiles = s.tiles ∧ t.mem = s.mem)) ∧
  (∀ s : State, s.time.countHeld = true → s.time.countAt + 1024 ≤ s.now →
    exec .countHoldEnd s = .next { s with time := { s.time with countHeld := false } }) ∧
  (∀ s : State, s.time.countHeld = false ∨ s.now < s.time.countAt + 1024 → exec .countHoldEnd s = .next s)

/-- A block slot of an UP link sends exactly one block on that link. It is 256 bytes long, its last four bytes are
the CRC-32 of the others, and its control field carries the low 24 bits of the departure instant in 2^-16 ns. Only
the link itself, the two re-send counters of the link, the Seam's transmit bookkeeping and the sent digest may
change beside it. A slot of a link that is not UP changes nothing. (10_afpen_links.md R319, 10_afpen_links.md R320,
10_afpen_links.md R330) -/
def Obligations.BlockSlotSendsOneBlock : Prop :=
  (∀ (n : LinkId) (frac : BitVec 16) (s : State), s.linkUp n.val = true →
    ∃ t bs, exec (.blockSlot n frac) s = .next t ∧ t.out = s.out ++ [.block n.val bs] ∧ bs.length = 256 ∧
      crc32 (bs.take 252) = leNat (bs.drop 252) ∧ (blockCtl (leNat (bs.take 12))).dts = (65536 * s.now + frac.toNat) % 2 ^ 24 ∧
      OtherLinks [n.val] s t ∧
      Frame [Reg.LK_XARM_OVR n.val, Reg.LK_RETRY_RESENT n.val] [.links, .out, .seam, .commit] s t) ∧
  (∀ (n : LinkId) (frac : BitVec 16) (s : State), s.linkUp n.val = false → exec (.blockSlot n frac) s = .next s)

/-- A block at a link that is not UP changes nothing. At an UP link whose uncorrectable codewords in a row stay below
eight, a block that an uncorrectable codeword touches, that is not 256 bytes long, fails its CRC or has a reserved kind
is counted once, in the CRC count or in the counter's overrun bit, and
outside a Seam calls for a NAK of the next number. A good idle block without acknowledgement and sideband gives the
link the peer's up levels and the time stamp to echo, with its arrival instant. In both cases only this link and its
counters change. Eight uncorrectable codewords in a row, and a good training block of the peer, make the link leave UP
and train. (10_afpen_links.md R318, 10_afpen_links.md R319,
10_afpen_links.md R328, 10_afpen_links.md R349, 02_steps_tacks_hems.md R58) -/
def Obligations.ReceivedBlocksAreCheckedAndTaken : Prop :=
  (∀ (n : LinkId) (rx : RxBlock) (s : State), s.linkUp n.val = false → exec (.blockReceive n rx) s = .next s) ∧
  (∀ (n : LinkId) (rx : RxBlock) (s : State), s.linkUp n.val = true → s.runOf n.val rx < 8 →
    ((rx.fecOk = false ∨ blockGood rx.bytes = false) → s.on Reg.TK_STAT_IN_SEAM = false →
      ∃ t, exec (.blockReceive n rx) s = .next t ∧ (t.link n.val).nakS = true ∧
        (t.on (Reg.LK_XARM_OVR n.val) = true ∨ t.rd (Reg.LK_CRC_COUNT n.val) =
          min (s.rd (Reg.LK_CRC_COUNT n.val) + 1) (2 ^ (Reg.LK_CRC_COUNT n.val).width - 1)) ∧
        OtherLinks [n.val] s t ∧
        Frame [Reg.LK_XARM_OVR n.val, Reg.LK_CRC_COUNT n.val, Reg.LK_FEC_CORR n.val, Reg.LK_FEC_UNCORR n.val] [.links] s t) ∧
    (rx.fecOk = true → blockGood rx.bytes = true →
      (blockCtl (leNat (rx.bytes.take 12))).kind = bkIdle → (blockCtl (leNat (rx.bytes.take 12))).ak = 0 →
      (blockCtl (leNat (rx.bytes.take 12))).side.sbk = 0 →
      ∃ t, exec (.blockReceive n rx) s = .next t ∧ (t.link n.val).rxUp = (blockCtl (leNat (rx.bytes.take 12))).up ∧
        (t.link n.val).echo = some ((blockCtl (leNat (rx.bytes.take 12))).dts,
          (65536 * rx.arrNs + rx.arrFrac.toNat) % 2 ^ 24) ∧
        OtherLinks [n.val] s t ∧ Frame [Reg.LK_FEC_CORR n.val, Reg.LK_FEC_UNCORR n.val] [.links] s t)) ∧
  (∀ (n : LinkId) (rx : RxBlock) (s : State), s.linkUp n.val = true →
    (8 ≤ s.runOf n.val rx ∨
      (rx.fecOk = true ∧ blockGood rx.bytes = true ∧ (blockCtl (leNat (rx.bytes.take 12))).kind = bkTrn)) →
    ∃ t, exec (.blockReceive n rx) s = .next t ∧ t.lkState n.val = lkPhy ∧ t.on (Reg.LK_STAT_LEFT_UP n.val) = true ∧
      t.now = s.now ∧ t.tiles = s.tiles ∧ t.mem = s.mem)

/-- For every control field whose parts fit their widths and whose kind is not reserved, and every payload of at
most 240 bytes: the block is 256 bytes long, passes the receiver's CRC-32 and kind check, its first 12 bytes spell
exactly that control field, and its next 240 bytes are the payload filled up with zeros. No part of the control
field is dropped or overlaps another. (10_afpen_links.md R319, 10_afpen_links.md R320, 10_afpen_links.md R321) -/
def Obligations.BlockFormatRoundTrips : Prop :=
  ∀ (c : BlockCtl) (p : List Byte), c.kind < 6 → c.seq < 2 ^ 12 → c.aseq < 2 ^ 12 → c.ak < 4 → c.up < 2 ^ 8 →
    c.dts < 2 ^ 24 → c.side.sbk < 16 → c.side.sbw < 2 ^ 28 → p.length ≤ 240 →
    (blockBytes c p).length = 256 ∧ blockGood (blockBytes c p) = true ∧
      blockCtl (leNat ((blockBytes c p).take 12)) = c ∧
      ((blockBytes c p).drop 12).take 240 = p ++ List.replicate (240 - p.length) 0

/-- The bits [21:6] of a record's AT give that AT back at every receiver whose own AT lies less than 2^21 ns from
it. A TREE field whose parts fit their widths is recovered from its sideband word. The low 12 bits of a sequence
number give it back from any base that lies less than 2^11 from it. (10_afpen_links.md R323, 10_afpen_links.md R324) -/
def Obligations.SidebandTimesAreRecovered : Prop :=
  (∀ now t : Nat, t % 64 = 0 → t < now + 2 ^ 21 → now < t + 2 ^ 21 → gridAt now (gridBits t).toNat = t) ∧
  (∀ f : TreeField, f.depth < 16 → f.gen < 256 → f.count < 2 ^ 14 → treeOfWord (treeWord f) = f) ∧
  (∀ base q : Nat, q < base + 2 ^ 11 → base < q + 2 ^ 11 → nearest (2 ^ 12) base (q % 2 ^ 12) = q)

/-- Where they issue with legal fields: TMASK, while no tree that it leaves has the tile's flag set, gives the
membership of every tree, but keeps that of a tree that is not plain while the tile's flag for it is set. TSET on a
plain tree that is not abandoned, with the flag clear and all the tile's operations drained, flushes the pleat
buffer, sets the flag and retires. TWAIT retires with SUCCESS in p[PS] once the tile's own flag is clear, and with
ABANDONED (0) on an abandoned tree. TSEAM on a bound tree flushes, sets the flag and stops issue. On an abandoned
tree TSET changes no flag. Each leaves the tile's registers beside p[PS], every other tile, and everything outside
the tiles but the wait counts as they were. (02_steps_tacks_hems.md R52, 02_steps_tacks_hems.md R54,
02_steps_tacks_hems.md R65, 03_tile.md R95, 03_tile.md R96) -/
def Obligations.TackInstructionsTakeEffect : Prop :=
  (∀ (tile : TileId) (iw : Word64) (s : State) (p : Nat), Issues s tile iw p → rowOf iw 7 0 = true → illegalTmask iw = false →
    (∀ k < 32, (s.tile p).isMember k = true → (s.tile p).flagSet k = true → hasBit (iwImm iw) k = true) →
    ∃ t, exec (.tmask tile iw) s = .next t ∧ Retired s t p ∧
      (∀ k < 32, (t.tile p).isMember k =
        if (s.tile p).flagSet k = true ∧ s.bindKind k ≠ tkPlain then (s.tile p).isMember k else hasBit (iwImm iw) k) ∧
      (t.tile p).flags = (s.tile p).flags ∧ SameRegs (s.tile p) (t.tile p) ∧ SameStore (s.tile p) (t.tile p) ∧
      OtherTiles [p] s t ∧ Frame [] [.tiles, .step] s t) ∧
  (∀ (tile : TileId) (iw : Word64) (s : State) (p : Nat), Issues s tile iw p → rowOf iw 7 1 = true →
    illegalTree iw 1 true = false → (s.tack (iwObj iw)).abandoned = false → s.bindKind (iwObj iw) = tkPlain →
    (s.tile p).flagSet (iwObj iw) = false → (s.tile p).drained = true →
    ∃ t, exec (.tset tile iw) s = .next t ∧ Retired s t p ∧ (t.tile p).flags = setBit (s.tile p).flags (iwObj iw) ∧
      (t.tile p).pleat = [] ∧ (t.tile p).member = (s.tile p).member ∧ SameRegs (s.tile p) (t.tile p) ∧
      OtherTiles [p] s t ∧ Frame [] [.tiles, .step] s t) ∧
  (∀ (tile : TileId) (iw : Word64) (s : State) (p : Nat), Issues s tile iw p → rowOf iw 7 1 = true →
    illegalTree iw 1 true = false → (s.tack (iwObj iw)).abandoned = true →
    ∃ t, exec (.tset tile iw) s = .next t ∧ Retired s t p ∧ (t.tile p).flags = (s.tile p).flags ∧
      SameRegs (s.tile p) (t.tile p) ∧ SameStore (s.tile p) (t.tile p) ∧ OtherTiles [p] s t ∧
      Frame [] [.tiles, .step] s t) ∧
  (∀ (tile : TileId) (iw : Word64) (s : State) (p : Nat), Issues s tile iw p → rowOf iw 7 2 = true →
    illegalTree iw 2 false = false →
    ((s.tack (iwObj iw)).abandoned = true ∨ (s.bindKind (iwObj iw) = tkPlain ∧ s.treeEmpty (iwObj iw) = false ∧
      (s.tile p).flagSet (iwObj iw) = false)) →
    ∃ t, exec (.twait tile iw) s = .next t ∧ Retired s t p ∧
      (iwPS iw ≠ 0 → (t.tile p).pred (iwPS iw) = !(s.tack (iwObj iw)).abandoned) ∧
      (∀ i, i ≠ iwPS iw → (t.tile p).pred i = (s.tile p).pred i) ∧
      (t.tile p).g = (s.tile p).g ∧ (t.tile p).v = (s.tile p).v ∧ (t.tile p).flags = (s.tile p).flags ∧
      SameStore (s.tile p) (t.tile p) ∧ OtherTiles [p] s t ∧ Frame [] [.tiles, .step] s t) ∧
  (∀ (tile : TileId) (iw : Word64) (s : State) (p : Nat), Issues s tile iw p → rowOf iw 7 3 = true →
    illegalTree iw 3 false = false → (s.tack (iwObj iw)).abandoned = false → s.bindKind (iwObj iw) ≠ tkPlain →
    s.treeEmpty (iwObj iw) = false → (s.tile p).flagSet (iwObj iw) = false → (s.tile p).drained = true →
    ∃ t, exec (.tseam tile iw) s = .next t ∧ (t.tile p).mode = .seam ∧ (t.tile p).blocked = some iw ∧
      (t.tile p).pc = (s.tile p).pc ∧ (t.tile p).flags = setBit (s.tile p).flags (iwObj iw) ∧ (t.tile p).pleat = [] ∧
      SameRegs (s.tile p) (t.tile p) ∧ OtherTiles [p] s t ∧ Frame [] [.tiles] s t)

/-- The full round of a plain tree that is not abandoned clears the flag of every tile but one that joined on this
very cycle, and ends the waits of those tiles on it. That of a local tree schedules a local Seam at the first multiple
of 64 at least the local lead ahead. That of a hall or Hem tree makes the completed AND the device's contribution. A
round that is not full changes nothing. A tack-line fault sets its flag, takes the contribution away and opens a fault
of layer 9, code 3. A tile that has waited on a tack, its flag still set, for 2,000 cycles outside a Seam enters lend
state, and one that has not yet changes nothing. (02_steps_tacks_hems.md R52, 02_steps_tacks_hems.md R53,
02_steps_tacks_hems.md R56, 02_steps_tacks_hems.md R57, 02_steps_tacks_hems.md R58, 02_steps_tacks_hems.md R66) -/
def Obligations.ChipRoundsOfTrees : Prop :=
  (∀ (k : Fin 32) (s : State), s.roundFull k.val = true → (s.tack k.val).abandoned = false → (s.tack k.val).done = false →
    (s.bindKind k.val = tkPlain →
      ∃ t, exec (.chipRoundComplete k) s = .next t ∧
        (∀ q, (s.tile q).memberAt s.now k.val = true ∨ (s.tile q).isMember k.val = false →
          (t.tile q).flagSet k.val = false ∧ (q ∈ s.twaiters k.val → (t.tile q).blocked = none)) ∧
        Frame [] [.tiles, .step, .harvest, .streams] s t) ∧
    (s.bindKind k.val = tkLocal →
      ∃ t a, exec (.chipRoundComplete k) s = .next t ∧ t.seam.seamAt = some a ∧ a % 64 = 0 ∧ s.now + s.localLead ≤ a ∧
        a < s.now + s.localLead + 64 ∧ t.seam.seamHall = none ∧ t.seam.tree = k.val ∧
        (∀ q, (s.tile q).memberAt s.now k.val = true ∨ (s.tile q).isMember k.val = false →
          (t.tile q).flagSet k.val = false) ∧ Frame [] [.tiles, .step, .harvest, .streams, .seam] s t) ∧
    (s.bindKind k.val ≠ tkPlain → s.bindKind k.val ≠ tkLocal →
      ∃ t, exec (.chipRoundComplete k) s = .next t ∧ (t.tack k.val).done = true ∧ (t.tack k.val).doneAt = s.now ∧
        Frame [] [.tacks, .step, .harvest, .streams] s t)) ∧
  (∀ (k : Fin 32) (s : State), s.roundFull k.val = false ∨ (s.tack k.val).abandoned = true ∨ (s.tack k.val).done = true →
    exec (.chipRoundComplete k) s = .next s) ∧
  (∀ (k : Fin 32) (s : State),
    ∃ t r, exec (.tackRailFault k) s = .next t ∧ t.on Reg.TK_FLT_RAIL = true ∧ (t.tack k.val).done = false ∧
      t.rcv.opens = s.rcv.opens ++ [r] ∧ r.layer = 9 ∧ r.code = 3 ∧ r.classH = true ∧
      Frame (Reg.TK_FLT_RAIL :: openFields) [.tacks, .rcv, .out, .host] s t) ∧
  (∀ (tile : TileId) (s : State) (p : Nat), s.physOf tile.val = some p → s.on Reg.TK_CTL_LEND_EN = true →
    (s.tile p).waitsTack.isSome = true → (s.tile p).lendSince = none → s.on Reg.TK_STAT_IN_SEAM = false →
    ((s.tile p).since + 2000 ≤ s.now →
      ∃ t, exec (.lendEntry tile) s = .next t ∧ (t.tile p).lendSince = some s.now ∧
        (t.tile p).mode = (if (s.tile p).mode = .wait then .lend else (s.tile p).mode) ∧
        OtherTiles [p] s t ∧ Frame [] [.tiles, .step] s t) ∧
    (s.now < (s.tile p).since + 2000 → exec (.lendEntry tile) s = .next s))

/-- At a manager whose round of a program hall tack is full, the release is accepted: the round parity flips, and the
Seam starts at the first multiple of 64 at least the hall lead ahead, if the device is admitted with a bound tree. The
full round of H6 in a pause gives the resume AT; that of H7 gives the start AT of a job that does not run or that
rewinds, and the Hem of a running one, with the manager's decision. An incomplete round releases nothing. A Hem
release record that has not been accepted schedules the Hem at its AT, or at once where it comes less than 32 ns
ahead, with TK_FLT.LATE, notes the decision, and takes the parity; a repeat of an accepted record changes nothing. The
release of a program hall tack starts the Seam at its AT, and one that comes late starts none and opens a fault of
layer 9, code 2. (02_steps_tacks_hems.md R59, 02_steps_tacks_hems.md R60, 02_steps_tacks_hems.md R61,
02_steps_tacks_hems.md R62, 02_steps_tacks_hems.md R70, 02_steps_tacks_hems.md R71, 07_seams_and_patterns.md R246,
11_harvest_update.md R379, 12_faults_and_replay.md R397, 12_faults_and_replay.md R398, 13_firmware_and_host.md R430) -/
def Obligations.HallRoundsAreReleased : Prop :=
  (∀ (h : Fin 8) (s : State), s.tstate = tsRoot → s.upLevel h.val = true → s.subtreeCount = s.time.admitted →
    s.time.countHeld = false →
    (h.val < 6 → s.admitted = true → (s.hallTree h.val).isSome = true →
      ∃ t, exec (.hallRoundComplete h) s = .next t ∧
        t.seam.seamAt = some (gridAfter s.now s.hallLead) ∧ t.seam.seamHall = some h.val ∧
        hasBit t.step.round h.val = (!hasBit s.step.round h.val) ∧
        hasBit (t.rd Reg.TK_HALL_ROUND) h.val = (!hasBit s.step.round h.val) ∧
        Frame [Reg.TK_HALL_ROUND] [.links, .step, .tacks, .tiles, .seam] s t) ∧
    (h.val = 6 → s.rd Reg.SM_STAT_STATE = 2 → s.seam.resumeAt = none → s.seam.abortAt = none →
      ∃ t, exec (.hallRoundComplete h) s = .next t ∧ t.seam.resumeAt = some (gridAfter s.now s.hallLead) ∧
        Frame [] [.links, .seam] s t) ∧
    (h.val = 7 → s.rd Reg.JB_RCV_STAT_STATE = 4 ∨ s.jobState ≠ jbRunning → s.step.startAt = none →
      ∃ t, exec (.hallRoundComplete h) s = .next t ∧ t.step.startAt = some (gridAfter s.now s.hallLead) ∧
        Frame [Reg.TK_HALL_ROUND] [.links, .step, .tacks, .tiles] s t) ∧
    (h.val = 7 → s.rd Reg.JB_RCV_STAT_STATE ≠ 4 → s.jobState = jbRunning → s.step.hemAt = none →
      ∃ t, exec (.hallRoundComplete h) s = .next t ∧ t.step.hemAt = some (gridAfter s.now s.hallLead) ∧
        t.step.hemDue = gridAfter s.now s.hallLead ∧ t.step.hemCommit = (s.commitDecision).1 ∧
        Frame [Reg.TK_HALL_ROUND, Reg.HV_COMMIT_DG_EQ, Reg.HV_COMMIT_DONE, Reg.HV_COMMIT_FAULT, Reg.HV_COMMIT_COUNT_OK,
          Reg.JB_RCV_STAT_STATE] [.links, .step, .tacks, .tiles, .rcv] s t)) ∧
  (∀ a lead : Nat, gridAfter a lead % 64 = 0 ∧ a + lead ≤ gridAfter a lead ∧ gridAfter a lead < a + lead + 64) ∧
  (∀ (h : Fin 8) (s : State), s.tstate ≠ tsRoot ∨ s.upLevel h.val = false ∨ s.subtreeCount ≠ s.time.admitted ∨
      s.time.countHeld = true → exec (.hallRoundComplete h) s = .next s) ∧
  (∀ (n : LinkId) (r : ReleaseRec) (s : State), r.h.val = 7 → r.start = false →
    (hasBit s.step.round 7 ≠ r.parity ∨ s.step.relAccepted.contains 7 = false) →
    ∃ t, exec (.releaseRecord n r) s = .next t ∧ t.step.hemAt = some (gridAt s.now r.s.toNat) ∧
      t.step.hemCommit = r.commit ∧ hasBit (t.rd Reg.TK_HALL_ROUND) 7 = r.parity ∧
      t.rcv.log.head?.map (fun d => d.commit) = some r.commit ∧
      (s.now + 32 ≤ gridAt s.now r.s.toNat → t.step.hemDue = gridAt s.now r.s.toNat) ∧
      (gridAt s.now r.s.toNat < s.now + 32 → t.step.hemDue = s.now ∧ t.on Reg.TK_FLT_LATE = true) ∧
      Frame [Reg.TK_HALL_ROUND, Reg.TK_FLT_LATE, Reg.JB_RCV_STAT_STATE] [.links, .step, .tacks, .tiles, .rcv] s t) ∧
  (∀ (n : LinkId) (r : ReleaseRec) (s : State), r.h.val < 7 →
    (hasBit s.step.round r.h.val ≠ r.parity ∨ s.step.relAccepted.contains r.h.val = false) →
    (s.now + 32 ≤ gridAt s.now r.s.toNat → s.admitted = true → (s.hallTree r.h.val).isSome = true →
      ∃ t, exec (.releaseRecord n r) s = .next t ∧ t.seam.seamAt = some (gridAt s.now r.s.toNat) ∧
        t.seam.seamHall = some r.h.val ∧ t.seam.parity = r.parity ∧
        Frame [Reg.TK_HALL_ROUND] [.links, .step, .tacks, .tiles, .seam] s t) ∧
    (gridAt s.now r.s.toNat < s.now + 32 →
      ∃ t x, exec (.releaseRecord n r) s = .next t ∧ t.on Reg.TK_FLT_LATE = true ∧
        hasBit (t.rd Reg.TK_HALL_LATE) r.h.val = true ∧ x ∈ t.rcv.opens ∧ x.layer = 9 ∧ x.code = 2 ∧
        Frame (Reg.TK_HALL_ROUND :: Reg.TK_FLT_LATE :: Reg.TK_HALL_LATE :: openFields)
          [.links, .step, .tacks, .tiles, .rcv, .out, .host] s t)) ∧
  (∀ (n : LinkId) (r : ReleaseRec) (s : State), hasBit s.step.round r.h.val = r.parity →
    s.step.relAccepted.contains r.h.val = true → exec (.releaseRecord n r) s = .next s)

/-- At its AT, or at the acceptance of a late release, a committing Hem adds one to the step number modulo 2^64, sets
LAST_COMMIT, clears the replay count and frees the batch of the step. A rolling-back Hem keeps the step number, clears
LAST_COMMIT and counts the replay up to 15. In both cases the Hem's AT is recorded, the policy window opens, and the
Harvest marks and taps of the step are gone; the links, GDDR7 but for its log ring, its poison and the clock are as they
were. What a policy window has staged stays staged, but where the Hem falls in the window of a committing one, which the
model lets take effect then (its own choice, log entry 83). A capture on its way stays as it is, but one of this cycle.
Before that instant, and with no Hem scheduled, nothing changes. (02_steps_tacks_hems.md R51, 02_steps_tacks_hems.md R71,
12_faults_and_replay.md R396, 12_faults_and_replay.md R397, 12_faults_and_replay.md R398, 12_faults_and_replay.md
R400) -/
def Obligations.HemCommitsOrRollsBack : Prop :=
  (∀ (s : State) (h : Nat), s.step.hemAt = some h → s.step.hemDue ≤ s.now → s.step.hemCommit = true →
    ∃ t, exec .hem s = .next t ∧ t.stepNo = (s.stepNo + 1) % 2 ^ 64 ∧ t.on Reg.TK_STAT_LAST_COMMIT = true ∧
      t.rd Reg.JB_RCV_STAT_REPLAYS = 0 ∧ nth t.host.batches (s.stepNo % 2) none = none ∧
      t.rd Reg.TK_HEM_AT_LO_VALUE = h % 2 ^ 32 ∧ t.phase = phHem ∧ t.step.winOpen = true ∧ t.step.hemAt = none ∧
      (∀ x ∈ t.harvest, x.touched = [] ∧ x.taps = []) ∧
      ((∀ x ∈ s.snaps, x.at_ ≠ s.now) → t.snaps = s.snaps) ∧
      ((s.step.winOpen = false ∨ s.on Reg.TK_STAT_LAST_COMMIT = false) → NoParams s t) ∧
      Frame ([Reg.AT_STAT_DEPTH, Reg.FW_LOG_WP_SEQ, Reg.FW_CNT_LOGDROP_COUNT, Reg.HV_COMMIT_COMMIT, Reg.JB_RCV_STAT_REPLAYS,
          Reg.SM_FLT_CABLE, Reg.TK_HEM_AT_HI_VALUE, Reg.TK_HEM_AT_LO_VALUE, Reg.TK_STAT_ADMITTED, Reg.TK_STAT_LAST_COMMIT,
          Reg.TK_STAT_PHASE, Reg.TK_STEP_HI_VALUE, Reg.TK_STEP_LO_VALUE] ++ stagedFields ++ latchFields)
        [.fab, .harvest, .host, .mdies, .monitors, .out, .power, .rcv, .ring, .seam, .seqs, .snaps, .step, .tacks, .tiles,
          .time] s t) ∧
  (∀ (s : State) (h : Nat), s.step.hemAt = some h → s.step.hemDue ≤ s.now → s.step.hemCommit = false →
    ∃ t, exec .hem s = .next t ∧ t.stepNo = s.stepNo ∧ t.on Reg.TK_STAT_LAST_COMMIT = false ∧
      t.rd Reg.JB_RCV_STAT_REPLAYS = min 15 (s.rd Reg.JB_RCV_STAT_REPLAYS + 1) ∧
      t.rd Reg.TK_HEM_AT_LO_VALUE = h % 2 ^ 32 ∧ t.step.winOpen = true ∧ t.step.hemAt = none ∧ t.rcv.opens = [] ∧
      (∀ x ∈ t.harvest, x.touched = [] ∧ x.taps = [] ∧ x.state = hvIdle) ∧ (∀ q, (t.tile q).blocked = none) ∧
      t.on Reg.TK_STAT_IN_SEAM = false ∧ ((∀ x ∈ s.snaps, x.at_ ≠ s.now) → t.snaps = s.snaps) ∧
      ((s.step.winOpen = false ∨ s.on Reg.TK_STAT_LAST_COMMIT = false) → NoParams s t) ∧
      Frame ([Reg.AT_STAT_DEPTH, Reg.FW_LOG_WP_SEQ, Reg.FW_CNT_LOGDROP_COUNT, Reg.HV_COMMIT_COMMIT, Reg.HV_COMMIT_ROLLBACKS,
          Reg.JB_RCV_CNT_REPLAYS, Reg.JB_RCV_STAT_REPLAYS, Reg.JB_STAT_STATE, Reg.SM_FLT_CABLE, Reg.SM_LAST_LEN_VALUE,
          Reg.SM_STAT_STATE, Reg.TK_HEM_AT_HI_VALUE, Reg.TK_HEM_AT_LO_VALUE, Reg.TK_STAT_ADMITTED,
          Reg.TK_STAT_IN_SEAM, Reg.TK_STAT_LAST_COMMIT, Reg.TK_STAT_PHASE, Reg.TK_STEP_HI_VALUE, Reg.TK_STEP_LO_VALUE] ++
          stagedFields ++ latchFields ++ openFields)
        [.commit, .fab, .harvest, .host, .links, .mdies, .monitors, .out, .power, .rcv, .ring, .seam, .seqs, .snaps, .step,
          .streams, .tacks, .tiles, .time] s t) ∧
  (∀ s : State, (∀ h, s.step.hemAt = some h → s.now < s.step.hemDue) → exec .hem s = .next s)

/-- A parameter record of the step that the Hem ended, arriving in its window with none held, is held; a second one
changes nothing. At the policy deadline the manager captures the parameters once, for the step of the Hem; another
device notes that the deadline has passed; before it, or with no window, nothing changes. A start release at its AT
starts a job that is loaded or parked: it runs, the tiles that the image names are at their entries, and the digests
start anew; before that AT nothing changes. At the end of the window of a committing Hem the next step of a running
job starts with the parameters, and a missing record sets TK_FLT.PARAM. (02_steps_tacks_hems.md R72,
13_firmware_and_host.md R430, 13_firmware_and_host.md R431) -/
def Obligations.PolicyWindowAndStepStart : Prop :=
  (∀ (n : LinkId) (r : ParamRec) (s : State), s.step.winOpen = true → s.step.param = none → s.hemStep = some r.step →
    ∃ t, exec (.parameterRecord n r) s = .next t ∧ t.step.param = some r ∧ Frame [] [.step, .links] s t) ∧
  (∀ (n : LinkId) (r q : ParamRec) (s : State), s.step.winOpen = true → s.step.param = some q →
    exec (.parameterRecord n r) s = .next s) ∧
  (∀ s : State, s.step.winOpen = true → s.step.captured = false →
    (s.lastHem + s.step.winLen ≤ s.now + s.hemDeadline → s.isRoot = true →
      ∃ t r, exec .policyDeadline s = .next t ∧ t.step.captured = true ∧ t.step.param = some r ∧
        r.step = s.hemStep.getD 0 ∧ (s.on Reg.TK_STAT_LAST_COMMIT = false → r.mbCount = 0) ∧
        Frame [Reg.JB_STAT_PARKREQ, Reg.TK_NEXT_VALID] [.fresh, .host, .links, .out, .step] s t) ∧
    (s.lastHem + s.step.winLen ≤ s.now + s.hemDeadline → s.isRoot = false →
      ∃ t, exec .policyDeadline s = .next t ∧ t.step.captured = true ∧ t.step.param = s.step.param ∧
        Frame [Reg.JB_STAT_PARKREQ] [.host, .out, .step] s t) ∧
    (s.now + s.hemDeadline < s.lastHem + s.step.winLen → exec .policyDeadline s = .next s)) ∧
  (∀ s : State, s.step.winOpen = false → exec .policyDeadline s = .next s) ∧
  (∀ (s : State) (a : Nat), s.step.startAt = some a → (s.jobState = jbLoaded ∨ s.jobState = jbParked) →
    (a ≤ s.now →
      ∃ t, exec .stepStart s = .next t ∧ t.jobState = jbRunning ∧ t.step.startAt = none ∧ t.step.winOpen = false ∧
        t.commit.sent = 0 ∧ t.commit.recv = 0 ∧
        Frame [Reg.JB_STAT_PARKREQ, Reg.JB_STAT_STATE, Reg.FW_LOG_WP_SEQ, Reg.FW_CNT_LOGDROP_COUNT, Reg.PT_SET_NEXT,
            Reg.PT_STAT_DREADY, Reg.PT_STAT_LOADER, Reg.PT_STAT_XREADY, Reg.TK_STAT_MB, Reg.TK_STAT_PHASE]
          [.commit, .fab, .harvest, .host, .out, .rcv, .ring, .seam, .step, .streams, .tiles] s t) ∧
    (s.now < a → exec .stepStart s = .next s)) ∧
  (∀ s : State, s.step.startAt = none → s.step.winOpen = true → s.on Reg.TK_STAT_LAST_COMMIT = true → s.rcv.missed = false →
    s.lastHem + s.step.winLen ≤ s.now → s.jobState = jbRunning → s.step.parkNotice = none →
    ∃ t, exec .stepStart s = .next t ∧ t.step.winOpen = false ∧ t.step.param = none ∧ t.jobState = jbRunning ∧
      t.step.hemAt = s.step.hemAt ∧
      t.stepNo = s.stepNo ∧ t.commit.sent = 0 ∧ t.commit.recv = 0 ∧ t.now = s.now ∧ t.mem = s.mem ∧
      (∀ r, s.step.param = some r →
        t.on Reg.SM_TT_LANE3 = r.lane3 ∧ (r.mbCount ≠ 0 → t.rd Reg.TK_STAT_MB_COUNT = r.mbCount.toNat)) ∧
      (s.step.param = none → t.on Reg.TK_FLT_PARAM = true ∧ ∃ x ∈ t.rcv.opens, x.layer = 9 ∧ x.code = 4))

/-- At its start AT a Seam begins: IN_SEAM and the state are set with span 0, every tile's idle pattern half becomes
the active one, the spans have their start instants, and no hold is in force. Before the AT nothing changes. A span
whose start has come and that no hold stops is entered; one whose start lies ahead is not. At its end the Seam is
over: IN_SEAM and the state clear, the tiles that waited in it go on, its length is recorded, its windows are gone and
the device's Seam index goes up by one. In the schedule every span starts no earlier than the end of the one before
it. Each frame names the fields and parts that may change. (07_seams_and_patterns.md R216, 07_seams_and_patterns.md
R223, 07_seams_and_patterns.md R237, 07_seams_and_patterns.md R239, 02_steps_tacks_hems.md R50, 03_tile.md R95) -/
def Obligations.SeamRunsBySchedule : Prop :=
  (∀ (s : State) (a : Nat), s.seam.seamAt = some a → s.on Reg.TK_STAT_IN_SEAM = false → a ≤ s.now →
    ∃ t, exec .seamStart s = .next t ∧ t.on Reg.TK_STAT_IN_SEAM = true ∧ t.rd Reg.SM_STAT_STATE = 1 ∧
      t.rd Reg.SM_STAT_SPAN = 0 ∧ t.seam.seamAt = none ∧ t.seam.s = a ∧ t.seam.span = 0 ∧ t.seam.holds = [] ∧
      t.seam.ownHold = false ∧ t.seam.xhalf = s.seam.xhalfNext ∧ t.seam.desc = s.seam.descNext ∧
      t.seam.starts.length = (match s.seam.descNext with | some d => d.spans.length | none => 0) ∧
      (∀ q, (t.tile q).patActive.recs = (s.tile q).patIdle.recs) ∧
      Frame ([Reg.TK_STAT_IN_SEAM, Reg.SM_STAT_STATE, Reg.SM_STAT_SPAN, Reg.SM_STAT_HALL, Reg.SM_STAT_HSEQ,
          Reg.PT_SET_ACTIVE, Reg.PT_STAT_LOADER, Reg.FW_LOG_WP_SEQ, Reg.FW_CNT_LOGDROP_COUNT, Reg.TK_FLT_ABANDON] ++ openFields)
        [.seam, .tiles, .step, .fab, .tacks, .rcv, .ring, .out, .host] s t) ∧
  (∀ (s : State) (a : Nat), s.seam.seamAt = some a → s.now < a → exec .seamStart s = .next s) ∧
  (∀ (s : State) (a : Nat), s.seam.starts[s.seam.span + 1]? = some a → s.rd Reg.SM_STAT_STATE = 1 →
    s.on Reg.TK_STAT_IN_SEAM = true → a ≤ s.now → s.heldSpan (s.seam.span + 1) = false → s.seam.span < 31 →
    ∃ t, exec .spanStart s = .next t ∧ t.seam.span = s.seam.span + 1 ∧ t.rd Reg.SM_STAT_SPAN = s.seam.span + 1 ∧
      Frame [Reg.SM_STAT_SPAN] [.seam, .tiles, .fab] s t) ∧
  (∀ (s : State) (a : Nat), s.seam.starts[s.seam.span + 1]? = some a →
    s.now < a ∨ s.heldSpan (s.seam.span + 1) = true → exec .spanStart s = .next s) ∧
  (∀ s : State, s.on Reg.TK_STAT_IN_SEAM = true → s.rd Reg.SM_STAT_STATE = 1 → s.seam.starts.length ≤ s.seam.span + 1 →
    s.seam.seamEnd ≤ s.now →
    ∃ t, exec .seamEnd s = .next t ∧ t.on Reg.TK_STAT_IN_SEAM = false ∧ t.rd Reg.SM_STAT_STATE = 0 ∧
      t.rd Reg.SM_LAST_LEN_VALUE = min (s.seam.seamEnd - s.seam.s) (2 ^ 32 - 1) ∧ t.seam.rxWins = [] ∧
      t.seam.txWins = [] ∧ t.seam.index = s.seam.index + 1 ∧
      (∀ q ∈ s.runStitches.seamTiles, (t.tile q).blocked = none) ∧
      Frame [Reg.TK_STAT_IN_SEAM, Reg.SM_STAT_STATE, Reg.SM_LAST_LEN_VALUE, Reg.TK_STAT_PHASE, Reg.TK_STAT_MB,
          Reg.PT_SET_NEXT, Reg.PT_STAT_DREADY, Reg.PT_STAT_LOADER, Reg.PT_STAT_XREADY]
        [.seam, .tiles, .step, .fab, .out, .host, .links] s t) ∧
  (∀ s : State, s.now < s.seam.seamEnd → exec .seamEnd s = .next s) ∧
  (∀ (hall : Bool) (pitch per5 arrive darn reach t : Nat) (ds : List SpanDesc) (i : Nat), i + 1 < ds.length →
    ∀ a b d, (spanStarts hall pitch per5 arrive darn reach [] t ds)[i]? = some a →
      (spanStarts hall pitch per5 arrive darn reach [] t ds)[i + 1]? = some b → ds[i]? = some d → a + d.len ≤ b)

/-- A check that has come and finds every window whole and no cable too long is only noted, and one that fails raises
a hold; one whose time lies ahead changes nothing. A hold record of the running Seam for a span that has not begun,
not seen before, is in force and flooded; one that comes late opens a fault of layer 8, code 1; a repeat changes
nothing. A hold in force pauses the device where the held span would start. A resume record taken in while paused, 32
ns ahead or more, is held and flooded on, and a later one opens a fault of layer 8, code 2, besides. At the resume AT
the held span starts, and every later start and the end move by the length of the pause. At a manager, a pause that
has lasted its limit, with no awaited window behind a link that owns a fault, makes an abort AT, flooded; such a link
extends the limit once; before the limit nothing changes. An abort record of the running Seam gives its AT, once. At
the abort AT the Seam ends early: IN_SEAM clears, the Seam state is 3, HOLD_LIMIT is set and a fault of layer 8, code
3, is open. A watchdog that is off, or whose limit has not passed, changes nothing; one whose limit has passed with no
budget held opens a fault of layer 9, code 1, with its flag set, and a budget extends it once.
(07_seams_and_patterns.md R243, 07_seams_and_patterns.md R244, 07_seams_and_patterns.md R245, 07_seams_and_patterns.md
R246, 07_seams_and_patterns.md R247, 07_seams_and_patterns.md R248, 12_faults_and_replay.md R388,
12_faults_and_replay.md R395, 02_steps_tacks_hems.md R68) -/
def Obligations.HoldsPauseAndAbortTheSeam : Prop :=
  (
  (∀ (b : Fin 32) (s : State) (a : Nat), s.seam.starts[b.val]? = some a → s.on Reg.TK_STAT_IN_SEAM = true →
    s.rd Reg.SM_STAT_STATE = 1 → s.seam.span < b.val → s.seam.checked.contains b.val = false → a ≤ s.now + s.reach →
    ((∀ w ∈ s.seam.rxWins, w.ingress = b.val → w.whole = true ∧ s.cableLong w.link = false) →
      exec (.windowCheck b) s = .next { s with seam := { s.seam with checked := b.val :: s.seam.checked } }) ∧
    ((∃ w ∈ s.seam.rxWins, w.ingress = b.val ∧ (w.whole = false ∨ s.cableLong w.link = true)) →
      ∃ t, exec (.windowCheck b) s = .next t ∧ t.seam.ownHold = true ∧ t.seam.raised = s.seam.raised + 1 ∧
        t.on Reg.SM_HOLD_SRC_VALID = true ∧ t.seam.checked = b.val :: s.seam.checked ∧
        Frame ([Reg.SM_HOLD_SRC_LINK, Reg.SM_HOLD_SRC_SPAN, Reg.SM_HOLD_SRC_VALID, Reg.SM_STAT_HSEQ,
          Reg.SM_FLT_LATE_HOLD] ++ openFields) [.seam, .links, .rcv, .out, .host] s t)) ∧
  (∀ (b : Fin 32) (s : State) (a : Nat), s.seam.starts[b.val]? = some a → s.now + s.reach < a →
    exec (.windowCheck b) s = .next s) ∧
  (∀ (n : LinkId) (r : HoldRec) (s : State), s.on Reg.TK_STAT_IN_SEAM = true → s.seam.seamHall = some r.h.val →
    s.seam.parity = r.parity →
    (s.seam.holdsSeen.contains (r.span.val, r.hseq.val) = false → s.lateHold r.span.val = false →
      ∃ t, exec (.holdRecord n r) s = .next t ∧ t.heldSpan r.span.val = true ∧
        t.seam.holdsSeen.contains (r.span.val, r.hseq.val) = true ∧
        Frame [Reg.SM_STAT_HSEQ] [.seam, .links] s t) ∧
    (s.seam.holdsSeen.contains (r.span.val, r.hseq.val) = false → s.lateHold r.span.val = true →
      ∃ t x, exec (.holdRecord n r) s = .next t ∧ t.seam.holds = s.seam.holds ∧ t.on Reg.SM_FLT_LATE_HOLD = true ∧
        x ∈ t.rcv.opens ∧ x.layer = 8 ∧ x.code = 1 ∧
        Frame (Reg.SM_STAT_HSEQ :: Reg.SM_FLT_LATE_HOLD :: openFields) [.seam, .links, .rcv, .out, .host] s t) ∧
    (s.seam.holdsSeen.contains (r.span.val, r.hseq.val) = true → exec (.holdRecord n r) s = .next s)) ∧
  (∀ (s : State) (a : Nat), s.seam.starts[s.seam.span + 1]? = some a → s.rd Reg.SM_STAT_STATE = 1 →
    s.on Reg.TK_STAT_IN_SEAM = true → a ≤ s.now → s.heldSpan (s.seam.span + 1) = true →
    ∃ t, exec .pause s = .next t ∧ t.rd Reg.SM_STAT_STATE = 2 ∧ t.seam.pausedAt = some a ∧
      t.seam.pauses = s.seam.pauses + 1 ∧ t.seam.span = s.seam.span ∧ Frame [Reg.SM_STAT_STATE] [.seam] s t) ∧
  (∀ (n : LinkId) (r : GridRec) (s : State), s.seam.seamHall = some r.h.val → s.seam.parity = r.parity →
    s.rd Reg.SM_STAT_STATE = 2 →
    (s.seam.resumeAt ≠ some (gridAt s.now r.r.toNat) → s.now + 32 ≤ gridAt s.now r.r.toNat →
      ∃ t, exec (.resumeRecord n r) s = .next t ∧ t.seam.resumeAt = some (gridAt s.now r.r.toNat) ∧
        Frame [] [.seam, .links] s t) ∧
    (s.seam.resumeAt ≠ some (gridAt s.now r.r.toNat) → gridAt s.now r.r.toNat < s.now + 32 →
      ∃ t x, exec (.resumeRecord n r) s = .next t ∧ t.seam.resumeAt = some (gridAt s.now r.r.toNat) ∧
        t.on Reg.SM_FLT_LATE_RESUME = true ∧ x ∈ t.rcv.opens ∧ x.layer = 8 ∧ x.code = 2 ∧
        Frame (Reg.SM_FLT_LATE_RESUME :: openFields) [.seam, .links, .rcv, .out, .host] s t) ∧
    (s.seam.resumeAt = some (gridAt s.now r.r.toNat) → exec (.resumeRecord n r) s = .next s)) ∧
  (∀ (s : State) (a r : Nat), s.seam.pausedAt = some a → s.seam.resumeAt = some r → s.rd Reg.SM_STAT_STATE = 2 →
    r ≤ s.now → s.seam.span < 31 →
    ∃ t, exec .seamResume s = .next t ∧ t.rd Reg.SM_STAT_STATE = 1 ∧ t.seam.span = s.seam.span + 1 ∧
      t.rd Reg.SM_STAT_SPAN = s.seam.span + 1 ∧ t.seam.pausedAt = none ∧ t.seam.holds = [] ∧
      t.seam.seamEnd = s.seam.seamEnd + (r - a) ∧ t.seam.holdNs = s.seam.holdNs + (r - a) ∧
      t.seam.starts = s.seam.starts.map (fun x => if a ≤ x then x + (r - a) else x) ∧
      Frame [Reg.SM_STAT_STATE, Reg.SM_STAT_SPAN] [.seam, .tiles, .fab] s t) ∧
  (∀ (s : State) (r : Nat), s.seam.resumeAt = some r → s.now < r → exec .seamResume s = .next s)) ∧
  (
  (∀ (s : State) (a : Nat), s.seam.pausedAt = some a → s.isRoot = true → s.seam.resumeAt = none → s.seam.abortAt = none →
    s.on Reg.TK_STAT_IN_SEAM = true →
    (a + (1000 * max 1 (s.rd Reg.SM_HOLD_LIM_LIMIT) + s.seam.limitMore.getD 0) ≤ s.now →
      (s.seam.limitMore.isSome = true ∨ ∀ w ∈ s.seam.rxWins, s.awaited w = true → s.linkLeft w.link = none) →
      ∃ t, exec .holdLimit s = .next t ∧ t.seam.abortAt = some (gridAfter s.now s.hallLead) ∧
        Frame [] [.seam, .links] s t) ∧
    (a + 1000 * max 1 (s.rd Reg.SM_HOLD_LIM_LIMIT) ≤ s.now → s.seam.limitMore = none →
      ∀ n, (s.seam.rxWins.filter s.awaited).findSome? (fun w => s.linkLeft w.link) = some n →
        exec .holdLimit s = .next { s with seam := { s.seam with limitMore := some n } }) ∧
    (s.now < a + (1000 * max 1 (s.rd Reg.SM_HOLD_LIM_LIMIT) + s.seam.limitMore.getD 0) →
      exec .holdLimit s = .next s)) ∧
  (∀ (n : LinkId) (r : GridRec) (s : State), s.seam.seamHall = some r.h.val → s.seam.parity = r.parity →
    s.on Reg.TK_STAT_IN_SEAM = true →
    (s.seam.abortAt ≠ some (gridAt s.now r.r.toNat) →
      ∃ t, exec (.abortRecord n r) s = .next t ∧ t.seam.abortAt = some (gridAt s.now r.r.toNat) ∧
        Frame [] [.seam, .links] s t) ∧
    (s.seam.abortAt = some (gridAt s.now r.r.toNat) → exec (.abortRecord n r) s = .next s)) ∧
  (∀ (s : State) (a : Nat), s.seam.abortAt = some a → s.on Reg.TK_STAT_IN_SEAM = true → a ≤ s.now →
    ∃ t r, exec .holdAbort s = .next t ∧ t.on Reg.TK_STAT_IN_SEAM = false ∧ t.rd Reg.SM_STAT_STATE = 3 ∧
      t.on Reg.SM_FLT_HOLD_LIMIT = true ∧ r ∈ t.rcv.opens ∧ r.layer = 8 ∧ r.code = 3 ∧ t.seam.rxWins = [] ∧
      (∀ q ∈ s.seamTiles, (t.tile q).blocked = none) ∧
      Frame ([Reg.TK_STAT_IN_SEAM, Reg.SM_STAT_STATE, Reg.SM_LAST_LEN_VALUE, Reg.SM_FLT_HOLD_LIMIT] ++ openFields)
        [.seam, .tiles, .step, .fab, .rcv, .out, .host, .links] s t) ∧
  (∀ (s : State) (a : Nat), s.seam.abortAt = some a → s.now < a → exec .holdAbort s = .next s) ∧
  (∀ s : State, s.on Reg.TK_CTL_WDOG_EN = false ∨ s.step.timed = false ∨
      s.now < s.step.phaseSince + 1000 * max 1 (s.rd Reg.TK_WDOG_LIMIT) + s.step.wdogMore →
    exec .phaseWatchdog s = .next s) ∧
  (∀ s : State, s.on Reg.TK_CTL_WDOG_EN = true → s.step.timed = true → s.phase ≠ phIdle → s.phase ≠ phHem →
    s.step.phaseSince + 1000 * max 1 (s.rd Reg.TK_WDOG_LIMIT) + s.step.wdogMore ≤ s.now →
    (s.heldBudget = none ∨ s.step.wdogMore ≠ 0 →
      ∃ t r, exec .phaseWatchdog s = .next t ∧ r ∈ t.rcv.opens ∧ r.layer = 9 ∧ r.code = 1 ∧
        t.on Reg.TK_FLT_WDOG = true ∧ t.step.timed = false ∧
        Frame ([Reg.TK_FLT_WDOG, Reg.TK_FLT_ABANDON, Reg.FW_LOG_WP_SEQ, Reg.FW_CNT_LOGDROP_COUNT] ++ openFields)
          [.rcv, .ring, .out, .host, .step, .tacks, .tiles] s t ∧
        (s.on Reg.BB_CTL_MW_EN = false →
          Frame ([Reg.TK_FLT_WDOG, Reg.FW_LOG_WP_SEQ, Reg.FW_CNT_LOGDROP_COUNT] ++ openFields)
            [.rcv, .ring, .out, .host, .step] s t)) ∧
    (∀ n, s.heldBudget = some n → n ≠ 0 → s.step.wdogMore = 0 →
      exec .phaseWatchdog s = .next { s with step := { s.step with wdogMore := n } })))

/-- For each of the 33 rows that issue an instruction of a tile's program, at a tile that runs and fetches the
command's word: a PC that is not a multiple of 8 stops the tile with the fault MISALIGN, an aligned PC outside the
scratchpad with RANGE. With a good PC and no hardware error in its way, a word of a reserved class stops the tile with
ILLEGAL_OP; where the guard does not hold, the instruction either is ILLEGAL_OP, which is raised whatever the guard, or
retires: the PC moves on by 8, and registers, storage, flags, every other tile and
everything outside the tiles but the wait counts stay as they were. (03_tile.md R84, 03_tile.md R85, 03_tile.md R87,
03_tile.md R115, 03_tile.md R520) -/
def Obligations.EveryTileInstructionIsGuarded : Prop :=
  ∀ (c : Instr) (tile : TileId) (iw : Word64) (s : State) (p : Nat), tileWordOf c = some (tile, iw) → c.wf = true →
    s.physOf tile.val = some p → (s.tile p).mode = .run → (s.tile p).fetch s.now (s.tile p).pc = iw →
    (s.tile p).fault.valid = false →
    ((s.tile p).pc % 8 ≠ 0 →
      ∃ t, exec c s = .next t ∧ (t.tile p).mode = .stop ∧ (t.tile p).fault.valid = true ∧ (t.tile p).fault.code = fcAlign ∧
        (t.tile p).fault.detail = (s.tile p).pc ∧ (t.tile p).pc = (s.tile p).pc ∧ Frame faultFields faultParts s t) ∧
    ((s.tile p).pc % 8 = 0 → scratchBytes ≤ (s.tile p).pc →
      ∃ t, exec c s = .next t ∧ (t.tile p).mode = .stop ∧ (t.tile p).fault.valid = true ∧ (t.tile p).fault.code = fcRange ∧
        (t.tile p).fault.detail = (s.tile p).pc ∧ (t.tile p).pc = (s.tile p).pc ∧ Frame faultFields faultParts s t) ∧
    ((s.tile p).pc % 8 = 0 → (s.tile p).pc < scratchBytes → (s.tile p).Quiet s.now →
      (s.tile p).fetchFault (s.tile p).pc = none →
      (classReserved iw = true →
        ∃ t, exec c s = .next t ∧ (t.tile p).mode = .stop ∧ (t.tile p).fault.valid = true ∧
          (t.tile p).fault.code = fcIllegal ∧ (t.tile p).pc = (s.tile p).pc ∧ Frame faultFields faultParts s t) ∧
      ((s.tile p).guard iw = false →
      ∃ t, exec c s = .next t ∧
        (((t.tile p).mode = .stop ∧ (t.tile p).fault.code = fcIllegal ∧ Frame faultFields faultParts s t) ∨
        (Retired s t p ∧ SameRegs (s.tile p) (t.tile p) ∧ SameStore (s.tile p) (t.tile p) ∧
          (t.tile p).flags = (s.tile p).flags ∧ (t.tile p).member = (s.tile p).member ∧ OtherTiles [p] s t ∧
          Frame [] [.tiles, .step] s t))))

/-- Where a scalar instruction issues: an arithmetic one writes g[D] with the value that its opcode gives to its two
operands, a select writes g[D] with the first or the second operand by its predicate, a compare writes its
predicate. Branch, call and return set the PC to the target, which is a multiple of 8; a call writes g[D] with the
address behind it. A write to g0 or p0 changes nothing there. Every other register, the storage of the tile, other
tiles and everything else beside the wait counts are unchanged. (03_tile.md R83, 03_tile.md R84, 03_tile.md R85) -/
def Obligations.ScalarInstructionsTakeEffect : Prop :=
  (∀ (tile : TileId) (iw : Word64) (imm : Bool) (s : State) (p : Nat), Issues s tile iw p → iwClass iw = 0 →
    ∃ t, exec (.scalarOp tile iw (.arith imm)) s = .next t ∧ Retired s t p ∧
      (t.tile p).reg (iwD iw) = (if iwD iw = 0 then 0 else Config.scalarArith (iwOp iw) (scalarFn iw imm)
        ((s.tile p).reg (iwA iw)) (if imm then iwImm40 iw else (s.tile p).reg (iwB iw))) ∧
      (∀ i, i ≠ iwD iw → (t.tile p).reg i = (s.tile p).reg i) ∧ (t.tile p).p = (s.tile p).p ∧ (t.tile p).v = (s.tile p).v ∧
      SameStore (s.tile p) (t.tile p) ∧ OtherTiles [p] s t ∧ Frame [] [.tiles, .step] s t) ∧
  (∀ (tile : TileId) (iw : Word64) (imm : Bool) (q : Fin 8) (s : State) (p : Nat), Issues s tile iw p → iwClass iw = 0 →
    ∃ t, exec (.scalarOp tile iw (.select imm q)) s = .next t ∧ Retired s t p ∧
      (t.tile p).reg (iwD iw) = (if iwD iw = 0 then 0 else if (s.tile p).pred q.val then (s.tile p).reg (iwA iw)
        else if imm then iwImm40 iw else (s.tile p).reg (iwB iw)) ∧
      (∀ i, i ≠ iwD iw → (t.tile p).reg i = (s.tile p).reg i) ∧ (t.tile p).p = (s.tile p).p ∧ (t.tile p).v = (s.tile p).v ∧
      SameStore (s.tile p) (t.tile p) ∧ OtherTiles [p] s t ∧ Frame [] [.tiles, .step] s t) ∧
  (∀ (tile : TileId) (iw : Word64) (imm : Bool) (q : Fin 8) (s : State) (p : Nat), Issues s tile iw p → iwClass iw = 0 →
    ∃ t, exec (.scalarOp tile iw (.compare imm q)) s = .next t ∧ Retired s t p ∧
      (t.tile p).pred q.val = (q.val == 0 || Config.scalarCompare (iwOp iw) (scalarFn iw imm) ((s.tile p).reg (iwA iw))
        (if imm then iwImm40 iw else (s.tile p).reg (iwB iw))) ∧
      (∀ i, i ≠ q.val → (t.tile p).pred i = (s.tile p).pred i) ∧ (t.tile p).g = (s.tile p).g ∧ (t.tile p).v = (s.tile p).v ∧
      SameStore (s.tile p) (t.tile p) ∧ OtherTiles [p] s t ∧ Frame [] [.tiles, .step] s t) ∧
  (∀ (tile : TileId) (iw : Word64) (imm : Bool) (op : ScalarOp) (s : State) (p : Nat), op = .branch imm ∨ op = .ret →
    Issues s tile iw p → iwClass iw = 0 → (s.tile p).target iw % 8 = 0 →
    ∃ t, exec (.scalarOp tile iw op) s = .next t ∧ (t.tile p).pc = (s.tile p).target iw ∧ (t.tile p).mode = .run ∧
      SameRegs (s.tile p) (t.tile p) ∧ SameStore (s.tile p) (t.tile p) ∧ OtherTiles [p] s t ∧
      Frame [] [.tiles, .step] s t) ∧
  (∀ (tile : TileId) (iw : Word64) (imm : Bool) (s : State) (p : Nat), Issues s tile iw p → iwClass iw = 0 →
    (s.tile p).target iw % 8 = 0 →
    ∃ t, exec (.scalarOp tile iw (.call imm)) s = .next t ∧ (t.tile p).pc = (s.tile p).target iw ∧ (t.tile p).mode = .run ∧
      (t.tile p).reg (iwD iw) = (if iwD iw = 0 then 0 else BitVec.ofNat 64 (((s.tile p).pc + 8) % 2 ^ 18)) ∧
      (∀ i, i ≠ iwD iw → (t.tile p).reg i = (s.tile p).reg i) ∧ (t.tile p).p = (s.tile p).p ∧ (t.tile p).v = (s.tile p).v ∧
      SameStore (s.tile p) (t.tile p) ∧ OtherTiles [p] s t ∧ Frame [] [.tiles, .step] s t)

/-- Where a load or store issues with legal fields at an aligned address in the scratchpad: an 8 B load into a g
register gives it the eight bytes there, least significant first, a 4 B load its low half; a vector load gives lane
l of v[D] the l-th four bytes and leaves the other lanes. No load changes the tile's storage. A store of 4, 8 or 16
B enters the pleat buffer, a store of 64 or 128 B is written past it. The bytes come from the low end of g[D] or the
first lanes of v[D]. No store changes a register. Other tiles and everything outside the tiles but the wait counts
are unchanged. (03_tile.md R86, 03_tile.md R101, 03_tile.md R104, 03_tile.md R106) -/
def Obligations.LoadsAndStoresTakeEffect : Prop :=
  (∀ (tile : TileId) (iw : Word64) (op : MemOp) (s : State) (p n : Nat), Issues s tile iw p → iwClass iw = 1 →
    illegalMem iw op = false → sizeBytes (iwSize iw) = some n → (s.tile p).memAddr iw % n = 0 →
    (s.tile p).memAddr iw + n ≤ scratchBytes →
    (op.store = false → (s.tile p).poisonSeen ((s.tile p).memAddr iw) n = none →
      ∃ t, exec (.loadStore tile iw op) s = .next t ∧ Retired s t p ∧
        (op.vec = false → n = 8 → iwD iw ≠ 0 → (t.tile p).reg (iwD iw) =
          BitVec.ofNat 64 (leNat ((s.tile p).bytes ((s.tile p).memAddr iw) 8))) ∧
        (op.vec = false → n = 4 → iwD iw ≠ 0 → ((t.tile p).reg (iwD iw)).setWidth 32 =
          BitVec.ofNat 32 (leNat ((s.tile p).bytes ((s.tile p).memAddr iw) 4))) ∧
        (op.vec = false → (t.tile p).v = (s.tile p).v) ∧ (∀ i, i ≠ iwD iw ∨ op.vec = true → (t.tile p).reg i = (s.tile p).reg i) ∧
        (op.vec = true → ∀ l < 32, (t.tile p).lane (iwD iw) l = if 4 * l < n then
          BitVec.ofNat 32 (leNat ((s.tile p).bytes ((s.tile p).memAddr iw + 4 * l) 4)) else (s.tile p).lane (iwD iw) l) ∧
        (∀ i, i ≠ iwD iw → ∀ l < 32, (t.tile p).lane i l = (s.tile p).lane i l) ∧ (t.tile p).p = (s.tile p).p ∧
        SameStore (s.tile p) (t.tile p) ∧ OtherTiles [p] s t ∧ Frame [] [.tiles, .step] s t) ∧
    (op.store = true →
      ∃ t b, exec (.loadStore tile iw op) s = .next t ∧ Retired s t p ∧ SameRegs (s.tile p) (t.tile p) ∧
        b = (if n ≤ 16 then (s.tile p).narrowStore s.now ((s.tile p).memAddr iw) ((s.tile p).storeBytes iw op.vec n)
          else (s.tile p).wideStore s.now ((s.tile p).memAddr iw) ((s.tile p).storeBytes iw op.vec n)) ∧
        (t.tile p).mem = b.mem ∧ (t.tile p).pleat = b.pleat ∧ (t.tile p).poison = b.poison ∧
        (t.tile p).slots = (s.tile p).slots ∧ (t.tile p).flags = (s.tile p).flags ∧ OtherTiles [p] s t ∧
        Frame [] [.tiles, .step] s t)) ∧
  (∀ (t : Tile) (iw : Word64) (n : Nat), n ≤ 8 → t.storeBytes iw false n = natLe (t.reg (iwD iw)).toNat n) ∧
  (∀ (t : Tile) (iw : Word64) (n l : Nat), (t.storeBytes iw true (4 * n)).length = 4 * n ∧
    (l < n → ((t.storeBytes iw true (4 * n)).drop (4 * l)).take 4 = natLe (t.lane (iwD iw) l).toNat 4))

/-- With the pleat buffer in its form, and no write of the present cycle in the scratchpad yet: after a narrow store
of at most 16 bytes in one row the program reads the stored bytes at their addresses and every other byte as before;
the same after a wide store; and a flush of the whole buffer or of one entry changes no byte that the program reads.
Each keeps the buffer's form, and a narrow store leaves at most eight entries. A fresh tile has the form. (03_tile.md
R90, 03_tile.md R106, 03_tile.md R107) -/
def Obligations.StoresReadBackThroughThePleatBuffer : Prop :=
  (∀ (t : Tile) (now a : Nat) (bs : List Byte), PleatOk t → (∀ w ∈ t.cyc, w.at_ ≠ now) → bs ≠ [] → a % 64 + bs.length ≤ 64 →
    (∀ i b, bs[i]? = some b → (t.narrowStore now a bs).byte (a + i) = b) ∧
    (∀ x, x < a ∨ a + bs.length ≤ x → (t.narrowStore now a bs).byte x = t.byte x) ∧ PleatOk (t.narrowStore now a bs) ∧
    (t.pleat.length ≤ 8 → (t.narrowStore now a bs).pleat.length ≤ 8)) ∧
  (∀ (t : Tile) (now a : Nat) (bs : List Byte), PleatOk t → (∀ w ∈ t.cyc, w.at_ ≠ now) →
    (∀ i b, bs[i]? = some b → (t.wideStore now a bs).byte (a + i) = b) ∧
    (∀ x, x < a ∨ a + bs.length ≤ x → (t.wideStore now a bs).byte x = t.byte x) ∧ PleatOk (t.wideStore now a bs)) ∧
  (∀ (t : Tile) (now : Nat), PleatOk t → (∀ w ∈ t.cyc, w.at_ ≠ now) →
    (∀ x, (t.flushPleat now).byte x = t.byte x) ∧ (t.flushPleat now).pleat = [] ∧
    ∀ e ∈ t.pleat, (∀ x, (Tile.flushEntry now t e).byte x = t.byte x) ∧ PleatOk (Tile.flushEntry now t e)) ∧
  PleatOk {}

/-- Where a vector instruction issues, lane l of v[D] takes the operation's result on lane l of its sources, for all
32 lanes; where it is no ILLEGAL_OP. A widening convert with legal fields, addresses and clean operands gives the
lanes of v[D] the values of the 32 elements at the address in g[A]; a narrowing convert writes the elements, and the
scale entry of a scaled format, past the pleat buffer; a convert within registers narrows the lanes of v[A] and
widens them into v[D]. Other v registers, g and p registers, other tiles and everything outside the tiles but the
wait counts are unchanged. (04_number_formats.md R139, 04_number_formats.md R140, 04_number_formats.md R148) -/
def Obligations.VectorAndConvertInstructionsTakeEffect : Prop :=
  (∀ (tile : TileId) (iw : Word64) (op : VecOp) (s : State) (p : Nat), Issues s tile iw p → iwClass iw = 2 →
    op.kind ≠ .unlisted → (op.her = false ∨ op.kind ≠ .other) →
    ∃ t, exec (.vectorOp tile iw op) s = .next t ∧ Retired s t p ∧
      (∀ l < 32, (t.tile p).lane (iwD iw) l = vecLane iw op l ((s.tile p).lane (iwA iw) l) ((s.tile p).lane (iwB iw) l)
        ((s.tile p).lane (vecThird op.kind) l)) ∧
      (∀ i, i ≠ iwD iw → ∀ l < 32, (t.tile p).lane i l = (s.tile p).lane i l) ∧ (t.tile p).g = (s.tile p).g ∧
      (t.tile p).p = (s.tile p).p ∧ SameStore (s.tile p) (t.tile p) ∧ OtherTiles [p] s t ∧ Frame [] [.tiles, .step] s t) ∧
  (∀ (tile : TileId) (iw : Word64) (s : State) (p : Nat), Issues s tile iw p → iwClass iw = 4 → illegalConvert iw = false →
    ((s.tile p).cvFault iw = none → (s.tile p).poisonSeen ((s.tile p).cvElem iw) (cvBytes (cvFmt iw)) = none →
      (fmtScaled (cvFmt iw) = true →
        (s.tile p).poisonSeen ((s.tile p).cvScale iw) (fmtScaleBytes (cvFmt iw)) = none) →
      ∃ t, exec (.convertWiden tile iw ⟨true, false⟩) s = .next t ∧ Retired s t p ∧
        (∀ l < 32, some ((t.tile p).lane (iwD iw) l) = (widenLanes (cvFmt iw)
          ((s.tile p).bytes ((s.tile p).cvElem iw) (cvBytes (cvFmt iw)))
          (if fmtScaled (cvFmt iw) then (s.tile p).bytes ((s.tile p).cvScale iw) (fmtScaleBytes (cvFmt iw)) else []))[l]?) ∧
        (∀ i, i ≠ iwD iw → ∀ l < 32, (t.tile p).lane i l = (s.tile p).lane i l) ∧ (t.tile p).g = (s.tile p).g ∧
        (t.tile p).p = (s.tile p).p ∧ SameStore (s.tile p) (t.tile p) ∧ OtherTiles [p] s t ∧
        Frame [] [.tiles, .step] s t) ∧
    ((s.tile p).cvFault iw = none →
      ∃ t b u, exec (.convertNarrow tile iw ⟨true, false⟩) s = .next t ∧ Retired s t p ∧ SameRegs (s.tile p) (t.tile p) ∧
        b = s.narrowLanes (s.tile p) iw ((s.tile p).lanes (iwD iw)) ∧
        u = (if fmtScaled (cvFmt iw) then
          ((s.tile p).wideStore s.now ((s.tile p).cvElem iw) (b.bytes (cvFmt iw))).wideStore s.now ((s.tile p).cvScale iw)
            b.scale
          else (s.tile p).wideStore s.now ((s.tile p).cvElem iw) (b.bytes (cvFmt iw))) ∧
        (t.tile p).mem = u.mem ∧ (t.tile p).pleat = u.pleat ∧ (t.tile p).slots = (s.tile p).slots ∧
        OtherTiles [p] s t ∧ Frame [] [.tiles, .step] s t) ∧
    (∀ c, c = Instr.convertWiden tile iw ⟨true, true⟩ ∨ c = Instr.convertNarrow tile iw ⟨true, true⟩ →
      ∃ t b, exec c s = .next t ∧ Retired s t p ∧ b = s.narrowLanes (s.tile p) iw ((s.tile p).lanes (iwA iw)) ∧
        (∀ l < 32, some ((t.tile p).lane (iwD iw) l) = (widenLanes (cvFmt iw) (b.bytes (cvFmt iw)) b.scale)[l]?) ∧
        (∀ i, i ≠ iwD iw → ∀ l < 32, (t.tile p).lane i l = (s.tile p).lane i l) ∧ (t.tile p).g = (s.tile p).g ∧
        (t.tile p).p = (s.tile p).p ∧ SameStore (s.tile p) (t.tile p) ∧ OtherTiles [p] s t ∧
        Frame [] [.tiles, .step] s t))

/-- Where an MMA issues with legal fields, operands in place and not poisoned: START takes an EMPTY slot to OPEN
with K products, ACC keeps an OPEN slot of its kind open and adds K to its count, within 4,096; every cell takes the
products of its row and column. DRAIN makes an OPEN slot DRAINING and queues the drain. When the oldest drain of a
running tile completes into an aligned plane in the scratchpad, restarting the sum, the slot is EMPTY with zero
cells, the plane's high words hold the cells rounded to FP32, and every byte outside the plane is as before.
Registers, other slots, other tiles and everything outside the tiles but the wait counts are unchanged. (03_tile.md
R111, 03_tile.md R112, 05_accumulation_and_order.md R161, 05_accumulation_and_order.md R166) -/
def Obligations.MatrixInstructionsUseTheirSlots : Prop :=
  (∀ (tile : TileId) (iw : Word64) (s : State) (p : Nat), Issues s tile iw p → (s.tile p).slots.length = 8 →
    iwClass iw = 3 → iwOp iw = 0 →
    (iwMode iw ≤ 1 → illegalMma iw = false →
      mmaFault iw ((s.tile p).reg (iwA iw)).toNat ((s.tile p).reg (iwB iw)).toNat = none →
      (s.tile p).planesPoison (planesA iw ((s.tile p).reg (iwA iw)).toNat ++
        planesB iw ((s.tile p).reg (iwB iw)).toNat) = none →
      (iwMode iw = 0 → (nth (s.tile p).slots (iwSlot iw) {}).mode = .empty →
        ∃ t, exec (.mmaStart tile iw) s = .next t ∧ Retired s t p ∧
          nth (t.tile p).slots (iwSlot iw) {} =
            { mode := .opened, heritage := fmtHeritage (iwFA iw), count := iwK iw,
              cells := (s.tile p).accumulate iw ((s.tile p).reg (iwA iw)).toNat ((s.tile p).reg (iwB iw)).toNat {} } ∧
          (∀ i, i ≠ iwSlot iw → nth (t.tile p).slots i {} = nth (s.tile p).slots i {}) ∧
          SameRegs (s.tile p) (t.tile p) ∧ (t.tile p).mem = (s.tile p).mem ∧ OtherTiles [p] s t ∧
          Frame [] [.tiles, .step] s t) ∧
      (iwMode iw = 1 → (nth (s.tile p).slots (iwSlot iw) {}).mode = .opened →
        (nth (s.tile p).slots (iwSlot iw) {}).heritage = fmtHeritage (iwFA iw) →
        (nth (s.tile p).slots (iwSlot iw) {}).count + iwK iw ≤ 4096 →
        ∃ t, exec (.mmaAcc tile iw) s = .next t ∧ Retired s t p ∧
          nth (t.tile p).slots (iwSlot iw) {} =
            { mode := .opened, heritage := fmtHeritage (iwFA iw),
              count := (nth (s.tile p).slots (iwSlot iw) {}).count + iwK iw,
              cells := (s.tile p).accumulate iw ((s.tile p).reg (iwA iw)).toNat ((s.tile p).reg (iwB iw)).toNat
                (nth (s.tile p).slots (iwSlot iw) {}) } ∧
          (∀ i, i ≠ iwSlot iw → nth (t.tile p).slots i {} = nth (s.tile p).slots i {}) ∧
          SameRegs (s.tile p) (t.tile p) ∧ (t.tile p).mem = (s.tile p).mem ∧ OtherTiles [p] s t ∧
          Frame [] [.tiles, .step] s t)) ∧
    (iwMode iw = 2 → iwDMode iw ≠ 3 → iwBits iw 32 0 = 0 → s.linedHeritage tile iw = false →
      (nth (s.tile p).slots (iwSlot iw) {}).mode = .opened →
      ∃ t, exec (.mmaDrain tile iw) s = .next t ∧ Retired s t p ∧
        (nth (t.tile p).slots (iwSlot iw) {}).mode = .draining ∧
        (nth (t.tile p).slots (iwSlot iw) {}).cells = (nth (s.tile p).slots (iwSlot iw) {}).cells ∧
        (t.tile p).drains.length = (s.tile p).drains.length + 1 ∧ SameRegs (s.tile p) (t.tile p) ∧
        (t.tile p).mem = (s.tile p).mem ∧ OtherTiles [p] s t ∧ Frame [] [.tiles, .step] s t)) ∧
  (∀ (tile : TileId) (slot : Fin 8) (s : State) (p : Nat) (d : DrainOp) (ds : List DrainOp), s.physOf tile.val = some p →
    (s.tile p).slots.length = 8 → (s.tile p).mode = .run → (s.tile p).blocked = none → (s.tile p).Quiet s.now →
    (s.tile p).drains = d :: ds → d.slot = slot.val → d.mode = 0 → d.dst % 16 = 0 → d.dst + 3088 ≤ scratchBytes →
    ∃ t, exec (.drainComplete tile slot) s = .next t ∧ nth (t.tile p).slots slot.val {} = {} ∧ (t.tile p).drains = ds ∧
      (∀ n < 768, leNat (Memory.readN (t.tile p).mem (d.dst + 16 + 4 * n) 4) =
        (if (nth (s.tile p).slots slot.val {}).heritage then (nth (s.tile p).slots slot.val {}).cell n
          else rne32 (w40 ((nth (s.tile p).slots slot.val {}).cell n))) % 2 ^ 32) ∧
      (∀ x, x < d.dst ∨ d.dst + 3088 ≤ x → Memory.read (t.tile p).mem x = Memory.read (s.tile p).mem x) ∧
      SameRegs (s.tile p) (t.tile p) ∧ OtherTiles [p] s t ∧ Frame [] [.tiles] s t)

/-- XWAIT on a slot that is not DRAINING, and MWAIT with an idle mover, put SUCCESS into p[PS] and retire. FENCE
flushes the pleat buffer if its bit P asks for it, discards the instruction buffer if its bit I asks for it, and
retires once the mover, the drains and the acknowledgements that its bits name are complete. Each changes no other
register and, but for the flush, nothing that the tile stores, no other tile, and nothing outside the tiles but the
wait counts. (03_tile.md R88, 03_tile.md R92, 03_tile.md R99, 03_tile.md R100) -/
def Obligations.WaitsAndFencesOfTheEngines : Prop :=
  (∀ (tile : TileId) (iw : Word64) (s : State) (p : Nat), Issues s tile iw p →
    (iwClass iw = 3 → iwOp iw = 2 → wFormOk iw = true → iwObj iw ≤ 7 → iwImm iw = 0 →
      (nth (s.tile p).slots (iwObj iw) {}).mode ≠ .draining →
      ∃ t, exec (.xwait tile iw) s = .next t ∧ Retired s t p ∧ (t.tile p).pred (iwPS iw) = true ∧
        (∀ i, i ≠ iwPS iw → (t.tile p).pred i = (s.tile p).pred i) ∧ (t.tile p).g = (s.tile p).g ∧
        (t.tile p).v = (s.tile p).v ∧ SameStore (s.tile p) (t.tile p) ∧ OtherTiles [p] s t ∧ Frame [] [.tiles, .step] s t) ∧
    (iwClass iw = 8 → iwOp iw = 2 → wFormOk iw = true → iwObj iw = 0 → iwImm iw = 0 → (s.tile p).mover = [] →
      ∃ t, exec (.mwait tile iw) s = .next t ∧ Retired s t p ∧ (t.tile p).pred (iwPS iw) = true ∧
        (∀ i, i ≠ iwPS iw → (t.tile p).pred i = (s.tile p).pred i) ∧ (t.tile p).g = (s.tile p).g ∧
        (t.tile p).v = (s.tile p).v ∧ SameStore (s.tile p) (t.tile p) ∧ OtherTiles [p] s t ∧ Frame [] [.tiles, .step] s t) ∧
    (iwClass iw = 0xA → iwOp iw = 0 → wFormOk iw = true → iwPS iw = 0 → iwObj iw = 0 → iwImm iw ≤ 15 →
      (s.tile p).fenced (iwImm iw) = true →
      ∃ t, exec (.fence tile iw) s = .next t ∧ Retired s t p ∧ SameRegs (s.tile p) (t.tile p) ∧
        (hasBit (iwImm iw) 0 = true → (t.tile p).pleat = [] ∧ (t.tile p).mem = ((s.tile p).flushPleat s.now).mem) ∧
        (hasBit (iwImm iw) 0 = false → SameStore (s.tile p) (t.tile p)) ∧
        (hasBit (iwImm iw) 3 = true → (t.tile p).ibuf = []) ∧ OtherTiles [p] s t ∧ Frame [] [.tiles, .step] s t))

/-- FILL and COPY with operands that are multiples of 16 inside the scratchpad queue one operation, at most two at a
time, and retire with no byte moved. When the oldest operation of a running tile completes, a FILL has put its
32-bit value into every word of its range, a COPY of clean words has put the source bytes, as they were before, into
its destination; every byte outside the destination is as before. (03_tile.md R98, 03_tile.md R99) -/
def Obligations.MoverFillsAndCopies : Prop :=
  (∀ (tile : TileId) (iw : Word64) (copy : Bool) (s : State) (p : Nat), Issues s tile iw p → iwClass iw = 8 →
    iwOp iw = b2n copy → iwFn iw = 0 →
    moverFault copy ((s.tile p).moverDst iw) ((s.tile p).moverSrc iw) ((s.tile p).moverLen iw) = none →
    (s.tile p).mover.length < 2 →
    ∃ t o, exec (if copy then .copy tile iw else .fill tile iw) s = .next t ∧ Retired s t p ∧
      (t.tile p).mover = (s.tile p).mover ++ [o] ∧ o.copy = copy ∧ o.dst = (s.tile p).moverDst iw ∧
      o.src = (s.tile p).moverSrc iw ∧ o.len = (s.tile p).moverLen iw ∧
      o.value = ((s.tile p).reg (iwA iw)).setWidth 32 ∧ SameRegs (s.tile p) (t.tile p) ∧
      SameStore (s.tile p) (t.tile p) ∧ OtherTiles [p] s t ∧ Frame [] [.tiles, .step] s t) ∧
  (∀ (tile : TileId) (s : State) (p : Nat) (o : MoverOp) (os : List MoverOp), s.physOf tile.val = some p →
    (s.tile p).mode = .run → (s.tile p).blocked = none → (s.tile p).Quiet s.now → (s.tile p).mover = o :: os →
    o.len % 4 = 0 →
    (o.copy = true → (s.tile p).poisonIn o.src o.len = none) →
    ∃ t, exec (.moverComplete tile) s = .next t ∧ (t.tile p).mover = os ∧
      (o.copy = false → ∀ i < o.len / 4,
        leNat (Memory.readN (t.tile p).mem (o.dst + 4 * i) 4) = o.value.toNat) ∧
      (o.copy = true → ∀ i < o.len, Memory.read (t.tile p).mem (o.dst + i) = Memory.read (s.tile p).mem (o.src + i)) ∧
      (∀ x, x < o.dst ∨ o.dst + o.len ≤ x → Memory.read (t.tile p).mem x = Memory.read (s.tile p).mem x) ∧
      SameRegs (s.tile p) (t.tile p) ∧ OtherTiles [p] s t ∧ Frame [] [.tiles] s t) ∧
  (∀ (tile : TileId) (s : State) (p : Nat), s.physOf tile.val = some p → (s.tile p).mover = [] →
    exec (.moverComplete tile) s = .next s)

/-- MNON arms one of the four channels with its base, length and tensor ID, MNOFF disarms it. ACCRD, where its debug
enable is set, its address is good and its slot does not drain, writes the slot past the pleat buffer and changes no
slot. A pleat entry that no store has met for 16 cycles is written to its bank, and one met later stays. A patrol
scrub that is due reads the row next in turn: it counts the corrected words, poisons the uncorrectable ones with
LATENT set, and notes its time; one that is not due, switched off or in a Seam reads nothing, and only the bit errors
that come with it strike the tile; a parity error of the pattern store in a Seam stops the tile with PARITY.
(03_tile.md R103, 03_tile.md R105, 03_tile.md R107, 03_tile.md R113, 03_tile.md R114, 03_tile.md R118; which bit
errors strike is an operand of the command, the model's choice, log entry 69) -/
def Obligations.MonitorsFlushesAndScrubs : Prop :=
  (∀ (tile : TileId) (iw : Word64) (s : State) (p : Nat), Issues s tile iw p → iwClass iw = 9 → wFormOk iw = true →
    iwPS iw = 0 → (s.tile p).mon.length = 4 →
    (iwOp iw = 0 → iwObj iw ≤ 3 → iwBits iw 17 0 % 16 = 0 → 16 ≤ iwBits iw 17 0 →
      ((s.tile p).reg (iwA iw)).toNat + iwBits iw 17 0 ≤ scratchBytes →
      ∃ t, exec (.mnon tile iw) s = .next t ∧ Retired s t p ∧
        (t.tile p).mon[iwObj iw]? = some (some ⟨((s.tile p).reg (iwA iw)).toNat, iwBits iw 17 0, iwBits iw 31 18⟩) ∧
        (∀ i, i ≠ iwObj iw → (t.tile p).mon[i]? = (s.tile p).mon[i]?) ∧ SameRegs (s.tile p) (t.tile p) ∧
        (t.tile p).mem = (s.tile p).mem ∧ OtherTiles [p] s t ∧ Frame [] [.tiles, .step] s t) ∧
    (iwOp iw = 1 → iwObj iw ≤ 3 → iwImm iw = 0 →
      ∃ t, exec (.mnoff tile iw) s = .next t ∧ Retired s t p ∧ (t.tile p).mon[iwObj iw]? = some none ∧
        (∀ i, i ≠ iwObj iw → (t.tile p).mon[i]? = (s.tile p).mon[i]?) ∧ SameRegs (s.tile p) (t.tile p) ∧
        (t.tile p).mem = (s.tile p).mem ∧ OtherTiles [p] s t ∧ Frame [] [.tiles, .step] s t) ∧
    (iwOp iw = 2 → iwObj iw ≤ 7 → iwImm iw = 0 → (s.tile p).rd Reg.MN_TILE_DBG_ACC_EN ≠ 0 →
      ((s.tile p).reg (iwA iw)).toNat % 16 = 0 → ((s.tile p).reg (iwA iw)).toNat + 6160 ≤ scratchBytes →
      (nth (s.tile p).slots (iwObj iw) {}).mode ≠ .draining →
      ∃ t, exec (.accrd tile iw) s = .next t ∧ Retired s t p ∧
        (t.tile p).mem = ((s.tile p).wideStore s.now ((s.tile p).reg (iwA iw)).toNat
          (accrdBytes (nth (s.tile p).slots (iwObj iw) {}))).mem ∧
        (t.tile p).slots = (s.tile p).slots ∧ SameRegs (s.tile p) (t.tile p) ∧ OtherTiles [p] s t ∧
        Frame [] [.tiles, .step] s t)) ∧
  (∀ (tile : TileId) (row : Fin 3072) (s : State) (p : Nat) (e : PleatEnt), s.physOf tile.val = some p →
    (s.tile p).pleat.find? (fun x => x.row == row.val) = some e →
    (e.last + 16 ≤ s.now →
      ∃ t, exec (.pleatIdleFlush tile row) s = .next t ∧ (t.tile p).mem = (Tile.flushEntry s.now (s.tile p) e).mem ∧
        (t.tile p).pleat = (s.tile p).pleat.filter (fun x => x.row != row.val) ∧ SameRegs (s.tile p) (t.tile p) ∧
        OtherTiles [p] s t ∧ Frame [] [.tiles] s t) ∧
    (s.now < e.last + 16 → exec (.pleatIdleFlush tile row) s = .next s)) ∧
  (∀ (tile : TileId) (u : TileUpsets) (s : State) (p : Nat), s.physOf tile.val = some p → s.on Reg.TK_STAT_IN_SEAM = false →
    ((s.tile p).rd Reg.MN_TILE_SCRUB_INTERVAL ≠ 0 →
      (s.tile p).scrubAt + max 64 ((s.tile p).rd Reg.MN_TILE_SCRUB_INTERVAL) ≤ s.now →
      (s.tile p).rd Reg.MN_TILE_ECC_CE < 2 ^ Reg.MN_TILE_ECC_CE.width →
      ∃ t, exec (.patrolScrub tile u) s = .next t ∧ (t.tile p).scrubAt = s.now ∧
        (t.tile p).scrubNext = ((s.tile p).scrubNext + 1) % 3072 ∧
        (t.tile p).rd Reg.MN_TILE_ECC_CE = min ((s.tile p).rd Reg.MN_TILE_ECC_CE +
          ((s.tile p).strike u).soft.countP (fun e => e.1 / 8 == (s.tile p).scrubNext && !e.2))
          (2 ^ Reg.MN_TILE_ECC_CE.width - 1) ∧
        (∀ w ∈ u.multi, w.val / 8 = (s.tile p).scrubNext →
          (smFind (t.tile p).poison w.val).isSome = true ∧ (t.tile p).rd Reg.MN_TILE_ECC_LATENT = 1) ∧
        SameRegs (s.tile p) (t.tile p) ∧ (t.tile p).mem = (s.tile p).mem ∧ OtherTiles [p] s t ∧ Frame [] [.tiles] s t) ∧
    ((s.tile p).rd Reg.MN_TILE_SCRUB_INTERVAL = 0 ∨
      s.now < (s.tile p).scrubAt + max 64 ((s.tile p).rd Reg.MN_TILE_SCRUB_INTERVAL) →
      ∃ t, exec (.patrolScrub tile u) s = .next t ∧ t.tile p = (s.tile p).strike u ∧ OtherTiles [p] s t ∧
        Frame [] [.tiles] s t)) ∧
  (∀ (tile : TileId) (u : TileUpsets) (s : State) (p : Nat), s.physOf tile.val = some p → s.on Reg.TK_STAT_IN_SEAM = true →
    (((s.tile p).badPat || u.pattern) = false →
      ∃ t, exec (.patrolScrub tile u) s = .next t ∧ t.tile p = (s.tile p).strike u ∧ OtherTiles [p] s t ∧
        Frame [] [.tiles] s t) ∧
    (u.pattern = true → (s.tile p).mode ≠ .stop → (s.tile p).fault.valid = false →
      ∃ t, exec (.patrolScrub tile u) s = .next t ∧ (t.tile p).mode = .stop ∧ (t.tile p).fault.code = fcParity ∧
        (t.tile p).patDead = some s.now))

/-- A window read that names no tile answers zeros and a write to one changes nothing; a firmware access that meets no
mapped address is logged. Under a missing IDE stream both are dropped and counted. One of a whole access to clean
scratchpad bytes, outside a Seam and a scrub, answers the stored bytes and changes no tile, and one of a status word
answers the word. During a Seam or a scrub it is held. A write of the scratchpad of a tile that reads IDLE or STOP
stores the bytes, and no other byte changes; of any other tile it is discarded and sets HOST_WR. (03_tile.md R119,
03_tile.md R120, 13_firmware_and_host.md R435, 13_firmware_and_host.md R437, 16_security_identity.md R497,
17_register_map.md R505; the level and the code of the log record, and when two drops count as one, are the model's
reading, log entries 84 and 85) -/
def Obligations.TileWindowsReadAndWrite : Prop :=
  (∀ (port : Port) (a n p o : Nat) (s : State), s.ideDrops port = false → s.windowOf port a = some (p, o) →
    windowShape port o n = true →
    (o < 0x30000 → s.on Reg.TK_STAT_IN_SEAM = false → s.jobState ≠ jbScrubbing → (s.tile p).Quiet s.now →
      (s.tile p).poisonIn o n = none →
      ∃ t, exec (.tileWindowRead port a n) s = .next t ∧
        t.out = s.out ++ [.answer port (Memory.readN (s.tile p).mem o n) false] ∧ OtherTiles [] s t ∧
        Frame [] [.out, .tiles, .fab] s t) ∧
    (0x30000 ≤ o → s.on Reg.TK_STAT_IN_SEAM = false → s.jobState ≠ jbScrubbing →
      ∃ t, exec (.tileWindowRead port a n) s = .next t ∧
        t.out = s.out ++ [.answer port (natLe (s.tileWord p o) 4) false] ∧ OtherTiles [p] s t ∧
        (port = .host → t.tiles = s.tiles) ∧ Frame [] [.out, .tiles, .fab] s t) ∧
    (s.on Reg.TK_STAT_IN_SEAM = true ∨ s.jobState = jbScrubbing →
      ∃ t, exec (.tileWindowRead port a n) s = .next t ∧ t.fab.heldReads = s.fab.heldReads ++ [(port, a, n)] ∧
        Frame [] [.fab] s t)) ∧
  (∀ (port : Port) (a n : Nat) (s : State), s.ideDrops port = false → s.windowOf port a = none →
    s.on Reg.TK_STAT_IN_SEAM = false → s.jobState ≠ jbScrubbing →
    (port = .host ∨ unmapped a = false →
      exec (.tileWindowRead port a n) s = .next (s.emit (.answer port (List.replicate n 0) false))) ∧
    (port = .fw → unmapped a = true →
      ∃ t, exec (.tileWindowRead port a n) s = .next t ∧ t.out = s.out ++ [.answer port (List.replicate n 0) false] ∧
        Logged s t 1 1 ∧ Frame [Reg.FW_LOG_WP_SEQ, Reg.FW_CNT_LOGDROP_COUNT] [.out, .host, .ring] s t)) ∧
  (∀ (port : Port) (a n : Nat) (data : List Byte) (s : State),
    (s.ideDrops port = true →
      (∃ t, exec (.tileWindowRead port a n) s = .next t ∧ t.out = s.out ++ [.answer port [] false] ∧ DropCounted s t) ∧
      (∃ t, exec (.tileWindowWrite port a data) s = .next t ∧ t.out = s.out ∧ DropCounted s t)) ∧
    (s.ideDrops port = false → s.windowOf port a = none →
      (port = .host ∨ unmapped a = false → exec (.tileWindowWrite port a data) s = .next s) ∧
      (port = .fw → unmapped a = true → ∃ t, exec (.tileWindowWrite port a data) s = .next t ∧ Logged s t 1 1 ∧
        Frame [Reg.FW_LOG_WP_SEQ, Reg.FW_CNT_LOGDROP_COUNT] [.host, .ring] s t))) ∧
  (∀ (port : Port) (a p o : Nat) (data : List Byte) (s : State), s.ideDrops port = false →
    s.windowOf port a = some (p, o) → windowShape port o data.length = true → o < 0x30000 →
    (((s.tile p).mode = .idle ∨ (s.tile p).mode = .stop) → s.jobState ≠ jbScrubbing → (s.tile p).Quiet s.now →
      ∃ t, exec (.tileWindowWrite port a data) s = .next t ∧
        (∀ i b, data[i]? = some b → Memory.read (t.tile p).mem (o + i) = b) ∧
        (∀ x, x < o ∨ o + data.length ≤ x → Memory.read (t.tile p).mem x = Memory.read (s.tile p).mem x) ∧
        SameRegs (s.tile p) (t.tile p) ∧ OtherTiles [p] s t ∧ Frame [] [.tiles, .fab] s t) ∧
    (((s.tile p).mode ≠ .idle ∧ (s.tile p).mode ≠ .stop) ∨ s.jobState = jbScrubbing →
      ∃ t, exec (.tileWindowWrite port a data) s = .next t ∧ (t.tile p).rd Reg.MN_TILE_STAT_HOST_WR = 1 ∧
        SameRegs (s.tile p) (t.tile p) ∧ SameStore (s.tile p) (t.tile p) ∧ OtherTiles [p] s t ∧
        Frame [] [.tiles, .fab] s t))

/-- For every header whose fields fit their widths, the header flit reads back with every field as given, and its
check holds; so does every relay word. The way back of a relay word keeps its four addresses and sets RESP; it
travels to the sender, where the way out travels to the destination. (06_on_chip_fabric.md R194,
06_on_chip_fabric.md R195, 06_on_chip_fabric.md R196, 08_bobbins_and_thimbles.md R276) -/
def Obligations.PacketHeadersReadBack : Prop :=
  (∀ (h : PktHdr) (relay : Option (BitVec 128)) (data : List Byte) (bad : List Nat), h.kind < 16 → h.dest < 2 ^ 13 → h.src < 2 ^ 13 →
    h.addr < 2 ^ 18 → h.len < 2 ^ 8 → h.tag < 2 ^ 8 → h.etype < 4 → h.ring < 8 → h.cnt < 2 ^ 8 → h.sub < 8 → h.raddr < 2 ^ 18 →
    h.mid < 16 →
    pkFields { hdr := h.word, relay := relay, data := data, bad := bad } = h ∧ crcWordOk h.word = true) ∧
  (∀ (a b c d : Nat) (resp : Bool), a < 2 ^ 13 → b < 2 ^ 13 → c < 2 ^ 13 → d < 2 ^ 13 →
    rlDdev (relayWord a b c d resp) = a ∧ rlDtile (relayWord a b c d resp) = b ∧ rlSdev (relayWord a b c d resp) = c ∧
    rlStile (relayWord a b c d resp) = d ∧ rlResp (relayWord a b c d resp) = resp ∧
    crcWordOk (relayWord a b c d resp) = true ∧ rlTarget (relayWord a b c d false) = (a, b) ∧
    rlTarget (relayBack (relayWord a b c d resp)) = (c, d) ∧
    relayBack (relayWord a b c d resp) = relayWord a b c d true)

/-- A WRITE that arrives whole puts its data at its address, leaves every other byte, and sends the ACK back with the
tag. A RDREQ changes no tile and sends the RDRSP with the bytes of the range, to the address that the request names. A
RDRSP for a register that reads writes its data, and the register is FREE; any other one changes no tile. An ACK takes
one from the outstanding count of the register that it completes, and a register that drains is FREE with its last; a
merged one frees the router's entry. A packet that fails its check is counted and discarded, and the tile of the
router that finds it stops with an asynchronous PORT fault. A packet that an earlier one of the same source,
destination and channel is ahead of does not arrive yet. Where a packet writes or reads a scratchpad, the tile has no
bit error to be found, and no write in the same cycle. (06_on_chip_fabric.md R196, 06_on_chip_fabric.md R199,
06_on_chip_fabric.md R200, 06_on_chip_fabric.md R201, 06_on_chip_fabric.md R202, 06_on_chip_fabric.md R209,
08_bobbins_and_thimbles.md R265) -/
def Obligations.FabricPacketsArrive : Prop :=
  (∀ (q : Pkt) (s : State) (p : Nat), pkChecks q = true → s.physOf (pkDest q) = some p → pkKind q = pkWrite → pkInRange q = true → pkSized q = true → s.inOrder (soundPkt q) = true →
    (s.tile p).Quiet s.now →
    ∃ t, exec (.write q) s = .next t ∧
      (∀ a, Memory.read (t.tile p).mem a = if pkAddr q ≤ a ∧ a < pkAddr q + q.data.length
        then nth q.data (a - pkAddr q) 0 else Memory.read (s.tile p).mem a) ∧
      t.out = s.out ++ [.packet { hdr := { kind := pkAck, mrg := pkMrg q, mid := pkMid q, dest := pkSrc q, src := pkDest q, tag := pkTag q, ring := pkRing q : PktHdr }.word, relay := q.relay.map relayBack, data := [], bad := [] }] ∧
      (t.tile p).g = (s.tile p).g ∧ (t.tile p).v = (s.tile p).v ∧ (t.tile p).pleat = (s.tile p).pleat ∧
      OtherTiles [p] s t ∧ Frame [] [.tiles, .fab, .out, .step] s t) ∧
  (∀ (q : Pkt) (s : State) (p : Nat), pkChecks q = true → s.physOf (pkDest q) = some p → pkKind q = pkRdreq → pkInRange q = true → pkSized q = true → s.inOrder (soundPkt q) = true →
    (s.tile p).Quiet s.now →
    ∃ t, exec (.rdreq q) s = .next t ∧ t.out = s.out ++ [.packet {
        hdr := { kind := pkRdrsp, dest := pkSrc q, src := pkDest q, addr := pkRaddr q, len := pkLen q, tag := pkTag q : PktHdr }.word,
        relay := q.relay.map relayBack, data := Memory.readN (s.tile p).mem (pkAddr q) (16 * (pkLen q + 1)),
        bad := (s.tile p).badWords (pkAddr q) (16 * (pkLen q + 1)) }] ∧
      OtherTiles [] s t ∧ Frame [] [.tiles, .fab, .out] s t) ∧
  (∀ (q : Pkt) (s : State) (p : Nat), pkChecks q = true → s.physOf (pkDest q) = some p → pkKind q = pkRdrsp → pkInRange q = true → pkSized q = true → s.inOrder (soundPkt q) = true →
    (s.tile p).thims.length = 8 →
    (((s.tile p).thim (pkTag q % 8)).form = 3 ∧ ((s.tile p).thim (pkTag q % 8)).mode = .draining → (s.tile p).Quiet s.now →
      ∃ t, exec (.rdrsp q) s = .next t ∧
        (∀ a, Memory.read (t.tile p).mem a = if pkAddr q ≤ a ∧ a < pkAddr q + q.data.length
          then nth q.data (a - pkAddr q) 0 else Memory.read (s.tile p).mem a) ∧
        ((t.tile p).thim (pkTag q % 8)).mode = .free ∧
        (∀ k, k ≠ pkTag q % 8 → (t.tile p).thim k = (s.tile p).thim k) ∧
        OtherTiles [p] s t ∧ Frame [] [.tiles, .fab, .step] s t) ∧
    (¬(((s.tile p).thim (pkTag q % 8)).form = 3 ∧ ((s.tile p).thim (pkTag q % 8)).mode = .draining) →
      ∃ t, exec (.rdrsp q) s = .next t ∧ Frame [] [.fab] s t)) ∧
  (∀ (q : Pkt) (s : State) (p : Nat), pkChecks q = true → s.physOf (pkDest q) = some p → pkKind q = pkAck → pkSized q = true → s.inOrder (soundPkt q) = true →
    (pkMrg q = false → (s.tile p).thims.length = 8 →
      (∀ k, (s.tile p).ackReg q = some k →
        ∃ t, exec (.ack q) s = .next t ∧ ((t.tile p).thim k).acks = ((s.tile p).thim k).acks - 1 ∧
          ((t.tile p).thim k).mode = (if ((s.tile p).thim k).mode = .draining ∧ ((s.tile p).thim k).acks = 1 then .free
            else ((s.tile p).thim k).mode) ∧
          (∀ i, i ≠ k → (t.tile p).thim i = (s.tile p).thim i) ∧ (t.tile p).mem = (s.tile p).mem ∧
          OtherTiles [p] s t ∧ Frame [] [.tiles, .fab, .step] s t) ∧
      ((s.tile p).ackReg q = none → ∃ t, exec (.ack q) s = .next t ∧ Frame [] [.fab] s t)) ∧
    (pkMrg q = true →
      ∃ t, exec (.ack q) s = .next t ∧ (∀ m ∈ t.fab.merges, ¬(m.router = p ∧ m.mid = pkMid q)) ∧
        (∀ m ∈ s.fab.merges, ¬(m.router = p ∧ m.mid = pkMid q) → m ∈ t.fab.merges) ∧
        t.out.length = s.out.length +
          ((s.fab.merges.filter (fun m => m.router == p && m.mid == pkMid q)).map (fun m => m.parts.length)).sum ∧
        Frame [] [.fab, .out] s t)) ∧
  (∀ (c : Instr) (q : Pkt) (s : State) (p : Nat), c ∈ [Instr.write q, .rdreq q, .rdrsp q, .msg q, .add q, .ack q, .thimbleRequest q,
      .thimbleGrant q, .thimbleRelease q, .thimbleRefuse q, .thimbleAbandoned q, .thimbleRetry q] →
    pkChecks q = false →
    ∃ t, exec c s = .next t ∧ t.on Reg.MN_FAB_STAT_HDR_ERR = true ∧
      t.rd Reg.MN_FAB_STAT_DROPS = min (s.rd Reg.MN_FAB_STAT_DROPS + 1) 0xFFFF ∧
      (s.finder q = some p → (s.logicalOf p).isSome = true → (s.tile p).fault.valid = false → (s.tile p).mode ≠ .stop →
        (t.tile p).mode = .stop ∧ (t.tile p).fault.valid = true ∧ (t.tile p).fault.code = fcPort ∧ (t.tile p).fault.async = true) ∧
      (s.finder q = none → t.tiles = s.tiles) ∧
      Frame (Reg.MN_FAB_STAT_HDR_ERR :: Reg.MN_FAB_STAT_DROPS :: faultFields) (.fab :: faultParts) s t) ∧
  (∀ (q : Pkt) (s : State) (p : Nat), pkChecks q = true → s.physOf (pkDest q) = some p → pkSized q = true →
    s.inOrder (soundPkt q) = false →
    (pkInRange q = true → (pkKind q = pkWrite → exec (.write q) s = .next s) ∧ (pkKind q = pkRdreq → exec (.rdreq q) s = .next s) ∧
      (pkKind q = pkRdrsp → exec (.rdrsp q) s = .next s) ∧ (pkKind q = pkMsg → exec (.msg q) s = .next s) ∧
      (pkKind q = pkAdd → exec (.add q) s = .next s)) ∧
    (pkKind q = pkAck → exec (.ack q) s = .next s))

/-- A MSG that fills the one open range of a message ring puts its data at its address, sends the ACK, and lets WP
pass the record with the next sequence number. An ADD to an armed slot adds its data into the slot's bytes, counts
its contributions, completes the slot at the expected count and sends the ACK; one to a slot that is being zeroed is
held, with no ACK; one beyond the expected count stops the tile with RING_CONFIG. The end of a zeroing leaves the
slot armed and zero, every other byte unchanged, and the held contributions are then added in order. The packets are
the next of their way, and where one writes a scratchpad the tile has no bit error to be found, and no write in the
same cycle. The count in the ACK of an ADD is the model's choice (log entry 74).
(06_on_chip_fabric.md R200, 06_on_chip_fabric.md R210, 08_bobbins_and_thimbles.md R262, 08_bobbins_and_thimbles.md
R272, 08_bobbins_and_thimbles.md R273, 08_bobbins_and_thimbles.md R274) -/
def Obligations.RingsTakeRecordsAndContributions : Prop :=
  (∀ (q : Pkt) (s : State) (p : Nat) (x : RingRec), pkChecks q = true → s.physOf (pkDest q) = some p → pkKind q = pkMsg → pkInRange q = true → pkSized q = true → s.inOrder (soundPkt q) = true →
    q.relay = none → (s.tile p).rings.length = 8 → ((s.tile p).ring (pkRing q)).kind = rkMessage →
    (s.tile p).Quiet s.now → ((s.tile p).ring (pkRing q)).recs = [x] → x.done = false → x.remote = false → x.sdev = s.devId.toNat → x.stile = pkSrc q →
    x.reg = pkTag q → x.units = pkLen q + 2 →
    ∃ t, exec (.msg q) s = .next t ∧
      ((t.tile p).ring (pkRing q)).wp = (((s.tile p).ring (pkRing q)).wp + (pkLen q + 2)) % (2 * ((s.tile p).ring (pkRing q)).units) ∧
      ((t.tile p).ring (pkRing q)).seq = (((s.tile p).ring (pkRing q)).seq + 1) % 2 ^ 16 ∧ ((t.tile p).ring (pkRing q)).recs = [] ∧
      (∀ k, k ≠ pkRing q → (t.tile p).ring k = (s.tile p).ring k) ∧
      t.out = s.out ++ [.packet { hdr := { kind := pkAck, mrg := pkMrg q, mid := pkMid q, dest := pkSrc q, src := pkDest q, tag := pkTag q, ring := pkRing q : PktHdr }.word, relay := q.relay.map relayBack, data := [], bad := [] }] ∧
      (t.tile p).mem = Memory.writeN (Memory.writeN (s.tile p).mem (pkAddr q) q.data)
        (((s.tile p).ring (pkRing q)).base + ((s.tile p).ring (pkRing q)).wp % ((s.tile p).ring (pkRing q)).units * 16)
        (({ x with done := true, utag := pkCnt q, doneAt := s.now } : RingRec).header ((s.tile p).ring (pkRing q)).seq) ∧
      OtherTiles [p] s t ∧ Frame [] [.tiles, .fab, .out, .step] s t) ∧
  (∀ (q : Pkt) (s : State) (p j : Nat) (r : RingSt), pkChecks q = true → s.physOf (pkDest q) = some p → pkKind q = pkAdd → pkInRange q = true → pkSized q = true → s.inOrder (soundPkt q) = true →
    (s.tile p).rings.length = 8 → (s.tile p).ring (pkRing q) = r → r.kind = rkCombining → r.base ≤ pkAddr q →
    r.slotAt (pkAddr q) = j → j < r.slotCount →
    ((r.comb j).mode ≠ .zeroing → (r.comb j).arrived + pkCnt q ≤ (r.comb j).expected → (s.tile p).Quiet s.now →
      ∃ t, exec (.add q) s = .next t ∧
        (t.tile p).mem = Memory.writeN (s.tile p).mem (pkAddr q)
          (addRows r.etype (Memory.readN (s.tile p).mem (pkAddr q) q.data.length) q.data) ∧
        (∀ a, a < pkAddr q ∨ pkAddr q + q.data.length ≤ a → Memory.read (t.tile p).mem a = Memory.read (s.tile p).mem a) ∧
        (((t.tile p).ring (pkRing q)).comb j).arrived = (r.comb j).arrived + pkCnt q ∧
        (((t.tile p).ring (pkRing q)).comb j).mode =
          (if (r.comb j).arrived + pkCnt q = (r.comb j).expected then .complete else (r.comb j).mode) ∧
        (∀ i, i ≠ j → ((t.tile p).ring (pkRing q)).comb i = r.comb i) ∧
        t.out = s.out ++ [.packet { hdr := { kind := pkAck, mrg := pkMrg q, mid := pkMid q, dest := pkSrc q, src := pkDest q, tag := pkTag q, ring := pkRing q, cnt := pkCnt q : PktHdr }.word, relay := q.relay.map relayBack, data := [], bad := [] }] ∧
        OtherTiles [p] s t ∧ Frame [] [.tiles, .fab, .out, .step] s t) ∧
    ((r.comb j).mode = .zeroing →
      ∃ t, exec (.add q) s = .next t ∧ (((t.tile p).ring (pkRing q)).comb j).held = (r.comb j).held ++ [q] ∧
        (t.tile p).mem = (s.tile p).mem ∧ OtherTiles [p] s t ∧ Frame [] [.tiles, .fab] s t) ∧
    ((r.comb j).mode ≠ .zeroing → (r.comb j).expected < (r.comb j).arrived + pkCnt q → (s.tile p).fault.valid = false →
      (s.tile p).mode ≠ .stop →
      ∃ t, exec (.add q) s = .next t ∧ (t.tile p).mode = .stop ∧ (t.tile p).fault.code = fcRing ∧
        (t.tile p).fault.detail = addDetail (pkRing q) j ∧ Frame faultFields (.fab :: faultParts) s t)) ∧
  (∀ (tile : TileId) (k : Fin 8) (j : Fin 64) (s : State) (p : Nat) (r : RingSt), s.physOf tile.val = some p →
    (s.tile p).rings.length = 8 → (s.tile p).ring k.val = r →
    (r.kind = rkCombining ∧ (r.comb j.val).mode = .zeroing → (s.tile p).Quiet s.now →
      ∃ t u, exec (.slotZeroed tile k j) s = .next t ∧ t = (r.comb j.val).held.foldl (fun s q => s.addPacket p q) u ∧
        ((u.tile p).ring k.val).comb j.val = { r.comb j.val with mode := .armed, held := [] } ∧
        (∀ a, Memory.read (u.tile p).mem a = if r.base + j.val * (r.slotUnits * 16) ≤ a ∧
          a < r.base + j.val * (r.slotUnits * 16) + r.slotUnits * 16 then 0 else Memory.read (s.tile p).mem a) ∧
        OtherTiles [p] s u ∧ Frame [] [.tiles] s u) ∧
    (¬(r.kind = rkCombining ∧ (r.comb j.val).mode = .zeroing) → exec (.slotZeroed tile k j) s = .next s))

/-- Where they issue with legal fields and no fault of R520: BCFG gives the ring its kind, sizes and base with its
pointers at 0, or no configuration; a busy ring faults. A TREQ on a FREE register makes it REQUESTED and sends the
request, or DRAINING and sends the read. BSEND takes its cost from the credit, counts an acknowledgement and sends
the scratchpad's bytes with the header of its form; with LAST or no credit left it releases. BWAIT retires with
SUCCESS where its condition holds, on a thimble with the status there, and else stops issue. BADV moves RP, the
window's counts or the slot's round, with requests served after it. Each leaves every other ring and register, the
scratchpad and the other tiles as they were. (08_bobbins_and_thimbles.md R257, 08_bobbins_and_thimbles.md R258,
08_bobbins_and_thimbles.md R263, 08_bobbins_and_thimbles.md R264, 08_bobbins_and_thimbles.md R265,
08_bobbins_and_thimbles.md R268, 08_bobbins_and_thimbles.md R269, 08_bobbins_and_thimbles.md R271,
08_bobbins_and_thimbles.md R272, 08_bobbins_and_thimbles.md R274) -/
def Obligations.BobbinInstructionsTakeEffect : Prop :=
  (∀ (tile : TileId) (iw : Word64) (s : State) (p : Nat), Issues s tile iw p → rowOf iw 6 4 = true → cfgIllegal iw = false →
    (s.tile p).rings.length = 8 → (s.tile p).ringBusy (iwObj iw) = false →
    (cfgKind iw ≠ rkNone → cfgSize iw ≤ 8 → ((s.tile p).reg (iwA iw)).toNat % 256 = 0 → ((s.tile p).reg (iwA iw)).toNat + 256 * 2 ^ cfgSize iw ≤ scratchBytes →
      (s.tile p).ringOverlaps (iwObj iw) ((s.tile p).reg (iwA iw)).toNat (256 * 2 ^ cfgSize iw) = false →
      (cfgKind iw = rkCombining → 64 * 2 ^ cfgSlot iw ≤ 256 * 2 ^ cfgSize iw ∧ 256 * 2 ^ cfgSize iw / (64 * 2 ^ cfgSlot iw) ≤ 64) →
      ∃ t, exec (.bcfg tile iw) s = .next t ∧ Retired s t p ∧ (t.tile p).ring (iwObj iw) =
          newRing (cfgKind iw) (cfgSize iw) (cfgSlot iw) (cfgEtype iw) ((s.tile p).reg (iwA iw)).toNat ∧
        (∀ k, k ≠ iwObj iw → (t.tile p).ring k = (s.tile p).ring k) ∧ (t.tile p).mem = (s.tile p).mem ∧
        SameRegs (s.tile p) (t.tile p) ∧ OtherTiles [p] s t ∧ Frame [] [.tiles, .step] s t) ∧
    (cfgKind iw = rkNone →
      ∃ t, exec (.bcfgUnconfigure tile iw) s = .next t ∧ Retired s t p ∧ ((t.tile p).ring (iwObj iw)).kind = rkNone ∧
        (∀ k, k ≠ iwObj iw → (t.tile p).ring k = (s.tile p).ring k) ∧ (t.tile p).mem = (s.tile p).mem ∧
        SameRegs (s.tile p) (t.tile p) ∧ OtherTiles [p] s t ∧ Frame [] [.tiles, .step] s t)) ∧
  (∀ (tile : TileId) (iw : Word64) (s : State) (p : Nat), Issues s tile iw p → rowOf iw 6 4 = true → cfgIllegal iw = false → cfgKind iw = rkNone →
    (s.tile p).ringBusy (iwObj iw) = true → (s.tile p).fault.valid = false →
    ∃ t, exec (.bcfgUnconfigure tile iw) s = .next t ∧ (t.tile p).mode = .stop ∧ (t.tile p).fault.code = fcRing ∧
      (t.tile p).fault.detail = iwObj iw ∧ Frame faultFields faultParts s t) ∧
  (∀ (c : Instr) (tile : TileId) (iw : Word64) (s : State) (p : Nat), Issues s tile iw p → rowOf iw 6 0 = true → treqIllegal iw = false →
    (c = .treqMessage tile iw ∧ treqForm iw = 0 ∨ c = .treqCombining tile iw ∧ treqForm iw = 1 ∨ c = .treqWrite tile iw ∧ treqForm iw = 2) →
    iwBits ((s.tile p).reg (iwA iw)) 63 48 = 0 → (tgRemote ((s.tile p).reg (iwA iw)) = true ∨ (s.physOf (tgTile ((s.tile p).reg (iwA iw)))).isSome = true) →
    (s.tile p).thims.length = 8 → ((s.tile p).thim (iwObj iw)).mode = .free →
    ∃ t, exec c s = .next t ∧ Retired s t p ∧ (t.tile p).thim (iwObj iw) = treqThim iw ((s.tile p).reg (iwA iw)) (s.tile p).pc ∧
      (∀ k, k ≠ iwObj iw → (t.tile p).thim k = (s.tile p).thim k) ∧
      t.out = s.out ++ [.packet (s.thimPacket p (treqThim iw ((s.tile p).reg (iwA iw)) (s.tile p).pc)
        { kind := pkThimble, sub := suRequest, ring := tgRing ((s.tile p).reg (iwA iw)), tag := iwObj iw,
          addr := if treqForm iw = rkWindow then treqOff iw * 16 else if treqForm iw = rkCombining then treqOff iw else 0,
          raddr := treqUnits iw - 1 + 2 ^ 12 * treqForm iw, cnt := if treqForm iw = rkCombining then tgRound ((s.tile p).reg (iwA iw)) else 0 } [] [])] ∧
      (t.tile p).mem = (s.tile p).mem ∧ (t.tile p).rings = (s.tile p).rings ∧ SameRegs (s.tile p) (t.tile p) ∧ OtherTiles [p] s t ∧
      Frame [] [.tiles, .step, .out] s t) ∧
  (∀ (tile : TileId) (iw : Word64) (s : State) (p : Nat), Issues s tile iw p → rowOf iw 6 0 = true → treqIllegal iw = false → treqForm iw = 3 →
    iwBits ((s.tile p).reg (iwA iw)) 63 48 = 0 → (tgRemote ((s.tile p).reg (iwA iw)) = true ∨ (s.physOf (tgTile ((s.tile p).reg (iwA iw)))).isSome = true) →
    readFault iw ((s.tile p).reg (iwA iw)) = none → (s.tile p).thims.length = 8 → ((s.tile p).thim (iwObj iw)).mode = .free → (s.tile p).readsOut < 2 →
    ∃ t, exec (.treqRead tile iw) s = .next t ∧ Retired s t p ∧ ((t.tile p).thim (iwObj iw)).mode = .draining ∧
      ((t.tile p).thim (iwObj iw)).form = 3 ∧ (∀ k, k ≠ iwObj iw → (t.tile p).thim k = (s.tile p).thim k) ∧
      t.out = s.out ++ [.packet (s.thimPacket p (treqThim iw ((s.tile p).reg (iwA iw)) (s.tile p).pc)
        { kind := pkRdreq, addr := tgSaddr ((s.tile p).reg (iwA iw)), len := treqUnits iw - 1, tag := iwObj iw, raddr := treqOff iw * 16 } [] [])] ∧
      (t.tile p).mem = (s.tile p).mem ∧ SameRegs (s.tile p) (t.tile p) ∧ OtherTiles [p] s t ∧ Frame [] [.tiles, .step, .out] s t) ∧
  (∀ (h : ThimSt) (tile : TileId) (iw : Word64) (s : State) (p : Nat), Issues s tile iw p → rowOf iw 6 1 = true → sendIllegal iw = false → sendFault (s.tile p) iw = none →
    (s.tile p).thims.length = 8 → (s.tile p).thim (iwObj iw) = h →
    ∃ t rest, exec (.bsend tile iw) s = .next t ∧ Retired s t p ∧
      t.out = s.out ++ .packet (s.thimPacket p h (sendHdr h (iwObj iw) iw)
        (Memory.readN (s.tile p).mem ((s.tile p).reg (iwA iw)).toNat (16 * sendN iw)) ((s.tile p).badWords ((s.tile p).reg (iwA iw)).toNat (16 * sendN iw))) :: rest ∧
      ((t.tile p).thim (iwObj iw)).acks = h.acks + 1 ∧
      (if sendLast iw = true ∨ h.left = sendCost h iw
        then ((t.tile p).thim (iwObj iw)).mode = .draining ∧ ((t.tile p).thim (iwObj iw)).left = 0 ∧ rest.length = 1
        else ((t.tile p).thim (iwObj iw)).mode = .held ∧ ((t.tile p).thim (iwObj iw)).left = h.left - sendCost h iw ∧ rest = []) ∧
      (∀ k, k ≠ iwObj iw → (t.tile p).thim k = (s.tile p).thim k) ∧ (t.tile p).mem = (s.tile p).mem ∧
      SameRegs (s.tile p) (t.tile p) ∧ OtherTiles [p] s t ∧ Frame [] [.tiles, .step, .out] s t) ∧
  (∀ (tile : TileId) (iw : Word64) (s : State) (p : Nat), Issues s tile iw p → rowOf iw 6 2 = true → waitIllegal iw = false → iwObj iw < 8 →
    iwImm iw < 2 ^ (if ((s.tile p).ring (iwObj iw)).kind = rkCombining then 6 else 13) →
    waitBad ((s.tile p).ring (iwObj iw)) (iwImm iw) = false →
    ((s.tile p).ringReady (iwObj iw) (iwImm iw) = true →
      ∃ t, exec (.bwait tile iw) s = .next t ∧ Retired s t p ∧ (iwPS iw ≠ 0 → (t.tile p).pred (iwPS iw) = true) ∧
        (∀ i, i ≠ iwPS iw → (t.tile p).pred i = (s.tile p).pred i) ∧ (t.tile p).g = (s.tile p).g ∧ (t.tile p).v = (s.tile p).v ∧
        SameStore (s.tile p) (t.tile p) ∧ OtherTiles [p] s t ∧ Frame [] [.tiles, .step] s t) ∧
    ((s.tile p).ringReady (iwObj iw) (iwImm iw) = false → (s.tile p).blocked = none →
      ∃ t, exec (.bwait tile iw) s = .next t ∧ (t.tile p).mode = .wait ∧ (t.tile p).blocked = some iw ∧
        (t.tile p).pc = (s.tile p).pc ∧ SameRegs (s.tile p) (t.tile p) ∧ SameStore (s.tile p) (t.tile p) ∧ OtherTiles [p] s t ∧
        Frame [] [.tiles] s t)) ∧
  (∀ (tile : TileId) (iw : Word64) (s : State) (p : Nat), Issues s tile iw p → rowOf iw 6 2 = true → waitIllegal iw = false → 8 ≤ iwObj iw → iwImm iw ≤ 1 →
    (∀ ok, (s.tile p).thimReady (iwObj iw - 8) (iwImm iw) = some ok →
      ∃ t, exec (.bwaitThimble tile iw) s = .next t ∧ Retired s t p ∧ (iwPS iw ≠ 0 → (t.tile p).pred (iwPS iw) = ok) ∧
        (∀ i, i ≠ iwPS iw → (t.tile p).pred i = (s.tile p).pred i) ∧ (t.tile p).g = (s.tile p).g ∧ (t.tile p).v = (s.tile p).v ∧
        SameStore (s.tile p) (t.tile p) ∧ OtherTiles [p] s t ∧ Frame [] [.tiles, .step, .fab] s t) ∧
    ((s.tile p).thimReady (iwObj iw - 8) (iwImm iw) = none → (s.tile p).blocked = none →
      ∃ t, exec (.bwaitThimble tile iw) s = .next t ∧ (t.tile p).mode = .wait ∧ (t.tile p).blocked = some iw ∧
        SameRegs (s.tile p) (t.tile p) ∧ SameStore (s.tile p) (t.tile p) ∧ OtherTiles [p] s t ∧ Frame [] [.tiles] s t)) ∧
  (∀ (r : RingSt) (tile : TileId) (iw : Word64) (s : State) (p : Nat), Issues s tile iw p → rowOf iw 6 3 = true → advIllegal iw = false → (s.tile p).rings.length = 8 →
    (s.tile p).ring (iwObj iw) = r →
    (r.kind = rkMessage ∧ iwImm iw < 2 ^ 13 ∧ iwImm iw ≠ 0 ∧ iwImm iw ≤ r.dist r.wp r.rp ∨
      r.kind = rkWindow ∧ iwImm iw < 2 ^ 26 ∧ iwImm iw / 2 ^ 13 ≤ r.landed ∧ r.credit + iwImm iw % 2 ^ 13 ≤ r.units ∨
      r.kind = rkCombining ∧ iwImm iw < 2 ^ 26 ∧ iwImm iw % 64 < r.slotCount ∧ bitsOf (iwImm iw) 25 6 ≠ 0 ∧
        ((r.comb (iwImm iw % 64)).mode = .idle ∨ (r.comb (iwImm iw % 64)).mode = .complete)) →
    ∃ t, exec (.badv tile iw) s = .next t ∧ Retired s t p ∧
      ((s.tile p).reqs = [] → (t.tile p).ring (iwObj iw) =
        (if r.kind = rkMessage then { r with rp := (r.rp + iwImm iw) % (2 * r.units) }
          else if r.kind = rkWindow then { r with landed := r.landed - iwImm iw / 2 ^ 13, credit := r.credit + iwImm iw % 2 ^ 13 }
          else r.arm (iwImm iw % 64) (bitsOf (iwImm iw) 25 6)) ∧
        (∀ k, k ≠ iwObj iw → (t.tile p).ring k = (s.tile p).ring k) ∧ (t.tile p).mem = (s.tile p).mem ∧ t.out = s.out) ∧
      SameRegs (s.tile p) (t.tile p) ∧ OtherTiles [p] s t ∧ Frame [] [.tiles, .step, .out] s t)

/-- A request that the ring can take is granted with the start of its reservation, which a message ring and a window
book; one that it can never take is refused; one that must wait is queued, is answered RETRY where 64 wait, and
ABANDONED at a stopped tile. A grant makes a REQUESTED register HELD with its credit and address, released at once
at a stopped tile. A release gives the unused credit of a window back. A refusal frees the register and stops the
tile with RING_CONFIG; ABANDONED frees it; RETRY notes the time after which THIMBLE_REREQUEST sends the request
again, and does not before. Other tiles are unchanged, and a packet for a register that awaits nothing changes no
tile. (08_bobbins_and_thimbles.md R261, 08_bobbins_and_thimbles.md R262, 08_bobbins_and_thimbles.md R265,
08_bobbins_and_thimbles.md R266, 08_bobbins_and_thimbles.md R267, 08_bobbins_and_thimbles.md R269,
08_bobbins_and_thimbles.md R271, 08_bobbins_and_thimbles.md R275, 08_bobbins_and_thimbles.md R279) -/
def Obligations.ThimblePacketsAreAnswered : Prop :=
  (∀ (q : Pkt) (s : State) (p : Nat) (r : RingSt), pkChecks q = true → s.physOf (pkDest q) = some p → pkKind q = pkThimble → pkSub q = suRequest → pkSized q = true → s.inOrder (soundPkt q) = true →
    (s.tile p).rings.length = 8 → (s.tile p).ring (pkRing q) = r →
    (r.verdict q = .grant → (s.tile p).reqs = [] →
      ∃ t, exec (.thimbleRequest q) s = .next t ∧
        (r.kind = rkMessage → ((t.tile p).ring (pkRing q)).resv = (r.resv + r.pad (pkUnits q) + pkUnits q) % (2 * r.units) ∧
          t.out = s.out ++ [.packet { hdr := { kind := pkThimble, dest := pkSrc q, src := (s.logicalOf p).getD 0, tag := pkTag q, ring := pkRing q, sub := suGrant, addr := r.base + (r.resv + r.pad (pkUnits q)) % r.units * 16 : PktHdr }.word, relay := q.relay.map relayBack, data := [], bad := [] }]) ∧
        (r.kind = rkWindow → ((t.tile p).ring (pkRing q)).credit = r.credit - pkUnits q ∧
          t.out = s.out ++ [.packet { hdr := { kind := pkThimble, dest := pkSrc q, src := (s.logicalOf p).getD 0, tag := pkTag q, ring := pkRing q, sub := suGrant, addr := r.base + pkAddr q : PktHdr }.word, relay := q.relay.map relayBack, data := [], bad := [] }]) ∧
        (r.kind = rkCombining → (t.tile p).ring (pkRing q) = r ∧
          t.out = s.out ++ [.packet { hdr := { kind := pkThimble, dest := pkSrc q, src := (s.logicalOf p).getD 0, tag := pkTag q, ring := pkRing q, sub := suGrant, etype := r.etype, addr := r.base + pkAddr q * r.slotUnits * 16 : PktHdr }.word, relay := q.relay.map relayBack, data := [], bad := [] }]) ∧
        (∀ k, k ≠ pkRing q → (t.tile p).ring k = (s.tile p).ring k) ∧ OtherTiles [p] s t ∧
        Frame [] [.tiles, .fab, .out, .step] s t) ∧
    (r.verdict q = .refuse →
      ∃ t, exec (.thimbleRequest q) s = .next t ∧ t.out = s.out ++ [.packet { hdr := { kind := pkThimble, dest := pkSrc q, src := (s.logicalOf p).getD 0, tag := pkTag q, ring := pkRing q, sub := suRefuse : PktHdr }.word, relay := q.relay.map relayBack, data := [], bad := [] }] ∧ (t.tile p).rings = (s.tile p).rings ∧
        (t.tile p).reqs = (s.tile p).reqs ∧ OtherTiles [p] s t ∧ Frame [] [.tiles, .fab, .out, .step] s t) ∧
    (r.verdict q = .wait →
      ((s.tile p).mode = .stop →
        ∃ t, exec (.thimbleRequest q) s = .next t ∧ t.out = s.out ++ [.packet { hdr := { kind := pkThimble, dest := pkSrc q, src := (s.logicalOf p).getD 0, tag := pkTag q, ring := pkRing q, sub := suAbandoned : PktHdr }.word, relay := q.relay.map relayBack, data := [], bad := [] }] ∧ Frame [] [.tiles, .fab, .out, .step] s t) ∧
      ((s.tile p).mode ≠ .stop → 64 ≤ (s.tile p).reqs.length →
        ∃ t, exec (.thimbleRequest q) s = .next t ∧ t.out = s.out ++ [.packet { hdr := { kind := pkThimble, dest := pkSrc q, src := (s.logicalOf p).getD 0, tag := pkTag q, ring := pkRing q, sub := suRetry : PktHdr }.word, relay := q.relay.map relayBack, data := [], bad := [] }] ∧ (t.tile p).reqs = (s.tile p).reqs ∧
          Frame [] [.tiles, .fab, .out, .step] s t) ∧
      ((s.tile p).mode ≠ .stop → (s.tile p).reqs.length < 64 →
        ∃ t, exec (.thimbleRequest q) s = .next t ∧ (t.tile p).reqs = (s.tile p).reqs ++ [q] ∧ t.out = s.out ∧
          (t.tile p).rings = (s.tile p).rings ∧ OtherTiles [p] s t ∧ Frame [] [.tiles, .fab, .step] s t))) ∧
  (∀ (q : Pkt) (s : State) (p : Nat), pkChecks q = true → s.physOf (pkDest q) = some p → pkKind q = pkThimble → pkSub q = suGrant → pkSized q = true → s.inOrder (soundPkt q) = true →
    (s.tile p).thims.length = 8 →
    (((s.tile p).thim (pkTag q % 8)).mode = .requested → (s.tile p).mode ≠ .stop →
      ∃ t, exec (.thimbleGrant q) s = .next t ∧ ((t.tile p).thim (pkTag q % 8)).mode = .held ∧ ((t.tile p).thim (pkTag q % 8)).left = ((s.tile p).thim (pkTag q % 8)).units ∧
        ((t.tile p).thim (pkTag q % 8)).addr = pkAddr q ∧ ((t.tile p).thim (pkTag q % 8)).granted = true ∧ (∀ k, k ≠ pkTag q % 8 → (t.tile p).thim k = (s.tile p).thim k) ∧
        (t.tile p).mem = (s.tile p).mem ∧ OtherTiles [p] s t ∧ Frame [] [.tiles, .fab, .step, .fresh] s t) ∧
    (((s.tile p).thim (pkTag q % 8)).mode = .requested → (s.tile p).mode = .stop →
      ∃ t, exec (.thimbleGrant q) s = .next t ∧ ((t.tile p).thim (pkTag q % 8)).mode = (if ((s.tile p).thim (pkTag q % 8)).acks = 0 then .free else .draining) ∧
        t.out.length = s.out.length + 1 ∧ OtherTiles [p] s t ∧ Frame [] [.tiles, .fab, .out, .fresh] s t) ∧
    (((s.tile p).thim (pkTag q % 8)).mode ≠ .requested → ∃ t, exec (.thimbleGrant q) s = .next t ∧ Frame [] [.fab] s t)) ∧
  (∀ (q : Pkt) (s : State) (p : Nat) (r : RingSt), pkChecks q = true → s.physOf (pkDest q) = some p → pkKind q = pkThimble → pkSub q = suRelease → pkSized q = true → s.inOrder (soundPkt q) = true →
    (s.tile p).rings.length = 8 → (s.tile p).ring (pkRing q) = r →
    ∃ t, exec (.thimbleRelease q) s = .next t ∧
      (r.kind = rkWindow → (s.tile p).reqs = [] → q.relay = none → ∀ g, r.grants = [g] → g.remote = false → g.sdev = s.devId.toNat →
        g.stile = pkSrc q → g.reg = pkTag q →
        ((t.tile p).ring (pkRing q)).credit = r.credit + g.left ∧ ((t.tile p).ring (pkRing q)).grants = []) ∧
      (r.kind = rkMessage → (s.tile p).reqs = [] → q.relay = none → ∀ x, r.recs = [x] → x.done = false → x.remote = false →
        x.sdev = s.devId.toNat → x.stile = pkSrc q → x.reg = pkTag q →
        ((t.tile p).ring (pkRing q)).wp = (r.wp + x.units) % (2 * r.units) ∧ ((t.tile p).ring (pkRing q)).recs = []) ∧
      OtherTiles [p] s t ∧ Frame [] [.tiles, .fab, .out, .step] s t) ∧
  (∀ (q : Pkt) (s : State) (p : Nat), pkChecks q = true → s.physOf (pkDest q) = some p → pkKind q = pkThimble → pkSub q = suRefuse → pkSized q = true → s.inOrder (soundPkt q) = true →
    (s.tile p).thims.length = 8 →
    (((s.tile p).thim (pkTag q % 8)).mode = .requested ∨
        (((s.tile p).thim (pkTag q % 8)).mode = .draining ∧ ((s.tile p).thim (pkTag q % 8)).form = 3) →
      (s.tile p).fault.valid = false → (s.tile p).mode ≠ .stop →
      ∃ t, exec (.thimbleRefuse q) s = .next t ∧ ((t.tile p).thim (pkTag q % 8)).mode = .free ∧ (t.tile p).mode = .stop ∧
        (t.tile p).fault.code = fcRing ∧ (t.tile p).fault.detail = thimDetail (pkTag q % 8) ∧ (t.tile p).fault.async = true ∧
        (t.tile p).fault.pc = ((s.tile p).thim (pkTag q % 8)).pc ∧ (t.tile p).fault.iw = ((s.tile p).thim (pkTag q % 8)).iw ∧
        Frame faultFields (.fab :: faultParts) s t) ∧
    (((s.tile p).thim (pkTag q % 8)).mode = .held ∨ ((s.tile p).thim (pkTag q % 8)).mode = .free ∨
        (((s.tile p).thim (pkTag q % 8)).mode = .draining ∧ ((s.tile p).thim (pkTag q % 8)).form ≠ 3) → ∃ t, exec (.thimbleRefuse q) s = .next t ∧ Frame [] [.fab] s t)) ∧
  (∀ (q : Pkt) (s : State) (p : Nat), pkChecks q = true → s.physOf (pkDest q) = some p → pkKind q = pkThimble → pkSub q = suAbandoned → pkSized q = true → s.inOrder (soundPkt q) = true →
    (s.tile p).thims.length = 8 →
    (((s.tile p).thim (pkTag q % 8)).mode = .requested ∨
        (((s.tile p).thim (pkTag q % 8)).mode = .draining ∧ ((s.tile p).thim (pkTag q % 8)).form = 3) →
      ∃ t, exec (.thimbleAbandoned q) s = .next t ∧ ((t.tile p).thim (pkTag q % 8)).mode = .free ∧ ((t.tile p).thim (pkTag q % 8)).abandoned = true ∧
        (∀ k, k ≠ pkTag q % 8 → (t.tile p).thim k = (s.tile p).thim k) ∧ OtherTiles [p] s t ∧ Frame [] [.tiles, .fab, .step] s t) ∧
    (((s.tile p).thim (pkTag q % 8)).mode = .held ∨ ((s.tile p).thim (pkTag q % 8)).mode = .free ∨
        (((s.tile p).thim (pkTag q % 8)).mode = .draining ∧ ((s.tile p).thim (pkTag q % 8)).form ≠ 3) → ∃ t, exec (.thimbleAbandoned q) s = .next t ∧ Frame [] [.fab] s t)) ∧
  (∀ (q : Pkt) (s : State) (p : Nat), pkChecks q = true → s.physOf (pkDest q) = some p → pkKind q = pkThimble → pkSub q = suRetry → pkSized q = true → s.inOrder (soundPkt q) = true →
    (s.tile p).thims.length = 8 →
    (((s.tile p).thim (pkTag q % 8)).mode = .requested →
      ∃ t, exec (.thimbleRetry q) s = .next t ∧ ((t.tile p).thim (pkTag q % 8)).retryAt = some (s.now + 16 * max 1 (s.rd Reg.BB_CTL_RETRY)) ∧
        ((t.tile p).thim (pkTag q % 8)).mode = .requested ∧ OtherTiles [p] s t ∧ Frame [] [.tiles, .fab] s t) ∧
    (((s.tile p).thim (pkTag q % 8)).mode ≠ .requested → ∃ t, exec (.thimbleRetry q) s = .next t ∧ Frame [] [.fab] s t)) ∧
  (∀ (tile : TileId) (k : Fin 8) (s : State) (p : Nat), s.physOf tile.val = some p → ((s.tile p).thim k.val).retryAt = none →
    exec (.thimbleRerequest tile k) s = .next s) ∧
  (∀ (tile : TileId) (k : Fin 8) (s : State) (p a : Nat), s.physOf tile.val = some p → (s.tile p).thims.length = 8 →
    ((s.tile p).thim k.val).retryAt = some a →
    (a ≤ s.now → ((s.tile p).thim k.val).mode = .requested → (s.tile p).mode ≠ .stop →
      ∃ t x, exec (.thimbleRerequest tile k) s = .next t ∧ t.out = s.out ++ [.packet x] ∧ x.data = [] ∧
        (t.tile p).thim k.val = { (s.tile p).thim k.val with retryAt := none } ∧ OtherTiles [p] s t ∧
        Frame [] [.tiles, .out] s t) ∧
    (s.now < a ∨ (s.tile p).mode = .stop ∨ ((s.tile p).thim k.val).mode ≠ .requested →
      exec (.thimbleRerequest tile k) s = .next s))

/-- Two ADD packets that may be merged, at a router with a free entry and merging on, become one with the sum of
their data in order and of their counts, and the entry records both; with merging off nothing changes, and a packet
whose check fails is counted and discarded there. An X die that takes a packet in its turn
sends a relayed one for this device on to its tile; for another device into the queue of the link that the route
gives, if that link is on this die and up; it refuses a request that has no route, and gives a request up whose link
is down. Nothing else changes but counts and the place freed in a receive buffer. With the phase idle, a first claim
of a row's spare makes the row's mode 1 with the bad column, which is recorded as bad; no other row's word changes.
With the phase idle and no job, a claim and any other write take effect if the map then satisfies R213, and else only
set MAP_ERR. In the window of a Hem that rolled back, a first claim is staged. Mode 3, a claim of a column that the row
does not have or with its spare column bad, and every write at another time only set MAP_ERR. (06_on_chip_fabric.md
R209, 06_on_chip_fabric.md R210, 08_bobbins_and_thimbles.md R276, 08_bobbins_and_thimbles.md R277,
08_bobbins_and_thimbles.md R278, 10_afpen_links.md R335, 06_on_chip_fabric.md R211, 06_on_chip_fabric.md R213,
06_on_chip_fabric.md R214, 06_on_chip_fabric.md R215) -/
def Obligations.RoutersForwardUnderTheRowMap : Prop :=
  (∀ (router : Fin 6336) (a b : Pkt) (s : State),
    (pkChecks a = true → pkChecks b = true → s.partOk a = true → (s.land (soundPkt a)).partOk b = true →
      s.on Reg.MN_FAB_CTL_MERGE_EN = true → mergeable a b = true → ∀ own mid, s.logicalOf router.val = some own →
      s.freeMid router.val = some mid →
      ∃ t x, exec (.addMerge router a b) s = .next t ∧ t.out = s.out ++ [.packet x] ∧
        x.hdr = { pkFields a with cnt := pkCnt a + pkCnt b, src := own, mrg := true, mid := mid : PktHdr }.word ∧
        x.data = addRows (pkEtype a) a.data b.data ∧ (∀ w, w ∈ x.bad ↔ w ∈ a.bad ∨ w ∈ b.bad) ∧ mid < 16 ∧
        t.fab.merges = s.fab.merges ++ [{ router := router.val, mid := mid, parts := [a, b] }] ∧
        Frame [] [.fab, .out] s t) ∧
    (pkChecks a = true → pkChecks b = true →
      (s.on Reg.MN_FAB_CTL_MERGE_EN = false ∨ mergeable a b = false ∨ s.partOk a = false ∨
        (s.land (soundPkt a)).partOk b = false ∨ s.logicalOf router.val = none ∨
        s.freeMid router.val = none) → exec (.addMerge router a b) s = .next s) ∧
    (pkChecks a = false → pkChecks b = true →
      ∃ t, exec (.addMerge router a b) s = .next t ∧ t.on Reg.MN_FAB_STAT_HDR_ERR = true ∧
        t.rd Reg.MN_FAB_STAT_DROPS = min (s.rd Reg.MN_FAB_STAT_DROPS + 1) 0xFFFF ∧
        ((s.logicalOf router.val).isSome = true → (s.tile router.val).fault.valid = false → (s.tile router.val).mode ≠ .stop →
          (t.tile router.val).mode = .stop ∧ (t.tile router.val).fault.code = fcPort) ∧
        Frame (Reg.MN_FAB_STAT_HDR_ERR :: Reg.MN_FAB_STAT_DROPS :: faultFields) (.fab :: faultParts) s t)) ∧
  (∀ (x : Fin 2) (q : Pkt) (w : BitVec 128) (s : State), q.relay = some w → pkChecks q = true → (s.takeAtX x.val q).isSome = true →
    ((pkAsks q = false ∨ pkKind q ≠ pkThimble ∨ s.on Reg.BB_CTL_REMOTE_EN = true) →
      ((rlTarget w).1 = s.devId.toNat → (s.physOf (rlTarget w).2).isSome = true →
        ∃ t, exec (.packetForward x q) s = .next t ∧ t.out = s.out ++ [.packet
          { q with hdr := { pkFields q with dest := (rlTarget w).2, src := xCode x.val : PktHdr }.word }] ∧
          Frame [] [.fab, .out, .links] s t) ∧
      ((rlTarget w).1 = s.devId.toNat → s.physOf (rlTarget w).2 = none → pkAsks q = true →
        ∃ t a, exec (.packetForward x q) s = .next t ∧ t.out = s.out ++ [.packet a] ∧
          a.hdr = { kind := pkThimble, dest := (if rlSdev w = s.devId.toNat then rlStile w else xCode x.val), src := xCode x.val, tag := pkTag q, ring := pkRing q, sub := suRefuse : PktHdr }.word ∧
          a.relay = some (relayBack w) ∧ Frame [] [.fab, .out, .links] s t) ∧
      (∀ n, (rlTarget w).1 ≠ s.devId.toNat → s.routeTo (rlTarget w).1 = some n → s.xOf n = x.val →
        (s.linkUp n = true ∨ s.lkState n = lkRetrain →
          ∃ t, exec (.packetForward x q) s = .next t ∧ (t.link n).pktQ = (s.link n).pktQ ++ [q] ∧
            (∀ k, (t.link k).pktQ ≠ (s.link k).pktQ → k = n) ∧ Frame [] [.fab, .links] s t) ∧
        (s.linkUp n = false → s.lkState n ≠ lkRetrain → pkAsks q = true →
          ∃ t a, exec (.packetForward x q) s = .next t ∧ t.out = s.out ++ [.packet a] ∧
            a.hdr = { kind := pkThimble, dest := (if rlSdev w = s.devId.toNat then rlStile w else xCode x.val), src := xCode x.val, tag := pkTag q, ring := pkRing q, sub := suAbandoned : PktHdr }.word ∧ a.relay = some (relayBack w) ∧
            Frame [] [.fab, .out, .links] s t)) ∧
      (∀ n, (rlTarget w).1 ≠ s.devId.toNat → s.routeTo (rlTarget w).1 = some n → s.xOf n ≠ x.val →
        ∃ t, exec (.packetForward x q) s = .next t ∧ t.out = s.out ++ [.packet
          { q with hdr := { pkFields q with dest := xCode (1 - x.val), src := xCode x.val : PktHdr }.word }] ∧
          Frame [] [.fab, .out, .links] s t) ∧
      ((rlTarget w).1 ≠ s.devId.toNat → s.routeTo (rlTarget w).1 = none → pkAsks q = true →
        ∃ t a, exec (.packetForward x q) s = .next t ∧ t.out = s.out ++ [.packet a] ∧
          a.hdr = { kind := pkThimble, dest := (if rlSdev w = s.devId.toNat then rlStile w else xCode x.val), src := xCode x.val, tag := pkTag q, ring := pkRing q, sub := suRefuse : PktHdr }.word ∧ Frame [] [.fab, .out, .links] s t)) ∧
    (pkAsks q = true → pkKind q = pkThimble → s.on Reg.BB_CTL_REMOTE_EN = false →
      ∃ t a, exec (.packetForward x q) s = .next t ∧ t.out = s.out ++ [.packet a] ∧
        a.hdr = { kind := pkThimble, dest := (if rlSdev w = s.devId.toNat then rlStile w else xCode x.val), src := xCode x.val, tag := pkTag q, ring := pkRing q, sub := suRefuse : PktHdr }.word ∧ Frame [] [.fab, .out, .links] s t)) ∧
  (∀ (x : Fin 2) (q : Pkt) (s : State),
    (pkChecks q = true → q.relay.isSome = true → s.takeAtX x.val q = none → exec (.packetForward x q) s = .next s) ∧
    (pkChecks q = false ∨ q.relay = none → ∀ n, s.heldBy x.val q = some n →
      ∃ t, exec (.packetForward x q) s = .next t ∧ t.on Reg.MN_FAB_STAT_HDR_ERR = true ∧
        t.rd Reg.MN_FAB_STAT_DROPS = min (s.rd Reg.MN_FAB_STAT_DROPS + 1) 0xFFFF ∧ (t.link n).rxPkts = (s.link n).rxPkts.erase q ∧
        OtherLinks [n] s t ∧ Frame [Reg.MN_FAB_STAT_HDR_ERR, Reg.MN_FAB_STAT_DROPS] [.links] s t)) ∧
  (∀ (v : Word32) (s : State) (d r bad : Nat), s.rd Reg.MN_FAB_ROWSEL_DIE = d → s.rd Reg.MN_FAB_ROWSEL_PROW = r →
    bitsOf v.toNat 7 2 = bad →
    (48 ≤ r → exec (.rowMapWrite v) s = .next s) ∧
    (r < 48 →
      (v.toNat % 4 = 3 ∨ (v.toNat % 4 = 1 ∧ (32 ≤ bad ∨ (s.badCols d r).contains 32 = true)) ∨
          s.fab.staged.any (fun e => e.1 == d * 48 + r) = true →
        ∃ t, exec (.rowMapWrite v) s = .next t ∧ t.on Reg.MN_FAB_STAT_MAP_ERR = true ∧ Frame [Reg.MN_FAB_STAT_MAP_ERR] [] s t) ∧
      (v.toNat % 4 = 1 → bad < 32 → (s.badCols d r).contains 32 = false →
        s.fab.staged.any (fun e => e.1 == d * 48 + r) = false → s.rowMode d r = 0 →
        (s.phase = phIdle → s.jobState ≠ jbEmpty ∨ (s.claimSpare d r bad).mapOk = true →
          ∃ t, exec (.rowMapWrite v) s = .next t ∧ t.rowMode d r = 1 ∧ t.rowBad d r = bad ∧
            (d * 1584 + r * 33 + bad) ∈ t.test.bad ∧
            (∀ d' r', r' < 48 → (d', r') ≠ (d, r) → t.rowWord d' r' = s.rowWord d' r') ∧
            Frame [Reg.BI_NVREC_FULL] [.fab, .test] s t) ∧
        (s.phase = phIdle ∧ s.jobState = jbEmpty ∧ (s.claimSpare d r bad).mapOk = false ∨
            s.phase ≠ phIdle ∧ (s.phase ≠ phHem ∨ s.on Reg.TK_STAT_LAST_COMMIT = true) →
          ∃ t, exec (.rowMapWrite v) s = .next t ∧ t.on Reg.MN_FAB_STAT_MAP_ERR = true ∧
            Frame [Reg.MN_FAB_STAT_MAP_ERR] [] s t) ∧
        (s.phase = phHem → s.on Reg.TK_STAT_LAST_COMMIT = false →
          ∃ t, exec (.rowMapWrite v) s = .next t ∧ t.fab.staged = s.fab.staged ++ [(d * 48 + r, bad)] ∧
            t.fab.rows = s.fab.rows ∧ Frame [] [.fab] s t)) ∧
      ((v.toNat % 4 = 0 ∨ v.toNat % 4 = 2 ∨
          (v.toNat % 4 = 1 ∧ s.rowMode d r ≠ 0 ∧ bad < 32 ∧ (s.badCols d r).contains 32 = false)) →
        s.fab.staged.any (fun e => e.1 == d * 48 + r) = false →
        (s.phase = phIdle → s.jobState = jbEmpty → (s.setRow d r (v.toNat % 4 + 4 * bad)).mapOk = true →
          exec (.rowMapWrite v) s = .next (s.setRow d r (v.toNat % 4 + 4 * bad))) ∧
        (s.phase ≠ phIdle ∨ s.jobState ≠ jbEmpty ∨ (s.setRow d r (v.toNat % 4 + 4 * bad)).mapOk = false →
          ∃ t, exec (.rowMapWrite v) s = .next t ∧ t.on Reg.MN_FAB_STAT_MAP_ERR = true ∧
            Frame [Reg.MN_FAB_STAT_MAP_ERR] [] s t))))

/-- Where they issue with legal fields and no SPOOL_DIR, MISALIGN or RANGE: SPUSH with room for its words puts them
behind those of the spool, sends as many as there is credit for, and retires with SUCCESS; without room or credit it
fills the spool and stops issue. A program does not see what came into a spool, or left a full one, in the same cycle.
SPOP with enough words writes the oldest to the scratchpad, credits their entries to the engine and retires with
SUCCESS; else it stops issue. SWAIT retires with SUCCESS where its condition holds and else stops issue. On a spool
that has stopped each retires with ABANDONED and moves nothing. General and vector registers, the other spools, other
tiles and GDDR7 are unchanged. (03_tile.md R97, 03_tile.md R88, 09_spools_and_memory.md R283, 09_spools_and_memory.md
R284, 09_spools_and_memory.md R285, 09_spools_and_memory.md R286, 09_spools_and_memory.md R287) -/
def Obligations.SpoolInstructionsMoveWords : Prop :=
  (∀ (tile : TileId) (iw : Word64) (s : State) (p : Nat), Issues s tile iw p → rowOf iw 5 0 = true → opIllegal iw 0 = false → wFormOk iw = true → iwBits iw 31 17 = 0 →
    spoolFault (s.tile p) iw 2 3 = none → (s.tile p).spools.length = 4 →
    (((s.tile p).spool (iwObj iw)).stopped = false → ((s.tile p).spool (iwObj iw)).done = 0 → spoolN iw ≤ ((s.tile p).spool (iwObj iw)).room s.now →
      ∃ t, exec (.spush tile iw) s = .next t ∧ Retired s t p ∧ (iwPS iw ≠ 0 → (t.tile p).pred (iwPS iw) = true) ∧
        ((t.tile p).spool (iwObj iw)).words = (((s.tile p).spool (iwObj iw)).words ++ (List.range (spoolN iw)).map (fun i => (s.tile p).pushWord s.now iw i)).drop ((s.tile p).spool (iwObj iw)).credit ∧
        ((t.tile p).spool (iwObj iw)).credit = ((s.tile p).spool (iwObj iw)).credit - min ((s.tile p).spool (iwObj iw)).credit (((s.tile p).spool (iwObj iw)).words.length + spoolN iw) ∧ ((t.tile p).spool (iwObj iw)).done = 0 ∧
        (∀ k, k ≠ iwObj iw → (t.tile p).spool k = (s.tile p).spool k) ∧ (t.tile p).mem = (s.tile p).mem ∧ (∀ i, i ≠ iwPS iw → (t.tile p).pred i = (s.tile p).pred i) ∧ (t.tile p).g = (s.tile p).g ∧ (t.tile p).v = (s.tile p).v ∧
        OtherTiles [p] s t ∧ Frame [] [.tiles, .step, .out, .streams, .fab] s t) ∧
    (((s.tile p).spool (iwObj iw)).stopped = false → ((s.tile p).spool (iwObj iw)).done = 0 → ((s.tile p).spool (iwObj iw)).credit = 0 → ((s.tile p).spool (iwObj iw)).goneAt ≠ s.now → 32 < ((s.tile p).spool (iwObj iw)).words.length + spoolN iw →
      ((s.tile p).spool (iwObj iw)).words.length ≤ 32 → (s.tile p).blocked = none →
      ∃ t, exec (.spush tile iw) s = .next t ∧ (t.tile p).mode = .wait ∧ (t.tile p).blocked = some iw ∧ (t.tile p).pc = (s.tile p).pc ∧ ((t.tile p).spool (iwObj iw)).words.length = 32 ∧
        ((t.tile p).spool (iwObj iw)).done = 32 - ((s.tile p).spool (iwObj iw)).words.length ∧ SameRegs (s.tile p) (t.tile p) ∧ OtherTiles [p] s t ∧
        Frame [] [.tiles, .streams] s t) ∧
    (((s.tile p).spool (iwObj iw)).stopped = true →
      ∃ t, exec (.spush tile iw) s = .next t ∧ Retired s t p ∧ (iwPS iw ≠ 0 → (t.tile p).pred (iwPS iw) = false) ∧
        ((t.tile p).spool (iwObj iw)).words = ((s.tile p).spool (iwObj iw)).words ∧ (∀ k, k ≠ iwObj iw → (t.tile p).spool k = (s.tile p).spool k) ∧
        (t.tile p).mem = (s.tile p).mem ∧ (∀ i, i ≠ iwPS iw → (t.tile p).pred i = (s.tile p).pred i) ∧ (t.tile p).g = (s.tile p).g ∧ (t.tile p).v = (s.tile p).v ∧ OtherTiles [p] s t ∧ Frame [] [.tiles, .step] s t)) ∧
  (∀ (tile : TileId) (iw : Word64) (s : State) (p : Nat), Issues s tile iw p → rowOf iw 5 1 = true → opIllegal iw 1 = false → wFormOk iw = true → iwBits iw 31 16 = 0 →
    spoolFault (s.tile p) iw 0 1 = none → (s.tile p).spools.length = 4 →
    (((s.tile p).spool (iwObj iw)).stopped = false → spoolN iw ≤ (((s.tile p).spool (iwObj iw)).seen s.now).length →
      ∃ t, exec (.spop tile iw) s = .next t ∧ Retired s t p ∧ (iwPS iw ≠ 0 → (t.tile p).pred (iwPS iw) = true) ∧
        ((t.tile p).spool (iwObj iw)).words = ((s.tile p).spool (iwObj iw)).words.drop (spoolN iw) ∧
        (t.tile p).mem = Memory.writeN (s.tile p).mem ((s.tile p).reg (iwA iw)).toNat (spoolBytes (((s.tile p).spool (iwObj iw)).words.take (spoolN iw))) ∧
        t.out = s.out ++ [.packet {
          hdr := { kind := pkSpool, dest := mCode (s.stream ((s.logicalOf p).getD 0) (iwObj iw)).m, src := (s.logicalOf p).getD 0, tag := iwObj iw, sub := spCredit, cnt := spoolN iw : PktHdr }.word,
          relay := none, data := [], bad := [] }] ∧
        (∀ k, k ≠ iwObj iw → (t.tile p).spool k = (s.tile p).spool k) ∧ (∀ i, i ≠ iwPS iw → (t.tile p).pred i = (s.tile p).pred i) ∧ (t.tile p).g = (s.tile p).g ∧ (t.tile p).v = (s.tile p).v ∧
        OtherTiles [p] s t ∧ Frame [] [.tiles, .step, .out] s t) ∧
    (((s.tile p).spool (iwObj iw)).stopped = false → (((s.tile p).spool (iwObj iw)).seen s.now).length < spoolN iw → (s.tile p).blocked = none →
      ∃ t, exec (.spop tile iw) s = .next t ∧ (t.tile p).mode = .wait ∧ (t.tile p).blocked = some iw ∧ (t.tile p).pc = (s.tile p).pc ∧ SameRegs (s.tile p) (t.tile p) ∧ SameStore (s.tile p) (t.tile p) ∧
        OtherTiles [p] s t ∧ Frame [] [.tiles] s t) ∧
    (((s.tile p).spool (iwObj iw)).stopped = true →
      ∃ t, exec (.spop tile iw) s = .next t ∧ Retired s t p ∧ (iwPS iw ≠ 0 → (t.tile p).pred (iwPS iw) = false) ∧ (∀ i, i ≠ iwPS iw → (t.tile p).pred i = (s.tile p).pred i) ∧ (t.tile p).g = (s.tile p).g ∧ (t.tile p).v = (s.tile p).v ∧
        SameStore (s.tile p) (t.tile p) ∧ OtherTiles [p] s t ∧ Frame [] [.tiles, .step] s t)) ∧
  (∀ (tile : TileId) (iw : Word64) (s : State) (p : Nat), Issues s tile iw p → rowOf iw 5 2 = true → opIllegal iw 2 = false → wFormOk iw = true → iwBits iw 31 16 = 0 →
    spoolDirFault iw 0 3 = none →
    ((((s.tile p).spool (iwObj iw)).stopped = true ∨ (s.tile p).spoolReady s.now iw = true) →
      ∃ t, exec (.swait tile iw) s = .next t ∧ Retired s t p ∧ (iwPS iw ≠ 0 → (t.tile p).pred (iwPS iw) = !((s.tile p).spool (iwObj iw)).stopped) ∧
        (∀ i, i ≠ iwPS iw → (t.tile p).pred i = (s.tile p).pred i) ∧ (t.tile p).g = (s.tile p).g ∧ (t.tile p).v = (s.tile p).v ∧ SameStore (s.tile p) (t.tile p) ∧ OtherTiles [p] s t ∧ Frame [] [.tiles, .step] s t) ∧
    (((s.tile p).spool (iwObj iw)).stopped = false → (s.tile p).spoolReady s.now iw = false → (s.tile p).blocked = none →
      ∃ t, exec (.swait tile iw) s = .next t ∧ (t.tile p).mode = .wait ∧ (t.tile p).blocked = some iw ∧ (t.tile p).pc = (s.tile p).pc ∧ SameRegs (s.tile p) (t.tile p) ∧ SameStore (s.tile p) (t.tile p) ∧
        OtherTiles [p] s t ∧ Frame [] [.tiles] s t))

/-- At a tile that is not blocked, data words come behind those of the read spool, credit lets the write spool send
as many words as it covers, and a stop marks the spool stopped; nothing else at the tile changes. A tile blocked in
SPOP waits on in the cycle in which its words arrive, and is looked at again in the next one: where its spool then holds
enough words it goes on with them in its scratchpad. A tile blocked in a
spool instruction on a spool that stops goes on with ABANDONED. A packet that another of its way is ahead of does not
arrive yet, and one whose check fails is counted and discarded. At an M die with a stream, data words come into the
landing buffer, and credit lets the engine send as many words. Other tiles, GDDR7 and every register field are
unchanged. (09_spools_and_memory.md R285, 09_spools_and_memory.md R286, 09_spools_and_memory.md R287,
09_spools_and_memory.md R292, 03_tile.md R92, 03_tile.md R97) -/
def Obligations.SpoolPacketsArrive : Prop :=
  (∀ (q : Pkt) (s : State) (p : Nat), pkChecks q = true → pkKind q = pkSpool → s.inOrder (soundPkt q) = true → pkDest q ≠ mCode 0 → pkDest q ≠ mCode 1 → s.physOf (pkDest q) = some p → (s.tile p).spools.length = 4 → (s.tile p).blocked = none →
    (pkSub q ≤ 1 → spoolSized q = true →
      ∃ t, exec (.spoolData q) s = .next t ∧ ((t.tile p).spool (pkTag q % 4)).words = ((s.tile p).spool (pkTag q % 4)).words ++ pktWords q ∧
        ((t.tile p).spool (pkTag q % 4)).credit = ((s.tile p).spool (pkTag q % 4)).credit ∧ ((t.tile p).spool (pkTag q % 4)).stopped = ((s.tile p).spool (pkTag q % 4)).stopped ∧
        (∀ k, k ≠ (pkTag q % 4) → (t.tile p).spool k = (s.tile p).spool k) ∧ (t.tile p).mem = (s.tile p).mem ∧
        (t.tile p).pc = (s.tile p).pc ∧ OtherTiles [p] s t ∧ Frame [] [.tiles, .fab, .streams] s t) ∧
    (pkSub q = spCredit → q.data = [] →
      ∃ t, exec (.spoolCredit q) s = .next t ∧ ((t.tile p).spool (pkTag q % 4)).words = ((s.tile p).spool (pkTag q % 4)).words.drop (((s.tile p).spool (pkTag q % 4)).credit + pkCnt q) ∧
        ((t.tile p).spool (pkTag q % 4)).credit = ((s.tile p).spool (pkTag q % 4)).credit + pkCnt q - ((s.tile p).spool (pkTag q % 4)).words.length ∧
        (∀ k, k ≠ (pkTag q % 4) → (t.tile p).spool k = (s.tile p).spool k) ∧ (t.tile p).mem = (s.tile p).mem ∧
        (t.tile p).pc = (s.tile p).pc ∧ OtherTiles [p] s t ∧ Frame [] [.tiles, .fab, .out] s t) ∧
    (pkSub q = spStop → q.data = [] →
      ∃ t, exec (.spoolStopped q) s = .next t ∧ ((t.tile p).spool (pkTag q % 4)).stopped = true ∧ ((t.tile p).spool (pkTag q % 4)).words = ((s.tile p).spool (pkTag q % 4)).words ∧
        (∀ k, k ≠ (pkTag q % 4) → (t.tile p).spool k = (s.tile p).spool k) ∧ (t.tile p).mem = (s.tile p).mem ∧
        (t.tile p).pc = (s.tile p).pc ∧ OtherTiles [p] s t ∧ Frame [] [.tiles, .fab] s t)) ∧
  (∀ (q : Pkt) (s : State) (p : Nat) (iw : Word64), pkChecks q = true → pkKind q = pkSpool → s.inOrder (soundPkt q) = true → pkDest q ≠ mCode 0 → pkDest q ≠ mCode 1 → s.physOf (pkDest q) = some p → (s.tile p).spools.length = 4 → (s.tile p).blocked = some iw → (s.tile p).mode = .wait →
    iwClass iw = 5 → iwObj iw = (pkTag q % 4) →
    (pkSub q ≤ 1 → spoolSized q = true →
      ∃ t, exec (.spoolData q) s = .next t ∧ (t.tile p).mode = .wait ∧ (t.tile p).blocked = some iw ∧
        ((t.tile p).spool (pkTag q % 4)).words = ((s.tile p).spool (pkTag q % 4)).words ++ pktWords q ∧
        (p, pkTag q % 4) ∈ t.fab.wakes ∧ (t.tile p).mem = (s.tile p).mem ∧ OtherTiles [p] s t ∧
        Frame [] [.tiles, .fab, .streams] s t) ∧
    (pkSub q = spStop → q.data = [] →
      ∃ t, exec (.spoolStopped q) s = .next t ∧ (t.tile p).mode = .run ∧ (t.tile p).blocked = none ∧ ((t.tile p).spool (pkTag q % 4)).stopped = true ∧
        (iwPS iw ≠ 0 → (t.tile p).pred (iwPS iw) = false) ∧ (t.tile p).mem = (s.tile p).mem ∧ OtherTiles [p] s t ∧
        Frame [] [.tiles, .fab, .step] s t)) ∧
  (∀ (s : State) (p k : Nat) (iw : Word64), s.fab.wakes = [(p, k)] → (s.tile p).spools.length = 4 → k < 4 →
    (s.tile p).blocked = some iw → (s.tile p).mode = .wait → (s.tile p).Quiet s.now → iwClass iw = 5 → iwOp iw = 1 → iwObj iw = k →
    ((s.tile p).spool k).stopped = false →
    (spoolN iw ≤ (((s.tile p).spool k).seen s.now).length →
      (s.wakeSpools.tile p).mode = .run ∧ (s.wakeSpools.tile p).blocked = none ∧
      (s.wakeSpools.tile p).pc = ((s.tile p).pc + 8) % 2 ^ 18 ∧
      ((s.wakeSpools.tile p).spool k).words = ((s.tile p).spool k).words.drop (spoolN iw) ∧
      (s.wakeSpools.tile p).mem = Memory.writeN (s.tile p).mem ((s.tile p).reg (iwA iw)).toNat
        (spoolBytes (((s.tile p).spool k).words.take (spoolN iw))) ∧
      (iwPS iw ≠ 0 → (s.wakeSpools.tile p).pred (iwPS iw) = true) ∧ OtherTiles [p] s s.wakeSpools ∧
      Frame [] [.tiles, .fab, .out, .step] s s.wakeSpools) ∧
    ((((s.tile p).spool k).seen s.now).length < spoolN iw → s.wakeSpools.tiles = s.tiles ∧ Frame [] [.fab] s s.wakeSpools)) ∧
  (∀ (c : Instr) (q : Pkt) (s : State), c ∈ [Instr.spoolData q, .spoolCredit q, .spoolStopped q] → pkChecks q = false →
    ∃ t, exec c s = .next t ∧ t.on Reg.MN_FAB_STAT_HDR_ERR = true ∧
      t.rd Reg.MN_FAB_STAT_DROPS = min (s.rd Reg.MN_FAB_STAT_DROPS + 1) 0xFFFF ∧
      Frame (Reg.MN_FAB_STAT_HDR_ERR :: Reg.MN_FAB_STAT_DROPS :: faultFields) (.fab :: faultParts) s t) ∧
  (∀ (q : Pkt) (s : State), pkChecks q = true → pkKind q = pkSpool → s.inOrder (soundPkt q) = false →
    (pkDest q = mCode 0 ∨ pkDest q = mCode 1 ∨ (s.physOf (pkDest q)).isSome = true) →
    (pkSub q ≤ 1 → spoolSized q = true → exec (.spoolData q) s = .next s) ∧
    (pkSub q = spCredit → q.data = [] → exec (.spoolCredit q) s = .next s) ∧
    (pkSub q = spStop → q.data = [] → exec (.spoolStopped q) s = .next s)) ∧
  (∀ (q : Pkt) (s : State), pkChecks q = true → pkKind q = pkSpool → s.inOrder (soundPkt q) = true → (pkDest q = mCode 0 ∨ pkDest q = mCode 1) →
    (pkSub q ≤ 1 → spoolSized q = true → (s.stream (pkSrc q) (pkTag q % 4)).state ≠ 0 →
      ∃ t, exec (.spoolData q) s = .next t ∧ (t.stream (pkSrc q) (pkTag q % 4)) = { (s.stream (pkSrc q) (pkTag q % 4)) with landing := (s.stream (pkSrc q) (pkTag q % 4)).landing ++ pktWords q, last := s.now } ∧
        Frame [] [.fab, .streams] s t) ∧
    (pkSub q = spCredit → q.data = [] → (s.stream (pkSrc q) (pkTag q % 4)).state ≠ 0 →
      ∃ t, exec (.spoolCredit q) s = .next t ∧ (t.stream (pkSrc q) (pkTag q % 4)).buf = (s.stream (pkSrc q) (pkTag q % 4)).buf.drop ((s.stream (pkSrc q) (pkTag q % 4)).credit + pkCnt q) ∧
        (t.stream (pkSrc q) (pkTag q % 4)).credit = (s.stream (pkSrc q) (pkTag q % 4)).credit + pkCnt q - (s.stream (pkSrc q) (pkTag q % 4)).buf.length ∧
        (t.stream (pkSrc q) (pkTag q % 4)).flight = (s.stream (pkSrc q) (pkTag q % 4)).flight + min ((s.stream (pkSrc q) (pkTag q % 4)).credit + pkCnt q) (s.stream (pkSrc q) (pkTag q % 4)).buf.length ∧
        Frame [] [.fab, .streams, .out] s t) ∧
    ((s.stream (pkSrc q) (pkTag q % 4)).state = 0 →
      (pkSub q ≤ 1 → spoolSized q = true → ∃ t, exec (.spoolData q) s = .next t ∧ Frame [] [.fab] s t) ∧
      (pkSub q = spCredit → q.data = [] → ∃ t, exec (.spoolCredit q) s = .next t ∧ Frame [] [.fab] s t)) ∧
    (pkSub q = spStop → q.data = [] →
      ∃ t, exec (.spoolStopped q) s = .next t ∧ Frame [] [.fab] s t))

/-- A stream between descriptors fetches the next one from GDDR7. One that fails its check, or that belongs to spools
of the other direction, stops the stream, records the first failure with its code, and opens a fault of layer 5. A
good RD or RDP delivers the words of its rows in order, with the end mark on the last, RDP behind its lead and
boundary words; what has credit is sent. An RD from a peer or the host sends its requests and delivers what came back,
or stops with code 5. A good WR of one row whose words have all landed writes them to GDDR7 and nothing else there; a
WRP writes a word at its token's address. A MARK is noted and passed, an END ends the stream, completion moves to the
next descriptor and raises LEN of a WRP's slot. A command of another row changes nothing. Stale tails are flushed and
counted after the timeout, and an idle period of a read spool is counted once, no earlier than the timeout. Where a
descriptor is fetched, nothing goes wrong in the access. (09_spools_and_memory.md R287, 09_spools_and_memory.md R289,
09_spools_and_memory.md R290, 09_spools_and_memory.md R291, 09_spools_and_memory.md R292, 09_spools_and_memory.md
R293, 09_spools_and_memory.md R305, 09_spools_and_memory.md R310, 09_spools_and_memory.md R311,
09_spools_and_memory.md R312) -/
def Obligations.DescriptorStreamsRun : Prop :=
  (∀ (c : Instr) (op : Nat) (tile : TileId) (k : Fin 4) (env : MemEnv) (s : State), (c, op) ∈ [(Instr.rd tile k env, opRd), (.rdp tile k env, opRdp),
      (.wr tile k env, opWr), (.wrp tile k env, opWrp), (.spoolMark tile k env, opMark), (.spoolEnd tile k env, opEnd)] →
    ((s.stream tile.val k.val).state ≠ 1 → exec c s = .next s) ∧
    ((s.stream tile.val k.val).desc ≠ [] → dOp (s.stream tile.val k.val).desc ≠ op → exec c s = .next s) ∧
    (∀ d, Descriptor s env tile.val k.val d → dOp d ≠ op → dOp d ∈ [opRd, opRdp, opWr, opWrp, opMark, opEnd] → exec c s = .next s) ∧
    (∀ d, Descriptor s env tile.val k.val d → dOp d ∉ [opRd, opRdp, opWr, opWrp, opMark, opEnd] →
      ∃ t, exec c s = .next t ∧ StreamStopped s t tile.val k.val 1) ∧
    (∀ d, Descriptor s env tile.val k.val d → dOp d = op →
      (s.descCode (s.stream tile.val k.val).m d ≠ 0 → (s.descCode (s.stream tile.val k.val).m d = 2 → (k.val < 2 ↔ (op = opRd ∨ op = opRdp))) →
        ∃ t, exec c s = .next t ∧ StreamStopped s t tile.val k.val (s.descCode (s.stream tile.val k.val).m d)) ∧
      (s.descCode (s.stream tile.val k.val).m d = 0 ∨ s.descCode (s.stream tile.val k.val).m d = 2 → (k.val < 2 ∧ (op = opWr ∨ op = opWrp)) ∨ (2 ≤ k.val ∧ (op = opRd ∨ op = opRdp)) →
        ∃ t, exec c s = .next t ∧ StreamStopped s t tile.val k.val 1))) ∧
  (∀ (tile : TileId) (k : Fin 4) (env : MemEnv) (s : State) (d : List Word64), Descriptor s env tile.val k.val d →
    s.descCode (s.stream tile.val k.val).m d = 0 →
    (dOp d = opRd → k.val < 2 → dTgt d = 0 →
      ∃ t ws, exec (.rd tile k env) s = .next t ∧
        ws = markLast (if dCmp d = true then wordsOf (expandCmp d (s.view (dAddr d) (descSpan d))) []
          else (rowAddrs d).flatMap (fun a => wordsOf (s.view a (dWords d * 64)) [])) ∧
        (t.stream tile.val k.val).desc = d ∧ (t.stream tile.val k.val).buf = ws.drop (s.stream tile.val k.val).credit ∧ (t.stream tile.val k.val).credit = (s.stream tile.val k.val).credit - min (s.stream tile.val k.val).credit ws.length ∧
        (t.stream tile.val k.val).flight = (s.stream tile.val k.val).flight + min (s.stream tile.val k.val).credit ws.length ∧ OtherStreams tile.val k.val s t ∧ Frame [] [.streams, .out] s t) ∧
    (dOp d = opRd → k.val < 2 → dTgt d ≠ 0 →
      (s.extRefused d env = false →
        ∃ t, exec (.rd tile k env) s = .next t ∧ (t.stream tile.val k.val).desc = d ∧ (t.stream tile.val k.val).buf = (markLast (extWords d env)).drop (s.stream tile.val k.val).credit ∧
          OtherStreams tile.val k.val s t ∧ Frame [] [.streams, .out] s t) ∧
      (s.extRefused d env = true → ∃ t, exec (.rd tile k env) s = .next t ∧ StreamStopped s t tile.val k.val 5)) ∧
    (dOp d = opRdp → k.val < 2 →
      ∃ t ws, exec (.rdp tile k env) s = .next t ∧
        ws = markLast ((if dLead d then [s.leadWord d (s.slot (dSlot d))] else []) ++
          boundaryWords (s.boundaries d (s.slot (dSlot d))) ++
          (List.range (pagedCount d (s.slot (dSlot d)))).flatMap (fun i =>
            wordsOf (s.view (s.tokenAddr (s.stream tile.val k.val).m (s.slot (dSlot d)) (dFirst d + i) + dRoff d * 64) (dWords d * 64)) [])) ∧
        (t.stream tile.val k.val).buf = ws.drop (s.stream tile.val k.val).credit ∧ (t.stream tile.val k.val).flight = (s.stream tile.val k.val).flight + min (s.stream tile.val k.val).credit ws.length ∧
        OtherStreams tile.val k.val s t ∧ Frame [] [.streams, .out] s t) ∧
    (dOp d = opWr → 2 ≤ k.val → dTgt d = 0 → dCmp d = false → dRows d = 1 → (s.stream tile.val k.val).tails = [] →
      (s.stream tile.val k.val).landing.length = dWords d → (∀ w ∈ (s.stream tile.val k.val).landing, w.data.length = 64 ∧ w.bad = []) →
      (∀ i w, (s.stream tile.val k.val).landing[i]? = some w → w.last = (i + 1 == dWords d)) → (∀ h ∈ s.harvest, h.banked = []) →
      ∃ t, exec (.wr tile k env) s = .next t ∧ (t.stream tile.val k.val).landing = [] ∧ (t.stream tile.val k.val).tails = [] ∧ (t.stream tile.val k.val).pos = dWords d ∧
        (∀ a, Memory.read t.mem a = if dAddr d ≤ a ∧ a < dAddr d + 64 * dWords d
          then nth (spoolBytes (s.stream tile.val k.val).landing) (a - dAddr d) 0 else Memory.read s.mem a) ∧
        OtherStreams tile.val k.val s t ∧ Frame [] [.streams, .out, .mem, .ring, .harvest] s t) ∧
    (dOp d = opWrp → 2 ≤ k.val → dCount d = 1 → dWords d = 1 → (s.stream tile.val k.val).tails = [] →
      (∀ h ∈ s.harvest, h.banked = []) → ∀ w, (s.stream tile.val k.val).landing = [w] → w.data.length = 64 → w.bad = [] → w.last = true →
      ∃ t, exec (.wrp tile k env) s = .next t ∧ (t.stream tile.val k.val).landing = [] ∧ (t.stream tile.val k.val).tails = [] ∧ (t.stream tile.val k.val).pos = 1 ∧
        (∀ a, Memory.read t.mem a = if s.wordAddr (s.stream tile.val k.val).m d 0 ≤ a ∧ a < s.wordAddr (s.stream tile.val k.val).m d 0 + 64
          then nth w.data (a - s.wordAddr (s.stream tile.val k.val).m d 0) 0 else Memory.read s.mem a) ∧
        OtherStreams tile.val k.val s t ∧ Frame [] [.streams, .out, .mem, .ring] s t) ∧
    (dOp d = opMark →
      ∃ t, exec (.spoolMark tile k env) s = .next t ∧ (t.stream tile.val k.val).marks = (s.stream tile.val k.val).marks ++ [dAddr d % 2 ^ 16] ∧
        (t.stream tile.val k.val).idx = (s.stream tile.val k.val).idx + 1 ∧ (t.stream tile.val k.val).state = 1 ∧ (t.stream tile.val k.val).desc = [] ∧ OtherStreams tile.val k.val s t ∧ Frame [] [.streams] s t) ∧
    (dOp d = opEnd →
      ∃ t, exec (.spoolEnd tile k env) s = .next t ∧ (t.stream tile.val k.val).state = 4 ∧ (t.stream tile.val k.val).desc = [] ∧
        (t.stream tile.val k.val).idx = (s.stream tile.val k.val).idx ∧ OtherStreams tile.val k.val s t ∧ Frame [] [.streams] s t)) ∧
  (∀ (tile : TileId) (k : Fin 4) (s : State),
    ((s.stream tile.val k.val).state = 1 → s.descDone (s.stream tile.val k.val) = true →
      ∃ t, exec (.descriptorComplete tile k) s = .next t ∧ (t.stream tile.val k.val).idx = (s.stream tile.val k.val).idx + 1 ∧ (t.stream tile.val k.val).desc = [] ∧
        (t.stream tile.val k.val).pos = 0 ∧ (dOp (s.stream tile.val k.val).desc = opWrp → (t.slot (dSlot (s.stream tile.val k.val).desc)).len =
          max (s.slot (dSlot (s.stream tile.val k.val).desc)).len (dFirst (s.stream tile.val k.val).desc + dCount (s.stream tile.val k.val).desc) % 2 ^ 24) ∧
        (∀ i, i ≠ dSlot (s.stream tile.val k.val).desc ∨ dOp (s.stream tile.val k.val).desc ≠ opWrp → t.slot i = s.slot i) ∧
        OtherStreams tile.val k.val s t ∧ Frame [] [.streams, .seqs] s t) ∧
    ((s.stream tile.val k.val).state ≠ 1 ∨ s.descDone (s.stream tile.val k.val) = false → exec (.descriptorComplete tile k) s = .next s)) ∧
  (∀ (tile : TileId) (k : Fin 4) (env : MemEnv) (s : State),
    (2 ≤ k.val → (s.stream tile.val k.val).state = 1 → (s.stream tile.val k.val).tails ≠ [] → s.mdies.length = 2 → (s.stream tile.val k.val).m < 2 → (s.stream tile.val k.val).last + s.staleNs (s.stream tile.val k.val).m < s.now →
      (dTgt (s.stream tile.val k.val).desc = 0 ∨ s.extRefused (s.stream tile.val k.val).desc env = false → CleanMem s env → (∀ x ∈ (s.stream tile.val k.val).tails, x.bad = []) →
        ∃ t, exec (.staleTailFlush tile k env) s = .next t ∧ (t.stream tile.val k.val).tails = [] ∧
          (nth t.mdies (s.stream tile.val k.val).m {}).staleWr = min 0xFFFF ((nth s.mdies (s.stream tile.val k.val).m {}).staleWr + 1) ∧
          OtherStreams tile.val k.val s t ∧ Frame [] [.streams, .out, .mem, .ring, .mdies, .harvest] s t) ∧
      (dTgt (s.stream tile.val k.val).desc ≠ 0 → s.extRefused (s.stream tile.val k.val).desc env = true →
        ∃ t, exec (.staleTailFlush tile k env) s = .next t ∧ StreamStopped s t tile.val k.val 5)) ∧
    (k.val < 2 ∨ (s.stream tile.val k.val).state ≠ 1 ∨ (s.stream tile.val k.val).tails = [] ∨ s.now ≤ (s.stream tile.val k.val).last + s.staleNs (s.stream tile.val k.val).m → exec (.staleTailFlush tile k env) s = .next s)) ∧
  (∀ (tile : TileId) (k : Fin 4) (s : State) (p : Nat), s.physOf tile.val = some p →
    (k.val < 2 → ((s.tile p).spool k.val).words ≠ [] → (s.tile p).spools.length = 4 → s.mdies.length = 2 → (s.stream tile.val k.val).m < 2 →
      ((s.tile p).spool k.val).counted = false → ((s.tile p).spool k.val).last + s.staleNs (s.stream tile.val k.val).m ≤ s.now →
      ∃ t, exec (.staleReadPeriod tile k) s = .next t ∧
        (t.tile p).spool k.val = { (s.tile p).spool k.val with counted := true } ∧
        (nth t.mdies (s.stream tile.val k.val).m {}).staleRd = min 0xFFFF ((nth s.mdies (s.stream tile.val k.val).m {}).staleRd + 1) ∧
        OtherTiles [p] s t ∧ Frame [] [.tiles, .mdies] s t) ∧
    (2 ≤ k.val ∨ ((s.tile p).spool k.val).words = [] ∨ ((s.tile p).spool k.val).counted = true ∨
        s.now < ((s.tile p).spool k.val).last + s.staleNs (s.stream tile.val k.val).m →
      exec (.staleReadPeriod tile k) s = .next s))

/-- A BAR2 write below the firmware region writes its bytes in order at its device address through the bank map, and
no other byte; one that reaches the region is only counted. A BAR2 read answers with the bytes there, 0 beyond the
addressable memory, and leaves GDDR7 alone. With IDE demanded and no stream, both are dropped, and counted as the PCIe
crossings allow. An access that does not lie in BAR2 is not the device's. A bolt peer's access is checked against the
half and the alignment: a bad one is recorded and refused; a good one has the same effect and an answer. A patrol read
counts and records a persistent error but opens no fault, and counts a poisoned block and an error that a re-read
cured. The zeroing engine, when free and in its half, makes every byte of its range 0 and no other, and is busy until
it is done. (09_spools_and_memory.md R299, 09_spools_and_memory.md R300, 09_spools_and_memory.md R302,
09_spools_and_memory.md R303, 09_spools_and_memory.md R304, 09_spools_and_memory.md R305, 13_firmware_and_host.md
R438, 17_register_map.md R507; an access outside BAR2 is the model's choice, log entry 39, and so is what a refused
peer access records beside the code, log entry 75, and when two drops count as one, log entry 85) -/
def Obligations.DeviceMemoryAccessesAreChecked : Prop :=
  (∀ (off : Nat) (size : Fin 8) (data : List Byte) (env : MemEnv) (s : State), inBar2 off data.length size = true → s.ideDrops .host = false →
    (s.bar2Addr off size + data.length ≤ fwRegion →
      ∃ t, exec (.bar2Write off data size env) s = .next t ∧
        t.mem = data.zipIdx.foldl (fun m e => Memory.write m (s.storage (s.bar2Addr off size + e.2)) e.1) s.mem ∧
        (∀ x, (∀ i < data.length, s.storage (s.bar2Addr off size + i) ≠ x) → Memory.read t.mem x = Memory.read s.mem x) ∧
        Frame memFields [.mem, .ring, .poison] s t ∧ (CleanMem s env → Frame [] [.mem, .ring] s t)) ∧
    (s.bar2Addr off size < memLimit → fwRegion < s.bar2Addr off size + data.length → data ≠ [] →
      ∃ t, exec (.bar2Write off data size env) s = .next t ∧
        t.rd Reg.FW_CNT_RANGE_HOST = min (s.rd Reg.FW_CNT_RANGE_HOST + 1) (2 ^ Reg.FW_CNT_RANGE_HOST.width - 1) ∧
        Frame [Reg.FW_CNT_RANGE_HOST] [] s t) ∧
    (memLimit ≤ s.bar2Addr off size → exec (.bar2Write off data size env) s = .next s)) ∧
  (∀ (off len : Nat) (size : Fin 8) (env : MemEnv) (s : State), inBar2 off len size = true → s.ideDrops .host = false →
    ∃ t bad, exec (.bar2Read off len size env) s = .next t ∧ t.out = s.out ++ [.answer .host
      (s.bytesRead env (s.bar2Addr off size) (min len (memLimit - s.bar2Addr off size)) ++
        List.replicate (len - min len (memLimit - s.bar2Addr off size)) 0) bad] ∧
      (env.errs = [] → s.poison = [] → bad = false) ∧ Frame memFields [.out, .mdies, .fresh] s t ∧
      (CleanMem s env → s.bytesRead env (s.bar2Addr off size) (min len (memLimit - s.bar2Addr off size)) =
        s.view (s.bar2Addr off size) (min len (memLimit - s.bar2Addr off size)) ∧ Frame [] [.out] s t)) ∧
  (∀ (off len : Nat) (size : Fin 8) (data : List Byte) (env : MemEnv) (s : State), s.ideDrops .host = true →
    (inBar2 off len size = true →
      ∃ t, exec (.bar2Read off len size env) s = .next t ∧ t.out = s.out ++ [.answer .host [] false] ∧ DropCounted s t) ∧
    (inBar2 off data.length size = true →
      ∃ t, exec (.bar2Write off data size env) s = .next t ∧ t.out = s.out ∧ DropCounted s t)) ∧
  (∀ (off len : Nat) (size : Fin 8) (data : List Byte) (env : MemEnv) (s : State),
    (inBar2 off len size = false → exec (.bar2Read off len size env) s = .next s) ∧
    (inBar2 off data.length size = false → exec (.bar2Write off data size env) s = .next s)) ∧
  (∀ (m : Fin 2) (addr len : Nat) (data : List Byte) (env : MemEnv) (s : State),
    (addr % 64 = 0 → inHalf m.val addr data.length = true →
      ∃ t, exec (.offloadPeerAccess m addr len (some data) env) s = .next t ∧
        t.mem = data.zipIdx.foldl (fun m e => Memory.write m (s.storage (addr + e.2)) e.1) s.mem ∧
        (∀ x, (∀ i < data.length, s.storage (addr + i) ≠ x) → Memory.read t.mem x = Memory.read s.mem x) ∧
        t.out.getLast? = some (.peerAnswer true [] []) ∧ Frame (memFields ++ openFields) [.mem, .ring, .poison, .out, .rcv, .host] s t ∧
        (CleanMem s env → Frame [] [.mem, .ring, .out] s t)) ∧
    (addr % 64 = 0 → inHalf m.val addr len = true →
      ∃ t bad, exec (.offloadPeerAccess m addr len none env) s = .next t ∧
        t.out.getLast? = some (.peerAnswer true (s.bytesRead env addr len) bad) ∧
        Frame (memFields ++ openFields) [.out, .mdies, .fresh, .rcv, .host] s t ∧
        (CleanMem s env → s.bytesRead env addr len = s.view addr len ∧ bad = [] ∧ Frame [] [.out] s t)) ∧
    (∀ x, (x = none ∧ (addr % 64 ≠ 0 ∨ inHalf m.val addr len = false) ∨
        x = some data ∧ (addr % 64 ≠ 0 ∨ inHalf m.val addr data.length = false)) →
      ∃ t, exec (.offloadPeerAccess m addr len x env) s = .next t ∧ t.out = s.out ++ [.peerAnswer false [] []] ∧
        t.on (Reg.SP_ERR_VALID m.val) = true ∧
        (s.on (Reg.SP_ERR_VALID m.val) = false → t.rd (Reg.SP_ERR_CODE m.val) = 2) ∧
        Frame [Reg.SP_ERR_CODE m.val, Reg.SP_ERR_TILE m.val, Reg.SP_ERR_SPOOL m.val, Reg.SP_ERR_IDX_INDEX m.val,
          Reg.SP_ERR_VALID m.val] [.out] s t)) ∧
  (∀ (m : Fin 2) (b : Nat) (env : MemEnv) (s : State) (r : BlockRead),
    s.on (Reg.MM_CTL_PATROL_EN m.val) = true → inHalf m.val (b * 256) 256 = true → s.readBlock env m.val b = r →
    (r.found = none → s.on (Reg.MM_ERR_HI_VALID m.val) = false →
      ∃ t, exec (.memoryPatrol m b env) s = .next t ∧ t.on (Reg.MM_ERR_HI_VALID m.val) = true ∧ t.on (Reg.MM_ERR_HI_PATROL m.val) = true ∧
        t.rd (Reg.MM_ERR_LO_ADDR m.val) = b * 256 % 2 ^ 32 ∧
        t.rd (Reg.MM_CNT_CRC_PERSIST m.val) = min (s.rd (Reg.MM_CNT_CRC_PERSIST m.val) + 1) 1023 ∧
        Frame [Reg.MM_CNT_LINK_COUNT m.val, Reg.MM_CNT_CRC_PERSIST m.val, Reg.MM_ERR_LO_ADDR m.val,
          Reg.MM_ERR_HI_ADDR m.val, Reg.MM_ERR_HI_PATROL m.val, Reg.MM_ERR_HI_WRITE m.val, Reg.MM_ERR_HI_VALID m.val] [] s t) ∧
    (∀ bs, r.found = some (bs, true) →
      ∃ t, exec (.memoryPatrol m b env) s = .next t ∧
        t.rd (Reg.MM_CNT_CRC_POISON m.val) = min (s.rd (Reg.MM_CNT_CRC_POISON m.val) + 1) (2 ^ (Reg.MM_CNT_CRC_POISON m.val).width - 1) ∧
        Frame [Reg.MM_CNT_LINK_COUNT m.val, Reg.MM_CNT_CRC_POISON m.val] [] s t) ∧
    (∀ bs, r.found = some (bs, false) →
      ∃ t, exec (.memoryPatrol m b env) s = .next t ∧
        (r.failed ≠ 0 → t.rd (Reg.MM_CNT_CRC_TRANSIENT m.val) =
          min (s.rd (Reg.MM_CNT_CRC_TRANSIENT m.val) + 1) (2 ^ (Reg.MM_CNT_CRC_TRANSIENT m.val).width - 1)) ∧
        Frame [Reg.MM_CNT_LINK_COUNT m.val, Reg.MM_CNT_CRC_TRANSIENT m.val] [] s t ∧ (CleanMem s env → t = s))) ∧
  (∀ (m : Fin 2) (b : Nat) (env : MemEnv) (s : State),
    s.on (Reg.MM_CTL_PATROL_EN m.val) = false ∨ inHalf m.val (b * 256) 256 = false → exec (.memoryPatrol m b env) s = .next s) ∧
  (∀ (m : Fin 2) (s : State),
    (s.on (Reg.MM_ZCTL_BUSY m.val) = false → s.rd (Reg.MM_ZBASE_PAGES m.val) + s.rd (Reg.MM_ZLEN_PAGES m.val) ≤ 1032192 →
      ∃ t, exec (.zeroStart m) s = .next t ∧ t.on (Reg.MM_ZCTL_BUSY m.val) = true ∧
        (∀ a, Memory.read t.mem a = if halfBase m.val + 65536 * s.rd (Reg.MM_ZBASE_PAGES m.val) ≤ a ∧
          a < halfBase m.val + 65536 * s.rd (Reg.MM_ZBASE_PAGES m.val) + 65536 * s.rd (Reg.MM_ZLEN_PAGES m.val) then 0
          else Memory.read s.mem a) ∧ Frame [Reg.MM_ZCTL_BUSY m.val] [.mem, .ring, .poison, .mdies] s t) ∧
    (s.on (Reg.MM_ZCTL_BUSY m.val) = true ∨ 1032192 < s.rd (Reg.MM_ZBASE_PAGES m.val) + s.rd (Reg.MM_ZLEN_PAGES m.val) →
      exec (.zeroStart m) s = .next s) ∧
    (s.on (Reg.MM_ZCTL_BUSY m.val) = true →
      ∃ t, exec (.zeroDone m) s = .next t ∧ t.on (Reg.MM_ZCTL_BUSY m.val) = false ∧
        Frame [Reg.MM_ZCTL_BUSY m.val] [.mdies] s t) ∧
    (s.on (Reg.MM_ZCTL_BUSY m.val) = false → exec (.zeroDone m) s = .next s))

/-- For a slot of the M die, while the phase is idle: WRITE gives the slot the staged entry, FREE makes its state
FREE and keeps the rest of it, SETLEN gives it the staged length; every other slot is unchanged. In another phase
the command waits behind those that wait already. A slot of the other M die, or a further command behind 256 waiting
ones, only sets ERR. Waiting commands take effect in the order of their issue. (09_spools_and_memory.md R307,
09_spools_and_memory.md R309) -/
def Obligations.SequenceSlotCommandsApply : Prop :=
  (∀ (c : Instr) (n : Nat) (m : Fin 2) (s : State), (c, n) ∈ [(Instr.sqWrite m, 1), (.sqFree m, 2), (.sqSetlen m, 3)] → s.mdies.length = 2 →
    ((s.rd (Reg.SQ_SEL_SLOT m.val)) / 2048 = m.val → s.phase = phIdle →
      ∃ t, exec c s = .next t ∧ (∀ k, k ≠ (s.rd (Reg.SQ_SEL_SLOT m.val)) → t.slot k = s.slot k) ∧
        (n = 1 → t.slot (s.rd (Reg.SQ_SEL_SLOT m.val)) = s.stagedEnt m.val) ∧
        (n = 2 → (t.slot (s.rd (Reg.SQ_SEL_SLOT m.val))).state = 0 ∧ (t.slot (s.rd (Reg.SQ_SEL_SLOT m.val))).w1 = (s.slot (s.rd (Reg.SQ_SEL_SLOT m.val))).w1 ∧
          (t.slot (s.rd (Reg.SQ_SEL_SLOT m.val))).len = (s.slot (s.rd (Reg.SQ_SEL_SLOT m.val))).len) ∧
        (n = 3 → s.rd (Reg.SQ_ENT_VALUE m.val 0) < 2 ^ 32 → (t.slot (s.rd (Reg.SQ_SEL_SLOT m.val))).len = s.rd (Reg.SQ_ENT_VALUE m.val 1) % 2 ^ 24 ∧
          (t.slot (s.rd (Reg.SQ_SEL_SLOT m.val))).state = (s.slot (s.rd (Reg.SQ_SEL_SLOT m.val))).state ∧ (t.slot (s.rd (Reg.SQ_SEL_SLOT m.val))).npages = (s.slot (s.rd (Reg.SQ_SEL_SLOT m.val))).npages) ∧
        Frame [] [.seqs] s t) ∧
    ((s.rd (Reg.SQ_SEL_SLOT m.val)) / 2048 = m.val → s.phase ≠ phIdle → (nth s.mdies m.val {}).waiting.length < 256 →
      ∃ t, exec c s = .next t ∧ (nth t.mdies m.val {}).waiting =
          (nth s.mdies m.val {}).waiting ++ [{ cmd := n, slot := (s.rd (Reg.SQ_SEL_SLOT m.val)), ent := s.stagedEnt m.val }] ∧ Frame [] [.mdies] s t) ∧
    (((s.rd (Reg.SQ_SEL_SLOT m.val)) / 2048 ≠ m.val ∨ (s.phase ≠ phIdle ∧ 256 ≤ (nth s.mdies m.val {}).waiting.length)) →
      ∃ t, exec c s = .next t ∧ t.on (Reg.SQ_STAT_ERR m.val) = true ∧ Frame [Reg.SQ_STAT_ERR m.val] [] s t)) ∧
  (∀ (m : Nat) (a b : SeqCmd) (s : State), m < 2 → s.mdies.length = 2 → (nth s.mdies m {}).waiting = [a, b] → a.slot = b.slot → b.cmd = 1 →
    (s.applySlots m).slot b.slot = b.ent ∧ (nth (s.applySlots m).mdies m {}).waiting = [])

/-- While the loader loads, or after it failed, a tile's half, an X die's half or a descriptor whose CRC fits is taken
into its place, and routing tables are taken as they come. A part whose CRC does not fit is counted as a reload the
first time; the second time the loader's state is 3, the error names the part with code 1, or the lowest such part,
and a fault of layer 7, code 1, is open. A part that failed twice is not taken again, and while the loader is idle or
done, a part changes nothing. (07_seams_and_patterns.md R221, 07_seams_and_patterns.md R222, 07_seams_and_patterns.md
R252, 07_seams_and_patterns.md R255) -/
def Obligations.PatternPartsAreChecked : Prop :=
  (∀ (part : PatPart) (data : List Byte) (s : State), s.rd Reg.PT_STAT_LOADER = 0 ∨ s.rd Reg.PT_STAT_LOADER = 2 →
    exec (.patternHalfLoaded part data) s = .next s) ∧
  (∀ (part : PatPart) (data : List Byte) (s : State), s.seam.failed.contains (partKey part) = true →
    exec (.patternHalfLoaded part data) s = .next s) ∧
  (∀ (part : PatPart) (data : List Byte) (s : State), s.rd Reg.PT_STAT_LOADER = 1 ∨ s.rd Reg.PT_STAT_LOADER = 3 →
    s.seam.failed.contains (partKey part) = false →
    (∀ (i : TileId) (p : Nat), part = .tile i → s.physOf i.val = some p → (parseHalf false data).1 = true →
      ∃ t, exec (.patternHalfLoaded part data) s = .next t ∧ (t.tile p).patIdle.recs = (parseHalf false data).2.recs ∧
        (t.tile p).patActive = (s.tile p).patActive ∧
        Frame [Reg.PT_STAT_XREADY, Reg.PT_STAT_DREADY, Reg.PT_STAT_LOADER] [.tiles, .fab] s t) ∧
    (∀ x : Fin 2, part = .xhalf x → s.seam.xhalfNext.length = 2 → (parseHalf true data).1 = true →
      ∃ t, exec (.patternHalfLoaded part data) s = .next t ∧
        (nth t.seam.xhalfNext x.val {}).recs = (parseHalf true data).2.recs ∧
        nth t.seam.xhalfNext (1 - x.val) {} = nth s.seam.xhalfNext (1 - x.val) {} ∧
        Frame [Reg.PT_STAT_XREADY, Reg.PT_STAT_DREADY, Reg.PT_STAT_LOADER] [.seam] s t) ∧
    (part = .desc → (parseDesc data).1 = true →
      ∃ t, exec (.patternHalfLoaded part data) s = .next t ∧ t.seam.descNext = some (parseDesc data).2 ∧
        t.on Reg.PT_STAT_DREADY = true ∧ Frame [Reg.PT_STAT_XREADY, Reg.PT_STAT_DREADY, Reg.PT_STAT_LOADER] [.seam] s t) ∧
    (∀ x : Fin 2, part = .routes x → s.seam.routesNext.length = 2 →
      ∃ t, exec (.patternHalfLoaded part data) s = .next t ∧
        nth t.seam.routesNext x.val none = some (data.map (fun b => b.toNat)) ∧
        Frame [Reg.PT_STAT_XREADY, Reg.PT_STAT_DREADY, Reg.PT_STAT_LOADER] [.seam] s t) ∧
    (part = .desc ∧ (parseDesc data).1 = false ∨ (∃ x, part = .xhalf x) ∧ (parseHalf true data).1 = false ∨
        (∃ i p, part = .tile i ∧ s.physOf i.val = some p) ∧ (parseHalf false data).1 = false →
      (s.seam.reloaded.contains (partKey part) = false →
        ∃ t, exec (.patternHalfLoaded part data) s = .next t ∧ t.seam.reloaded.contains (partKey part) = true ∧
          t.rd Reg.PT_STAT_RELOADS = min (s.rd Reg.PT_STAT_RELOADS + 1) (2 ^ Reg.PT_STAT_RELOADS.width - 1) ∧
          Frame [Reg.PT_STAT_RELOADS] [.seam, .fab] s t) ∧
      (s.seam.reloaded.contains (partKey part) = true →
        ∃ t r, exec (.patternHalfLoaded part data) s = .next t ∧ t.rd Reg.PT_STAT_LOADER = 3 ∧ t.on Reg.PT_ERR_VALID = true ∧
          (s.on Reg.PT_ERR_VALID = false →
            t.rd Reg.PT_ERR_CODE = 1 ∧ t.rd Reg.PT_ERR_WHERE = partKey part % 2 ^ Reg.PT_ERR_WHERE.width) ∧
          (s.on Reg.PT_ERR_VALID = true → s.rd Reg.PT_STAT_LOADER = 3 → s.rd Reg.PT_ERR_CODE = 1 →
            s.rd Reg.PT_ERR_WHERE < 2 ^ Reg.PT_ERR_WHERE.width →
            t.rd Reg.PT_ERR_WHERE = min (partKey part) (s.rd Reg.PT_ERR_WHERE)) ∧
          t.rcv.opens = s.rcv.opens ++ [r] ∧ r.layer = 7 ∧ r.code = 1 ∧ t.seam.failed.contains (partKey part) = true ∧
          Frame ([Reg.PT_STAT_LOADER, Reg.PT_ERR_CODE, Reg.PT_ERR_WHERE, Reg.PT_ERR_VALID] ++ openFields)
            [.seam, .fab, .rcv, .out, .host] s t)))

/-- Enabling an unlocked, armed link that is DOWN and waits for no retry puts it in PHY. PHY with three lanes or
more leads to LOCK, LOCK to AUTH with the own AUTH message out, a peer that the map names to its signature's check,
or to CAL without authentication, a good chain and signature to CAL, and CAL to UP with the lanes counted, the
result set, and sequence numbers and replay list new. A map or signature check that fails sets its flag and the link
is FAILED. A failed stage goes DOWN with a retry after 100 ms, and the eighth in a row to FAILED with a fault of
layer 1, code 2. An absent peer is only reported. The retry timer trains again at its time and not before. A stage
event in another state changes nothing, and each changes only its own link. (10_afpen_links.md R338,
10_afpen_links.md R339, 10_afpen_links.md R340, 10_afpen_links.md R341, 10_afpen_links.md R342, 10_afpen_links.md
R349, 12_faults_and_replay.md R389) -/
def Obligations.LinksTrainStageByStage : Prop :=
  (∀ (n : LinkId) (s : State),
    (s.on (Reg.LK_CTL_LOCK n.val) = false ∨ s.on (Reg.LK_CTL_EN n.val) = true → s.armed n.val = true → s.lkState n.val = lkDown →
      (s.link n.val).retryAt = none →
      ∃ t, exec (.linkEnable n) s = .next t ∧ t.on (Reg.LK_CTL_EN n.val) = true ∧ t.lkState n.val = lkPhy ∧
        (t.link n.val).trainSince = s.now ∧ OtherLinks [n.val] s t ∧
        Frame [Reg.LK_CTL_EN n.val, Reg.LK_STAT_STATE n.val, Reg.LK_STAT_LANES n.val] [.links] s t) ∧
    (s.on (Reg.LK_CTL_LOCK n.val) = false → s.armed n.val = false ∨ s.lkState n.val ≠ lkDown ∨ (s.link n.val).retryAt ≠ none →
      exec (.linkEnable n) s = .next (s.wr (Reg.LK_CTL_EN n.val) 1)) ∧
    (s.on (Reg.LK_CTL_LOCK n.val) = true → s.on (Reg.LK_CTL_EN n.val) = false → exec (.linkEnable n) s = .next s)) ∧
  (∀ (n : LinkId) (s : State) (lanes : List (Fin 4)),
    let l := lanes.eraseDups.filter (fun x => (s.link n.val).spared != some x.val)
    (s.lkState n.val = lkPhy → 3 ≤ l.length →
      ∃ t, exec (.linkPhyDone n lanes) s = .next t ∧ t.lkState n.val = lkLock ∧ (t.link n.val).lanes = l ∧
        OtherLinks [n.val] s t ∧ Frame [Reg.LK_STAT_STATE n.val] [.links] s t) ∧
    (s.lkState n.val = lkPhy → l.length < 3 → ∃ t, exec (.linkPhyDone n lanes) s = .next t ∧ TrainFailed s t n.val 3) ∧
    (s.lkState n.val ≠ lkPhy → exec (.linkPhyDone n lanes) s = .next s)) ∧
  (∀ (n : LinkId) (s : State) (nonce : Vector Byte 48),
    (s.lkState n.val = lkLock →
      ∃ t, exec (.linkLockDone n nonce) s = .next t ∧ t.lkState n.val = lkAuth ∧ (t.link n.val).ownNonce = nonce.toList ∧
        t.out = s.out ++ [.auth n.val nonce.toList s.devId.toNat s.domainId n.val (Config.sha384 Config.ownChain)] ∧
        OtherLinks [n.val] s t ∧ Frame [Reg.LK_STAT_STATE n.val] [.links, .out] s t) ∧
    (s.lkState n.val ≠ lkLock → exec (.linkLockDone n nonce) s = .next s)) ∧
  (∀ (n : LinkId) (s : State) (peer : AuthPeer), s.lkState n.val = lkAuth →
    (peer.dev.toNat ≠ s.rd (Reg.LK_MAP_PEER_DEV n.val) ∨ peer.link.val ≠ s.rd (Reg.LK_MAP_PEER_LINK n.val) ∨ peer.domain ≠ s.domainId →
      ∃ t, exec (.authNonce n peer) s = .next t ∧ t.on (Reg.LK_STAT_MAP_ERR n.val) = true ∧ t.lkState n.val = lkFailed ∧
        t.rd (Reg.LK_TRAIN_RESULT n.val) = 6 ∧ t.on (Reg.LK_STAT_AUTH_OK n.val) = false ∧
        Frame [Reg.LK_STAT_MAP_ERR n.val, Reg.LK_STAT_STATE n.val, Reg.LK_STAT_LANES n.val, Reg.LK_STAT_AUTH_OK n.val,
          Reg.LK_TRAIN_RESULT n.val, Reg.LK_TRAIN_TIME n.val, Reg.LK_TRAIN_COUNT n.val] [] s t) ∧
    (peer.dev.toNat = s.rd (Reg.LK_MAP_PEER_DEV n.val) → peer.link.val = s.rd (Reg.LK_MAP_PEER_LINK n.val) → peer.domain = s.domainId →
      (s.on (Reg.LK_CTL_AUTH_EN n.val) = true →
        ∃ t, exec (.authNonce n peer) s = .next t ∧ (t.link n.val).peer = some peer ∧
          t.out = s.out ++ [.authSig n.val (Config.ecdsaSign (authMessage (s.link n.val).ownNonce peer.nonce s.devId.toNat
            peer.dev.toNat n.val peer.link.val))] ∧ OtherLinks [n.val] s t ∧ Frame [] [.links, .out] s t) ∧
      (s.on (Reg.LK_CTL_AUTH_EN n.val) = false →
        ∃ t, exec (.authNonce n peer) s = .next t ∧ t.lkState n.val = lkCal ∧ t.on (Reg.LK_STAT_AUTH_OK n.val) = false ∧
          (t.link n.val).peer = some peer ∧ OtherLinks [n.val] s t ∧
          Frame [Reg.LK_STAT_STATE n.val, Reg.LK_STAT_AUTH_OK n.val] [.links] s t))) ∧
  (∀ (n : LinkId) (s : State) (p : AuthPeer) (sig : List Byte) (cert : CertChain), s.lkState n.val = lkAuth → (s.link n.val).peer = some p →
    let good := s.canAuth && Config.sha384 cert.bytes == p.digest && Config.chainTrusted cert.bytes &&
      Config.ecdsaVerify cert.key (authMessage p.nonce (s.link n.val).ownNonce p.dev.toNat s.devId.toNat p.link.val n.val) sig
    (good = true →
      ∃ t, exec (.authSignature n sig cert) s = .next t ∧ t.lkState n.val = lkCal ∧ t.on (Reg.LK_STAT_AUTH_OK n.val) = true ∧
        Frame [Reg.LK_STAT_STATE n.val, Reg.LK_STAT_AUTH_OK n.val] [] s t) ∧
    (good = false →
      ∃ t, exec (.authSignature n sig cert) s = .next t ∧ t.lkState n.val = lkFailed ∧ t.on (Reg.LK_STAT_AUTH_FAIL n.val) = true ∧
        t.on (Reg.LK_STAT_AUTH_OK n.val) = false ∧ t.rd (Reg.LK_TRAIN_RESULT n.val) = 5 ∧
        Frame [Reg.LK_STAT_STATE n.val, Reg.LK_STAT_LANES n.val, Reg.LK_STAT_AUTH_OK n.val, Reg.LK_STAT_AUTH_FAIL n.val,
          Reg.LK_TRAIN_RESULT n.val, Reg.LK_TRAIN_TIME n.val, Reg.LK_TRAIN_COUNT n.val] [] s t)) ∧
  (∀ (n : LinkId) (s : State) (peer : AuthPeer) (sig : List Byte) (cert : CertChain),
    (s.lkState n.val ≠ lkAuth → exec (.authNonce n peer) s = .next s) ∧
    (s.lkState n.val ≠ lkAuth ∨ (s.link n.val).peer = none → exec (.authSignature n sig cert) s = .next s)) ∧
  (∀ (n : LinkId) (s : State) (cal : LinkCal),
    (s.lkState n.val = lkCal →
      ∃ t, exec (.linkUp n cal) s = .next t ∧ t.lkState n.val = lkUp ∧
        t.rd (Reg.LK_STAT_LANES n.val) = (if (s.link n.val).lanes.length = 3 then 3 else 4) ∧
        t.rd (Reg.LK_TRAIN_RESULT n.val) = (if (s.link n.val).lanes.length = 3 then 2 else 1) ∧ (t.link n.val).nextS = 0 ∧
        (t.link n.val).expS = 0 ∧ (t.link n.val).replay = [] ∧ (t.link n.val).pktQ = [] ∧ (t.link n.val).ownTRx = cal.t - cal.rx ∧
        (∀ p, (s.link n.val).peer = some p → t.rd (Reg.LK_PEER_DEV n.val) = p.dev.toNat ∧
          t.rd (Reg.LK_PEER_LINK n.val) = p.link.val ∧ t.on (Reg.LK_PEER_VALID n.val) = true) ∧
        OtherLinks [n.val] s t ∧ Frame [Reg.LK_STAT_STATE n.val, Reg.LK_STAT_LANES n.val, Reg.LK_STAT_SPARED n.val, Reg.LK_TRAIN_RESULT n.val, Reg.LK_TRAIN_TIME n.val, Reg.LK_TRAIN_COUNT n.val, Reg.LK_PEER_DEV n.val, Reg.LK_PEER_LINK n.val, Reg.LK_PEER_VALID n.val, Reg.SM_TT_LANE3_REQ, Reg.AT_STAT_DEPTH] [.links, .seam, .time] s t) ∧
    (s.lkState n.val ≠ lkCal → exec (.linkUp n cal) s = .next s)) ∧
  (∀ (n : LinkId) (s : State),
    (∀ a, (s.link n.val).retryAt = some a → a ≤ s.now → s.lkState n.val = lkDown →
      (s.on (Reg.LK_CTL_EN n.val) = true → s.armed n.val = true →
        ∃ t, exec (.linkRetryTimer n) s = .next t ∧ t.lkState n.val = lkPhy ∧ OtherLinks [n.val] s t ∧
          Frame [Reg.LK_STAT_STATE n.val, Reg.LK_STAT_LANES n.val] [.links] s t) ∧
      (s.on (Reg.LK_CTL_EN n.val) = false ∨ s.armed n.val = false →
        ∃ t, exec (.linkRetryTimer n) s = .next t ∧ (t.link n.val).retryAt = none ∧ OtherLinks [n.val] s t ∧ Frame [] [.links] s t)) ∧
    ((s.link n.val).retryAt = none ∨ (∃ a, (s.link n.val).retryAt = some a ∧ s.now < a) ∨ s.lkState n.val ≠ lkDown →
      exec (.linkRetryTimer n) s = .next s)) ∧
  (∀ (n : LinkId) (s : State),
    (s.lkState n.val = lkPhy →
      (∃ t, exec (.trainingStageFail n .absent) s = .next t ∧ t.rd (Reg.LK_TRAIN_RESULT n.val) = 7 ∧
        Frame [Reg.LK_TRAIN_RESULT n.val] [] s t) ∧
      (∃ t, exec (.trainingStageFail n .phy) s = .next t ∧ TrainFailed s t n.val 3)) ∧
    (s.lkState n.val = lkLock ∨ s.lkState n.val = lkRetrain →
      ∃ t, exec (.trainingStageFail n .lock) s = .next t ∧ TrainFailed s t n.val 4) ∧
    (s.lkState n.val = lkCal ∨ s.lkState n.val = lkRetrain →
      ∃ t, exec (.trainingStageFail n .cal) s = .next t ∧ TrainFailed s t n.val 8) ∧
    (s.lkState n.val ≠ lkPhy → exec (.trainingStageFail n .absent) s = .next s ∧ exec (.trainingStageFail n .phy) s = .next s) ∧
    (s.lkState n.val ≠ lkLock → s.lkState n.val ≠ lkRetrain → exec (.trainingStageFail n .lock) s = .next s) ∧
    (s.lkState n.val ≠ lkCal → s.lkState n.val ≠ lkRetrain → exec (.trainingStageFail n .cal) s = .next s))

/-- A link that is UP and loses lock trains anew from PHY. One that loses a single lane of four, with sparing on, goes
to RETRAIN without that lane; any other loss of lanes trains anew. A lane over the error threshold is dropped in the
same way, and without one only the error counts change. A retrain that ends goes UP with its sequence numbers from 0
(log entry 44), and what waits to be sent is kept. A link whose block budget has ended gives up: it is counted and
flagged, retrains without the worst lane or trains anew. A retrain command is honoured only while the phase is idle. A
link reset leaves the link DOWN with its crossings not armed and its queues empty; arming starts only from DOWN, and
its end lets an enabled link train. On leaving UP its pending records and re-sends are gone. No other link's state, no
tile and no byte of GDDR7 changes with a loss. (10_afpen_links.md R331, 10_afpen_links.md R332, 10_afpen_links.md
R338, 10_afpen_links.md R339, 10_afpen_links.md R342, 10_afpen_links.md R350) -/
def Obligations.LinksLeaveUpAndReturn : Prop :=
  (∀ (n : LinkId) (s : State),
    (s.linkUp n.val = true →
      ∃ t, exec (.lossOfLock n) s = .next t ∧ LeftUp s t n.val lkPhy ∧ (t.link n.val).lanes = [] ∧
        Frame (leaveFields n.val) [.links, .time] s t) ∧
    (s.linkUp n.val = false → exec (.lossOfLock n) s = .next s)) ∧
  (∀ (n : LinkId) (s : State) (lanes : List (Fin 4)),
    (s.linkUp n.val = true →
      (∀ x, (s.link n.val).lanes.filter (fun l => lanes.contains l) = [x] → s.canSpare n.val = true →
        ∃ t, exec (.laneLoss n lanes) s = .next t ∧ LeftUp s t n.val lkRetrain ∧
          (t.link n.val).lanes = (s.link n.val).lanes.filter (fun l => l.val != x.val) ∧ Frame (leaveFields n.val) [.links, .time] s t) ∧
      ((s.link n.val).lanes.filter (fun l => lanes.contains l) ≠ [] →
        s.canSpare n.val = false ∨ ((s.link n.val).lanes.filter (fun l => lanes.contains l)).length ≠ 1 →
        ∃ t, exec (.laneLoss n lanes) s = .next t ∧ LeftUp s t n.val lkPhy ∧ Frame (leaveFields n.val) [.links, .time] s t)) ∧
    (s.linkUp n.val = false ∨ (s.link n.val).lanes.filter (fun l => lanes.contains l) = [] → exec (.laneLoss n lanes) s = .next s)) ∧
  (∀ (n : LinkId) (s : State) (e : LaneErrs),
    (∀ i : Fin 4, s.linkUp n.val = true → s.canSpare n.val = true →
      1024 * max 1 (s.rd (Reg.LK_CTL_SPARE_THR n.val)) < nth e.toList i.val 0 →
      (∀ j < i.val, nth e.toList j 0 ≤ 1024 * max 1 (s.rd (Reg.LK_CTL_SPARE_THR n.val))) →
      ∃ t, exec (.laneErrorThreshold n e) s = .next t ∧ LeftUp s t n.val lkRetrain ∧
        (t.link n.val).lanes = (s.link n.val).lanes.filter (fun l => l.val != i.val) ∧
        Frame (Reg.LK_LANE_SER n.val :: leaveFields n.val) [.links, .time] s t) ∧
    ((s.linkUp n.val = false ∨ s.canSpare n.val = false ∨ ∀ j < 4, nth e.toList j 0 ≤ 1024 * max 1 (s.rd (Reg.LK_CTL_SPARE_THR n.val))) →
      ∃ t, exec (.laneErrorThreshold n e) s = .next t ∧ Frame [Reg.LK_LANE_SER n.val] [] s t)) ∧
  (∀ (n : LinkId) (s : State) (cal : LinkCal),
    (s.lkState n.val = lkRetrain →
      ∃ t, exec (.retrainDone n cal) s = .next t ∧ t.lkState n.val = lkUp ∧
        t.rd (Reg.LK_STAT_LANES n.val) = (if (s.link n.val).lanes.length = 3 then 3 else 4) ∧
        (t.link n.val).nextS = 0 ∧ (t.link n.val).expS = 0 ∧ (t.link n.val).replay = [] ∧
        (t.link n.val).pktQ = (s.link n.val).pktQ ∧ (t.link n.val).ownTRx = cal.t - cal.rx ∧
        OtherLinks [n.val] s t ∧ Frame [Reg.LK_STAT_STATE n.val, Reg.LK_STAT_LANES n.val, Reg.LK_STAT_SPARED n.val, Reg.LK_TRAIN_RESULT n.val, Reg.LK_TRAIN_TIME n.val, Reg.LK_TRAIN_COUNT n.val, Reg.LK_PEER_DEV n.val, Reg.LK_PEER_LINK n.val, Reg.LK_PEER_VALID n.val, Reg.SM_TT_LANE3_REQ, Reg.AT_STAT_DEPTH] [.links, .seam, .time] s t) ∧
    (s.lkState n.val ≠ lkRetrain → exec (.retrainDone n cal) s = .next s)) ∧
  (∀ (n : LinkId) (s : State) (e : LaneErrs),
    (s.linkUp n.val = true → s.budgetOver n.val = true →
      ∃ t, exec (.linkGiveUp n e) s = .next t ∧ t.on (Reg.LK_STAT_GAVE_UP n.val) = true ∧
        t.rd (Reg.LK_RETRY_GIVEUPS n.val) = min (s.rd (Reg.LK_RETRY_GIVEUPS n.val) + 1) 255 ∧ t.on (Reg.LK_XARM_DONE n.val) = true ∧
        LeftUp s t n.val (if s.canSpare n.val = true ∧ (badLane e).isSome = true then lkRetrain else lkPhy) ∧
        Frame ([Reg.LK_STAT_GAVE_UP n.val, Reg.LK_RETRY_GIVEUPS n.val, Reg.LK_XARM_DONE n.val, Reg.LK_LANE_SER n.val,
            Reg.FW_LOG_WP_SEQ, Reg.FW_CNT_LOGDROP_COUNT] ++ leaveFields n.val ++ openFields)
          [.links, .time, .fab, .harvest, .host, .out, .rcv, .ring, .step, .tiles] s t) ∧
    (s.linkUp n.val = false ∨ s.budgetOver n.val = false → exec (.linkGiveUp n e) s = .next s)) ∧
  (∀ (n : LinkId) (s : State),
    (s.phase = phIdle → s.on (Reg.LK_CTL_EN n.val) = true → s.armed n.val = true →
      ∃ t, exec (.linkRetrain n) s = .next t ∧ t.lkState n.val = lkPhy ∧ (t.link n.val).tries = 0 ∧ (t.link n.val).lanes = [] ∧
        (t.link n.val).spared = none ∧ (∀ i < 36, i ≠ n.val → t.lkState i = s.lkState i) ∧
        Frame (leaveFields n.val) [.links, .time] s t) ∧
    (s.phase ≠ phIdle ∨ s.on (Reg.LK_CTL_EN n.val) = false ∨ s.armed n.val = false → exec (.linkRetrain n) s = .next s)) ∧
  (∀ (n : LinkId) (s : State),
    ∃ t, exec (.linkReset n) s = .next t ∧ t.lkState n.val = lkDown ∧ t.on (Reg.LK_XARM_DONE n.val) = false ∧ (t.link n.val).pktQ = [] ∧
      (t.link n.val).ctlQ = [] ∧ (t.link n.val).replay = [] ∧ (t.link n.val).retryAt = none ∧
      (t.link n.val).rxPkts = (s.link n.val).rxPkts ∧ (∀ i < 36, i ≠ n.val → t.lkState i = s.lkState i) ∧
      Frame (Reg.LK_XARM_DONE n.val :: leaveFields n.val) [.links, .time] s t) ∧
  (∀ (n : LinkId) (s : State),
    (s.lkState n.val = lkDown →
      ∃ t, exec (.xarmArm n) s = .next t ∧ (t.link n.val).arming = true ∧ OtherLinks [n.val] s t ∧ Frame [] [.links] s t) ∧
    (s.lkState n.val ≠ lkDown → exec (.xarmArm n) s = .next s) ∧
    ((s.link n.val).arming = true →
      ∃ t, exec (.xarmDone n) s = .next t ∧ t.on (Reg.LK_XARM_DONE n.val) = true ∧ (t.link n.val).arming = false ∧
        (s.on (Reg.LK_CTL_EN n.val) = true → s.lkState n.val = lkDown → (s.link n.val).retryAt = none → t.lkState n.val = lkPhy) ∧
        OtherLinks [n.val] s t ∧
        Frame [Reg.LK_XARM_DONE n.val, Reg.LK_STAT_STATE n.val, Reg.LK_STAT_LANES n.val] [.links] s t) ∧
    ((s.link n.val).arming = false → exec (.xarmDone n) s = .next s))

/-- At a command that an engine reads well and whose descriptor is good: TAP arms the gradient range; TOUCH touches
the TID; NOISE adds its finite inputs exactly; a frozen TID is skipped and counted by TOUCH and NOISE. SYNC waits for
its tree, MARK notes its value, END ends the stream. Each of the others goes on to the next command, and nothing but
the engine changes. NORM, while the other engine has a stream and has not issued it, waits; once both have, the
exchange runs; after an abandoned exchange it ends at once. A range that leaves the half or is not aligned stops the
stream with code 2, a reserved OP or field, of the command or of its descriptor, with code 1; the first error is
recorded, and a fault of layer 6 is open. An engine that does not run does nothing, and neither does the command of
another row. (11_harvest_update.md R356, 11_harvest_update.md R357, 11_harvest_update.md R358, 11_harvest_update.md
R360, 11_harvest_update.md R361, 11_harvest_update.md R362, 11_harvest_update.md R363, 11_harvest_update.md R364,
11_harvest_update.md R375, 11_harvest_update.md R381) -/
def Obligations.HarvestCommandsRun : Prop :=
  (∀ (m : Fin 2) (env : MemEnv) (s : State) (c : List Word64), Commanded s env m.val c → cmdClean c = true →
    (cOp c = opTap → ∀ d, Described s m.val (cTid c) d →
      (s.regionOk m.val (cTid c) (tdG d) (4 * tdElems d) false = true →
        ∃ t, exec (.tap m env) s = .next t ∧ smFind (t.hv m.val).taps (cTid c) = some (tdG d, 4 * tdElems d, s.now) ∧
          NextCommand s t m.val ∧ Frame [] [.harvest] s t) ∧
      (s.regionOk m.val (cTid c) (tdG d) (4 * tdElems d) false = false →
        ∃ t, exec (.tap m env) s = .next t ∧ HarvestStopped s t m.val 2 (cTid c))) ∧
    (cOp c = opTouch → ∀ d, Described s m.val (cTid c) d →
      (tdFrost d = false → ∃ t, exec (.touch m env) s = .next t ∧ (t.hv m.val).touched.contains (cTid c) = true ∧ NextCommand s t m.val ∧ Frame [] [.harvest] s t) ∧
      (tdFrost d = true → ∃ t, exec (.touch m env) s = .next t ∧ (t.hv m.val).touched = (s.hv m.val).touched ∧ (t.hv m.val).cntFrost = (s.hv m.val).cntFrost + 1 ∧ NextCommand s t m.val ∧ Frame [] [.harvest] s t)) ∧
    (cOp c = opNoise → ∀ d, Described s m.val (cTid c) d →
      (tdFrost d = false → s.regionOk m.val (cTid c) (tdN d) (4 * tdNcnt d) false = true →
        (∀ w ∈ leWords32 (s.view (tdN d) (4 * tdNcnt d)), (exact149 (fp32 w)).isSome = true) →
        ∃ t, exec (.noise m env) s = .next t ∧ smGet (t.hv m.val).noise (cTid c) 0 = smGet (s.hv m.val).noise (cTid c) 0 + ((leWords32 (s.view (tdN d) (4 * tdNcnt d))).filterMap (fun w => exact149 (fp32 w))).sum ∧ NextCommand s t m.val ∧ Frame [] [.harvest] s t) ∧
      (tdFrost d = false → s.regionOk m.val (cTid c) (tdN d) (4 * tdNcnt d) false = false →
        ∃ t, exec (.noise m env) s = .next t ∧ HarvestStopped s t m.val 2 (cTid c)) ∧
      (tdFrost d = true → ∃ t, exec (.noise m env) s = .next t ∧ (t.hv m.val).noise = (s.hv m.val).noise ∧ (t.hv m.val).cntFrost = (s.hv m.val).cntFrost + 1 ∧ NextCommand s t m.val ∧ Frame [] [.harvest] s t)) ∧
    (cOp c = opSync →
      ∃ t, exec (.sync m env) s = .next t ∧ (t.hv m.val).state = hvWait ∧ (t.hv m.val).syncWait = some (dBits c 0 22 18, 0) ∧ (t.hv m.val).idx = (s.hv m.val).idx ∧
        (∀ k, k ≠ m.val → t.hv k = s.hv k) ∧ Frame [] [.harvest] s t) ∧
    (cOp c = opHMark →
      ∃ t, exec (.harvestMark m env) s = .next t ∧ (t.hv m.val).marks = (s.hv m.val).marks ++ [dBits c 0 63 48] ∧ NextCommand s t m.val ∧ Frame [] [.harvest] s t) ∧
    (cOp c = opHEnd →
      ∃ t, exec (.harvestEnd m env) s = .next t ∧ (t.hv m.val).state = hvEnd ∧ (t.hv m.val).ended = true ∧ (t.hv m.val).idx = (s.hv m.val).idx ∧
        (∀ k, k ≠ m.val → t.hv k = s.hv k) ∧ Frame [] [.harvest] s t) ∧
    (cOp c = opNorm →
      ((s.hv m.val).normAb = false → (s.hv (1 - m.val)).normed = false → (s.hv (1 - m.val)).state ≠ hvIdle →
        ∃ t, exec (.norm m env) s = .next t ∧ (t.hv m.val).normed = true ∧ (t.hv m.val).state = hvWait ∧ (t.hv m.val).syncWait = none ∧ (∀ k, k ≠ m.val → t.hv k = s.hv k) ∧ Frame [] [.harvest] s t) ∧
      ((s.hv m.val).normAb = false → (s.hv (1 - m.val)).normed = true ∨ (s.hv (1 - m.val)).state = hvIdle →
        ∃ t, exec (.norm m env) s = .next t ∧ (t.hv m.val).normed = true ∧ Frame [] [.harvest, .commit, .host, .out] s t) ∧
      ((s.hv m.val).normAb = true →
        ∃ t, exec (.norm m env) s = .next t ∧ (t.hv m.val).normed = true ∧ (t.hv m.val).normAb = true ∧ NextCommand s t m.val ∧
          Frame [] [.harvest] s t))) ∧
  (∀ (i : Instr) (op : Nat) (m : Fin 2) (env : MemEnv) (s : State) (c : List Word64), (i, op) ∈ [(Instr.tap m env, opTap), (.norm m env, opNorm), (.update m env, opUpdate),
      (.thin m env, opThin), (.noise m env, opNoise), (.touch m env, opTouch), (.sync m env, opSync), (.harvestMark m env, opHMark),
      (.harvestEnd m env, opHEnd)] →
    ((s.hv m.val).state ≠ hvRun → exec i s = .next s) ∧
    (Commanded s env m.val c → cmdListed (cOp c) = true → cOp c ≠ op → exec i s = .next s) ∧
    (Commanded s env m.val c → cOp c = op → cmdClean c = false → ∃ t, exec i s = .next t ∧ HarvestStopped s t m.val 1 (cTid c)) ∧
    (Commanded s env m.val c → cmdListed (cOp c) = false → ∃ t, exec i s = .next t ∧ HarvestStopped s t m.val 1 (cTid c)) ∧
    (Commanded s env m.val c → cOp c = op → cmdClean c = true → op ∈ [opTap, opUpdate, opThin, opNoise, opTouch] →
      ∀ d, inHalf m.val (s.hvTdesc m.val + 128 * cTid c) 128 = true → leWords (s.view (s.hvTdesc m.val + 128 * cTid c) 128) = d →
      tdReserved (cTid c) d = true → ∃ t, exec i s = .next t ∧ HarvestStopped s t m.val 1 (cTid c)))

/-- A good UPDATE of a shard without mirror is the update of R368 on the schedule entry, gradient, weights, momentum
and preconditioner that the live view holds; it touches the TID and goes on to the next command. It writes only the
alternate view of the weights, momentum, preconditioner and compute copy. An empty shard is only touched, and a
frozen TID skipped. An error that an UPDATE or a THIN finds before it reads stops the stream with its code. Without a
preconditioner each weight becomes fma(−η, fma(λ, w, m·f), w) with the block's scale f. A good THIN goes on to the
next command and writes only its output and the alternate view of its residues; its choice is of min(K, length)
elements, none of which comes after one that is left out. A mirror write in mirror pages writes exactly its bytes
through the bank map, and one outside them stops the stream with code 5. (11_harvest_update.md
R353, 11_harvest_update.md R355, 11_harvest_update.md R357, 11_harvest_update.md R362, 11_harvest_update.md R365,
11_harvest_update.md R366, 11_harvest_update.md R368, 11_harvest_update.md R369, 11_harvest_update.md R371,
11_harvest_update.md R373, 11_harvest_update.md R382) -/
def Obligations.UpdatesAndThinningWriteTheAlternateView : Prop :=
  (∀ (m : Fin 2) (env : MemEnv) (s : State) (c : List Word64), Commanded s env m.val c → cmdClean c = true → cOp c = opUpdate → (∀ d, Described s m.val (cTid c) d →
      (tdFrost d = true → ∃ t, exec (.update m env) s = .next t ∧ (t.hv m.val).touched = (s.hv m.val).touched ∧ (t.hv m.val).cntFrost = (s.hv m.val).cntFrost + 1 ∧ NextCommand s t m.val ∧ Frame [] [.harvest] s t) ∧
      (∀ e, tdFrost d = false → s.updateError m.val (cTid c) d = some e →
        ∃ t, exec (.update m env) s = .next t ∧ HarvestStopped s t m.val e (cTid c)) ∧
      (tdFrost d = false → s.updateError m.val (cTid c) d = none → tdElems d = 0 →
        ∃ t, exec (.update m env) s = .next t ∧ (t.hv m.val).touched.contains (cTid c) = true ∧ NextCommand s t m.val ∧ Frame [] [.harvest] s t) ∧
      (tdFrost d = false → tdElems d ≠ 0 → tdMirror d = false → s.updateError m.val (cTid c) d = none →
        inHalf m.val (s.hvSched m.val + 32 * s.schedIndex m.val) 32 = true →
        dBits (leWords (s.view (s.hvSched m.val + 32 * s.schedIndex m.val) 32)) 3 63 8 = 0 →
        ((fp32 (tdTau d)).isZero = true ∨ (smFind (s.hv m.val).nsum (cTid c)).isSome = true) →
        ∃ (t u : State) (n : Nat) (mo : List Nat) (pre : List (Nat × List Mat)), exec (.update m env) s = .next t ∧ u.mem = s.mem ∧ u.regs = s.regs ∧ (∀ a k, u.view a k = s.view a k) ∧
          t = (u.applyUpdate env m.val (cTid c) d (schedOf (leWords (s.view (s.hvSched m.val + 32 * s.schedIndex m.val) 32))) n
            (leWords32 (s.view (tdG d) (4 * tdElems d))) (leWords32 (s.view (tdW d) (4 * tdElems d))) mo pre).nextCmd m.val ∧
          (tdMtype d = 0 → mo = leWords32 (s.view (tdM d) (4 * tdElems d))) ∧
          (∀ w, smFind (s.hv m.val).nsum (cTid c) = some w → n = w.toNat) ∧
          (t.hv m.val).touched.contains (cTid c) = true ∧ (smFind (t.hv m.val).kappa (cTid c)).isSome = true ∧ NextCommand s t m.val ∧
          (∀ x, (∀ i < 4 * tdElems d, x ≠ s.storage (tdW d + s.hvBoff m.val + i)) → (∀ i < (if tdMtype d = 1 then 2 * tdElems d else 4 * tdElems d), x ≠ s.storage (tdM d + s.hvBoff m.val + i)) →
            (tdPrec d ≠ 0 → (∀ i < tdBlockRows d * tdBlockCols d * tdBlockBytes d, x ≠ s.storage (tdS d + s.hvBoff m.val + i))) →
            (tdCfmt d ≠ 0 → (∀ i < tdCopyBytes d, x ≠ s.storage (tdC d + s.hvBoff m.val + i))) → Memory.read t.mem x = Memory.read s.mem x) ∧
          Frame [] [.mem, .ring, .harvest] s t))) ∧
  (∀ (u : UpdCtx) (b : BlockIn) (i j : Nat), u.prec = 0 → i < b.br → j < b.bc →
    (blockUpdate u b).w.get i j = fma32 (neg32 u.e.eta) (fma32 (if u.decay then u.e.lam else 0) (b.w.get i j) (mul32 (b.m.get i j)
      (if (fp64 (sumSq b.m.flatten)).isZero then 0 else thin32 (div64 (sqrt64 (sumSq b.m.flatten)) (sqrt64 (sumSq b.m.flatten))))))
      (b.w.get i j) ∧ (blockUpdate u b).tried = false ∧ (blockUpdate u b).fallback = false) ∧
  (∀ (m : Fin 2) (env : MemEnv) (s : State) (c : List Word64), Commanded s env m.val c → cmdClean c = true → cOp c = opThin → (∀ d, Described s m.val (cTid c) d →
      (tdFrost d = true → ∃ t, exec (.thin m env) s = .next t ∧ (t.hv m.val).cntFrost = (s.hv m.val).cntFrost + 1 ∧ NextCommand s t m.val ∧ Frame [] [.harvest] s t) ∧
      (∀ x, x = ({ m := m.val, d := d, inA := dBits c 1 63 0, outA := dBits c 2 63 0, count := dBits c 3 35 0, ksh := dBits c 0 22 18 } : ThinCmd) →
        tdFrost d = false →
        (∀ e, s.thinError (cTid c) x = some e → ∃ t, exec (.thin m env) s = .next t ∧ HarvestStopped s t m.val e (cTid c)) ∧
        (s.thinError (cTid c) x = none → tdMirror d = false ∨ env.extOk = true →
          ∃ t, exec (.thin m env) s = .next t ∧ NextCommand s t m.val ∧
            (∀ q, (∀ i < 8 * ceilDiv x.count (2 ^ x.ksh), q ≠ s.storage (x.outA + i)) →
              (∀ i < 4 * x.count, q ≠ s.storage (tdR d + s.hvBoff m.val + i)) → Memory.read t.mem q = Memory.read s.mem q) ∧
            (tdMirror d = false → t.out = s.out) ∧ Frame [] [.mem, .ring, .harvest, .out] s t)))) ∧
  (∀ (k : Nat) (l : List Nat), (thinChoice k l).length = min k l.length ∧
    (∀ i ∈ thinChoice k l, i < l.length ∧ ∀ j < l.length, j ∉ thinChoice k l → thinBefore (nth l j 0, j) (nth l i 0, i) = false)) ∧
  (∀ (a : Nat) (data : List Byte) (src : DevId) (s : State) (m : Nat), dieOf a = some m →
    (s.mirrorPages a data.length = true → inHalf m a data.length = true →
      ∃ t, exec (.mirrorWrite a data src) s = .next t ∧
        t.mem = data.zipIdx.foldl (fun q e => Memory.write q (s.storage (a + e.2)) e.1) s.mem ∧
        (∀ x, (∀ i < data.length, s.storage (a + i) ≠ x) → Memory.read t.mem x = Memory.read s.mem x) ∧
        Frame memFields [.mem, .ring, .poison] s t) ∧
    (s.mirrorPages a data.length = false ∨ inHalf m a data.length = false → s.harvest.length = 2 →
      ∃ t, exec (.mirrorWrite a data src) s = .next t ∧ HarvestStopped s t m 5 0))

/-- A message that was received before changes nothing but a count. A new fold of a child is kept for its link.
FOLD_SEND, once the device's own conditions hold and every child has sent its fold, holds the sum of them: at a root
as its own, elsewhere sent to the parent; before that nothing changes. A norm vector is kept for its round. The first
fault report of the running step at the manager schedules a roll-back; a later one is only logged, and one that
arrives in the window of a roll-back is logged, or ends the job visibly where its fault would. The root answers for a
decision that it holds, and is silent on one that it does not. A reply with the missed decision carries it out as a
Hem and opens a fault of layer 9, code 2. A mutual wait that is found is recorded in both places and answered.
(02_steps_tacks_hems.md R69, 11_harvest_update.md R378, 12_faults_and_replay.md R389, 12_faults_and_replay.md R395,
12_faults_and_replay.md R406, 12_faults_and_replay.md R407, 08_bobbins_and_thimbles.md R280, 13_firmware_and_host.md
R432, 11_harvest_update.md R364) -/
def Obligations.FoldsReportsAndDecisions : Prop :=
  (∀ (i : Instr) (msg : MsgId) (f : Fold) (v : NormVec) (st : Word64) (rc : FaultRec) (rep : DecisionRep) (q : MwPair) (s : State),
    i ∈ [Instr.hemFold msg f, .normVector msg v, .faultReport msg st rc, .decisionReq msg st, .decisionReply msg rep, .mwQuery msg q,
      .mwReply msg q] → s.msgSeen msg = true →
    ∃ t, exec i s = .next t ∧ t.rd Reg.FW_CNT_RANGE_MGMT = min (s.rd Reg.FW_CNT_RANGE_MGMT + 1) (2 ^ Reg.FW_CNT_RANGE_MGMT.width - 1) ∧
      Frame [Reg.FW_CNT_RANGE_MGMT] [] s t) ∧
  (∀ (msg : MsgId) (f : Fold) (n : Nat) (s : State), s.msgSeen msg = false →
    s.childLinks.find? (fun k => s.rd (Reg.LK_PEER_DEV k) == msg.src.toNat) = some n →
    ∃ t, exec (.hemFold msg f) s = .next t ∧ smFind t.commit.folds n = some f ∧ (t.link n).foldOk = true ∧
      (∀ k, k ≠ n → smFind t.commit.folds k = smFind s.commit.folds k) ∧ t.commit.own = s.commit.own ∧ t.msgSeen msg = true ∧
      OtherLinks [n] s t ∧ Frame [] [.commit, .host, .links] s t) ∧
  (∀ (msg : MsgId) (f : Fold) (s : State), s.msgSeen msg = false →
    s.childLinks.find? (fun k => s.rd (Reg.LK_PEER_DEV k) == msg.src.toNat) = none →
    ∃ t, exec (.hemFold msg f) s = .next t ∧ t.rd Reg.FW_CNT_RANGE_MGMT = min (s.rd Reg.FW_CNT_RANGE_MGMT + 1) (2 ^ Reg.FW_CNT_RANGE_MGMT.width - 1) ∧
      Frame [Reg.FW_CNT_RANGE_MGMT] [.host] s t) ∧
  (∀ s : State,
    (s.foldReady = true → s.childLinks.all (fun n => (s.childFold n).isSome) = true →
        ¬(s.commit.own = some s.makeFold ∧ s.commit.ownTo = s.parent) →
      (s.parent = none → s.isRoot = true →
        ∃ t, exec .foldSend s = .next t ∧ t.commit.own = some s.makeFold ∧ t.commit.acked = true ∧ Frame [] [.commit] s t) ∧
      (∀ n, s.parent = some n → s.linkUp n = true →
        ∃ t, exec .foldSend s = .next t ∧ t.commit.own = some s.makeFold ∧ t.commit.ownTo = some n ∧ t.commit.acked = false ∧
          (t.link n).ctlQ = (s.link n).ctlQ ++ [fragment s.devId.toNat (s.rd (Reg.LK_PEER_DEV n)) s.host.msgNum (foldBytes s.makeFold)] ∧
          OtherLinks [n] s t ∧ Frame [] [.commit, .links, .host] s t)) ∧
    (s.foldReady = false ∨ s.childLinks.all (fun n => (s.childFold n).isSome) = false ∨
        (s.commit.own = some s.makeFold ∧ s.commit.ownTo = s.parent) → exec .foldSend s = .next s)) ∧
  (∀ s : State, s.childLinks = [] → s.makeFold.count = 1 ∧ s.makeFold.sent = s.commit.sent ∧ s.makeFold.recv = s.commit.recv ∧
    s.makeFold.done = s.ownDone ∧ s.makeFold.fault = s.rcv.fault.isSome) ∧
  (∀ (msg : MsgId) (v : NormVec) (s : State), s.msgSeen msg = false →
    (s.normRuns = false →
      ∃ t, exec (.normVector msg v) s = .next t ∧ t.commit.normGot = s.commit.normGot ++ [(v.round, v.place, v.vals)] ∧
        Frame [] [.commit, .host] s t) ∧
    (s.normRuns = true → ∃ t, exec (.normVector msg v) s = .next t ∧
      t.commit.normGot = s.commit.normGot ++ [(v.round, v.place, v.vals)] ∧ Frame [] [.commit, .harvest, .host, .out] s t)) ∧
  (∀ (msg : MsgId) (rc : FaultRec) (s : State), s.msgSeen msg = false → s.isRoot = true → s.jobState = jbRunning → s.stepNo < 2 ^ 64 →
    (s.step.hemAt = none → s.step.winOpen = false ∨ s.on Reg.TK_STAT_LAST_COMMIT = true → s.rcv.reportStep ≠ some s.stepNo →
      ∃ t, exec (.faultReport msg (BitVec.ofNat 64 s.stepNo) rc) s = .next t ∧ t.rcv.reports = s.rcv.reports ++ [rc] ∧
        t.rcv.reportStep = some s.stepNo ∧ t.step.hemAt = some (gridAfter s.now s.hallLead) ∧ t.step.hemCommit = false ∧
        t.rd Reg.JB_RCV_STAT_STATE = 2 ∧
        Frame [Reg.TK_FLT_LATE, Reg.TK_HALL_ROUND, Reg.JB_RCV_STAT_STATE]
          [.commit, .host, .links, .out, .rcv, .step, .tacks, .tiles] s t) ∧
    (s.rcv.reportStep = some s.stepNo → s.step.winOpen = false ∨ s.on Reg.TK_STAT_LAST_COMMIT = true →
      ∃ t, exec (.faultReport msg (BitVec.ofNat 64 s.stepNo) rc) s = .next t ∧ t.rcv.reports = s.rcv.reports ++ [rc] ∧
        Frame [Reg.FW_LOG_WP_SEQ, Reg.FW_CNT_LOGDROP_COUNT] [.rcv, .ring, .host] s t) ∧
    (s.step.winOpen = true → s.on Reg.TK_STAT_LAST_COMMIT = false →
      ((faultIsP rc || faultIsLoss rc) = true →
        ∃ t, exec (.faultReport msg (BitVec.ofNat 64 s.stepNo) rc) s = .next t ∧ t.rcv.reports = s.rcv.reports ++ [rc] ∧
          t.jobState = jbEnded ∧ t.phase = phIdle ∧ t.rd Reg.JB_RCV_STAT_STATE = 5 ∧ t.on Reg.JB_RCV_LAST_0_ENDED = true ∧
          Frame ([Reg.JB_STAT_STATE, Reg.TK_STAT_PHASE, Reg.FW_LOG_WP_SEQ, Reg.FW_CNT_LOGDROP_COUNT] ++ openFields)
            [.rcv, .ring, .host] s t) ∧
      ((faultIsP rc || faultIsLoss rc) = false →
        ∃ t, exec (.faultReport msg (BitVec.ofNat 64 s.stepNo) rc) s = .next t ∧ t.rcv.reports = s.rcv.reports ++ [rc] ∧
          Frame [Reg.FW_LOG_WP_SEQ, Reg.FW_CNT_LOGDROP_COUNT] [.rcv, .ring, .host] s t))) ∧
  (∀ (msg : MsgId) (st : Word64) (rc : FaultRec) (s : State), s.msgSeen msg = false →
    s.isRoot = false ∨ s.jobState ≠ jbRunning ∨ st.toNat ≠ s.stepNo →
    ∃ t, exec (.faultReport msg st rc) s = .next t ∧
      Frame [Reg.FW_LOG_WP_SEQ, Reg.FW_CNT_LOGDROP_COUNT] [.ring, .host] s t) ∧
  (∀ (msg : MsgId) (st : Word64) (s : State), s.msgSeen msg = false → s.isRoot = false →
    ∃ t, exec (.decisionReq msg st) s = .next t ∧ Frame [] [.host] s t) ∧
  (∀ (msg : MsgId) (st : Word64) (s : State), s.msgSeen msg = false → s.isRoot = true →
    (∀ d, s.rcv.log.find? (fun d => d.step == st) = some d →
      ∃ t, exec (.decisionReq msg st) s = .next t ∧ t.out = s.out ++ [.mgmt msg.src.toNat 5
        (s.host.msgNum :: [d.step.toNat, b2n d.commit, d.mbCount.toNat, d.hem, d.s, b2n d.parity, 0])] ∧ Frame [] [.host, .out] s t) ∧
    (s.rcv.log.find? (fun d => d.step == st) = none →
      ∃ t, exec (.decisionReq msg st) s = .next t ∧ Frame [] [.host] s t)) ∧
  (∀ (msg : MsgId) (rep : DecisionRep) (s : State), s.msgSeen msg = false → s.rcv.missed = true → rep.step.toNat = s.stepNo →
    s.step.winOpen = false →
    ∃ t r, exec (.decisionReply msg rep) s = .next t ∧ t.step.winOpen = true ∧ t.on Reg.TK_FLT_LATE = true ∧
      t.on Reg.TK_STAT_LAST_COMMIT = rep.commit ∧ r ∈ t.rcv.opens ∧ r.layer = 9 ∧ r.code = 2 ∧
      t.stepNo = (if rep.commit then (s.stepNo + 1) % 2 ^ 64 else s.stepNo) ∧ NoParams s t ∧
      ((∀ x ∈ s.snaps, x.at_ ≠ s.now) → t.snaps = s.snaps) ∧
      Frame ([Reg.AT_STAT_DEPTH, Reg.FW_LOG_WP_SEQ, Reg.FW_CNT_LOGDROP_COUNT, Reg.HV_COMMIT_COMMIT, Reg.HV_COMMIT_ROLLBACKS, Reg.JB_RCV_CNT_REPLAYS,
          Reg.JB_RCV_STAT_REPLAYS, Reg.JB_STAT_STATE, Reg.SM_FLT_CABLE, Reg.SM_LAST_LEN_VALUE, Reg.SM_STAT_STATE,
          Reg.TK_FLT_LATE, Reg.TK_HALL_ROUND, Reg.TK_HEM_AT_HI_VALUE, Reg.TK_HEM_AT_LO_VALUE, Reg.TK_STAT_ADMITTED,
          Reg.TK_STAT_IN_SEAM, Reg.TK_STAT_LAST_COMMIT, Reg.TK_STAT_PHASE, Reg.TK_STEP_HI_VALUE, Reg.TK_STEP_LO_VALUE] ++
          stagedFields ++ latchFields ++ openFields)
        [.commit, .fab, .harvest, .host, .links, .mdies, .monitors, .out, .power, .rcv, .ring, .seam, .seqs, .snaps, .step,
          .streams, .tacks, .tiles, .time] s t) ∧
  (∀ (msg : MsgId) (rep : DecisionRep) (s : State), s.msgSeen msg = false →
    s.rcv.missed = false ∨ rep.step.toNat ≠ s.stepNo ∨ s.step.winOpen = true →
    ∃ t, exec (.decisionReply msg rep) s = .next t ∧ Frame [] [.host] s t) ∧
  (∀ (msg : MsgId) (q : MwPair) (s : State), s.msgSeen msg = false →
    (∀ p k h, s.physOf q.tile.val = some p → (s.tile p).waitsOn = some (k, h) → h.remote = true → h.dev = q.dev.toNat → h.tile = q.peer.val →
      (s.tile p).queuedFrom q.dev.toNat q.peer.val = true →
      ∃ t, exec (.mwQuery msg q) s = .next t ∧ t.on Reg.BB_MW_LOCAL_VALID = true ∧ t.on Reg.BB_MW_PEER_VALID = true ∧ t.rd Reg.BB_MW_LOCAL_TILE = q.tile.val ∧ t.rd Reg.BB_MW_PEER_TILE = q.peer.val ∧ t.rd Reg.BB_MW_PEER_DEV = q.dev.toNat ∧
        t.out = s.out ++ [.mgmt msg.src.toNat 0x0C (s.host.msgNum :: [q.tile.val, s.devId.toNat, q.peer.val, 1])] ∧
        Frame [Reg.BB_MW_LOCAL_TILE, Reg.BB_MW_LOCAL_DEV, Reg.BB_MW_LOCAL_VALID, Reg.BB_MW_PEER_TILE, Reg.BB_MW_PEER_DEV, Reg.BB_MW_PEER_VALID] [.host, .out] s t) ∧
    (∀ p, s.physOf q.tile.val = some p → (s.tile p).waitsOn = none ∨ (s.tile p).queuedFrom q.dev.toNat q.peer.val = false →
      ∃ t, exec (.mwQuery msg q) s = .next t ∧
        t.out = s.out ++ [.mgmt msg.src.toNat 0x0C (s.host.msgNum :: [q.tile.val, s.devId.toNat, q.peer.val, 0])] ∧
        Frame [] [.host, .out] s t) ∧
    (q.confirmed = true →
      ∃ t, exec (.mwReply msg q) s = .next t ∧ t.on Reg.BB_MW_LOCAL_VALID = true ∧ t.on Reg.BB_MW_PEER_VALID = true ∧ t.rd Reg.BB_MW_LOCAL_TILE = q.tile.val ∧ t.rd Reg.BB_MW_PEER_TILE = q.peer.val ∧ t.rd Reg.BB_MW_PEER_DEV = q.dev.toNat ∧ Frame [Reg.BB_MW_LOCAL_TILE, Reg.BB_MW_LOCAL_DEV, Reg.BB_MW_LOCAL_VALID, Reg.BB_MW_PEER_TILE, Reg.BB_MW_PEER_DEV, Reg.BB_MW_PEER_VALID] [.host] s t) ∧
    (q.confirmed = false → ∃ t, exec (.mwReply msg q) s = .next t ∧ Frame [] [.host] s t))

/-- When firmware has carried out the rewind in a roll-back window, no fault is open any more, every tile that the
state lists is idle with its registers, flags, requests and fault record clear, every stream is back at the descriptor
it held at the start of the step, and the recovery state is 4; GDDR7 is unchanged; where a fault that joined the
rewind calls for it, the job ends visibly instead. Outside the window, or where no rewind is called for, nothing
changes. A rewind that has not ended by its limit at the manager, with no budget held by a lower layer, ends the job
visibly; with one, the limit moves once by it; before the limit, or at another device, nothing changes. A core that
has not resumed its objects 50 ms after its watchdog expired opens a fault of layer 10 if it owns any; a budget of a
lower layer extends that time once; a core that has resumed, or one before that time, opens none.
(12_faults_and_replay.md R388, 12_faults_and_replay.md R392, 12_faults_and_replay.md R393, 12_faults_and_replay.md
R398, 12_faults_and_replay.md R401, 12_faults_and_replay.md R403, 12_faults_and_replay.md R413,
12_faults_and_replay.md R414, 03_tile.md R108) -/
def Obligations.RewindsAndThawsEnd : Prop :=
  (∀ s : State,
    (s.phase = phHem → s.rd Reg.JB_RCV_STAT_STATE = 2 ∨ s.rd Reg.JB_RCV_STAT_STATE = 3 → s.endingFault 0 = none →
      ∃ t, exec .rewindDone s = .next t ∧ t.rd Reg.JB_RCV_STAT_STATE = 4 ∧ t.rcv.opens = [] ∧ t.rcv.fault = none ∧
        t.rd Reg.PT_STAT_LOADER = 0 ∧ (∀ p, (t.tile p).mode = .idle ∧ (t.tile p).g = [] ∧ (t.tile p).p = 0 ∧ (t.tile p).flags = 0 ∧
          (t.tile p).fault.valid = false ∧ (t.tile p).reqs = [] ∧ (t.tile p).blocked = none) ∧
        (∀ e ∈ t.streams, ∃ x ∈ s.streams, e.1 = x.1 ∧ e.2.idx = x.2.startIdx ∧ e.2.desc = [] ∧ e.2.landing = [] ∧ e.2.tails = [] ∧
          e.2.state ≠ 3 ∧ e.2.state ≠ 4) ∧
        Frame [Reg.FW_LOG_WP_SEQ, Reg.FW_CNT_LOGDROP_COUNT, Reg.JB_RCV_CNT_REMAPS, Reg.JB_RCV_CNT_RESTORES, Reg.JB_RCV_STAT_STATE,
          Reg.PT_STAT_LOADER] [.poison, .tiles, .streams, .fab, .seam, .rcv, .ring, .host] s t) ∧
    (∀ r, s.phase = phHem → s.rd Reg.JB_RCV_STAT_STATE = 2 ∨ s.rd Reg.JB_RCV_STAT_STATE = 3 → s.endingFault 0 = some r →
      ∃ t, exec .rewindDone s = .next t ∧ t.jobState = jbEnded ∧ t.rd Reg.JB_RCV_STAT_STATE = 5 ∧ t.phase = phIdle ∧
        t.rd Reg.JB_RCV_LAST_0_LAYER = r.layer % 2 ^ Reg.JB_RCV_LAST_0_LAYER.width ∧
        t.rd Reg.JB_RCV_LAST_0_CODE = r.code % 2 ^ Reg.JB_RCV_LAST_0_CODE.width ∧ t.on Reg.JB_RCV_LAST_0_ENDED = true ∧
        Frame ([Reg.JB_STAT_STATE, Reg.TK_STAT_PHASE, Reg.FW_LOG_WP_SEQ, Reg.FW_CNT_LOGDROP_COUNT] ++ openFields)
          [.rcv, .ring, .host] s t) ∧
    (s.phase ≠ phHem ∨ (s.rd Reg.JB_RCV_STAT_STATE ≠ 2 ∧ s.rd Reg.JB_RCV_STAT_STATE ≠ 3) → exec .rewindDone s = .next s)) ∧
  (∀ s : State, s.isRoot = true → s.phase = phHem → 2 ≤ s.rd Reg.JB_RCV_STAT_STATE → s.rd Reg.JB_RCV_STAT_STATE ≤ 4 → s.step.startAt = none →
    (s.rcv.rewindBy ≤ s.now → s.heldBudget = none ∨ s.heldBudget = some 0 ∨ s.rcv.rewindMore = true →
      ∃ t, exec .rewindTimeout s = .next t ∧ t.jobState = jbEnded ∧ t.rd Reg.JB_RCV_STAT_STATE = 5 ∧ t.phase = phIdle ∧
        t.rd Reg.JB_RCV_LAST_0_LAYER = 11 ∧ t.rd Reg.JB_RCV_LAST_0_CODE = 1 ∧ t.on Reg.JB_RCV_LAST_0_ENDED = true ∧
        Frame ([Reg.JB_STAT_STATE, Reg.TK_STAT_PHASE, Reg.FW_LOG_WP_SEQ, Reg.FW_CNT_LOGDROP_COUNT] ++ openFields)
          [.rcv, .ring, .host] s t) ∧
    (∀ n, s.rcv.rewindBy ≤ s.now → s.heldBudget = some n → n ≠ 0 → s.rcv.rewindMore = false →
      ∃ t, exec .rewindTimeout s = .next t ∧ t.rcv.rewindBy = s.rcv.rewindBy + n ∧ t.rcv.rewindMore = true ∧ Frame [] [.rcv] s t) ∧
    (s.now < s.rcv.rewindBy → exec .rewindTimeout s = .next s)) ∧
  (∀ s : State, s.isRoot = false ∨ s.phase ≠ phHem → exec .rewindTimeout s = .next s) ∧
  (∀ (core : Fin 20) (resumed : Bool) (s : State) (a : Nat), s.host.cores.length = 20 →
    (nth s.host.cores core.val {}).thawAt = some a →
    (a + 50000000 ≤ s.now → resumed = false → ownsObjects core.val = true →
      (s.heldBudget = none ∨ s.heldBudget = some 0 ∨ (nth s.host.cores core.val {}).thawMore = true) →
      ∃ t r, exec (.thawWindowExpiry core resumed) s = .next t ∧ r ∈ t.rcv.opens ∧ r.layer = 10 ∧ r.code = 1 ∧
        (nth t.host.cores core.val {}).thawAt = none ∧ Frame openFields [.harvest, .host, .rcv, .out] s t) ∧
    (∀ n, a + 50000000 ≤ s.now → resumed = false → ownsObjects core.val = true → s.heldBudget = some n → n ≠ 0 →
      (nth s.host.cores core.val {}).thawMore = false →
      ∃ t, exec (.thawWindowExpiry core resumed) s = .next t ∧ (nth t.host.cores core.val {}).thawAt = some (a + n) ∧
        (nth t.host.cores core.val {}).thawMore = true ∧ Frame [] [.host] s t) ∧
    (a + 50000000 ≤ s.now → resumed = true ∨ ownsObjects core.val = false →
      ∃ t, exec (.thawWindowExpiry core resumed) s = .next t ∧ (nth t.host.cores core.val {}).thawAt = none ∧ Frame [] [.host] s t) ∧
    (s.now < a + 50000000 → exec (.thawWindowExpiry core resumed) s = .next s)) ∧
  (∀ (core : Fin 20) (resumed : Bool) (s : State), (nth s.host.cores core.val {}).thawAt = none →
    exec (.thawWindowExpiry core resumed) s = .next s)

/-- A qualified input closes an open switch with a P reset: every register field reads its reset value on a device of
grade A, nothing is left of memory, tiles and links, and fuses and NVM are kept. An input fault or a short circuit on
a powered module does the same with the cause recorded. A warm reset with its key, a PLDM reset and the release of a
trip keep the switch and record their cause; under a trip a requested one is only held. A trip of a powered module
turns tiles and memory off. The log ring alone may hold the records of a new boot. The bulk charge boots: to stage 7
in ISOLATED where every stage passes, and with BOOT_ERR naming the stage where the image or the configuration is
refused. A PCIe reset disarms the crossings, clears the driver's words, the IDE streams and the unlock, and leaves
memory, links and the step alone. Where a condition does not hold, nothing changes. (14_module_power_cooling.md R443,
14_module_power_cooling.md R444, 14_module_power_cooling.md R445, 14_module_power_cooling.md R446,
14_module_power_cooling.md R453, 15_reset_and_selftest.md R465, 15_reset_and_selftest.md R466,
15_reset_and_selftest.md R468, 15_reset_and_selftest.md R481, 13_firmware_and_host.md R417) -/
def Obligations.InputFaultsAndResetsClearTheDevice : Prop :=
  (∀ s : State,
    (s.power.closed = false → ∃ t, exec .inputQualified s = .next t ∧ t.power.closed = true ∧ t.power.bulk = false ∧ (s.sec.gradeB = false → ∀ f : Fld, t.rd f = f.reset) ∧ t.mem = [] ∧ t.tiles = [] ∧ t.links = [] ∧ t.time.running = false ∧ t.test.nvm = s.test.nvm ∧ t.sec.fwSvn = s.sec.fwSvn ∧ t.sec.images = s.sec.images ∧ t.pending = s.pending) ∧
    (s.power.closed = true → exec .inputQualified s = .next s) ∧
    (∃ t, exec .enableContactBreak s = .next t ∧ t.power.closed = false ∧ t.power.mated = false ∧ t.power.bulk = s.power.bulk ∧
      Frame [] [.power] s t) ∧
    (∀ k, s.powered = true → ∃ t, exec (.inputFault k) s = .next t ∧ t.power.closed = false ∧ t.power.bulk = false ∧ t.power.afterFault = true ∧ t.power.cause = inputCode k :: (if s.power.trip then [4] else []) ∧ (s.sec.gradeB = false → ∀ f : Fld, t.rd f = f.reset) ∧ t.mem = [] ∧ t.tiles = [] ∧ t.links = [] ∧ t.time.running = false ∧ t.test.nvm = s.test.nvm ∧ t.sec.fwSvn = s.sec.fwSvn ∧ t.sec.images = s.sec.images ∧ t.pending = s.pending) ∧
    (s.powered = true → ∃ t, exec .shortCircuit s = .next t ∧ t.power.closed = false ∧ t.power.bulk = false ∧ t.power.afterFault = true ∧ t.power.cause = 3 :: (if s.power.trip then [4] else []) ∧ (s.sec.gradeB = false → ∀ f : Fld, t.rd f = f.reset) ∧ t.mem = [] ∧ t.tiles = [] ∧ t.links = [] ∧ t.time.running = false ∧ t.test.nvm = s.test.nvm ∧ t.sec.fwSvn = s.sec.fwSvn ∧ t.sec.images = s.sec.images ∧ t.pending = s.pending) ∧
    (∀ k, s.powered = false → exec (.inputFault k) s = .next s ∧ exec .shortCircuit s = .next s) ∧
    (∃ t, exec .inputGlitch s = .next t ∧ t.rd Reg.PW_EVT_GLITCH = min (s.rd Reg.PW_EVT_GLITCH + 1) 255 ∧
      Frame [Reg.PW_EVT_GLITCH] [] s t)) ∧
  (∀ (v : Word32) (env : BootEnv) (s : State),
    (Reg.BI_RST_WARM.pick v.toNat = 1 → Reg.BI_RST_KEY.pick v.toNat = 0x5754 →
      (s.power.trip = false → s.power.bulk = true → ∃ t, exec (.warmReset v env) s = .next t ∧ t.rd Reg.BI_CAUSE_KIND = 1 ∧ t.rd Reg.BI_CAUSE_CAUSE = 1 ∧ t.mem.filter (fun c => !inRing c.1) = [] ∧ t.tiles = [] ∧ t.time.running = false ∧ t.power.trip = false ∧ t.power.closed = s.power.closed ∧ t.power.bulk = s.power.bulk ∧ t.test.nvm = s.test.nvm ∧ t.sec.fwSvn = s.sec.fwSvn ∧ t.pending = s.pending) ∧
      (s.power.trip = true → ∃ t, exec (.warmReset v env) s = .next t ∧ t.power.heldW = true ∧ t.power.trip = true ∧
        Frame [] [.power] s t) ∧
      (s.power.trip = false → s.power.bulk = false → exec (.warmReset v env) s = .next s)) ∧
    (¬(Reg.BI_RST_WARM.pick v.toNat = 1 ∧ Reg.BI_RST_KEY.pick v.toNat = 0x5754) → exec (.warmReset v env) s = .next s) ∧
    (s.power.trip = false → s.power.bulk = true → ∃ t, exec (.pldmReset env) s = .next t ∧ t.rd Reg.BI_CAUSE_KIND = 1 ∧ t.rd Reg.BI_CAUSE_CAUSE = 2 ∧ t.mem.filter (fun c => !inRing c.1) = [] ∧ t.tiles = [] ∧ t.time.running = false ∧ t.power.trip = false ∧ t.power.closed = s.power.closed ∧ t.power.bulk = s.power.bulk ∧ t.test.nvm = s.test.nvm ∧ t.sec.fwSvn = s.sec.fwSvn ∧ t.pending = s.pending) ∧
    (s.power.trip = true → ∃ t, exec (.pldmReset env) s = .next t ∧ t.power.heldW = true ∧ Frame [] [.power] s t) ∧
    (s.power.trip = false → s.power.bulk = false → exec (.pldmReset env) s = .next s)) ∧
  (∀ (x : TempReadings) (env : BootEnv) (s : State),
    (s.power.trip = true → s.safeHeat x = true → ∃ t, exec (.tripRelease x env) s = .next t ∧ t.rd Reg.BI_CAUSE_KIND = 1 ∧ t.rd Reg.BI_CAUSE_CAUSE = 3 ∧ t.mem.filter (fun c => !inRing c.1) = [] ∧ t.tiles = [] ∧ t.time.running = false ∧ t.power.trip = false ∧ t.power.closed = s.power.closed ∧ t.power.bulk = s.power.bulk ∧ t.test.nvm = s.test.nvm ∧ t.sec.fwSvn = s.sec.fwSvn ∧ t.pending = s.pending) ∧
    (s.power.trip = false ∨ s.safeHeat x = false → exec (.tripRelease x env) s = .next s) ∧
    (s.powered = true → s.power.trip = false → (∃ d < 8, 105 ≤ dieHeat x d) ∨ 100 ≤ gddrHeat x →
      ∃ t, exec (.thermalTrip x) s = .next t ∧ t.power.trip = true ∧ t.power.cause = [4] ∧ t.on Reg.PW_EVT_TRIP = true ∧
        t.tiles = [] ∧ t.mem = [] ∧ t.out.getLast? = some .alert ∧
        (∀ q, q ∉ [StatePart.fab, .harvest, .host, .links, .mem, .ring, .out, .poison, .power, .seam, .step, .streams, .tiles] → q.Same s t)) ∧
    (s.powered = false ∨ s.power.trip = true ∨ ((∀ d < 8, dieHeat x d < 105) ∧ gddrHeat x < 100) → exec (.thermalTrip x) s = .next s)) ∧
  (∀ (env : BootEnv) (s r : State), s.power.closed = true → s.power.bulk = false →
    r = State.bootRom { s with power := { s.power with bulk := true } } env →
    (r.bootImage = none →
      ∃ t, exec (.bulkCharged env) s = .next t ∧ t.rd Reg.FW_STAT_STAGE = 2 ∧ t.rd Reg.FW_STAT_BOOT_ERR = 33 ∧ t.power.bulk = true) ∧
    (∀ u w, r.bootImage = some u → w = u.wr Reg.PW_EVT_PREV (u.power.cause.head?.getD 0) →
      (w.bootConfig = none →
        ∃ t, exec (.bulkCharged env) s = .next t ∧ t.rd Reg.FW_STAT_STAGE = 3 ∧ t.rd Reg.FW_STAT_BOOT_ERR = 49) ∧
      (∀ v, w.bootConfig = some v → ((v.wr Reg.FW_STAT_STAGE 4).selfTest env).rd Reg.BI_STAT_STOP = 0 → env.gddr = [] →
        ∃ t, exec (.bulkCharged env) s = .next t ∧ t.rd Reg.FW_STAT_STAGE = 7 ∧ t.tstate = tsIsolated ∧
          t.rd (Reg.MM_STAT_STATE 0) = 2 ∧ t.rd (Reg.MM_STAT_STATE 1) = 2 ∧ t.power.bulk = true))) ∧
  (∀ (env : BootEnv) (s : State), s.power.closed = false ∨ s.power.bulk = true → exec (.bulkCharged env) s = .next s) ∧
  (∀ s : State,
    (∃ t, exec .pcieReset s = .next t ∧ t.rd Reg.BI_XARM_DONE = 0 ∧ (∀ a < driverWords, smFind t.host.bar4 a = none) ∧ t.host.request = 0 ∧
      t.host.features = 0 ∧ t.sec.ide = [] ∧ t.sec.unlocked = none ∧ (∀ x ∈ t.snaps, x.port ≠ .host) ∧
      (∀ q, q ∉ [StatePart.host, .sec, .snaps, .test, .tiles] → q.Same s t)) ∧
    (∃ t, exec .pcieXarm s = .next t ∧ t.test.pcieArming = true ∧ Frame [] [.test] s t) ∧
    (s.test.pcieArming = true → ∃ t, exec .pcieXarmDone s = .next t ∧ t.on Reg.BI_XARM_DONE = true ∧ t.test.pcieArming = false ∧
      Frame [Reg.BI_XARM_DONE] [.test] s t) ∧
    (s.test.pcieArming = false → exec .pcieXarmDone s = .next s))

/-- At an AT that is a multiple of 1,000, once, an evaluation takes the sample; in a Seam, at its start or with fewer
than 500 compute cycles it changes no credit and no stutter; else a stutter follows its rule, a device that does not
lend holds no credits, and, from no credits, no die lends more than it offers and none borrows more than it wants
within 520 W. A limit is written at idle, staged at a Hem, and else only counted. A thermal check moves each compute
die's reduction by one step at most and raises the alert where one throttles. A reading that times out takes its
fail-safe value; without an input sample the module takes an input fault. A power state that may be entered is entered
through its transition; one that may not is refused. A sensor read answers with the reading, and with none for the
power of a die. (14_module_power_cooling.md R447, 14_module_power_cooling.md R448, 14_module_power_cooling.md R449,
14_module_power_cooling.md R451, 14_module_power_cooling.md R452, 14_module_power_cooling.md R454,
14_module_power_cooling.md R455, 14_module_power_cooling.md R457, 14_module_power_cooling.md R459,
14_module_power_cooling.md R462) -/
def Obligations.PowerFollowsItsBudget : Prop :=
  (∀ (x : PowerSample) (s : State),
    (s.now % 1000 ≠ 0 ∨ s.power.evalAt = some s.now → exec (.powerEvaluation x) s = .next s) ∧
    (s.now % 1000 = 0 → s.power.evalAt ≠ some s.now → (∀ d < 8, nth x.dies.toList d 0 ≤ 1000000) →
      ∃ t, exec (.powerEvaluation x) s = .next t ∧ t.power.evalAt = some s.now ∧ t.power.energy = s.power.energy + x.watts ∧
        t.power.power = x.dies.toList ∧ Frame [] [.power] s t ∧
        (s.on Reg.TK_STAT_IN_SEAM = true ∨ s.seam.seamAt = some s.now ∨ s.computeCycles < 500 →
          t.power.credits = s.power.credits ∧ t.power.stutter = s.power.stutter) ∧
        (s.on Reg.TK_STAT_IN_SEAM = false → s.seam.seamAt ≠ some s.now → 500 ≤ s.computeCycles → ∀ d < 4,
          nth t.power.stutter d 0 = (if s.on Reg.PW_CTL_STUT_EN = true
            then nextStutter (nth x.dies.toList d 0) (s.allow t.power.credits d) (nth s.power.stutter d 0) else 0)) ∧
        (s.on Reg.TK_STAT_IN_SEAM = false → s.seam.seamAt ≠ some s.now → 500 ≤ s.computeCycles → s.on Reg.PW_CTL_LEND_EN = false → t.power.credits = []) ∧
        (s.on Reg.TK_STAT_IN_SEAM = false → s.seam.seamAt ≠ some s.now → 500 ≤ s.computeCycles → s.power.credits = [] → ∀ d < 8,
          lentBy t.power.credits d ≤ s.ownAllow d - nth x.dies.toList d 0 - 1000 * s.rd Reg.PW_CTL_MARGIN ∧
          borrowedBy t.power.credits d ≤ min (nth x.dies.toList d 0 - s.ownAllow d) (520000 - s.ownAllow d)))) ∧
  (∀ (p a n : Nat), n ≤ 56 → nextStutter p a n ≤ 56 ∧ (a < p → n ≤ nextStutter p a n) ∧ (p ≤ a → nextStutter p a n ≤ n)) ∧
  (∀ (v : Word32) (s : State),
    (s.phase = phIdle → ∃ t, exec (.powerLimitWrite v) s = .next t ∧ t.rd Reg.PW_LIMIT_MODULE = v.toNat % 2 ^ 12 ∧
      Frame [Reg.PW_LIMIT_MODULE] [] s t) ∧
    (s.phase = phHem → ∃ t, exec (.powerLimitWrite v) s = .next t ∧ t.step.limitStaged = some v.toNat ∧ Frame [] [.step] s t) ∧
    (s.phase ≠ phIdle → s.phase ≠ phHem → ∃ t, exec (.powerLimitWrite v) s = .next t ∧ Frame [Reg.FW_CNT_RANGE_HOST] [] s t)) ∧
  (∀ (x : TempReadings) (s : State),
    ∃ t, exec (.thermalCheck x) s = .next t ∧ t.power.temps = x ∧
      (∀ d < 4, nth t.power.reduced d 0 = (if s.throttles x d = true then min 10 (nth s.power.reduced d 0 + 1)
        else if s.cooled x d = true then nth s.power.reduced d 0 - 1 else nth s.power.reduced d 0)) ∧
      ((∃ d < 4, s.throttles x d = true) → t.on Reg.PW_STAT_THERM = true ∧ t.out = s.out ++ [.alert]) ∧
      ((∀ d < 4, s.throttles x d = false) → t.regs = s.regs ∧ t.out = s.out) ∧
      t.power.stutter = s.power.stutter ∧ t.power.credits = s.power.credits ∧ Frame [Reg.PW_STAT_THERM] [.power, .out] s t) ∧
  (∀ s : State,
    (∃ t, exec .lowflow s = .next t ∧ t.on Reg.PW_STAT_LOWFLOW = true ∧ t.out = s.out ++ [.alert] ∧
      Frame [Reg.PW_STAT_LOWFLOW] [.out] s t) ∧
    (s.powered = true → (∃ t, exec (.sensorTimeout .volts) s = .next t ∧ t.power.cause.head? = some 1 ∧ t.mem = [] ∧ t.tiles = []) ∧
      (∃ t, exec (.sensorTimeout .amps) s = .next t ∧ t.power.cause.head? = some 3 ∧ t.mem = [] ∧ t.tiles = [])) ∧
    (∀ d : Fin 8, (∃ t, exec (.sensorTimeout (.dieTemp d)) s = .next t ∧ t.on Reg.PW_STAT_STALE = true ∧ t.out = s.out ++ [.alert] ∧
        dieHeat t.power.temps d.val = s.dieLimit ∧ (∀ e < 8, e ≠ d.val → dieHeat t.power.temps e = dieHeat s.power.temps e) ∧
        Frame [Reg.PW_STAT_STALE] [.power, .out] s t) ∧
      (∃ t, exec (.sensorTimeout (.diePower d)) s = .next t ∧ t.on Reg.PW_STAT_STALE = true ∧ t.out = s.out ++ [.alert] ∧
        (s.power.stutter.length = 4 → d.val < 4 → nth t.power.stutter d.val 0 = 56) ∧
        (∀ e, e ≠ d.val → nth t.power.stutter e 0 = nth s.power.stutter e 0) ∧ Frame [Reg.PW_STAT_STALE] [.power, .out] s t)) ∧
    (∀ x ∈ [SensorId.inlet, .outlet], ∃ t, exec (.sensorTimeout x) s = .next t ∧ t.on Reg.PW_STAT_STALE = true ∧
      t.out = s.out ++ [.alert] ∧ Frame [Reg.PW_STAT_STALE] [.out] s t) ∧
    (∀ x ∈ [SensorId.watts, .powerState], exec (.sensorTimeout x) s = .next s) ∧
    (s.powered = false → exec (.sensorTimeout .volts) s = .next s ∧ exec (.sensorTimeout .amps) s = .next s) ∧
    (∃ t, exec (.sensorTimeout .gddr) s = .next t ∧ gddrHeat t.power.temps = s.gddrLimit ∧ t.on Reg.PW_STAT_STALE = true ∧
      Frame [Reg.PW_STAT_STALE] [.power, .out] s t) ∧
    (∀ x v, s.sensor x = some v → exec (.pldmSensorRead x) s = .next (s.emit (.reply 0 (natLe v 4)))) ∧
    (∀ d : Fin 8, exec (.pldmSensorRead (.diePower d)) s = .next s) ∧ (∀ x, (∀ d, x ≠ .diePower d) → (s.sensor x).isSome = true) ∧
    (∀ d : Fin 8, s.sensor (.dieTemp d) = some (dieHeat s.power.temps d.val)) ∧ s.sensor .volts = some s.power.volts) ∧
  (∀ s : State, s.on Reg.PW_STAT_TRANS = false → s.rd Reg.PW_REQ_STATE ≠ s.rd Reg.PW_STAT_STATE →
    (s.mayEnter (s.rd Reg.PW_REQ_STATE) = true →
      ∃ t, exec .powerStateRequest s = .next t ∧ t.on Reg.PW_STAT_TRANS = true ∧ t.power.target = some (s.rd Reg.PW_REQ_STATE) ∧
        Frame [Reg.PW_STAT_TRANS] [.power] s t) ∧
    (s.mayEnter (s.rd Reg.PW_REQ_STATE) = false →
      ∃ t, exec .powerStateRequest s = .next t ∧ t.on Reg.PW_STAT_REFUSED = true ∧ Frame [Reg.PW_STAT_REFUSED] [] s t)) ∧
  (∀ s : State, s.on Reg.PW_STAT_TRANS = true ∨ s.rd Reg.PW_REQ_STATE = s.rd Reg.PW_STAT_STATE → exec .powerStateRequest s = .next s) ∧
  (∀ s : State,
    (s.power.target = none → exec .powerTransitionDone s = .next s) ∧
    (∀ r, s.power.target = some r → r < 4 →
      ∃ t, exec .powerTransitionDone s = .next t ∧ t.rd Reg.PW_STAT_STATE = r ∧ t.on Reg.PW_STAT_TRANS = false ∧ t.power.target = none ∧
        t.out = s.out ++ [.alert] ∧ t.mem = s.mem ∧ t.now = s.now ∧
        (s.rd Reg.PW_STAT_STATE < 2 → 2 ≤ r → t.tiles = [] ∧ t.on (Reg.MM_STAT_SELFREF 0) = true ∧ t.on (Reg.MM_STAT_SELFREF 1) = true ∧
          Frame [Reg.PW_STAT_STATE, Reg.PW_STAT_TRANS, Reg.MM_STAT_SELFREF 0, Reg.MM_STAT_SELFREF 1] [.power, .out, .tiles] s t) ∧
        (s.rd Reg.PW_STAT_STATE < 2 → r < 2 → Frame [Reg.PW_STAT_STATE, Reg.PW_STAT_TRANS] [.power, .out] s t) ∧
        (s.rd Reg.PW_STAT_STATE = 3 → 2 ≤ r → t.tiles = [] ∧ t.on (Reg.MM_STAT_SELFREF 0) = true ∧
          t.on (Reg.MM_STAT_SELFREF 1) = true) ∧
        (s.rd Reg.PW_STAT_STATE = 3 ∨ (s.rd Reg.PW_STAT_STATE = 2 ∧ r < 2) →
          t.rd (Reg.MM_STAT_STATE 0) = 2 ∧ t.rd (Reg.MM_STAT_STATE 1) = 2 ∧ t.sec.unlocked = none)))

/-- A test starts with no job and the phase idle, if none runs and its code is not the reserved one; another request
is refused, and one while a test runs changes nothing. A result of a tile that cannot be used marks and records its
position and reads as failed, one that passes reads as passed and changes no row; either way the tile is at its reset
values. A result of any unit ends its test with what it shows, and leaves a link core's link at its reset values,
FAILED if it cannot be used; one of a unit that is not under test changes nothing. A running core whose watchdog
expires thaws alone and is counted; with eight thaws in 60 s a fault of layer 10, code 2, opens. One that expires
during a scrub is held. A thaw ends with the watchdog armed anew. (15_reset_and_selftest.md R469,
15_reset_and_selftest.md R470, 15_reset_and_selftest.md R472, 15_reset_and_selftest.md R474, 15_reset_and_selftest.md
R476, 13_firmware_and_host.md R420, 12_faults_and_replay.md R393, 15_reset_and_selftest.md R467) -/
def Obligations.UnitTestsAndCoreThaws : Prop :=
  (∀ s : State,
    (s.jobState = jbEmpty → s.phase = phIdle → s.test.running = none → s.rd Reg.BI_REQ_TEST ≠ 3 →
      ∃ t, exec .ondemandTest s = .next t ∧ t.rd Reg.BI_STAT_STATE = 1 ∧ t.test.running = some (s.rd Reg.BI_REQ_UNIT) ∧
        Frame [Reg.BI_STAT_STATE] [.test] s t) ∧
    (s.jobState ≠ jbEmpty ∨ s.phase ≠ phIdle ∨ s.rd Reg.BI_REQ_TEST = 3 → s.test.running = none →
      ∃ t, exec .ondemandTest s = .next t ∧ t.rd Reg.BI_STAT_STATE = 3 ∧ Frame [Reg.BI_STAT_STATE] [] s t) ∧
    (s.test.running ≠ none → exec .ondemandTest s = .next s)) ∧
  (∀ (r : TestResult) (s : State),
    (s.test.running = none → exec (.ondemandTestDone r) s = .next s) ∧
    (s.test.running = some r.unit.toNat → r.kind = .tile →
      let p := unitDie r.unit.toNat * 1584 + unitIndex r.unit.toNat
      (r.logicFail = true →
        ∃ t, exec (.ondemandTestDone r) s = .next t ∧ t.test.running = none ∧ t.rd Reg.BI_STAT_STATE = 3 ∧ p ∈ t.test.bad ∧
          (p ∈ t.test.nvm ∨ t.on Reg.BI_NVREC_FULL = true) ∧
          t.rd Reg.BI_REPAIR_UNUSABLE = min (s.rd Reg.BI_REPAIR_UNUSABLE + 1) (2 ^ Reg.BI_REPAIR_UNUSABLE.width - 1) ∧
          t.tile p = {} ∧ OtherTiles [p] s t ∧
          Frame [Reg.BI_FAIL_ADDR_ADDR, Reg.BI_FAIL_ADDR_MACRO, Reg.BI_FAIL_BIT_BIT, Reg.BI_FAIL_UNIT_LOGIC, Reg.BI_FAIL_UNIT_REPAIRED,
              Reg.BI_FAIL_UNIT_UNIT, Reg.BI_FAIL_UNIT_VALID, Reg.BI_NVREC_FULL, Reg.BI_REPAIR_SPARES, Reg.BI_REPAIR_UNUSABLE,
              Reg.BI_SIG_HI_VALUE, Reg.BI_SIG_LO_VALUE, Reg.BI_STAT_DIE, Reg.BI_STAT_STATE, Reg.BI_STAT_STOP]
            [.fab, .test, .tiles] s t) ∧
      (r.logicFail = false → r.memFail = false →
        ∃ t, exec (.ondemandTestDone r) s = .next t ∧ t.test.running = none ∧ t.rd Reg.BI_STAT_STATE = 2 ∧
          t.test.bad = s.test.bad ∧ t.test.nvm = s.test.nvm ∧ t.fab = s.fab ∧ t.tile p = {} ∧ OtherTiles [p] s t ∧
          Frame [Reg.BI_STAT_STATE] [.test, .tiles] s t)) ∧
    (∀ u, s.test.running = some u → u ≠ r.unit.toNat → exec (.ondemandTestDone r) s = .next s) ∧
    (s.test.running = some r.unit.toNat →
      ∃ t, exec (.ondemandTestDone r) s = .next t ∧ t.test.running = none ∧ t.rd Reg.BI_STAT_STATE = (if s.unusable r = true then 3 else 2) ∧
        (∀ n, r.kind = .xLink n → t.link n.val = {} ∧ t.lkState n.val = (if s.unusable r = true then lkFailed else lkDown)) ∧
        (∀ q, q ∉ [StatePart.fab, .links, .test, .tiles, .time] → q.Same s t))) ∧
  (∀ (core : Fin 20) (s : State), s.host.cores.length = 20 →
    ((nth s.host.cores core.val {}).state = 0 → s.jobState ≠ jbScrubbing →
      ∃ t, exec (.coreWatchdog core) s = .next t ∧ (nth t.host.cores core.val {}).state = 1 ∧ (nth t.host.cores core.val {}).thawAt = some s.now ∧
        (nth t.host.cores core.val {}).thaws = min 0xFFFF ((nth s.host.cores core.val {}).thaws + 1) ∧ (∀ i, i ≠ core.val → nth t.host.cores i {} = nth s.host.cores i {}) ∧
        (8 ≤ (((nth s.host.cores core.val {}).lately s.now).length + 1) ∨ 8 ≤ (nth s.host.cores core.val {}).recent.length →
          ∃ r, t.rcv.opens = s.rcv.opens ++ [r] ∧ r.layer = 10 ∧ r.code = 2) ∧
        (((nth s.host.cores core.val {}).lately s.now).length + 1 < 8 → (nth s.host.cores core.val {}).recent.length < 8 → t.rcv = s.rcv) ∧
        (∀ q, q ∉ [StatePart.host, .out, .rcv, .ring] → q.Same s t)) ∧
    ((nth s.host.cores core.val {}).state = 0 → s.jobState = jbScrubbing →
      ∃ t, exec (.coreWatchdog core) s = .next t ∧ core.val ∈ t.host.heldT ∧ t.host.cores = s.host.cores ∧ Frame [] [.host] s t) ∧
    ((nth s.host.cores core.val {}).state ≠ 0 → exec (.coreWatchdog core) s = .next s) ∧
    ((nth s.host.cores core.val {}).state = 1 →
      ∃ t, exec (.coreThawDone core) s = .next t ∧ (nth t.host.cores core.val {}).state = 0 ∧ (nth t.host.cores core.val {}).armedAt = s.now ∧
        (∀ i, i ≠ core.val → nth t.host.cores i {} = nth s.host.cores i {}) ∧ Frame [] [.host] s t) ∧
    ((nth s.host.cores core.val {}).state ≠ 1 → exec (.coreThawDone core) s = .next s))

/-- With ATTACH at 1 and the PCIe crossings armed a request ends it: another major version writes ATT_STATE 2 and a
bad beat address or period writes 3, with nothing else changed; otherwise the agreed version and features are
written, ATT_STATE is 1 and the beat starts. A loss that the same scan finds is recorded first. With ATTACH at 2 an
attached device is detached and its heartbeat lost. A lost heartbeat stops the beat and sets HB_LOST; with
UNATTENDED 0 and a job between LOADING and PARKED the device then holds a park request with reason DRIVER, with
UNATTENDED 1 it takes none. A due beat is one run of 256 bytes that carry the count on both ends, the AT and the CRC
of what is before it. The frames name what changes; where a condition does not hold, nothing does.
(13_firmware_and_host.md R422, 13_firmware_and_host.md R423, 13_firmware_and_host.md R424, 13_firmware_and_host.md
R425, 13_firmware_and_host.md R436, 15_reset_and_selftest.md R481) -/
def Obligations.HostsAttachAndBeatsAreWritten : Prop :=
  (∀ s : State, s.host.request = 1 → s.on Reg.BI_XARM_DONE = true →
    (s.host.lossDue = false → s.b4 b4DrvVer / 65536 ≠ 1 →
      ∃ t, exec .attach s = .next t ∧ t.b4 attState = 2 ∧ t.host.request = 0 ∧ t.host.features = s.host.features ∧
        t.host.beatSince = s.host.beatSince ∧ (∀ o, o ≠ attState → t.b4 o = s.b4 o) ∧ Frame [] [.host] s t) ∧
    (s.host.lossDue = false → s.b4 b4DrvVer / 65536 = 1 →
      s.b4 b4BeatAddr % 256 ≠ 0 ∨ s.b4 b4BeatUs < 10 ∨ 10000 < s.b4 b4BeatUs →
      ∃ t, exec .attach s = .next t ∧ t.b4 attState = 3 ∧ t.host.request = 0 ∧ t.host.features = s.host.features ∧
        t.host.beatSince = s.host.beatSince ∧ (∀ o, o ≠ attState → t.b4 o = s.b4 o) ∧ Frame [] [.host] s t) ∧
    (s.host.lossDue = false → s.b4 b4DrvVer / 65536 = 1 →
      s.b4 b4BeatAddr % 256 = 0 → 10 ≤ s.b4 b4BeatUs → s.b4 b4BeatUs ≤ 10000 →
      ∃ t, exec .attach s = .next t ∧ t.b4 attState = 1 ∧ t.on Reg.JB_STAT_ATTACHED = true ∧ t.on Reg.JB_STAT_HB_LOST = false ∧
        t.b4 b4AgreedVer = 0x10000 ∧ t.b4 b4AgreedFeat = t.host.features ∧
        (∀ i, t.host.features.testBit i = (decide (i < 7) && (s.b4 b4DrvFeat).testBit i)) ∧
        t.host.beatSince = some s.now ∧ t.host.beatSeq = 0 ∧ t.host.beatUs = s.b4 b4BeatUs ∧
        t.host.beatAddr = s.b4 b4BeatAddr + 2 ^ 32 * s.b4 (b4BeatAddr + 4) ∧ t.host.request = 0 ∧
        (∀ o, o ≠ attState → o ≠ b4AgreedVer → o ≠ b4AgreedFeat → t.b4 o = s.b4 o) ∧
        Frame [Reg.JB_STAT_ATTACHED, Reg.JB_STAT_HB_LOST] [.host] s t) ∧
    (s.host.lossDue = true → s.b4 b4DrvVer / 65536 ≠ 1 →
      ∃ t, exec .attach s = .next t ∧ t.b4 attState = 2 ∧ t.on Reg.JB_STAT_HB_LOST = true ∧ t.host.lossDue = false ∧
        t.host.beatSince = none ∧ t.host.request = 0 ∧ Frame [Reg.JB_STAT_HB_LOST, Reg.JB_STAT_PARKREQ] [.host, .out] s t) ∧
    (s.host.lossDue = true → s.b4 b4DrvVer / 65536 = 1 → s.b4 b4BeatAddr % 256 = 0 → 10 ≤ s.b4 b4BeatUs → s.b4 b4BeatUs ≤ 10000 →
      ∃ t, exec .attach s = .next t ∧ t.b4 attState = 1 ∧ t.on Reg.JB_STAT_ATTACHED = true ∧ t.on Reg.JB_STAT_HB_LOST = false ∧
        t.host.lossDue = false ∧ t.host.beatSince = some s.now ∧ t.host.request = 0 ∧
        Frame [Reg.JB_STAT_ATTACHED, Reg.JB_STAT_HB_LOST, Reg.JB_STAT_PARKREQ] [.host, .out] s t)) ∧
  (∀ s : State, s.host.request ≠ 1 ∨ s.on Reg.BI_XARM_DONE = false → exec .attach s = .next s) ∧
  (∀ s : State,
    (s.host.request = 2 → s.on Reg.JB_STAT_ATTACHED = true →
      ∃ t, exec .detach s = .next t ∧ t.b4 attState = 0 ∧ t.on Reg.JB_STAT_ATTACHED = false ∧ t.on Reg.JB_STAT_HB_LOST = true ∧
        t.host.features = 0 ∧ t.host.request = 0 ∧ (s.on Reg.JB_STAT_HB_LOST = false → t.host.beatSince = none) ∧
        Frame [Reg.JB_STAT_ATTACHED, Reg.JB_STAT_HB_LOST, Reg.JB_STAT_PARKREQ] [.host, .out] s t) ∧
    (s.host.request = 2 → s.on Reg.JB_STAT_ATTACHED = false →
      ∃ t, exec .detach s = .next t ∧ t.host.request = 0 ∧ t.host.bar4 = s.host.bar4 ∧ t.host.features = s.host.features ∧
        Frame [] [.host] s t) ∧
    (s.host.request ≠ 2 → exec .detach s = .next s)) ∧
  (∀ s : State,
    (s.host.lossDue = true ∨ s.heartOverdue = true →
      ∃ t, exec .heartbeatLost s = .next t ∧ t.on Reg.JB_STAT_HB_LOST = true ∧ t.host.beatSince = none ∧ t.host.lossDue = false ∧
        t.host.bar4 = s.host.bar4 ∧ t.jobState = s.jobState ∧
        (s.on Reg.JB_CTL_UNATTENDED = false → jbLoading ≤ s.jobState → s.jobState ≤ jbParked → 2 ∈ t.host.ownPark) ∧
        (s.on Reg.JB_CTL_UNATTENDED = true ∨ s.jobState = jbEmpty ∨ jbParked < s.jobState → t.host.ownPark = s.host.ownPark) ∧
        Frame [Reg.JB_STAT_HB_LOST, Reg.JB_STAT_PARKREQ] [.host, .out] s t) ∧
    (s.host.lossDue = false → s.heartOverdue = false → exec .heartbeatLost s = .next s) ∧
    (∀ t0, s.host.beatSince = some t0 →
      (s.heartOverdue = true ↔ t0 + s.grace ≤ s.now ∧ s.host.hbAt + s.grace ≤ s.now))) ∧
  (∀ s : State,
    (s.host.beatSince ≠ none → s.now % (s.host.beatUs * 1000) = 0 → s.host.beatLast ≠ some s.now →
      ∃ t bs, exec .statusBeat s = .next t ∧ bs.length = 256 ∧ t.out = s.out ++ [.hostWrite s.host.beatAddr bs] ∧
        bs.take 4 = natLe (s.host.beatSeq + 1) 4 ∧ (bs.drop 248).take 4 = natLe (s.host.beatSeq + 1) 4 ∧
        (bs.drop 8).take 8 = natLe s.now 8 ∧ bs.drop 252 = natLe (crc32c (bs.take 252)) 4 ∧
        t.host.beatSeq = s.host.beatSeq + 1 ∧ t.host.beatLast = some s.now ∧ Frame [] [.fresh, .out, .host] s t) ∧
    (s.host.beatSince = none ∨ s.now % (s.host.beatUs * 1000) ≠ 0 ∨ s.host.beatLast = some s.now →
      exec .statusBeat s = .next s))

/-- A LOAD that its slot holds, in an EMPTY device with no test and no LOAD queued before it, either fails its checks,
is answered with that status and changes no job, or begins: LOADING with its slot and ID; a device that is no manager
sends JOB_DIGEST, and a manager that is alone goes on to LOADED. Behind another job, and behind a test, the LOAD waits
in its slot; a test requested in the same cycle yields to it. The manager keeps one digest of each source until every
admitted device has sent one, or 10 s have passed; then it forgets them, and a device whose own digest was not joined
by the others is EMPTY with CHECK. LOAD_OK of the job that is LOADING installs its image and makes it LOADED with
DONE; LOAD_CHECK makes the device EMPTY with CHECK. An answer about another job changes nothing but the record of its
number. (13_firmware_and_host.md R423, 13_firmware_and_host.md R427, 13_firmware_and_host.md R428,
13_firmware_and_host.md R429, 13_firmware_and_host.md R432, 15_reset_and_selftest.md R482) -/
def Obligations.JobsLoadOnceEveryDeviceAgrees : Prop :=
  (∀ (slot : Fin 16) (g : JobImage) (s : State) (o st : Nat), SlotHolds s slot.val opLoad o → s.host.loading ≠ some slot.val →
    s.jobState = jbEmpty → s.test.running = none → s.host.queued = [] →
    st = s.loadStatus slot.val g (s.cmdWord o 2) (s.cmdWord o 4) →
    (st ≠ 0 → ∃ t, exec (.load slot g) s = .next t ∧ Answered s t slot.val st ∧ t.jobState = jbEmpty ∧ t.mem = s.mem ∧
      t.host.img = s.host.img ∧ (st ≠ stCheck → Frame [Reg.FW_CNT_RANGE_HOST] [.host] s t) ∧
      Frame [Reg.PT_ERR_VALID, Reg.PT_ERR_CODE, Reg.PT_ERR_WHERE, Reg.FW_CNT_RANGE_HOST] [.host] s t) ∧
    (st = 0 → s.isRoot = false →
      ∃ t, exec (.load slot g) s = .next t ∧ t.jobState = jbLoading ∧ t.rd Reg.JB_STAT_SLOT = slot.val ∧ t.jobId = g.jobId.toNat ∧
        t.host.loading = some slot.val ∧ t.host.staged = some g ∧ t.host.winBase = s.cmdWord o 3 ∧ t.host.winLen = s.cmdWord o 4 ∧
        t.host.imgAddr = s.cmdWord o 1 ∧ t.host.img = s.host.img ∧ t.host.bar4 = s.host.bar4 ∧ t.tiles = s.tiles ∧
        (∃ n, t.out.getLast? = some (.mgmt s.rootId.toNat 9 [n, g.jobId.toNat, leNat (jobDigest g)])) ∧
        Frame [Reg.JB_STAT_STATE, Reg.JB_STAT_SLOT, Reg.JB_ID_LO_VALUE, Reg.JB_ID_HI_VALUE, Reg.TK_STAT_ADMITTED, Reg.AT_STAT_DEPTH,
          Reg.FW_LOG_WP_SEQ, Reg.FW_CNT_LOGDROP_COUNT] [.host, .out, .ring, .sec, .time] s t) ∧
    (st = 0 → s.isRoot = true → s.time.admitted ≤ 1 → s.host.digests = [] →
      ∃ t, exec (.load slot g) s = .next t ∧ t.jobState = jbLoaded ∧ t.host.img = some g ∧ t.jobId = g.jobId.toNat ∧
        t.host.loading = none ∧ t.host.digests = [] ∧ Answered s t slot.val stDone ∧
        (∀ q, q ∉ [StatePart.fresh, .harvest, .host, .links, .mdies, .mem, .ring, .out, .poison, .rcv, .sec, .step, .streams, .tacks, .tiles,
          .time] → q.Same s t))) ∧
  (∀ (slot : Fin 16) (g : JobImage) (s : State) (o : Nat), SlotHolds s slot.val opLoad o → s.host.loading ≠ some slot.val →
    (s.jobState = jbScrubbing ∨ ((s.jobState = jbLoading ∨ s.jobState = jbLoaded ∨ s.jobState = jbRunning ∨ s.jobState = jbParked) ∧
        s.rd Reg.JB_STAT_SLOT ≠ slot.val) →
      ∃ t, exec (.load slot g) s = .next t ∧ slot.val ∈ t.host.queued ∧ (∀ k ∈ s.host.queued, k ∈ t.host.queued) ∧
        t.host.bar4 = s.host.bar4 ∧ Frame [] [.host] s t) ∧
    (s.jobState ≠ jbEmpty → s.jobState ≠ jbScrubbing → s.rd Reg.JB_STAT_SLOT = slot.val →
      ∃ t, exec (.load slot g) s = .next t ∧ Answered s t slot.val stState ∧ Frame [Reg.FW_CNT_RANGE_HOST] [.host] s t) ∧
    (s.jobState = jbEmpty → s.test.running ≠ none →
      (s.test.since ≠ s.now →
        ∃ t, exec (.load slot g) s = .next t ∧ slot.val ∈ t.host.queued ∧ t.host.bar4 = s.host.bar4 ∧ Frame [] [.host] s t) ∧
      (s.test.since = s.now →
        ∃ t, exec (.load slot g) s = .next t ∧ t.test.running = none ∧ t.rd Reg.BI_STAT_STATE = 3))) ∧
  (∀ (msg : MsgId) (job : Word64) (digest : List Byte) (s : State), s.msgSeen msg = false →
    (s.isRoot = false → ∃ t, exec (.jobDigest msg job digest) s = .next t ∧ t.host.digests = s.host.digests ∧ Frame [] [.host] s t) ∧
    (s.isRoot = true → (s.host.digests.filter (fun e => e.1 != msg.src)).length + 1 < s.time.admitted →
      ∃ t, exec (.jobDigest msg job digest) s = .next t ∧
        t.host.digests = (msg.src, job, digest) :: s.host.digests.filter (fun e => e.1 != msg.src) ∧
        t.host.digestSince = some (s.host.digestSince.getD s.now) ∧ Frame [] [.host] s t) ∧
    (s.isRoot = true → s.time.admitted ≤ (s.host.digests.filter (fun e => e.1 != msg.src)).length + 1 →
      ∃ t, exec (.jobDigest msg job digest) s = .next t ∧ t.host.digests = [] ∧ t.host.digestSince = none ∧
        (∀ q, q ∉ [StatePart.fresh, .harvest, .host, .mdies, .mem, .ring, .out, .poison, .rcv, .step, .streams, .tacks, .tiles] → q.Same s t))) ∧
  (∀ (msg : MsgId) (job : Word64) (s : State) (k : Nat) (g : JobImage), s.msgSeen msg = false →
    (s.jobState = jbLoading → s.jobId = job.toNat → s.host.loading = some k → s.host.staged = some g →
      (∃ t, exec (.loadOk msg job) s = .next t ∧ t.jobState = jbLoaded ∧ t.host.img = some g ∧ t.host.loading = none ∧
        t.host.staged = none ∧ t.step.steps = g.steps ∧ t.step.idx = 0 ∧ t.host.runDone = false ∧ t.host.batches = [none, none] ∧
        Answered s t k stDone ∧
        (∀ q, q ∉ [StatePart.fresh, .harvest, .host, .mdies, .mem, .ring, .out, .poison, .rcv, .step, .streams, .tacks, .tiles] → q.Same s t)) ∧
      (∃ t, exec (.loadCheck msg job) s = .next t ∧ t.jobState = jbEmpty ∧ t.rd Reg.JB_STAT_SLOT = 0 ∧ t.jobId = 0 ∧
        t.host.loading = none ∧ t.host.staged = none ∧ t.host.img = s.host.img ∧ Answered s t k stCheck ∧
        Frame [Reg.JB_STAT_STATE, Reg.JB_STAT_SLOT, Reg.JB_ID_LO_VALUE, Reg.JB_ID_HI_VALUE, Reg.FW_CNT_RANGE_HOST] [.host] s t)) ∧
    (s.jobState ≠ jbLoading ∨ s.jobId ≠ job.toNat →
      (∃ t, exec (.loadOk msg job) s = .next t ∧ t.host.img = s.host.img ∧ Frame [] [.host] s t) ∧
      (∃ t, exec (.loadCheck msg job) s = .next t ∧ t.host.img = s.host.img ∧ Frame [] [.host] s t))) ∧
  (∀ s : State,
    (∀ t0, s.host.digestSince = some t0 → s.isRoot = true → t0 + 10000000000 ≤ s.now →
      (∃ t, exec .loadDigestTimeout s = .next t ∧ t.host.digests = [] ∧ t.host.digestSince = none ∧ t.host.img = s.host.img ∧
        Frame [Reg.JB_STAT_STATE, Reg.JB_STAT_SLOT, Reg.JB_ID_LO_VALUE, Reg.JB_ID_HI_VALUE, Reg.FW_CNT_RANGE_HOST] [.host, .out] s t) ∧
      (∀ j d k, s.host.digests = [(s.devId, j, d)] → s.jobState = jbLoading → s.jobId = j.toNat → s.host.loading = some k →
        ∃ t, exec .loadDigestTimeout s = .next t ∧ t.jobState = jbEmpty ∧ t.host.loading = none ∧ Answered s t k stCheck)) ∧
    (s.host.digestSince = none ∨ s.isRoot = false → exec .loadDigestTimeout s = .next s) ∧
    (∀ t0, s.host.digestSince = some t0 → s.now < t0 + 10000000000 → exec .loadDigestTimeout s = .next s))

/-- A scan that finds the slot's ring empty, or another command at TAIL, changes nothing; a command with an unlisted
OP is answered RANGE. RUN, PARK, RESUME, STOP and ADOPT of the slot's own job in a state that allows them take effect
and are answered DONE: RUN makes the job ready, a park request is held with its reason, a resume and an adoption
withdraw one; in an EMPTY device they are answered STATE, for another job JOBID, in another state STATE, with nothing
else changed. A BATCH begins its fill where its buffer is free and its step the present or next one; the fill writes
the bytes and ends the device's BATCH request; without all of its bytes it does not. A SCRUB of an ended job takes a J
reset, zeroes the job's regions and ends EMPTY, and the cores whose watchdogs expired meanwhile thaw then. A SEQ
reaches the slot's queue. Each message is taken once; a PARK record is taken once in an open window and flooded on.
(13_firmware_and_host.md R426, 13_firmware_and_host.md R427, 13_firmware_and_host.md R430, 13_firmware_and_host.md
R431, 13_firmware_and_host.md R432, 13_firmware_and_host.md R433, 13_firmware_and_host.md R434,
13_firmware_and_host.md R439, 09_spools_and_memory.md R309) -/
def Obligations.JobCommandsTakeEffect : Prop :=
  (∀ (c : Instr) (k op : Nat) (s : State), slotOpOf c = some (k, op) →
    (s.cmdAt k = none → exec c s = .next s) ∧
    (∀ o q, SlotHolds s k q o → 1 ≤ q → q ≤ 9 → q ≠ op → exec c s = .next s) ∧
    (∀ o q, SlotHolds s k q o → q = 0 ∨ 9 < q → s.slotHead k = (s.slotTail k + 1) % 63 →
      ∃ t, exec c s = .next t ∧ Answered s t k stRange ∧ Frame [Reg.FW_CNT_RANGE_HOST] [.host] s t)) ∧
  (∀ (slot : Fin 16) (s : State) (o : Nat),
    (∀ x ∈ [(Instr.run slot, opRun, [jbLoaded]), (.park slot, opPark, liveStates), (.jobResume slot, opResume, liveStates),
        (.stop slot, opStop, liveStates)], SlotHolds s slot.val x.2.1 o →
      (s.jobState = jbEmpty → ∃ t, exec x.1 s = .next t ∧ Answered s t slot.val stState ∧ Frame [Reg.FW_CNT_RANGE_HOST] [.host] s t) ∧
      (s.jobState ≠ jbEmpty → s.slotJob slot.val ≠ s.jobId →
        ∃ t, exec x.1 s = .next t ∧ Answered s t slot.val stJobId ∧ Frame [Reg.FW_CNT_RANGE_HOST] [.host] s t) ∧
      (s.jobState ≠ jbEmpty → s.slotJob slot.val = s.jobId → s.jobState ∉ x.2.2 →
        ∃ t, exec x.1 s = .next t ∧ Answered s t slot.val stState ∧ Frame [Reg.FW_CNT_RANGE_HOST] [.host] s t)) ∧
    (SlotHolds s slot.val opRun o → s.slotJob slot.val = s.jobId → s.jobState = jbLoaded →
      ∃ t, exec (.run slot) s = .next t ∧ Answered s t slot.val stDone ∧ t.host.runDone = true ∧ t.host.stepLimit = s.cmdWord o 1 ∧
        Frame [] [.host] s t) ∧
    (SlotHolds s slot.val opPark o → s.slotJob slot.val = s.jobId → (s.jobState = jbLoaded ∨ s.jobState = jbRunning ∨ s.jobState = jbParked) → 
      ∃ t, exec (.park slot) s = .next t ∧ Answered s t slot.val stDone ∧ 1 ∈ t.host.ownPark ∧ (∀ r ∈ s.host.ownPark, r ∈ t.host.ownPark) ∧
        Frame [Reg.JB_STAT_PARKREQ] [.host, .out] s t) ∧
    (SlotHolds s slot.val opStop o → s.slotJob slot.val = s.jobId → (s.jobState = jbLoaded ∨ s.jobState = jbRunning ∨ s.jobState = jbParked) → 
      ∃ t, exec (.stop slot) s = .next t ∧ Answered s t slot.val stDone ∧ 4 ∈ t.host.ownPark ∧ (∀ r ∈ s.host.ownPark, r ∈ t.host.ownPark) ∧
        Frame [Reg.JB_STAT_PARKREQ] [.host, .out] s t) ∧
    (SlotHolds s slot.val opResume o → s.slotJob slot.val = s.jobId → (s.jobState = jbLoaded ∨ s.jobState = jbRunning ∨ s.jobState = jbParked) → 
      ∃ t, exec (.jobResume slot) s = .next t ∧ Answered s t slot.val stDone ∧ (∀ r, r ∈ t.host.ownPark ↔ r ∈ s.host.ownPark ∧ r ≠ 1) ∧
        Frame [Reg.JB_STAT_PARKREQ] [.host] s t) ∧
    (SlotHolds s slot.val opAdopt o →
      (s.on Reg.JB_STAT_ATTACHED = true → hasBit s.host.features 1 = true → s.slotJob slot.val = s.jobId → s.jobState = jbParked →
        ∃ t, exec (.adopt slot) s = .next t ∧ Answered s t slot.val stDone ∧ t.rd Reg.JB_STAT_SLOT = slot.val ∧
          t.host.winBase = s.cmdWord o 1 ∧ t.host.imgAddr = s.cmdWord o 2 ∧ (∀ r, r ∈ t.host.ownPark ↔ r ∈ s.host.ownPark ∧ r ≠ 2) ∧
          t.out = s.out ++ [.mgmt s.rootId.toNat 0x0D [s.host.msgNum, s.devId.toNat, s.jobId]] ∧
          Frame [Reg.JB_STAT_SLOT, Reg.JB_STAT_PARKREQ] [.host, .out] s t) ∧
      (s.on Reg.JB_STAT_ATTACHED = false ∨ hasBit s.host.features 1 = false →
        ∃ t, exec (.adopt slot) s = .next t ∧ Answered s t slot.val stState ∧ Frame [Reg.FW_CNT_RANGE_HOST] [.host] s t)) ∧
    (SlotHolds s slot.val opScrub o → s.slotJob slot.val = s.jobId → s.jobState = jbEnded → s.host.scrubSlot ≠ some slot.val →
      ∃ t, exec (.scrub slot) s = .next t ∧ t.jobState = jbScrubbing ∧ t.host.scrubSlot = some slot.val ∧ t.host.img = none ∧
        t.host.scrubSince = s.now ∧ t.host.bar4 = s.host.bar4 ∧ (∀ e ∈ t.tacks, e.2 = { abandoned := true }) ∧ t.streams = [] ∧
        (∀ q ∈ [StatePart.queue, .now, .fresh, .links, .power, .test, .snaps], q.Same s t) ∧
        (∀ g, s.host.img = some g → ∀ r ∈ g.regions, ∀ m, dieOf r.1 = some m →
          t.on (Reg.MM_ZCTL_BUSY m) = true ∧ ∀ a, r.1 ≤ a → a < r.1 + r.2 → Memory.read t.mem a = 0)) ∧
    (SlotHolds s slot.val opScrub o → s.host.scrubSlot = some slot.val → exec (.scrub slot) s = .next s) ∧
    (SlotHolds s slot.val opScrub o → s.host.scrubSlot ≠ some slot.val → s.jobStatus slot.val [jbEnded] ≠ stDone →
      ∃ t, exec (.scrub slot) s = .next t ∧ Answered s t slot.val (s.jobStatus slot.val [jbEnded]) ∧
        Frame [Reg.FW_CNT_RANGE_HOST] [.host] s t) ∧
    (SlotHolds s slot.val opSeq o →
      (hasBit s.host.features 2 = false → ∃ t, exec (.seq slot) s = .next t ∧ Answered s t slot.val stFeature ∧ Frame [Reg.FW_CNT_RANGE_HOST] [.host] s t) ∧
      (hasBit s.host.features 2 = true → s.cmdWord o 1 % 65536 = 0 ∨ 3 < s.cmdWord o 1 % 65536 →
        ∃ t, exec (.seq slot) s = .next t ∧ Answered s t slot.val stRange ∧ Frame [Reg.FW_CNT_RANGE_HOST] [.host] s t) ∧
      (hasBit s.host.features 2 = true → 1 ≤ s.cmdWord o 1 % 65536 → s.cmdWord o 1 % 65536 ≤ 3 → s.slotJob slot.val = s.jobId → (s.jobState = jbLoaded ∨ s.jobState = jbRunning ∨ s.jobState = jbParked) → s.phase ≠ phIdle →
        s.mdies.length = 2 → ∀ n m, n = s.cmdWord o 1 / 65536 % 4096 → m = n / 2048 → (nth s.mdies m {}).waiting.length < 256 →
        ∃ t c, exec (.seq slot) s = .next t ∧ Answered s t slot.val stDone ∧
          (nth t.mdies m {}).waiting = (nth s.mdies m {}).waiting ++ [c] ∧ c.cmd = s.cmdWord o 1 % 65536 ∧ c.slot = n ∧
          Frame (Reg.SQ_SEL_SLOT m :: (List.range 8).map (Reg.SQ_ENT_VALUE m)) [.host, .mdies] s t)) ∧
    (SlotHolds s slot.val opBatch o →
      (s.host.batchFill ≠ none → exec (.batch slot) s = .next s) ∧
      (s.host.batchFill = none →
        (∀ g n, s.slotJob slot.val = s.jobId → (s.jobState = jbLoaded ∨ s.jobState = jbRunning ∨ s.jobState = jbParked) → s.host.img = some g → g.batches ≠ [] → n = s.cmdWord o 1 → s.stepNo ≤ n → n ≤ s.stepNo + 1 →
          s.cmdWord o 2 + s.cmdWord o 3 ≤ s.host.winLen → s.cmdWord o 3 ≤ (nth g.batches (n % 2) (0, 0)).2 →
          nth s.host.batches (n % 2) none = none →
          ∃ t, exec (.batch slot) s = .next t ∧ t.host.batchFill = some (slot.val, n, s.cmdWord o 3) ∧ t.host.bar4 = s.host.bar4 ∧
            t.host.batches = s.host.batches ∧ Frame [] [.host] s t) ∧
        (s.batchStatus slot.val (s.cmdWord o 1) (s.cmdWord o 2) (s.cmdWord o 3) ≠ stDone →
          ∃ t, exec (.batch slot) s = .next t ∧
            Answered s t slot.val (s.batchStatus slot.val (s.cmdWord o 1) (s.cmdWord o 2) (s.cmdWord o 3)) ∧ Frame [Reg.FW_CNT_RANGE_HOST] [.host] s t)))) ∧
  (∀ (data : List Byte) (s : State),
    (s.host.batchFill = none → exec (.batchFilled data) s = .next s) ∧
    (∀ k n g base, s.host.batchFill = some (k, n, data.length) → s.host.img = some g → s.host.batches.length = 2 →
      base = (nth g.batches (n % 2) (0, 0)).1 →
      ∃ t, exec (.batchFilled data) s = .next t ∧ t.host.batchFill = none ∧ nth t.host.batches (n % 2) none = some n ∧
        (∀ r, r ∈ t.host.ownPark ↔ r ∈ s.host.ownPark ∧ r ≠ 3) ∧ Answered s t k stDone ∧
        t.mem = data.zipIdx.foldl (fun m e => Memory.write m (s.storage (base + e.2)) e.1) s.mem ∧
        Frame [Reg.JB_STAT_PARKREQ, Reg.MM_CNT_CRC_POISON 0, Reg.MM_CNT_CRC_POISON 1] [.host, .mem, .ring, .poison] s t) ∧
    (∀ k n len, s.host.batchFill = some (k, n, len) → len ≠ data.length → exec (.batchFilled data) s = .next s)) ∧
  (∀ s : State,
    (s.jobState = jbScrubbing → s.on (Reg.MM_ZCTL_BUSY 0) = false → s.on (Reg.MM_ZCTL_BUSY 1) = false → s.host.heldT = [] →
      ∃ t, exec .scrubDone s = .next t ∧ t.jobState = jbEmpty ∧ t.on Reg.JB_SCRUB_TILES_DONE = true ∧
        t.on Reg.JB_SCRUB_GDDR_DONE = true ∧ t.host.scrubSlot = none ∧
        t.rd Reg.JB_SCRUB_MS = min 0xFFFF ((s.now - s.host.scrubSince) / 1000000) ∧
        (∀ k, s.host.scrubSlot = some k → Answered s t k stDone) ∧ (s.host.scrubSlot = none → t.host.bar4 = s.host.bar4) ∧
        Frame [Reg.JB_SCRUB_TILES_DONE, Reg.JB_SCRUB_GDDR_DONE, Reg.JB_SCRUB_MS, Reg.JB_STAT_STATE, Reg.FW_LOG_WP_SEQ,
          Reg.FW_CNT_LOGDROP_COUNT] [.host, .ring] s t) ∧
    (s.jobState = jbScrubbing → s.on (Reg.MM_ZCTL_BUSY 0) = false → s.on (Reg.MM_ZCTL_BUSY 1) = false → s.host.cores.length = 20 →
      ∃ t, exec .scrubDone s = .next t ∧ t.jobState = jbEmpty ∧ t.host.heldT = [] ∧
        (∀ c ∈ s.host.heldT, c < 20 → (nth t.host.cores c {}).state = 1 ∧ (nth t.host.cores c {}).thawAt = some s.now) ∧
        (∀ c, c ∉ s.host.heldT → nth t.host.cores c {} = nth s.host.cores c {}) ∧
        (∀ q, q ∉ [StatePart.host, .out, .rcv, .ring] → q.Same s t)) ∧
    (s.jobState ≠ jbScrubbing ∨ s.on (Reg.MM_ZCTL_BUSY 0) = true ∨ s.on (Reg.MM_ZCTL_BUSY 1) = true → exec .scrubDone s = .next s)) ∧
  (∀ (msg : MsgId) (job : Word64) (digest : List Byte) (reason : BitVec 3) (s : State),
    (s.msgSeen msg = true → ∀ c ∈ [Instr.jobDigest msg job digest, .loadOk msg job, .loadCheck msg job, .adopted msg job, .parkReq msg reason],
      ∃ t, exec c s = .next t ∧ t.rd Reg.FW_CNT_RANGE_MGMT = min (s.rd Reg.FW_CNT_RANGE_MGMT + 1) (2 ^ Reg.FW_CNT_RANGE_MGMT.width - 1) ∧
        Frame [Reg.FW_CNT_RANGE_MGMT] [] s t) ∧
    (s.msgSeen msg = false →
      (∃ t, exec (.adopted msg job) s = .next t ∧ (msg.src.toNat, 2) ∉ t.host.parkHeld ∧
        (∀ x, x ≠ (msg.src.toNat, 2) → (x ∈ t.host.parkHeld ↔ x ∈ s.host.parkHeld)) ∧ Frame [] [.host] s t) ∧
      (s.isRoot = true → 1 ≤ reason.toNat → reason.toNat ≤ 4 →
        ∃ t, exec (.parkReq msg reason) s = .next t ∧ t.host.parkHeld = s.host.parkHeld ++ [(msg.src.toNat, reason.toNat)] ∧
          Frame [] [.host] s t) ∧
      (s.isRoot = false ∨ reason.toNat = 0 ∨ 4 < reason.toNat →
        ∃ t, exec (.parkReq msg reason) s = .next t ∧ t.host.parkHeld = s.host.parkHeld ∧ Frame [] [.host] s t))) ∧
  (∀ (link : LinkId) (msg : MsgId) (step : Word64) (kind : Bool) (s : State),
    (s.step.winOpen = true → s.step.parkNotice = none → s.hemStep = some step →
      ∃ t, exec (.parkRecord link msg step kind) s = .next t ∧ t.step.parkNotice = some kind ∧
        t.out = s.out ++ [.flood 8 [step.toNat, b2n kind]] ∧ Frame [] [.out, .step] s t) ∧
    (s.step.winOpen = false ∨ s.step.parkNotice ≠ none ∨ s.hemStep ≠ some step → exec (.parkRecord link msg step kind) s = .next s))

/-- An object is accepted only from a live root slot with its own type, length and an admissible SVN. A revocation
that names its own slot or leaves none alive is refused, as is any object that is not accepted; a refusal changes
nothing but the answer. An update replaces the image that is not running, or a copy. SPDM picks the higher version,
and refuses another slot and, in scan, every attestation. CSIGN signs with the next index after its window is
marked, so that every released index stays below the mark; too soon it is Busy, exhausted, in scan or without a value of
48 bytes Unsupported. A
nonce request ends an unlock; a token in a session with the issued nonce unlocks its scope once and extends
measurement 4; else TOKEN_FAIL is set. A scan request outside an unlock for it, or with a job, sets TOKEN_FAIL; else
links are DOWN, AT is ISOLATED and no session is left. IDE keys need a session. Reply layouts and codes are the
model's (DESIGN CHOICE). (16_security_identity.md R487, 16_security_identity.md R488, 16_security_identity.md R490,
16_security_identity.md R492, 16_security_identity.md R493, 16_security_identity.md R494, 16_security_identity.md
R495, 16_security_identity.md R497, 16_security_identity.md R499, 16_security_identity.md R500) -/
def Obligations.SecurityRequestsAreChecked : Prop :=
  (∀ (o : SignedObj) (ty : Nat) (s : State), s.accepts o ty = true →
    hdSlot o.head < 4 ∧ hasBit s.sec.revoked (hdSlot o.head) = false ∧ hdType o.head = ty ∧ hdPlen o.head = o.payload.length ∧
    (ty = 1 → s.sec.fwSvn ≤ hdSvn o.head) ∧ (ty = 2 → s.sec.cfgSvn ≤ hdSvn o.head) ∧ (3 ≤ ty → hdSvn o.head = 0) ∧
    (o.cert = none → Config.ecdsaVerify (Config.rootKey (2 * hdSlot o.head)) (objDigest o) o.sigE = true ∧
      Config.lmsVerify (Config.rootKey (2 * hdSlot o.head + 1)) (objDigest o) o.sigL = true)) ∧
  (∀ (o : SignedObj) (s : State),
    (s.accepts o 6 = true → o.payload.length = 1 → hasBit (orderMask o) (hdSlot o.head) = false →
      (∃ k < 4, hasBit (orderMask o) k = false ∧ hasBit s.sec.revoked k = false) →
      ∃ t, exec (.revocationOrder o) s = .next t ∧ t.out = s.out ++ [.reply rpDone []] ∧
        (∀ k, hasBit t.sec.revoked k = (hasBit s.sec.revoked k || hasBit (orderMask o) k)) ∧ t.sec.fwSvn = s.sec.fwSvn ∧
        t.sec.mark = s.sec.mark ∧ Frame [] [.sec, .out] s t) ∧
    (s.accepts o 6 = false ∨ o.payload.length ≠ 1 ∨ hasBit (orderMask o) (hdSlot o.head) = true ∨
      (∀ k < 4, hasBit (orderMask o) k = true ∨ hasBit s.sec.revoked k = true) →
      exec (.revocationOrder o) s = .next (s.emit (.reply rpRefused [])))) ∧
  (∀ (u : UpdateObj) (s : State),
    (u.image = true → s.accepts u.obj 1 = true → s.sec.images.length = 2 →
      ∃ t, exec (.pldmFwUpdate u) s = .next t ∧ t.out = s.out ++ [.reply rpDone []] ∧ t.sec.configs = s.sec.configs ∧
        nth t.sec.images (1 - s.rd Reg.FW_STAT_IMAGE) none = some u.obj ∧
        (∀ i, i ≠ 1 - s.rd Reg.FW_STAT_IMAGE → nth t.sec.images i none = nth s.sec.images i none) ∧ Frame [] [.sec, .out] s t) ∧
    (u.image = false → s.accepts u.obj 2 = true → s.sec.configs.length = 2 →
      ∃ t, exec (.pldmFwUpdate u) s = .next t ∧ t.out = s.out ++ [.reply rpDone []] ∧ t.sec.images = s.sec.images ∧
        nth t.sec.configs u.copy.val none = some u.obj ∧
        (∀ i, i ≠ u.copy.val → nth t.sec.configs i none = nth s.sec.configs i none) ∧ Frame [] [.sec, .out] s t) ∧
    ((u.image = true ∧ s.accepts u.obj 1 = false) ∨ (u.image = false ∧ s.accepts u.obj 2 = false) →
      exec (.pldmFwUpdate u) s = .next (s.emit (.reply rpRefused [])))) ∧
  (∀ (q : SpdmReq) (s : State),
    (∃ t, exec (.spdmRequest q) s = .next t ∧ t.out = s.out ++ [.reply (s.spdmAnswer q).1 (s.spdmAnswer q).2] ∧
      t.sec = { s.sec with session := t.sec.session } ∧
      (t.sec.session = true ↔ q = .finish true ∧ s.inScan = false ∨ s.sec.session = true ∧ q ≠ .endSession) ∧ Frame [] [.sec, .out] s t) ∧
    (∀ l, q = .version l → (0x13 ∈ l → s.spdmAnswer q = (rpDone, [0x13])) ∧ (0x13 ∉ l → 0x12 ∈ l → s.spdmAnswer q = (rpDone, [0x12])) ∧
      (0x13 ∉ l → 0x12 ∉ l → (s.spdmAnswer q).1 = rpUnsupported)) ∧
    (∀ i sg tr, q = .measurements i sg tr → 1 ≤ i → i ≤ 5 → s.inScan = false → s.spdmAnswer q =
      (rpDone, s.measurement i ++ if sg then Config.ecdsaSign (Config.sha384 (tr ++ s.measurement i)) else [])) ∧
    (∀ k, q = .certificate k → s.spdmAnswer q = if k.val = 0 ∧ s.inScan = false then (rpDone, Config.ownChain) else (rpUnsupported, [])) ∧
    (∀ k tr, q = .challenge k tr → s.spdmAnswer q =
      if k.val = 0 ∧ s.inScan = false then (rpDone, Config.ecdsaSign (Config.sha384 tr)) else (rpUnsupported, [])) ∧
    (s.inScan = true → (∃ i sg tr, q = .measurements i sg tr) ∨ (∃ tr, q = .keyExchange tr) → (s.spdmAnswer q).1 = rpUnsupported)) ∧
  (∀ (msg : List Byte) (s : State), msg.length = 48 →
    (s.inScan = true ∨ 16384 ≤ s.sec.mark → exec (.csign msg) s = .next (s.emit (.reply rpUnsupported []))) ∧
    (s.inScan = false → s.sec.mark < 16384 → ∀ t0, s.sec.lastSign = some t0 →
      s.now < t0 + 1000000000 * max 30 (s.rd Reg.SC_CTL_LMS_INT) → exec (.csign msg) s = .next (s.emit (.reply rpBusy []))) ∧
    (s.inScan = false → s.sec.mark < 16384 →
      (∀ t0, s.sec.lastSign = some t0 → t0 + 1000000000 * max 30 (s.rd Reg.SC_CTL_LMS_INT) ≤ s.now) →
      ∃ t, exec (.csign msg) s = .next t ∧ t.out = s.out ++ [.reply rpDone (Config.hssSign s.sec.lmsIdx msg ++ natLe s.sec.lmsIdx 4)] ∧
        t.sec.lmsIdx = s.sec.lmsIdx + 1 ∧ t.sec.journal = some s.sec.lmsIdx ∧ t.sec.lastSign = some s.now ∧
        t.sec.mark = (if s.sec.lmsIdx = s.sec.mark * 1024 then s.sec.mark + 1 else s.sec.mark) ∧
        (s.sec.lmsIdx ≤ s.sec.mark * 1024 → s.sec.lmsIdx < t.sec.mark * 1024 ∧ t.sec.lmsIdx ≤ t.sec.mark * 1024) ∧
        Frame [] [.sec, .out] s t)) ∧
  (∀ (msg : List Byte) (s : State), msg.length ≠ 48 → exec (.csign msg) s = .next (s.emit (.reply rpUnsupported []))) ∧
  (∀ (tok : DebugToken) (s : State),
    (∃ t, exec .debugNonceRequest s = .next t ∧ t.sec.nonce.length = 16 ∧ t.sec.unlocked = none ∧ t.sec.nonces = s.sec.nonces + 1 ∧
      t.sec.measurements = s.sec.measurements ∧ Frame [] [.sec] s t) ∧
    (∃ t, exec .relock s = .next t ∧ t.sec = { s.sec with unlocked := none } ∧ Frame [] [.sec] s t) ∧
    (s.tokenOk tok.obj = true → s.accepts tok.obj 4 = true ∧ tok.obj.payload.take 16 = s.sec.nonce ∧ s.sec.nonce ≠ [] ∧
      leAt tok.obj.payload 16 4 < 64) ∧
    (s.sec.session = true → s.tokenOk tok.obj = true →
      ∃ t, exec (.unlock tok) s = .next t ∧ t.sec.unlocked = some (leAt tok.obj.payload 16 4) ∧ t.sec.nonce = [] ∧
        t.measurement 4 = Config.sha384 (s.measurement 4 ++ objDigest tok.obj) ∧ (∀ i, i ≠ 4 → t.measurement i = s.measurement i) ∧
        t.out = s.out ++ [.reply rpDone []] ∧ Frame [] [.sec, .out] s t) ∧
    (s.sec.session = false ∨ s.tokenOk tok.obj = false →
      ∃ t, exec (.unlock tok) s = .next t ∧ t.on Reg.SC_DBG_STAT_TOKEN_FAIL = true ∧ t.out = s.out ++ [.reply rpRefused []] ∧
        Frame [Reg.SC_DBG_STAT_TOKEN_FAIL] [.out] s t)) ∧
  (∀ s : State,
    (s.unlockScope 4 = true → s.jobState = jbEmpty →
      ∃ t, exec .scanEn s = .next t ∧ t.inScan = true ∧ t.on Reg.SC_DBG_STAT_ZERO_DONE = true ∧ t.tstate = tsIsolated ∧
        (∀ n < 36, t.lkState n = lkDown) ∧ t.sec.session = false ∧ t.sec.ide = [] ∧ t.jobState = jbEmpty ∧
        t.measurement 4 = Config.sha384 (s.measurement 4 ++ textScan) ∧
        Frame ([Reg.AT_STAT_STATE, Reg.AT_STAT_DEPTH, Reg.AT_STAT_PARENT, Reg.SC_DBG_STAT_SCAN, Reg.SC_DBG_STAT_ZERO_DONE,
            Reg.SM_TT_LANE3_REQ, Reg.TK_FLT_ABANDON, Reg.TK_STAT_ADMITTED] ++
            (List.range 36).flatMap (fun n => [Reg.LK_STAT_STATE n, Reg.LK_STAT_LANES n, Reg.LK_STAT_LEFT_UP n]))
          [.links, .sec, .step, .tacks, .tiles, .time] s t) ∧
    (s.unlockScope 4 = false ∨ s.jobState ≠ jbEmpty →
      ∃ t, exec .scanEn s = .next t ∧ t.on Reg.SC_DBG_STAT_TOKEN_FAIL = true ∧ Frame [Reg.SC_DBG_STAT_TOKEN_FAIL] [] s t)) ∧
  (∀ (rq : IdeReq) (s : State),
    (s.sec.session = true → ∃ t, exec (.ideKm rq) s = .next t ∧ (rq.stream.val ∈ t.sec.ide ↔ rq.on = true) ∧
      (∀ k, k ≠ rq.stream.val → (k ∈ t.sec.ide ↔ k ∈ s.sec.ide)) ∧ t.out = s.out ++ [.reply rpDone []] ∧ Frame [] [.sec, .out] s t) ∧
    (s.sec.session = false → exec (.ideKm rq) s = .next (s.emit (.reply rpRefused []))))

/-- With no capture of its block under way for its port, each SNAP clears READY of that port and captures the set;
the arrival puts every captured field, cut to its width, in that port's copy, sets READY, and leaves the other
port's copy of the set and of READY as it was. Between the two nothing but the pending capture and READY changes, so
the set that arrives is that of the write. A SNAP while the capture is under way, and an arrival with none, change
nothing. The set of AT holds AT; the set of SC_ holds the measurement that SC_MSEL of the same port selects.
(00_scope.md R17, 15_reset_and_selftest.md R480, 17_register_map.md R515, 17_register_map.md R516,
01_almanac_time.md R46, 16_security_identity.md R502) -/
def Obligations.SnapshotsAreCapturedForTheirPort : Prop :=
  (∀ (port q : Port) (s : State), q ≠ port → ∀ x ∈ [(SnapBlock.at_, Instr.atSnap port), (.tk, .tkSnap port), (.mn, .mnSnap port), (.bb, .bbSnap port), (.sp 0, .spSnap port 0),
      (.sp 1, .spSnap port 1), (.sq 0, .sqSnap port 0), (.sq 1, .sqSnap port 1), (.hv 0, .hvSnap port 0), (.hv 1, .hvSnap port 1),
      (.pw, .pwSnap port), (.sc, .scSnap port)],
    ((∀ y ∈ s.snaps, y.blk = x.1 → y.port ≠ port) →
      ∃ t u, exec x.2 s = .next t ∧ t.rdPort port (readyField x.1) = 0 ∧ t.rdPort q (readyField x.1) = s.rdPort q (readyField x.1) ∧
        (∀ k, k ≠ (readyField x.1).portKey port → smFind t.regs k = smFind s.regs k) ∧
        (∀ p : StatePart, p ≠ .snaps → p.Same s t) ∧ exec (.snapshotReady x.1 port) t = .next u ∧ u.snaps = s.snaps ∧
        (∀ k, k ≠ (readyField x.1).portKey port → (∀ e ∈ s.captureBlock x.1 port, k ≠ e.1.portKey port) →
          smFind u.regs k = smFind s.regs k) ∧
        u.rdPort port (readyField x.1) = 1 ∧ u.rdPort q (readyField x.1) = s.rdPort q (readyField x.1) ∧
        (∀ e ∈ s.captureBlock x.1 port, u.rdAt port e.1 = e.2 % 2 ^ e.1.width ∧ u.rdAt q e.1 = s.rdAt q e.1) ∧
        (∀ p : StatePart, p ≠ .snaps → p.Same s u)) ∧
    ((∃ y ∈ s.snaps, y.blk = x.1 ∧ y.port = port) → exec x.2 s = .next s) ∧
    ((∀ y ∈ s.snaps, y.blk = x.1 → y.port ≠ port) → exec (.snapshotReady x.1 port) s = .next s)) ∧
  (∀ (port : Port) (s : State), (∀ y ∈ s.snaps, y.port ≠ port) →
    (∃ t u, exec (.atSnap port) s = .next t ∧ exec (.snapshotReady .at_ port) t = .next u ∧
      u.rdAt port Reg.AT_NOW_LO_VALUE = s.now % 2 ^ 32 ∧ u.rdAt port Reg.AT_NOW_HI_VALUE = s.now / 2 ^ 32 % 2 ^ 32) ∧
    (∃ t u, exec (.scSnap port) s = .next t ∧ exec (.snapshotReady .sc port) t = .next u ∧
      ∀ k < 12, u.rdAt port (Reg.SC_MDATA_VALUE k) = leNat (((s.measurement (s.rdPort port Reg.SC_MSEL_INDEX)).drop (4 * k)).take 4)))

/-- Every access completes. A read answers the word of the register, in which offsets between registers and reserved
bits read 0; one by firmware starts its RC fields from 0 again, one by the host changes nothing. A host access in the
aperture is one of the tile window that it selects, and a firmware access behind the registers is logged and reads 0.
While IDE is required and absent a host access is dropped and counted. A write that is not one aligned word changes
nothing, nor does the host's outside what it may write. An RWL field takes its value until its block is locked; the
write that locks also writes; no write unlocks. Clearing VALID of a record clears the record. A select register takes
the value for the port that writes it alone. Registers of the idle phase outside it are only counted. Writes to the
registers of a row's command are that command. In BAR4 the driver writes the driver's words, a new HEARTBEAT is noted
with its AT, 1 and 2 in ATTACH are a request, and a slot's TAIL is not the driver's. (00_scope.md R14, 00_scope.md
R16, 17_register_map.md R509, 17_register_map.md R510, 17_register_map.md R513, 17_register_map.md R514,
17_register_map.md R515, 16_security_identity.md R497, 13_firmware_and_host.md R421, 13_firmware_and_host.md R426,
02_steps_tacks_hems.md R81, 17_register_map.md R511) -/
def Obligations.RegisterAccessesFollowTheirTypes : Prop :=
  (∀ (port : Port) (addr size : Nat) (v : Word32) (s : State),
    Completes (exec (.rcFieldRead port addr) s) ∧ Completes (exec (.registerWrite port addr size v) s)) ∧
  (∀ (addr : Nat) (s : State), addr % 4 = 0 →
    (inAperture addr = true → exec (.rcFieldRead .host addr) s = exec (.tileWindowRead .host addr 4) s) ∧
    (s.ideDrops .host = false → addr < bar4Base → inAperture addr = false →
      exec (.rcFieldRead .host addr) s = .next (s.emit (.answer .host (natLe (s.readWord .host addr) 4) false))) ∧
    (s.ideDrops .host = false → bar4Base ≤ addr →
      exec (.rcFieldRead .host addr) s = .next (s.emit (.answer .host (natLe (s.readB4 (addr - bar4Base)) 4) false))) ∧
    (s.ideDrops .host = true → ∃ t, exec (.rcFieldRead .host addr) s = .next t ∧ t.out = s.out ++ [.answer .host [] false] ∧
      DropCounted s t) ∧
    (bar4Base ≤ addr → ∃ t, exec (.rcFieldRead .fw addr) s = .next t ∧ t.out = s.out ++ [.answer .fw (natLe 0 4) false] ∧
      Logged s t 1 1 ∧ Frame [Reg.FW_LOG_WP_SEQ, Reg.FW_CNT_LOGDROP_COUNT] [.out, .host, .ring] s t) ∧
    (addr < bar4Base → ∃ t, exec (.rcFieldRead .fw addr) s = .next t ∧ t.out = s.out ++ [.answer .fw (natLe (s.readWord .fw addr) 4) false] ∧
      (∀ f ∈ Reg.fieldsAt addr, f.ty = .rc → f.reset = 0 → f ≠ Reg.AT_LSTAT_REJ → f ≠ Reg.FW_CORE_STAT_THAWS → t.rd f = 0) ∧
      ((∀ f ∈ Reg.fieldsAt addr, f.ty ≠ .rc) → Frame [] [.out] s t) ∧ Frame (Reg.fieldsAt addr) [.out, .links, .host] s t) ∧
    (∀ port, Reg.fieldsAt addr = [] → s.readWord port addr = 0) ∧
    (∀ port f, f.ty = .wo → s.readField port f = 0)) ∧
  (∀ (port : Port) (addr size : Nat) (v : Word32) (s : State),
    (s.ideDrops port = true → ∃ t, exec (.registerWrite port addr size v) s = .next t ∧ t.out = s.out ∧ DropCounted s t) ∧
    (s.ideDrops port = false → addr < bar4Base → port = .fw ∨ inAperture addr = false → size ≠ 4 ∨ addr % 4 ≠ 0 →
      exec (.registerWrite port addr size v) s = .next s) ∧
    (inAperture addr = true →
      exec (.registerWrite .host addr size v) s = exec (.tileWindowWrite .host addr (natLe v.toNat size)) s) ∧
    (bar4Base ≤ addr → ∃ t, exec (.registerWrite .fw addr size v) s = .next t ∧ Logged s t 1 1 ∧
      Frame [Reg.FW_LOG_WP_SEQ, Reg.FW_CNT_LOGDROP_COUNT] [.host, .ring] s t) ∧
    (s.ideDrops .host = false → addr < bar4Base → inAperture addr = false → hostMayWrite addr = false → addr ≠ Reg.BI_RST_KEY.addr → addr ≠ Reg.SC_DBG_CTL_REQ.addr →
      (∀ e ∈ snapRegs, e.1 ≠ addr) → exec (.registerWrite .host addr size v) s = .next s) ∧
    (idleOnly addr = true → addr % 4 = 0 → s.phase ≠ phIdle → ∃ t, exec (.registerWrite .fw addr 4 v) s = .next t ∧
      t.rd Reg.FW_CNT_RANGE_HOST = min (s.rd Reg.FW_CNT_RANGE_HOST + 1) (2 ^ Reg.FW_CNT_RANGE_HOST.width - 1) ∧
      Frame [Reg.FW_CNT_RANGE_HOST] [] s t)) ∧
  (∀ (v : Word32) (s : State),
    (∃ t, exec (.registerWrite .fw Reg.AT_LIMIT_ALIGN.addr 4 v) s = .next t ∧
      (∀ f ∈ [Reg.AT_LIMIT_ALIGN, Reg.AT_LIMIT_HOLD_ERR, Reg.AT_LIMIT_PARENT_LOSS, Reg.AT_LIMIT_ROOT_LOSS],
        t.rd f = if s.on Reg.AT_CTL_LOCK = true then s.rd f else v.toNat / 2 ^ f.lo % 2 ^ f.width) ∧
      Frame [Reg.AT_LIMIT_ALIGN, Reg.AT_LIMIT_HOLD_ERR, Reg.AT_LIMIT_PARENT_LOSS, Reg.AT_LIMIT_ROOT_LOSS, Reg.JB_CTL_LOCK, Reg.JB_RCV_CTL_LOCK] [] s t) ∧
    (s.on Reg.JB_CTL_LOCK = false → v.toNat / 2 ^ 31 % 2 = 1 →
      ∃ t, exec (.registerWrite .fw Reg.JB_CTL_GRACE.addr 4 v) s = .next t ∧ t.rd Reg.JB_CTL_GRACE = v.toNat % 256 ∧
        t.on Reg.JB_CTL_LOCK = true ∧ t.on Reg.JB_RCV_CTL_LOCK = true ∧ Frame [Reg.JB_CTL_GRACE, Reg.JB_CTL_UNATTENDED, Reg.JB_CTL_LOCK, Reg.JB_RCV_CTL_LOCK] [] s t) ∧
    (s.on Reg.JB_CTL_LOCK = true →
      ∃ t, exec (.registerWrite .fw Reg.JB_CTL_GRACE.addr 4 v) s = .next t ∧ t.on Reg.JB_CTL_LOCK = true ∧ Frame [Reg.JB_CTL_LOCK, Reg.JB_RCV_CTL_LOCK] [] s t) ∧
    (v.toNat / 2 ^ 31 % 2 = 1 → ∃ t, exec (.registerWrite .fw Reg.PT_ERR_VALID.addr 4 v) s = .next t ∧ t.rd Reg.PT_ERR_VALID = 0 ∧
      t.rd Reg.PT_ERR_CODE = 0 ∧ t.rd Reg.PT_ERR_WHERE = 0 ∧
      Frame [Reg.PT_ERR_VALID, Reg.PT_ERR_CODE, Reg.PT_ERR_WHERE, Reg.JB_CTL_LOCK, Reg.JB_RCV_CTL_LOCK] [] s t) ∧
    (∀ (port q : Port), q ≠ port → s.ideDrops port = false →
      ∀ f ∈ [Reg.AT_LSEL_LINK, Reg.TK_SEL_TREE, Reg.MN_TSEL_TID, Reg.SC_MSEL_INDEX, Reg.ID_SEL_DIE],
        ∃ t, exec (.registerWrite port f.addr 4 v) s = .next t ∧ t.rdPort port f = v.toNat / 2 ^ f.lo % 2 ^ f.width ∧
          t.rdPort q f = s.rdPort q f ∧ (∀ p : StatePart, p.Same s t)) ∧
    (∀ port : Port, s.ideDrops port = false →
      exec (.registerWrite port Reg.BI_RST_KEY.addr 4 v) s = exec (.warmReset v quietBoot) s ∧
      exec (.registerWrite port Reg.SC_DBG_CTL_REQ.addr 4 1) s = exec .debugNonceRequest s ∧
      exec (.registerWrite port Reg.SC_DBG_CTL_REQ.addr 4 2) s = exec .scanEn s ∧
      exec (.registerWrite port Reg.SC_DBG_CTL_REQ.addr 4 4) s = exec .relock s ∧
      (∀ x ∈ [(Reg.AT_SNAP_SNAP, Instr.atSnap port), (Reg.TK_SNAP_SNAP, .tkSnap port), (Reg.MN_SNAP_SNAP, .mnSnap port),
          (Reg.BB_SNAP_SNAP, .bbSnap port), (Reg.SP_SNAP_SNAP 1, .spSnap port 1), (Reg.SQ_SNAP_SNAP 0, .sqSnap port 0),
          (Reg.HV_SNAP_SNAP 1, .hvSnap port 1), (Reg.PW_SNAP_SNAP, .pwSnap port), (Reg.SC_SNAP_SNAP, .scSnap port)],
        exec (.registerWrite port x.1.addr 4 v) s = if v.toNat % 2 = 1 then exec x.2 s else .next s)) ∧
    exec (.registerWrite .fw Reg.MN_FAB_ROW_MODE.addr 4 v) s = exec (.rowMapWrite v) s ∧
    exec (.registerWrite .fw Reg.PW_LIMIT_MODULE.addr 4 v) s = exec (.powerLimitWrite v) s) ∧
  (∀ (o : Nat) (v : Word32) (s : State), s.ideDrops .host = false → o % 4 = 0 →
    (driverWord o = false → exec (.registerWrite .host (bar4Base + o) 4 v) s = .next s) ∧
    (driverWord o = true → o < 0x10000 ∨ o % 0x1000 ≠ 8 →
      ∃ t, exec (.registerWrite .host (bar4Base + o) 4 v) s = .next t ∧ t.b4 o = v.toNat ∧ (∀ p, p ≠ o → t.b4 p = s.b4 p) ∧
        t.host.hbAt = (if o = b4Heartbeat ∧ v.toNat ≠ s.b4 o then s.now else s.host.hbAt) ∧
        t.host.request = (if o = b4Attach ∧ (v.toNat = 1 ∨ v.toNat = 2) then v.toNat else s.host.request) ∧ Frame [] [.host] s t) ∧
    (∀ k < 16, o = slotBase k + 8 →
      ∃ t, exec (.registerWrite .host (bar4Base + o) 4 v) s = .next t ∧ t.slotHead k = v.toNat % 65536 ∧ t.slotTail k = s.slotTail k ∧
        (∀ p, p ≠ o → t.b4 p = s.b4 p) ∧ Frame [] [.host] s t))

/-- Each of the 16 FP4 E2M1 codes, as an element of format code 0xA, decodes to the value of R126: 0, 0.5, 1, 1.5,
2, 3, 4 and 6 for the codes 0x0 to 0x7, and the same values with a minus sign for the codes 0x8 to 0xF. The
statement multiplies each value by 2 to keep to whole numbers. (04_number_formats.md R126) -/
def Obligations.Fp4CodesHaveTheirValues : Prop :=
  ∀ x ∈ [(0, 0), (1, 1), (2, 2), (3, 3), (4, 4), (5, 6), (6, 8), (7, 12)], ∀ neg : Bool,
    ∃ m e, elemNum 0xA (x.1 + if neg = true then 8 else 0) = .fin neg m e ∧ 2 * m * pow2Num e = x.2 * pow2Den e

/-- For a value m · 2^e with m not 0, and the whole number L with 2^L ≤ m · 2^e < 2^(L+1), which is floor(log2
|value|), the bin is min(max(floor(L / 4) + 8, 0), 15), and such an L exists. Bin 8 covers the magnitudes in [1,
16), bin 0 those below 2^-28, and bin 15 those from 2^28 up. (04_number_formats.md R150) -/
def Obligations.HistogramBinsCoverTheirMagnitudes : Prop :=
  (∀ (m : Nat) (e L : Int), m ≠ 0 → pow2Num L * pow2Den e ≤ m * pow2Num e * pow2Den L →
    m * pow2Num e * pow2Den (L + 1) < pow2Num (L + 1) * pow2Den e →
    (histBin m e : Int) = min (max (Int.fdiv L 4 + 8) 0) 15) ∧
  (∀ (m : Nat) (e : Int), m ≠ 0 →
    (∃ L, pow2Num L * pow2Den e ≤ m * pow2Num e * pow2Den L ∧ m * pow2Num e * pow2Den (L + 1) < pow2Num (L + 1) * pow2Den e) ∧
    (histBin m e = 8 ↔ pow2Den e ≤ m * pow2Num e ∧ m * pow2Num e < 16 * pow2Den e) ∧
    (histBin m e = 0 ↔ m * pow2Num e * 2 ^ 28 < pow2Den e) ∧
    (histBin m e = 15 ↔ 2 ^ 28 * pow2Den e ≤ m * pow2Num e))

/-- g0 reads 0 and p0 reads 1, and a write to either is discarded. When a step starts, every tile that the job image
gives a program holds 0 in all other general registers, predicates and vector registers: at the start release of a
LOADED job, which is the first step after a J, W or P reset, or of a PARKED one, at the end of the window of a
committing Hem, and at the start release of a replayed step. (03_tile.md R83) -/
def Obligations.TileRegistersStartEveryStepAtZero : Prop :=
  (∀ (t : Tile) (v : Word64) (b : Bool), t.reg 0 = 0 ∧ t.setReg 0 v = t ∧ t.pred 0 = true ∧ t.setPred 0 b = t) ∧
  (∀ (s : State) (a : Nat), s.step.startAt = some a → a ≤ s.now → s.jobState = jbLoaded ∨ s.jobState = jbParked →
    ∃ t, exec .stepStart s = .next t ∧
      ∀ g x p, s.host.img = some g → x ∈ g.tiles → t.physOf x.tile.val = some p →
        (∀ i, (t.tile p).reg i = 0) ∧ (∀ i, (t.tile p).pred i = decide (i = 0)) ∧ (∀ i l, (t.tile p).lane i l = 0)) ∧
  (∀ s : State, s.step.startAt = none → s.step.winOpen = true → s.on Reg.TK_STAT_LAST_COMMIT = true →
    s.lastHem + s.step.winLen ≤ s.now → s.rcv.missed = false → s.jobState = jbRunning → s.step.parkNotice = none →
    ∃ t, exec .stepStart s = .next t ∧
      ∀ g x p, s.host.img = some g → x ∈ g.tiles → t.physOf x.tile.val = some p →
        (∀ i, (t.tile p).reg i = 0) ∧ (∀ i, (t.tile p).pred i = decide (i = 0)) ∧ (∀ i l, (t.tile p).lane i l = 0)) ∧
  (∀ (s : State) (a : Nat), s.step.startAt = some a → a ≤ s.now → s.jobState = jbRunning → s.step.winOpen = true →
    ∃ t, exec .stepStart s = .next t ∧
      ∀ g x p, s.host.img = some g → x ∈ g.tiles → t.physOf x.tile.val = some p →
        (∀ i, (t.tile p).reg i = 0) ∧ (∀ i, (t.tile p).pred i = decide (i = 0)) ∧ (∀ i l, (t.tile p).lane i l = 0))

/-- A revocation order that is signed and shaped as an object of TYPE 6 with a 1 B payload is accepted exactly when
its own slot is not in its mask and at least one slot outside the mask is unrevoked; then the fuse of each slot in
the mask is blown. An order that is not accepted blows none. And whatever command a step takes, in whatever state,
and when time passes, a root slot that is revoked before the step is revoked after it. (16_security_identity.md
R488) -/
def Obligations.RevocationIsPermanent : Prop :=
  (∀ (o : SignedObj) (s : State), s.accepts o 6 = true → o.payload.length = 1 →
    (hasBit (orderMask o) (hdSlot o.head) = false ∧ (∃ k < 4, hasBit (orderMask o) k = false ∧ hasBit s.sec.revoked k = false) →
      ∃ t, exec (.revocationOrder o) s = .next t ∧
        ∀ k, hasBit t.sec.revoked k = true ↔ hasBit s.sec.revoked k = true ∨ hasBit (orderMask o) k = true) ∧
    (hasBit (orderMask o) (hdSlot o.head) = true ∨ (∀ k < 4, hasBit (orderMask o) k = false → hasBit s.sec.revoked k = true) →
      ∃ t, exec (.revocationOrder o) s = .next t ∧ t.sec = s.sec)) ∧
  (∀ (s t : State) (k : Nat), step s = .next t → hasBit s.sec.revoked k = true → hasBit t.sec.revoked k = true)

/-- From every state, a step that answers a next state keeps the list of GDDR7 bytes in its canonical form:
addresses rise strictly, and no listed byte is 0. In the same step the fused SVN counters and the signature mark do
not fall, and the fused identity of every die, the serial, the grade and the capacity are as before. The canonical
form is the model's; what burns is the spec's. (09_spools_and_memory.md R295, 16_security_identity.md R494,
16_security_identity.md R495, 16_security_identity.md R498, 01_almanac_time.md R38) -/
def Obligations.StepKeepsMemoryCanonicalAndFusesBurnt : Prop :=
  ∀ s t : State, step s = .next t → (s.Canonical → t.Canonical) ∧ FusesOnlyBurn s t

/-- In State.reset every register field reads its Reset column on both ports, the queue is empty, the device memory
lists nothing and is canonical, no tile and no link holds anything, AT is 0 in state OFF, the device is EMPTY, and
the hot-swap switch has closed with the bulk capacitance not yet charged. That the state after reset is the one
after the switch has closed is the model's choice (log entry 4). (15_reset_and_selftest.md R465,
14_module_power_cooling.md R443, 00_scope.md R15, 01_almanac_time.md R35) -/
def Obligations.ResetStateIsCanonical : Prop :=
  State.reset.pending = [] ∧ State.reset.mem = [] ∧ State.reset.Canonical ∧ State.reset.tiles = [] ∧ State.reset.links = [] ∧
  (∀ f : Fld, State.reset.rd f = f.reset ∧ State.reset.rdHost f = f.reset) ∧ State.reset.now = 0 ∧ State.reset.tstate = tsOff ∧
  State.reset.jobState = jbEmpty ∧ State.reset.phase = phIdle ∧ State.reset.power.closed = true ∧ State.reset.power.bulk = false

/-- For every command c, queue cs and state s, step of s with c at the front of the queue is exec of c on s with the
rest of the queue. On an empty queue time passes, which is the model's choice (log entry 1): in state OFF, with no
spool wait due and no Seam, nothing changes, and in every other state AT goes on by 1 ns modulo 2^64; the spool waits
of the cycle before take effect, the running span does what it does in this cycle, and beside them only AT, the
slewing of the clock and the stutter count change. (95_what_each_step_holds.md, 01_almanac_time.md R18,
01_almanac_time.md R35) -/
def Obligations.StepRunsTheFrontCommand : Prop :=
  (∀ (c : Instr) (cs : List Instr) (s : State), step { s with pending := c :: cs } = exec c { s with pending := cs }) ∧
  (∀ s : State, s.pending = [] →
    (s.tstate = tsOff → s.fab.wakes = [] → s.on Reg.TK_STAT_IN_SEAM = false → step s = .next s) ∧
    (s.tstate ≠ tsOff → ∃ t, step s = .next t ∧ t.now = (s.now + 1) % 2 ^ 64 ∧
      Frame [] [.now, .time, .power, .fab, .out, .seam, .step, .streams, .tiles] s t ∧
      (s.fab.wakes = [] → s.on Reg.TK_STAT_IN_SEAM = false → Frame [] [.now, .time, .power] s t)))

/-- Every command, in every state, answers a next state that has the queue of the state before, or the fault of a
malformed command, or the fault that its tile does not exist on the device. A command whose operands are not those
of its row never answers a next state. No command is ever refused. (95_what_each_step_holds.md) -/
def Obligations.CommandsAnswerOrAreMalformed : Prop :=
  (∀ (c : Instr) (s : State), (∃ t, exec c s = .next t ∧ t.pending = s.pending) ∨ exec c s = .fault .malformed ∨
    exec c s = .fault .noSuchTile) ∧
  (∀ (c : Instr) (s : State), c.wf = false → exec c s = .fault .malformed ∨ exec c s = .fault .noSuchTile)
end

