-- ==== Sys2Proof/Laws/Store.lean ====
section
/-! SUPPORT. The sparse stores: what a key reads as after a write, and that every operation keeps the canonical form. -/

namespace Sys2Proof.Machine

variable {α : Type}

theorem smFind_put_same (m : SMap α) (k : Nat) (v : α) : smFind (smPut m k v) k = some v := by
  induction m with
  | nil => simp [smPut, smFind]
  | cons e m ih =>
    simp only [smPut]
    split
    · simp [smFind]
    · split
      · simp [smFind]
      · rename_i h1 h2
        simp only [smFind]
        rw [if_neg (fun h => h2 h.symm), ih]

theorem smFind_put_ne (m : SMap α) {k q : Nat} (v : α) (h : q ≠ k) : smFind (smPut m k v) q = smFind m q := by
  induction m with
  | nil => simp [smPut, smFind, h.symm]
  | cons e m ih =>
    simp only [smPut]
    split
    · simp [smFind, h.symm]
    · split
      · rename_i h1 h2
        simp only [smFind]
        rw [if_neg h.symm, if_neg (fun e1 => h (by omega))]
      · simp only [smFind, ih]

theorem smFind_del_same (m : SMap α) (k : Nat) : smFind (smDel m k) k = none := by
  induction m with
  | nil => rfl
  | cons e m ih =>
    simp only [smDel]
    split
    · exact ih
    · rename_i h
      simp only [smFind]
      rw [if_neg h, ih]

theorem smFind_del_ne (m : SMap α) {k q : Nat} (h : q ≠ k) : smFind (smDel m k) q = smFind m q := by
  induction m with
  | nil => rfl
  | cons e m ih =>
    simp only [smDel]
    split
    · rename_i e1
      simp only [smFind]
      rw [if_neg (fun e2 => h (e2.symm.trans e1)), ih]
    · simp only [smFind, ih]

/-- A key reads as what was put under it. -/
@[simp] theorem smGet_put_same (m : SMap α) (k : Nat) (v d : α) : smGet (smPut m k v) k d = v := by
  simp [smGet, smFind_put_same]

theorem smGet_put_ne (m : SMap α) {k q : Nat} (v d : α) (h : q ≠ k) : smGet (smPut m k v) q d = smGet m q d := by
  simp [smGet, smFind_put_ne m v h]

@[simp] theorem smGet_set_same [DecidableEq α] (m : SMap α) (k : Nat) (v d : α) : smGet (smSet m k v d) k d = v := by
  unfold smSet
  split
  · rename_i h
    simp [smGet, smFind_del_same, h]
  · simp

theorem smGet_set_ne [DecidableEq α] (m : SMap α) {k q : Nat} (v d e : α) (h : q ≠ k) :
    smGet (smSet m k v d) q e = smGet m q e := by
  unfold smSet
  split
  · simp [smGet, smFind_del_ne m h]
  · exact smGet_put_ne m v e h

/- ### The canonical form -/

theorem smSorted_le {lo lo' : Nat} (h : lo' ≤ lo) : ∀ {m : SMap α}, smSorted lo m = true → smSorted lo' m = true
  | [], _ => rfl
  | (k, v) :: m, hm => by
    simp only [smSorted, Bool.and_eq_true, decide_eq_true_eq] at hm ⊢
    exact ⟨Nat.le_trans h hm.1, hm.2⟩

theorem smSorted_put {lo k : Nat} (hk : lo ≤ k) (w : α) : ∀ {m : SMap α}, smSorted lo m = true →
    smSorted lo (smPut m k w) = true := by
  intro m
  induction m generalizing lo with
  | nil => intro _; simp [smPut, smSorted, hk]
  | cons e m ih =>
    intro hm
    simp only [smSorted, Bool.and_eq_true, decide_eq_true_eq] at hm
    simp only [smPut]
    split
    · rename_i h
      simp only [smSorted, Bool.and_eq_true, decide_eq_true_eq]
      exact ⟨hk, h, hm.2⟩
    · split
      · rename_i h1 h2
        simp only [smSorted, Bool.and_eq_true, decide_eq_true_eq]
        exact ⟨hk, h2 ▸ hm.2⟩
      · rename_i h1 h2
        simp only [smSorted, Bool.and_eq_true, decide_eq_true_eq]
        exact ⟨hm.1, ih (by omega) hm.2⟩

theorem smSorted_del {lo k : Nat} : ∀ {m : SMap α}, smSorted lo m = true → smSorted lo (smDel m k) = true := by
  intro m
  induction m generalizing lo with
  | nil => intro _; rfl
  | cons e m ih =>
    intro hm
    simp only [smSorted, Bool.and_eq_true, decide_eq_true_eq] at hm
    simp only [smDel]
    split
    · exact ih (smSorted_le (by omega) hm.2)
    · simp only [smSorted, Bool.and_eq_true, decide_eq_true_eq]
      exact ⟨hm.1, ih hm.2⟩

theorem smSorted_filter {lo : Nat} (p : Nat × α → Bool) : ∀ {m : SMap α}, smSorted lo m = true →
    smSorted lo (m.filter p) = true := by
  intro m
  induction m generalizing lo with
  | nil => intro _; rfl
  | cons e m ih =>
    intro hm
    simp only [smSorted, Bool.and_eq_true, decide_eq_true_eq] at hm
    simp only [List.filter]
    split
    · simp only [smSorted, Bool.and_eq_true, decide_eq_true_eq]
      exact ⟨hm.1, ih hm.2⟩
    · exact ih (smSorted_le (by omega) hm.2)

theorem mem_smPut {m : SMap α} {k : Nat} {w : α} {x : Nat × α} (h : x ∈ smPut m k w) : x = (k, w) ∨ x ∈ m := by
  induction m with
  | nil => simp [smPut] at h; exact .inl h
  | cons e m ih =>
    simp only [smPut] at h
    split at h
    · rcases List.mem_cons.mp h with h | h
      · exact .inl h
      · exact .inr h
    · split at h
      · rcases List.mem_cons.mp h with h | h
        · exact .inl h
        · exact .inr (List.mem_cons_of_mem _ h)
      · rcases List.mem_cons.mp h with h | h
        · exact .inr (h ▸ List.mem_cons_self ..)
        · rcases ih h with h | h
          · exact .inl h
          · exact .inr (List.mem_cons_of_mem _ h)

theorem mem_smDel {m : SMap α} {k : Nat} {x : Nat × α} (h : x ∈ smDel m k) : x ∈ m := by
  induction m with
  | nil => exact h
  | cons e m ih =>
    simp only [smDel] at h
    split at h
    · exact List.mem_cons_of_mem _ (ih h)
    · rcases List.mem_cons.mp h with h | h
      · exact h ▸ List.mem_cons_self ..
      · exact List.mem_cons_of_mem _ (ih h)

theorem smWf_iff [DecidableEq α] (m : SMap α) (d : α) : smWf m d = true ↔ smSorted 0 m = true ∧ ∀ e ∈ m, e.2 ≠ d := by
  simp [smWf]

/-- A write keeps the canonical form. -/
theorem smWf_set [DecidableEq α] {m : SMap α} {d : α} (k : Nat) (v : α) (h : smWf m d = true) :
    smWf (smSet m k v d) d = true := by
  rw [smWf_iff] at h ⊢
  unfold smSet
  split
  · exact ⟨smSorted_del h.1, fun e he => h.2 e (mem_smDel he)⟩
  · rename_i hv
    refine ⟨smSorted_put (Nat.zero_le _) v h.1, fun e he => ?_⟩
    rcases mem_smPut he with rfl | he
    · exact hv
    · exact h.2 e he

theorem smWf_filter [DecidableEq α] {m : SMap α} {d : α} (p : Nat × α → Bool) (h : smWf m d = true) :
    smWf (m.filter p) d = true := by
  rw [smWf_iff] at h ⊢
  exact ⟨smSorted_filter p h.1, fun e he => h.2 e ((List.mem_filter.mp he).1)⟩

/- ### Byte memories -/

@[simp] theorem Memory.read_write_same (m : List Host.Cell) (a : Nat) (b : Byte) : Memory.read (Memory.write m a b) a = b := by
  simp [Memory.read, Memory.write]

theorem Memory.read_write_ne (m : List Host.Cell) {a c : Nat} (b : Byte) (h : c ≠ a) :
    Memory.read (Memory.write m a b) c = Memory.read m c := by
  simp only [Memory.read, Memory.write]
  exact smGet_set_ne m b 0 0 h

/-- A write keeps the canonical form of a memory. -/
theorem Memory.wf_write {m : List Host.Cell} (a : Nat) (b : Byte) (h : Memory.wf m = true) :
    Memory.wf (Memory.write m a b) = true := smWf_set a b h

theorem Memory.wf_writeN {m : List Host.Cell} (a : Nat) (bs : List Byte) (h : Memory.wf m = true) :
    Memory.wf (Memory.writeN m a bs) = true := by
  induction bs generalizing m a with
  | nil => exact h
  | cons b bs ih => exact ih _ (Memory.wf_write a b h)

theorem Memory.wf_delRange {m : List Host.Cell} (lo n : Nat) (h : Memory.wf m = true) :
    Memory.wf (smDelRange m lo n) = true := smWf_filter _ h

/-- What a put stores under a key that a filter drops does not show in the filtered store. -/
theorem smPut_filter (p : Nat → Bool) (m : SMap α) (k : Nat) (v : α) (h : p k = false) :
    (smPut m k v).filter (fun c => p c.1) = m.filter (fun c => p c.1) := by
  induction m with
  | nil => simp [smPut, h]
  | cons e m ih =>
    obtain ⟨q, w⟩ := e
    simp only [smPut]
    split
    · simp [h]
    · split
      · rename_i e
        subst e
        simp [h]
      · simp [List.filter_cons, ih]

theorem smDel_filter (p : Nat → Bool) (m : SMap α) (k : Nat) (h : p k = false) :
    (smDel m k).filter (fun c => p c.1) = m.filter (fun c => p c.1) := by
  induction m with
  | nil => rfl
  | cons e m ih =>
    obtain ⟨q, w⟩ := e
    simp only [smDel]
    split
    · rename_i e
      subst e
      simp [h, ih]
    · simp [List.filter_cons, ih]

theorem Memory.filter_write (p : Nat → Bool) (m : List Host.Cell) (a : Nat) (b : Byte) (h : p a = false) :
    (Memory.write m a b).filter (fun c => p c.1) = m.filter (fun c => p c.1) := by
  simp only [Memory.write, smSet]
  split
  · exact smDel_filter p m a h
  · exact smPut_filter p m a b h

/-- A run of bytes that a filter drops does not show in the filtered memory. -/
theorem Memory.filter_writeN (p : Nat → Bool) (m : List Host.Cell) (a : Nat) (bs : List Byte)
    (h : ∀ i < bs.length, p (a + i) = false) :
    (Memory.writeN m a bs).filter (fun c => p c.1) = m.filter (fun c => p c.1) := by
  induction bs generalizing m a with
  | nil => rfl
  | cons b bs ih =>
    simp only [Memory.writeN]
    rw [ih _ _ (fun i hi => by
      have := h (i + 1) (by simpa using hi)
      rwa [show a + (i + 1) = a + 1 + i by omega] at this)]
    exact Memory.filter_write p m a b (by simpa using h 0 (by simp))

@[simp] theorem natLe_length (x n : Nat) : (natLe x n).length = n := by
  induction n generalizing x with
  | zero => rfl
  | succ n ih => simp [natLe, ih]

/-- A byte outside the bytes written reads as before. -/
theorem Memory.read_writeN_out (m : List Host.Cell) (a : Nat) (bs : List Byte) (c : Nat) (h : c < a ∨ a + bs.length ≤ c) :
    Memory.read (Memory.writeN m a bs) c = Memory.read m c := by
  induction bs generalizing m a with
  | nil => rfl
  | cons b bs ih =>
    simp only [List.length_cons] at h
    simp only [Memory.writeN]
    rw [ih _ _ (by omega), Memory.read_write_ne _ _ (by omega)]

/-- A byte that a run of bytes covers reads as the byte written there. -/
theorem Memory.read_writeN_in (m : List Host.Cell) (a : Nat) (bs : List Byte) (i : Nat) (h : i < bs.length) :
    Memory.read (Memory.writeN m a bs) (a + i) = bs[i] := by
  induction bs generalizing m a i with
  | nil => exact absurd h (Nat.not_lt_zero _)
  | cons b bs ih =>
    simp only [Memory.writeN]
    cases i with
    | zero => rw [Memory.read_writeN_out _ _ _ _ (by omega)]; simp
    | succ i =>
      have := ih (Memory.write m a b) (a + 1) i (by simpa using h)
      rw [show a + (i + 1) = a + 1 + i by omega, this]
      simp

end Sys2Proof.Machine
end

