-- ==== Sys2Proof/Laws/State.lean ====
section
/-! SUPPORT. The fields of the state under each of the operations that change it in one place: what each leaves as it was,
and what is read back from where it wrote. -/

namespace Sys2Proof.Machine

variable (s : State)

/- ### Register fields -/

/-- A field reads as what was written, cut to its width. -/
@[simp] theorem State.rd_wr_same (f : Fld) (v : Nat) : (s.wr f v).rd f = v % 2 ^ f.width := by
  simp [State.rd, State.wr]

/-- Another field reads as before. -/
theorem State.rd_wr_ne {f g : Fld} (v : Nat) (h : g.key ≠ f.key) : (s.wr f v).rd g = s.rd g := by
  simp only [State.rd, State.wr]
  exact smGet_set_ne s.regs _ f.reset g.reset h

theorem smFind_set_ne {α : Type} [DecidableEq α] (m : SMap α) {k q : Nat} (v d : α) (h : q ≠ k) :
    smFind (smSet m k v d) q = smFind m q := by
  unfold smSet
  split
  · exact smFind_del_ne m h
  · exact smFind_put_ne m v h

/-- What is stored under another key stays. -/
theorem State.find_wr_ne {f : Fld} {k : Nat} (v : Nat) (h : k ≠ f.key) :
    smFind (s.wr f v).regs k = smFind s.regs k := smFind_set_ne s.regs _ f.reset h

theorem State.find_wrHost_ne {f : Fld} {k : Nat} (v : Nat) (h : k ≠ f.hostKey) :
    smFind (s.wrHost f v).regs k = smFind s.regs k := smFind_set_ne s.regs _ f.reset h

@[simp] theorem State.rdHost_wrHost_same (f : Fld) (v : Nat) : (s.wrHost f v).rdHost f = v % 2 ^ f.width := by
  simp [State.rdHost, State.wrHost]

/-- A counter counts up to its largest value. -/
@[simp] theorem State.rd_bump_same (f : Fld) (n : Nat) : (s.bump f n).rd f = min (s.rd f + n) (2 ^ f.width - 1) := by
  unfold State.bump
  rw [State.rd_wr_same]
  exact Nat.mod_eq_of_lt (by have := Nat.one_le_two_pow (n := f.width); omega)

theorem State.rd_bump_ne {f g : Fld} (n : Nat) (h : g.key ≠ f.key) : (s.bump f n).rd g = s.rd g := s.rd_wr_ne _ h

theorem State.rd_flag_ne {f g : Fld} (h : g.key ≠ f.key) : (s.flag f).rd g = s.rd g := s.rd_wr_ne _ h

theorem State.find_bump_ne {f : Fld} {k : Nat} (n : Nat) (h : k ≠ f.key) :
    smFind (s.bump f n).regs k = smFind s.regs k := s.find_wr_ne _ h

theorem State.find_flag_ne {f : Fld} {k : Nat} (h : k ≠ f.key) :
    smFind (s.flag f).regs k = smFind s.regs k := s.find_wr_ne _ h

/-- A state with the same registers reads the same. -/
theorem State.rd_congr {s t : State} (h : t.regs = s.regs) (f : Fld) : t.rd f = s.rd f := by
  simp [State.rd, h]

/-- An update of other parts leaves every register field. -/
@[simp] theorem State.rd_mk (x : State) (a_pending a_now a_fresh a_out a_time a_links a_tacks a_step a_seam a_tiles
    a_fab a_streams a_mem a_poison a_mdies a_seqs a_harvest a_commit a_monitors a_rcv a_host a_power a_test a_sec
    a_snaps) (f : Fld) :
    State.rd (State.mk a_pending x.regs a_now a_fresh a_out a_time a_links a_tacks a_step a_seam a_tiles a_fab
    a_streams a_mem a_poison a_mdies a_seqs a_harvest a_commit a_monitors a_rcv a_host a_power a_test a_sec a_snaps)
    f = x.rd f := rfl

/- ### Links, trees and tiles -/

@[simp] theorem State.link_setLink_same (n : Nat) (l : LinkSt) : (s.setLink n l).link n = l := by
  simp [State.link, State.setLink]

theorem State.link_setLink_ne {n m : Nat} (l : LinkSt) (h : m ≠ n) : (s.setLink n l).link m = s.link m := by
  simp only [State.link, State.setLink]
  exact smGet_put_ne s.links l {} h

@[simp] theorem State.link_modLink_same (n : Nat) (f : LinkSt → LinkSt) : (s.modLink n f).link n = f (s.link n) := by
  simp [State.modLink]

theorem State.link_modLink_ne {n m : Nat} (f : LinkSt → LinkSt) (h : m ≠ n) : (s.modLink n f).link m = s.link m :=
  s.link_setLink_ne _ h

@[simp] theorem State.tack_setTack_same (k : Nat) (x : TackSt) : (s.setTack k x).tack k = x := by
  simp [State.tack, State.setTack]

theorem State.tack_setTack_ne {k j : Nat} (x : TackSt) (h : j ≠ k) : (s.setTack k x).tack j = s.tack j := by
  simp only [State.tack, State.setTack]
  exact smGet_put_ne s.tacks x {} h

@[simp] theorem State.tile_setTile_same (p : Nat) (x : Tile) : (s.setTile p x).tile p = x := by
  simp [State.tile, State.setTile]

theorem State.tile_setTile_ne {p q : Nat} (x : Tile) (h : q ≠ p) : (s.setTile p x).tile q = s.tile q := by
  simp only [State.tile, State.setTile]
  exact smGet_put_ne s.tiles x {} h

@[simp] theorem State.tile_modTile_same (p : Nat) (f : Tile → Tile) : (s.modTile p f).tile p = f (s.tile p) := by
  simp [State.modTile]

theorem State.tile_modTile_ne {p q : Nat} (f : Tile → Tile) (h : q ≠ p) : (s.modTile p f).tile q = s.tile q :=
  s.tile_setTile_ne _ h

/- ### Registers of a tile -/

/-- g0 reads as 0 whatever was written (R83). -/
@[simp] theorem Tile.reg_zero (t : Tile) : t.reg 0 = 0 := rfl

@[simp] theorem Tile.reg_setReg_same (t : Tile) {i : Nat} (v : Word64) (h : i ≠ 0) : (t.setReg i v).reg i = v := by
  simp [Tile.reg, Tile.setReg, h]

theorem Tile.reg_setReg_ne (t : Tile) {i j : Nat} (v : Word64) (h : j ≠ i) : (t.setReg i v).reg j = t.reg j := by
  unfold Tile.reg Tile.setReg
  split
  · rfl
  · split
    · rfl
    · exact smGet_set_ne t.g v 0 0 h

/- ### The fields that each operation leaves -/

@[simp] theorem State.wr_pending (f : Fld) (v : Nat) : (s.wr f v).pending = s.pending := rfl
@[simp] theorem State.wr_now (f : Fld) (v : Nat) : (s.wr f v).now = s.now := rfl
@[simp] theorem State.wr_fresh (f : Fld) (v : Nat) : (s.wr f v).fresh = s.fresh := rfl
@[simp] theorem State.wr_out (f : Fld) (v : Nat) : (s.wr f v).out = s.out := rfl
@[simp] theorem State.wr_time (f : Fld) (v : Nat) : (s.wr f v).time = s.time := rfl
@[simp] theorem State.wr_links (f : Fld) (v : Nat) : (s.wr f v).links = s.links := rfl
@[simp] theorem State.wr_tacks (f : Fld) (v : Nat) : (s.wr f v).tacks = s.tacks := rfl
@[simp] theorem State.wr_step (f : Fld) (v : Nat) : (s.wr f v).step = s.step := rfl
@[simp] theorem State.wr_seam (f : Fld) (v : Nat) : (s.wr f v).seam = s.seam := rfl
@[simp] theorem State.wr_tiles (f : Fld) (v : Nat) : (s.wr f v).tiles = s.tiles := rfl
@[simp] theorem State.wr_fab (f : Fld) (v : Nat) : (s.wr f v).fab = s.fab := rfl
@[simp] theorem State.wr_streams (f : Fld) (v : Nat) : (s.wr f v).streams = s.streams := rfl
@[simp] theorem State.wr_mem (f : Fld) (v : Nat) : (s.wr f v).mem = s.mem := rfl
@[simp] theorem State.wr_poison (f : Fld) (v : Nat) : (s.wr f v).poison = s.poison := rfl
@[simp] theorem State.wr_mdies (f : Fld) (v : Nat) : (s.wr f v).mdies = s.mdies := rfl
@[simp] theorem State.wr_seqs (f : Fld) (v : Nat) : (s.wr f v).seqs = s.seqs := rfl
@[simp] theorem State.wr_harvest (f : Fld) (v : Nat) : (s.wr f v).harvest = s.harvest := rfl
@[simp] theorem State.wr_commit (f : Fld) (v : Nat) : (s.wr f v).commit = s.commit := rfl
@[simp] theorem State.wr_monitors (f : Fld) (v : Nat) : (s.wr f v).monitors = s.monitors := rfl
@[simp] theorem State.wr_rcv (f : Fld) (v : Nat) : (s.wr f v).rcv = s.rcv := rfl
@[simp] theorem State.wr_host (f : Fld) (v : Nat) : (s.wr f v).host = s.host := rfl
@[simp] theorem State.wr_power (f : Fld) (v : Nat) : (s.wr f v).power = s.power := rfl
@[simp] theorem State.wr_test (f : Fld) (v : Nat) : (s.wr f v).test = s.test := rfl
@[simp] theorem State.wr_sec (f : Fld) (v : Nat) : (s.wr f v).sec = s.sec := rfl
@[simp] theorem State.wr_snaps (f : Fld) (v : Nat) : (s.wr f v).snaps = s.snaps := rfl

@[simp] theorem State.wrHost_pending (f : Fld) (v : Nat) : (s.wrHost f v).pending = s.pending := rfl
@[simp] theorem State.wrHost_now (f : Fld) (v : Nat) : (s.wrHost f v).now = s.now := rfl
@[simp] theorem State.wrHost_fresh (f : Fld) (v : Nat) : (s.wrHost f v).fresh = s.fresh := rfl
@[simp] theorem State.wrHost_out (f : Fld) (v : Nat) : (s.wrHost f v).out = s.out := rfl
@[simp] theorem State.wrHost_time (f : Fld) (v : Nat) : (s.wrHost f v).time = s.time := rfl
@[simp] theorem State.wrHost_links (f : Fld) (v : Nat) : (s.wrHost f v).links = s.links := rfl
@[simp] theorem State.wrHost_tacks (f : Fld) (v : Nat) : (s.wrHost f v).tacks = s.tacks := rfl
@[simp] theorem State.wrHost_step (f : Fld) (v : Nat) : (s.wrHost f v).step = s.step := rfl
@[simp] theorem State.wrHost_seam (f : Fld) (v : Nat) : (s.wrHost f v).seam = s.seam := rfl
@[simp] theorem State.wrHost_tiles (f : Fld) (v : Nat) : (s.wrHost f v).tiles = s.tiles := rfl
@[simp] theorem State.wrHost_fab (f : Fld) (v : Nat) : (s.wrHost f v).fab = s.fab := rfl
@[simp] theorem State.wrHost_streams (f : Fld) (v : Nat) : (s.wrHost f v).streams = s.streams := rfl
@[simp] theorem State.wrHost_mem (f : Fld) (v : Nat) : (s.wrHost f v).mem = s.mem := rfl
@[simp] theorem State.wrHost_poison (f : Fld) (v : Nat) : (s.wrHost f v).poison = s.poison := rfl
@[simp] theorem State.wrHost_mdies (f : Fld) (v : Nat) : (s.wrHost f v).mdies = s.mdies := rfl
@[simp] theorem State.wrHost_seqs (f : Fld) (v : Nat) : (s.wrHost f v).seqs = s.seqs := rfl
@[simp] theorem State.wrHost_harvest (f : Fld) (v : Nat) : (s.wrHost f v).harvest = s.harvest := rfl
@[simp] theorem State.wrHost_commit (f : Fld) (v : Nat) : (s.wrHost f v).commit = s.commit := rfl
@[simp] theorem State.wrHost_monitors (f : Fld) (v : Nat) : (s.wrHost f v).monitors = s.monitors := rfl
@[simp] theorem State.wrHost_rcv (f : Fld) (v : Nat) : (s.wrHost f v).rcv = s.rcv := rfl
@[simp] theorem State.wrHost_host (f : Fld) (v : Nat) : (s.wrHost f v).host = s.host := rfl
@[simp] theorem State.wrHost_power (f : Fld) (v : Nat) : (s.wrHost f v).power = s.power := rfl
@[simp] theorem State.wrHost_test (f : Fld) (v : Nat) : (s.wrHost f v).test = s.test := rfl
@[simp] theorem State.wrHost_sec (f : Fld) (v : Nat) : (s.wrHost f v).sec = s.sec := rfl
@[simp] theorem State.wrHost_snaps (f : Fld) (v : Nat) : (s.wrHost f v).snaps = s.snaps := rfl

@[simp] theorem State.bump_pending (f : Fld) (n : Nat) : (s.bump f n).pending = s.pending := rfl
@[simp] theorem State.bump_now (f : Fld) (n : Nat) : (s.bump f n).now = s.now := rfl
@[simp] theorem State.bump_fresh (f : Fld) (n : Nat) : (s.bump f n).fresh = s.fresh := rfl
@[simp] theorem State.bump_out (f : Fld) (n : Nat) : (s.bump f n).out = s.out := rfl
@[simp] theorem State.bump_time (f : Fld) (n : Nat) : (s.bump f n).time = s.time := rfl
@[simp] theorem State.bump_links (f : Fld) (n : Nat) : (s.bump f n).links = s.links := rfl
@[simp] theorem State.bump_tacks (f : Fld) (n : Nat) : (s.bump f n).tacks = s.tacks := rfl
@[simp] theorem State.bump_step (f : Fld) (n : Nat) : (s.bump f n).step = s.step := rfl
@[simp] theorem State.bump_seam (f : Fld) (n : Nat) : (s.bump f n).seam = s.seam := rfl
@[simp] theorem State.bump_tiles (f : Fld) (n : Nat) : (s.bump f n).tiles = s.tiles := rfl
@[simp] theorem State.bump_fab (f : Fld) (n : Nat) : (s.bump f n).fab = s.fab := rfl
@[simp] theorem State.bump_streams (f : Fld) (n : Nat) : (s.bump f n).streams = s.streams := rfl
@[simp] theorem State.bump_mem (f : Fld) (n : Nat) : (s.bump f n).mem = s.mem := rfl
@[simp] theorem State.bump_poison (f : Fld) (n : Nat) : (s.bump f n).poison = s.poison := rfl
@[simp] theorem State.bump_mdies (f : Fld) (n : Nat) : (s.bump f n).mdies = s.mdies := rfl
@[simp] theorem State.bump_seqs (f : Fld) (n : Nat) : (s.bump f n).seqs = s.seqs := rfl
@[simp] theorem State.bump_harvest (f : Fld) (n : Nat) : (s.bump f n).harvest = s.harvest := rfl
@[simp] theorem State.bump_commit (f : Fld) (n : Nat) : (s.bump f n).commit = s.commit := rfl
@[simp] theorem State.bump_monitors (f : Fld) (n : Nat) : (s.bump f n).monitors = s.monitors := rfl
@[simp] theorem State.bump_rcv (f : Fld) (n : Nat) : (s.bump f n).rcv = s.rcv := rfl
@[simp] theorem State.bump_host (f : Fld) (n : Nat) : (s.bump f n).host = s.host := rfl
@[simp] theorem State.bump_power (f : Fld) (n : Nat) : (s.bump f n).power = s.power := rfl
@[simp] theorem State.bump_test (f : Fld) (n : Nat) : (s.bump f n).test = s.test := rfl
@[simp] theorem State.bump_sec (f : Fld) (n : Nat) : (s.bump f n).sec = s.sec := rfl
@[simp] theorem State.bump_snaps (f : Fld) (n : Nat) : (s.bump f n).snaps = s.snaps := rfl

@[simp] theorem State.flag_pending (f : Fld) : (s.flag f).pending = s.pending := rfl
@[simp] theorem State.flag_now (f : Fld) : (s.flag f).now = s.now := rfl
@[simp] theorem State.flag_fresh (f : Fld) : (s.flag f).fresh = s.fresh := rfl
@[simp] theorem State.flag_out (f : Fld) : (s.flag f).out = s.out := rfl
@[simp] theorem State.flag_time (f : Fld) : (s.flag f).time = s.time := rfl
@[simp] theorem State.flag_links (f : Fld) : (s.flag f).links = s.links := rfl
@[simp] theorem State.flag_tacks (f : Fld) : (s.flag f).tacks = s.tacks := rfl
@[simp] theorem State.flag_step (f : Fld) : (s.flag f).step = s.step := rfl
@[simp] theorem State.flag_seam (f : Fld) : (s.flag f).seam = s.seam := rfl
@[simp] theorem State.flag_tiles (f : Fld) : (s.flag f).tiles = s.tiles := rfl
@[simp] theorem State.flag_fab (f : Fld) : (s.flag f).fab = s.fab := rfl
@[simp] theorem State.flag_streams (f : Fld) : (s.flag f).streams = s.streams := rfl
@[simp] theorem State.flag_mem (f : Fld) : (s.flag f).mem = s.mem := rfl
@[simp] theorem State.flag_poison (f : Fld) : (s.flag f).poison = s.poison := rfl
@[simp] theorem State.flag_mdies (f : Fld) : (s.flag f).mdies = s.mdies := rfl
@[simp] theorem State.flag_seqs (f : Fld) : (s.flag f).seqs = s.seqs := rfl
@[simp] theorem State.flag_harvest (f : Fld) : (s.flag f).harvest = s.harvest := rfl
@[simp] theorem State.flag_commit (f : Fld) : (s.flag f).commit = s.commit := rfl
@[simp] theorem State.flag_monitors (f : Fld) : (s.flag f).monitors = s.monitors := rfl
@[simp] theorem State.flag_rcv (f : Fld) : (s.flag f).rcv = s.rcv := rfl
@[simp] theorem State.flag_host (f : Fld) : (s.flag f).host = s.host := rfl
@[simp] theorem State.flag_power (f : Fld) : (s.flag f).power = s.power := rfl
@[simp] theorem State.flag_test (f : Fld) : (s.flag f).test = s.test := rfl
@[simp] theorem State.flag_sec (f : Fld) : (s.flag f).sec = s.sec := rfl
@[simp] theorem State.flag_snaps (f : Fld) : (s.flag f).snaps = s.snaps := rfl

@[simp] theorem State.emit_pending (o : Out) : (s.emit o).pending = s.pending := rfl
@[simp] theorem State.emit_regs (o : Out) : (s.emit o).regs = s.regs := rfl
@[simp] theorem State.emit_now (o : Out) : (s.emit o).now = s.now := rfl
@[simp] theorem State.emit_fresh (o : Out) : (s.emit o).fresh = s.fresh := rfl
@[simp] theorem State.emit_time (o : Out) : (s.emit o).time = s.time := rfl
@[simp] theorem State.emit_links (o : Out) : (s.emit o).links = s.links := rfl
@[simp] theorem State.emit_tacks (o : Out) : (s.emit o).tacks = s.tacks := rfl
@[simp] theorem State.emit_step (o : Out) : (s.emit o).step = s.step := rfl
@[simp] theorem State.emit_seam (o : Out) : (s.emit o).seam = s.seam := rfl
@[simp] theorem State.emit_tiles (o : Out) : (s.emit o).tiles = s.tiles := rfl
@[simp] theorem State.emit_fab (o : Out) : (s.emit o).fab = s.fab := rfl
@[simp] theorem State.emit_streams (o : Out) : (s.emit o).streams = s.streams := rfl
@[simp] theorem State.emit_mem (o : Out) : (s.emit o).mem = s.mem := rfl
@[simp] theorem State.emit_poison (o : Out) : (s.emit o).poison = s.poison := rfl
@[simp] theorem State.emit_mdies (o : Out) : (s.emit o).mdies = s.mdies := rfl
@[simp] theorem State.emit_seqs (o : Out) : (s.emit o).seqs = s.seqs := rfl
@[simp] theorem State.emit_harvest (o : Out) : (s.emit o).harvest = s.harvest := rfl
@[simp] theorem State.emit_commit (o : Out) : (s.emit o).commit = s.commit := rfl
@[simp] theorem State.emit_monitors (o : Out) : (s.emit o).monitors = s.monitors := rfl
@[simp] theorem State.emit_rcv (o : Out) : (s.emit o).rcv = s.rcv := rfl
@[simp] theorem State.emit_host (o : Out) : (s.emit o).host = s.host := rfl
@[simp] theorem State.emit_power (o : Out) : (s.emit o).power = s.power := rfl
@[simp] theorem State.emit_test (o : Out) : (s.emit o).test = s.test := rfl
@[simp] theorem State.emit_sec (o : Out) : (s.emit o).sec = s.sec := rfl
@[simp] theorem State.emit_snaps (o : Out) : (s.emit o).snaps = s.snaps := rfl

@[simp] theorem State.setLink_pending (n : Nat) (l : LinkSt) : (s.setLink n l).pending = s.pending := rfl
@[simp] theorem State.setLink_regs (n : Nat) (l : LinkSt) : (s.setLink n l).regs = s.regs := rfl
@[simp] theorem State.setLink_now (n : Nat) (l : LinkSt) : (s.setLink n l).now = s.now := rfl
@[simp] theorem State.setLink_fresh (n : Nat) (l : LinkSt) : (s.setLink n l).fresh = s.fresh := rfl
@[simp] theorem State.setLink_out (n : Nat) (l : LinkSt) : (s.setLink n l).out = s.out := rfl
@[simp] theorem State.setLink_time (n : Nat) (l : LinkSt) : (s.setLink n l).time = s.time := rfl
@[simp] theorem State.setLink_tacks (n : Nat) (l : LinkSt) : (s.setLink n l).tacks = s.tacks := rfl
@[simp] theorem State.setLink_step (n : Nat) (l : LinkSt) : (s.setLink n l).step = s.step := rfl
@[simp] theorem State.setLink_seam (n : Nat) (l : LinkSt) : (s.setLink n l).seam = s.seam := rfl
@[simp] theorem State.setLink_tiles (n : Nat) (l : LinkSt) : (s.setLink n l).tiles = s.tiles := rfl
@[simp] theorem State.setLink_fab (n : Nat) (l : LinkSt) : (s.setLink n l).fab = s.fab := rfl
@[simp] theorem State.setLink_streams (n : Nat) (l : LinkSt) : (s.setLink n l).streams = s.streams := rfl
@[simp] theorem State.setLink_mem (n : Nat) (l : LinkSt) : (s.setLink n l).mem = s.mem := rfl
@[simp] theorem State.setLink_poison (n : Nat) (l : LinkSt) : (s.setLink n l).poison = s.poison := rfl
@[simp] theorem State.setLink_mdies (n : Nat) (l : LinkSt) : (s.setLink n l).mdies = s.mdies := rfl
@[simp] theorem State.setLink_seqs (n : Nat) (l : LinkSt) : (s.setLink n l).seqs = s.seqs := rfl
@[simp] theorem State.setLink_harvest (n : Nat) (l : LinkSt) : (s.setLink n l).harvest = s.harvest := rfl
@[simp] theorem State.setLink_commit (n : Nat) (l : LinkSt) : (s.setLink n l).commit = s.commit := rfl
@[simp] theorem State.setLink_monitors (n : Nat) (l : LinkSt) : (s.setLink n l).monitors = s.monitors := rfl
@[simp] theorem State.setLink_rcv (n : Nat) (l : LinkSt) : (s.setLink n l).rcv = s.rcv := rfl
@[simp] theorem State.setLink_host (n : Nat) (l : LinkSt) : (s.setLink n l).host = s.host := rfl
@[simp] theorem State.setLink_power (n : Nat) (l : LinkSt) : (s.setLink n l).power = s.power := rfl
@[simp] theorem State.setLink_test (n : Nat) (l : LinkSt) : (s.setLink n l).test = s.test := rfl
@[simp] theorem State.setLink_sec (n : Nat) (l : LinkSt) : (s.setLink n l).sec = s.sec := rfl
@[simp] theorem State.setLink_snaps (n : Nat) (l : LinkSt) : (s.setLink n l).snaps = s.snaps := rfl

@[simp] theorem State.modLink_pending (n : Nat) (f : LinkSt → LinkSt) : (s.modLink n f).pending = s.pending := rfl
@[simp] theorem State.modLink_regs (n : Nat) (f : LinkSt → LinkSt) : (s.modLink n f).regs = s.regs := rfl
@[simp] theorem State.modLink_now (n : Nat) (f : LinkSt → LinkSt) : (s.modLink n f).now = s.now := rfl
@[simp] theorem State.modLink_fresh (n : Nat) (f : LinkSt → LinkSt) : (s.modLink n f).fresh = s.fresh := rfl
@[simp] theorem State.modLink_out (n : Nat) (f : LinkSt → LinkSt) : (s.modLink n f).out = s.out := rfl
@[simp] theorem State.modLink_time (n : Nat) (f : LinkSt → LinkSt) : (s.modLink n f).time = s.time := rfl
@[simp] theorem State.modLink_tacks (n : Nat) (f : LinkSt → LinkSt) : (s.modLink n f).tacks = s.tacks := rfl
@[simp] theorem State.modLink_step (n : Nat) (f : LinkSt → LinkSt) : (s.modLink n f).step = s.step := rfl
@[simp] theorem State.modLink_seam (n : Nat) (f : LinkSt → LinkSt) : (s.modLink n f).seam = s.seam := rfl
@[simp] theorem State.modLink_tiles (n : Nat) (f : LinkSt → LinkSt) : (s.modLink n f).tiles = s.tiles := rfl
@[simp] theorem State.modLink_fab (n : Nat) (f : LinkSt → LinkSt) : (s.modLink n f).fab = s.fab := rfl
@[simp] theorem State.modLink_streams (n : Nat) (f : LinkSt → LinkSt) : (s.modLink n f).streams = s.streams := rfl
@[simp] theorem State.modLink_mem (n : Nat) (f : LinkSt → LinkSt) : (s.modLink n f).mem = s.mem := rfl
@[simp] theorem State.modLink_poison (n : Nat) (f : LinkSt → LinkSt) : (s.modLink n f).poison = s.poison := rfl
@[simp] theorem State.modLink_mdies (n : Nat) (f : LinkSt → LinkSt) : (s.modLink n f).mdies = s.mdies := rfl
@[simp] theorem State.modLink_seqs (n : Nat) (f : LinkSt → LinkSt) : (s.modLink n f).seqs = s.seqs := rfl
@[simp] theorem State.modLink_harvest (n : Nat) (f : LinkSt → LinkSt) : (s.modLink n f).harvest = s.harvest := rfl
@[simp] theorem State.modLink_commit (n : Nat) (f : LinkSt → LinkSt) : (s.modLink n f).commit = s.commit := rfl
@[simp] theorem State.modLink_monitors (n : Nat) (f : LinkSt → LinkSt) : (s.modLink n f).monitors = s.monitors := rfl
@[simp] theorem State.modLink_rcv (n : Nat) (f : LinkSt → LinkSt) : (s.modLink n f).rcv = s.rcv := rfl
@[simp] theorem State.modLink_host (n : Nat) (f : LinkSt → LinkSt) : (s.modLink n f).host = s.host := rfl
@[simp] theorem State.modLink_power (n : Nat) (f : LinkSt → LinkSt) : (s.modLink n f).power = s.power := rfl
@[simp] theorem State.modLink_test (n : Nat) (f : LinkSt → LinkSt) : (s.modLink n f).test = s.test := rfl
@[simp] theorem State.modLink_sec (n : Nat) (f : LinkSt → LinkSt) : (s.modLink n f).sec = s.sec := rfl
@[simp] theorem State.modLink_snaps (n : Nat) (f : LinkSt → LinkSt) : (s.modLink n f).snaps = s.snaps := rfl

@[simp] theorem State.setTack_pending (k : Nat) (x : TackSt) : (s.setTack k x).pending = s.pending := rfl
@[simp] theorem State.setTack_regs (k : Nat) (x : TackSt) : (s.setTack k x).regs = s.regs := rfl
@[simp] theorem State.setTack_now (k : Nat) (x : TackSt) : (s.setTack k x).now = s.now := rfl
@[simp] theorem State.setTack_fresh (k : Nat) (x : TackSt) : (s.setTack k x).fresh = s.fresh := rfl
@[simp] theorem State.setTack_out (k : Nat) (x : TackSt) : (s.setTack k x).out = s.out := rfl
@[simp] theorem State.setTack_time (k : Nat) (x : TackSt) : (s.setTack k x).time = s.time := rfl
@[simp] theorem State.setTack_links (k : Nat) (x : TackSt) : (s.setTack k x).links = s.links := rfl
@[simp] theorem State.setTack_step (k : Nat) (x : TackSt) : (s.setTack k x).step = s.step := rfl
@[simp] theorem State.setTack_seam (k : Nat) (x : TackSt) : (s.setTack k x).seam = s.seam := rfl
@[simp] theorem State.setTack_tiles (k : Nat) (x : TackSt) : (s.setTack k x).tiles = s.tiles := rfl
@[simp] theorem State.setTack_fab (k : Nat) (x : TackSt) : (s.setTack k x).fab = s.fab := rfl
@[simp] theorem State.setTack_streams (k : Nat) (x : TackSt) : (s.setTack k x).streams = s.streams := rfl
@[simp] theorem State.setTack_mem (k : Nat) (x : TackSt) : (s.setTack k x).mem = s.mem := rfl
@[simp] theorem State.setTack_poison (k : Nat) (x : TackSt) : (s.setTack k x).poison = s.poison := rfl
@[simp] theorem State.setTack_mdies (k : Nat) (x : TackSt) : (s.setTack k x).mdies = s.mdies := rfl
@[simp] theorem State.setTack_seqs (k : Nat) (x : TackSt) : (s.setTack k x).seqs = s.seqs := rfl
@[simp] theorem State.setTack_harvest (k : Nat) (x : TackSt) : (s.setTack k x).harvest = s.harvest := rfl
@[simp] theorem State.setTack_commit (k : Nat) (x : TackSt) : (s.setTack k x).commit = s.commit := rfl
@[simp] theorem State.setTack_monitors (k : Nat) (x : TackSt) : (s.setTack k x).monitors = s.monitors := rfl
@[simp] theorem State.setTack_rcv (k : Nat) (x : TackSt) : (s.setTack k x).rcv = s.rcv := rfl
@[simp] theorem State.setTack_host (k : Nat) (x : TackSt) : (s.setTack k x).host = s.host := rfl
@[simp] theorem State.setTack_power (k : Nat) (x : TackSt) : (s.setTack k x).power = s.power := rfl
@[simp] theorem State.setTack_test (k : Nat) (x : TackSt) : (s.setTack k x).test = s.test := rfl
@[simp] theorem State.setTack_sec (k : Nat) (x : TackSt) : (s.setTack k x).sec = s.sec := rfl
@[simp] theorem State.setTack_snaps (k : Nat) (x : TackSt) : (s.setTack k x).snaps = s.snaps := rfl

@[simp] theorem State.setTile_pending (p : Nat) (x : Tile) : (s.setTile p x).pending = s.pending := rfl
@[simp] theorem State.setTile_regs (p : Nat) (x : Tile) : (s.setTile p x).regs = s.regs := rfl
@[simp] theorem State.setTile_now (p : Nat) (x : Tile) : (s.setTile p x).now = s.now := rfl
@[simp] theorem State.setTile_fresh (p : Nat) (x : Tile) : (s.setTile p x).fresh = s.fresh := rfl
@[simp] theorem State.setTile_out (p : Nat) (x : Tile) : (s.setTile p x).out = s.out := rfl
@[simp] theorem State.setTile_time (p : Nat) (x : Tile) : (s.setTile p x).time = s.time := rfl
@[simp] theorem State.setTile_links (p : Nat) (x : Tile) : (s.setTile p x).links = s.links := rfl
@[simp] theorem State.setTile_tacks (p : Nat) (x : Tile) : (s.setTile p x).tacks = s.tacks := rfl
@[simp] theorem State.setTile_step (p : Nat) (x : Tile) : (s.setTile p x).step = s.step := rfl
@[simp] theorem State.setTile_seam (p : Nat) (x : Tile) : (s.setTile p x).seam = s.seam := rfl
@[simp] theorem State.setTile_fab (p : Nat) (x : Tile) : (s.setTile p x).fab = s.fab := rfl
@[simp] theorem State.setTile_streams (p : Nat) (x : Tile) : (s.setTile p x).streams = s.streams := rfl
@[simp] theorem State.setTile_mem (p : Nat) (x : Tile) : (s.setTile p x).mem = s.mem := rfl
@[simp] theorem State.setTile_poison (p : Nat) (x : Tile) : (s.setTile p x).poison = s.poison := rfl
@[simp] theorem State.setTile_mdies (p : Nat) (x : Tile) : (s.setTile p x).mdies = s.mdies := rfl
@[simp] theorem State.setTile_seqs (p : Nat) (x : Tile) : (s.setTile p x).seqs = s.seqs := rfl
@[simp] theorem State.setTile_harvest (p : Nat) (x : Tile) : (s.setTile p x).harvest = s.harvest := rfl
@[simp] theorem State.setTile_commit (p : Nat) (x : Tile) : (s.setTile p x).commit = s.commit := rfl
@[simp] theorem State.setTile_monitors (p : Nat) (x : Tile) : (s.setTile p x).monitors = s.monitors := rfl
@[simp] theorem State.setTile_rcv (p : Nat) (x : Tile) : (s.setTile p x).rcv = s.rcv := rfl
@[simp] theorem State.setTile_host (p : Nat) (x : Tile) : (s.setTile p x).host = s.host := rfl
@[simp] theorem State.setTile_power (p : Nat) (x : Tile) : (s.setTile p x).power = s.power := rfl
@[simp] theorem State.setTile_test (p : Nat) (x : Tile) : (s.setTile p x).test = s.test := rfl
@[simp] theorem State.setTile_sec (p : Nat) (x : Tile) : (s.setTile p x).sec = s.sec := rfl
@[simp] theorem State.setTile_snaps (p : Nat) (x : Tile) : (s.setTile p x).snaps = s.snaps := rfl

@[simp] theorem State.modTile_pending (p : Nat) (f : Tile → Tile) : (s.modTile p f).pending = s.pending := rfl
@[simp] theorem State.modTile_regs (p : Nat) (f : Tile → Tile) : (s.modTile p f).regs = s.regs := rfl
@[simp] theorem State.modTile_now (p : Nat) (f : Tile → Tile) : (s.modTile p f).now = s.now := rfl
@[simp] theorem State.modTile_fresh (p : Nat) (f : Tile → Tile) : (s.modTile p f).fresh = s.fresh := rfl
@[simp] theorem State.modTile_out (p : Nat) (f : Tile → Tile) : (s.modTile p f).out = s.out := rfl
@[simp] theorem State.modTile_time (p : Nat) (f : Tile → Tile) : (s.modTile p f).time = s.time := rfl
@[simp] theorem State.modTile_links (p : Nat) (f : Tile → Tile) : (s.modTile p f).links = s.links := rfl
@[simp] theorem State.modTile_tacks (p : Nat) (f : Tile → Tile) : (s.modTile p f).tacks = s.tacks := rfl
@[simp] theorem State.modTile_step (p : Nat) (f : Tile → Tile) : (s.modTile p f).step = s.step := rfl
@[simp] theorem State.modTile_seam (p : Nat) (f : Tile → Tile) : (s.modTile p f).seam = s.seam := rfl
@[simp] theorem State.modTile_fab (p : Nat) (f : Tile → Tile) : (s.modTile p f).fab = s.fab := rfl
@[simp] theorem State.modTile_streams (p : Nat) (f : Tile → Tile) : (s.modTile p f).streams = s.streams := rfl
@[simp] theorem State.modTile_mem (p : Nat) (f : Tile → Tile) : (s.modTile p f).mem = s.mem := rfl
@[simp] theorem State.modTile_poison (p : Nat) (f : Tile → Tile) : (s.modTile p f).poison = s.poison := rfl
@[simp] theorem State.modTile_mdies (p : Nat) (f : Tile → Tile) : (s.modTile p f).mdies = s.mdies := rfl
@[simp] theorem State.modTile_seqs (p : Nat) (f : Tile → Tile) : (s.modTile p f).seqs = s.seqs := rfl
@[simp] theorem State.modTile_harvest (p : Nat) (f : Tile → Tile) : (s.modTile p f).harvest = s.harvest := rfl
@[simp] theorem State.modTile_commit (p : Nat) (f : Tile → Tile) : (s.modTile p f).commit = s.commit := rfl
@[simp] theorem State.modTile_monitors (p : Nat) (f : Tile → Tile) : (s.modTile p f).monitors = s.monitors := rfl
@[simp] theorem State.modTile_rcv (p : Nat) (f : Tile → Tile) : (s.modTile p f).rcv = s.rcv := rfl
@[simp] theorem State.modTile_host (p : Nat) (f : Tile → Tile) : (s.modTile p f).host = s.host := rfl
@[simp] theorem State.modTile_power (p : Nat) (f : Tile → Tile) : (s.modTile p f).power = s.power := rfl
@[simp] theorem State.modTile_test (p : Nat) (f : Tile → Tile) : (s.modTile p f).test = s.test := rfl
@[simp] theorem State.modTile_sec (p : Nat) (f : Tile → Tile) : (s.modTile p f).sec = s.sec := rfl
@[simp] theorem State.modTile_snaps (p : Nat) (f : Tile → Tile) : (s.modTile p f).snaps = s.snaps := rfl

@[simp] theorem State.sendMsg_pending (d : DevId) (k : Nat) (b : List Nat) : (s.sendMsg d k b).pending = s.pending := rfl
@[simp] theorem State.sendMsg_regs (d : DevId) (k : Nat) (b : List Nat) : (s.sendMsg d k b).regs = s.regs := rfl
@[simp] theorem State.sendMsg_now (d : DevId) (k : Nat) (b : List Nat) : (s.sendMsg d k b).now = s.now := rfl
@[simp] theorem State.sendMsg_fresh (d : DevId) (k : Nat) (b : List Nat) : (s.sendMsg d k b).fresh = s.fresh := rfl
@[simp] theorem State.sendMsg_time (d : DevId) (k : Nat) (b : List Nat) : (s.sendMsg d k b).time = s.time := rfl
@[simp] theorem State.sendMsg_links (d : DevId) (k : Nat) (b : List Nat) : (s.sendMsg d k b).links = s.links := rfl
@[simp] theorem State.sendMsg_tacks (d : DevId) (k : Nat) (b : List Nat) : (s.sendMsg d k b).tacks = s.tacks := rfl
@[simp] theorem State.sendMsg_step (d : DevId) (k : Nat) (b : List Nat) : (s.sendMsg d k b).step = s.step := rfl
@[simp] theorem State.sendMsg_seam (d : DevId) (k : Nat) (b : List Nat) : (s.sendMsg d k b).seam = s.seam := rfl
@[simp] theorem State.sendMsg_tiles (d : DevId) (k : Nat) (b : List Nat) : (s.sendMsg d k b).tiles = s.tiles := rfl
@[simp] theorem State.sendMsg_fab (d : DevId) (k : Nat) (b : List Nat) : (s.sendMsg d k b).fab = s.fab := rfl
@[simp] theorem State.sendMsg_streams (d : DevId) (k : Nat) (b : List Nat) : (s.sendMsg d k b).streams = s.streams := rfl
@[simp] theorem State.sendMsg_mem (d : DevId) (k : Nat) (b : List Nat) : (s.sendMsg d k b).mem = s.mem := rfl
@[simp] theorem State.sendMsg_poison (d : DevId) (k : Nat) (b : List Nat) : (s.sendMsg d k b).poison = s.poison := rfl
@[simp] theorem State.sendMsg_mdies (d : DevId) (k : Nat) (b : List Nat) : (s.sendMsg d k b).mdies = s.mdies := rfl
@[simp] theorem State.sendMsg_seqs (d : DevId) (k : Nat) (b : List Nat) : (s.sendMsg d k b).seqs = s.seqs := rfl
@[simp] theorem State.sendMsg_harvest (d : DevId) (k : Nat) (b : List Nat) : (s.sendMsg d k b).harvest = s.harvest := rfl
@[simp] theorem State.sendMsg_commit (d : DevId) (k : Nat) (b : List Nat) : (s.sendMsg d k b).commit = s.commit := rfl
@[simp] theorem State.sendMsg_monitors (d : DevId) (k : Nat) (b : List Nat) : (s.sendMsg d k b).monitors = s.monitors := rfl
@[simp] theorem State.sendMsg_rcv (d : DevId) (k : Nat) (b : List Nat) : (s.sendMsg d k b).rcv = s.rcv := rfl
@[simp] theorem State.sendMsg_power (d : DevId) (k : Nat) (b : List Nat) : (s.sendMsg d k b).power = s.power := rfl
@[simp] theorem State.sendMsg_test (d : DevId) (k : Nat) (b : List Nat) : (s.sendMsg d k b).test = s.test := rfl
@[simp] theorem State.sendMsg_sec (d : DevId) (k : Nat) (b : List Nat) : (s.sendMsg d k b).sec = s.sec := rfl
@[simp] theorem State.sendMsg_snaps (d : DevId) (k : Nat) (b : List Nat) : (s.sendMsg d k b).snaps = s.snaps := rfl

@[simp] theorem State.sendRoot_pending (k : Nat) (b : List Nat) : (s.sendRoot k b).pending = s.pending := rfl
@[simp] theorem State.sendRoot_regs (k : Nat) (b : List Nat) : (s.sendRoot k b).regs = s.regs := rfl
@[simp] theorem State.sendRoot_now (k : Nat) (b : List Nat) : (s.sendRoot k b).now = s.now := rfl
@[simp] theorem State.sendRoot_fresh (k : Nat) (b : List Nat) : (s.sendRoot k b).fresh = s.fresh := rfl
@[simp] theorem State.sendRoot_time (k : Nat) (b : List Nat) : (s.sendRoot k b).time = s.time := rfl
@[simp] theorem State.sendRoot_links (k : Nat) (b : List Nat) : (s.sendRoot k b).links = s.links := rfl
@[simp] theorem State.sendRoot_tacks (k : Nat) (b : List Nat) : (s.sendRoot k b).tacks = s.tacks := rfl
@[simp] theorem State.sendRoot_step (k : Nat) (b : List Nat) : (s.sendRoot k b).step = s.step := rfl
@[simp] theorem State.sendRoot_seam (k : Nat) (b : List Nat) : (s.sendRoot k b).seam = s.seam := rfl
@[simp] theorem State.sendRoot_tiles (k : Nat) (b : List Nat) : (s.sendRoot k b).tiles = s.tiles := rfl
@[simp] theorem State.sendRoot_fab (k : Nat) (b : List Nat) : (s.sendRoot k b).fab = s.fab := rfl
@[simp] theorem State.sendRoot_streams (k : Nat) (b : List Nat) : (s.sendRoot k b).streams = s.streams := rfl
@[simp] theorem State.sendRoot_mem (k : Nat) (b : List Nat) : (s.sendRoot k b).mem = s.mem := rfl
@[simp] theorem State.sendRoot_poison (k : Nat) (b : List Nat) : (s.sendRoot k b).poison = s.poison := rfl
@[simp] theorem State.sendRoot_mdies (k : Nat) (b : List Nat) : (s.sendRoot k b).mdies = s.mdies := rfl
@[simp] theorem State.sendRoot_seqs (k : Nat) (b : List Nat) : (s.sendRoot k b).seqs = s.seqs := rfl
@[simp] theorem State.sendRoot_harvest (k : Nat) (b : List Nat) : (s.sendRoot k b).harvest = s.harvest := rfl
@[simp] theorem State.sendRoot_commit (k : Nat) (b : List Nat) : (s.sendRoot k b).commit = s.commit := rfl
@[simp] theorem State.sendRoot_monitors (k : Nat) (b : List Nat) : (s.sendRoot k b).monitors = s.monitors := rfl
@[simp] theorem State.sendRoot_rcv (k : Nat) (b : List Nat) : (s.sendRoot k b).rcv = s.rcv := rfl
@[simp] theorem State.sendRoot_power (k : Nat) (b : List Nat) : (s.sendRoot k b).power = s.power := rfl
@[simp] theorem State.sendRoot_test (k : Nat) (b : List Nat) : (s.sendRoot k b).test = s.test := rfl
@[simp] theorem State.sendRoot_sec (k : Nat) (b : List Nat) : (s.sendRoot k b).sec = s.sec := rfl
@[simp] theorem State.sendRoot_snaps (k : Nat) (b : List Nat) : (s.sendRoot k b).snaps = s.snaps := rfl

@[simp] theorem State.noteMsg_pending (m : MsgId) : (s.noteMsg m).pending = s.pending := rfl
@[simp] theorem State.noteMsg_regs (m : MsgId) : (s.noteMsg m).regs = s.regs := rfl
@[simp] theorem State.noteMsg_now (m : MsgId) : (s.noteMsg m).now = s.now := rfl
@[simp] theorem State.noteMsg_fresh (m : MsgId) : (s.noteMsg m).fresh = s.fresh := rfl
@[simp] theorem State.noteMsg_out (m : MsgId) : (s.noteMsg m).out = s.out := rfl
@[simp] theorem State.noteMsg_time (m : MsgId) : (s.noteMsg m).time = s.time := rfl
@[simp] theorem State.noteMsg_links (m : MsgId) : (s.noteMsg m).links = s.links := rfl
@[simp] theorem State.noteMsg_tacks (m : MsgId) : (s.noteMsg m).tacks = s.tacks := rfl
@[simp] theorem State.noteMsg_step (m : MsgId) : (s.noteMsg m).step = s.step := rfl
@[simp] theorem State.noteMsg_seam (m : MsgId) : (s.noteMsg m).seam = s.seam := rfl
@[simp] theorem State.noteMsg_tiles (m : MsgId) : (s.noteMsg m).tiles = s.tiles := rfl
@[simp] theorem State.noteMsg_fab (m : MsgId) : (s.noteMsg m).fab = s.fab := rfl
@[simp] theorem State.noteMsg_streams (m : MsgId) : (s.noteMsg m).streams = s.streams := rfl
@[simp] theorem State.noteMsg_mem (m : MsgId) : (s.noteMsg m).mem = s.mem := rfl
@[simp] theorem State.noteMsg_poison (m : MsgId) : (s.noteMsg m).poison = s.poison := rfl
@[simp] theorem State.noteMsg_mdies (m : MsgId) : (s.noteMsg m).mdies = s.mdies := rfl
@[simp] theorem State.noteMsg_seqs (m : MsgId) : (s.noteMsg m).seqs = s.seqs := rfl
@[simp] theorem State.noteMsg_harvest (m : MsgId) : (s.noteMsg m).harvest = s.harvest := rfl
@[simp] theorem State.noteMsg_commit (m : MsgId) : (s.noteMsg m).commit = s.commit := rfl
@[simp] theorem State.noteMsg_monitors (m : MsgId) : (s.noteMsg m).monitors = s.monitors := rfl
@[simp] theorem State.noteMsg_rcv (m : MsgId) : (s.noteMsg m).rcv = s.rcv := rfl
@[simp] theorem State.noteMsg_power (m : MsgId) : (s.noteMsg m).power = s.power := rfl
@[simp] theorem State.noteMsg_test (m : MsgId) : (s.noteMsg m).test = s.test := rfl
@[simp] theorem State.noteMsg_sec (m : MsgId) : (s.noteMsg m).sec = s.sec := rfl
@[simp] theorem State.noteMsg_snaps (m : MsgId) : (s.noteMsg m).snaps = s.snaps := rfl

@[simp] theorem State.setStepNo_pending (n : Nat) : (s.setStepNo n).pending = s.pending := rfl
@[simp] theorem State.setStepNo_now (n : Nat) : (s.setStepNo n).now = s.now := rfl
@[simp] theorem State.setStepNo_fresh (n : Nat) : (s.setStepNo n).fresh = s.fresh := rfl
@[simp] theorem State.setStepNo_out (n : Nat) : (s.setStepNo n).out = s.out := rfl
@[simp] theorem State.setStepNo_time (n : Nat) : (s.setStepNo n).time = s.time := rfl
@[simp] theorem State.setStepNo_links (n : Nat) : (s.setStepNo n).links = s.links := rfl
@[simp] theorem State.setStepNo_tacks (n : Nat) : (s.setStepNo n).tacks = s.tacks := rfl
@[simp] theorem State.setStepNo_step (n : Nat) : (s.setStepNo n).step = s.step := rfl
@[simp] theorem State.setStepNo_seam (n : Nat) : (s.setStepNo n).seam = s.seam := rfl
@[simp] theorem State.setStepNo_tiles (n : Nat) : (s.setStepNo n).tiles = s.tiles := rfl
@[simp] theorem State.setStepNo_fab (n : Nat) : (s.setStepNo n).fab = s.fab := rfl
@[simp] theorem State.setStepNo_streams (n : Nat) : (s.setStepNo n).streams = s.streams := rfl
@[simp] theorem State.setStepNo_mem (n : Nat) : (s.setStepNo n).mem = s.mem := rfl
@[simp] theorem State.setStepNo_poison (n : Nat) : (s.setStepNo n).poison = s.poison := rfl
@[simp] theorem State.setStepNo_mdies (n : Nat) : (s.setStepNo n).mdies = s.mdies := rfl
@[simp] theorem State.setStepNo_seqs (n : Nat) : (s.setStepNo n).seqs = s.seqs := rfl
@[simp] theorem State.setStepNo_harvest (n : Nat) : (s.setStepNo n).harvest = s.harvest := rfl
@[simp] theorem State.setStepNo_commit (n : Nat) : (s.setStepNo n).commit = s.commit := rfl
@[simp] theorem State.setStepNo_monitors (n : Nat) : (s.setStepNo n).monitors = s.monitors := rfl
@[simp] theorem State.setStepNo_rcv (n : Nat) : (s.setStepNo n).rcv = s.rcv := rfl
@[simp] theorem State.setStepNo_host (n : Nat) : (s.setStepNo n).host = s.host := rfl
@[simp] theorem State.setStepNo_power (n : Nat) : (s.setStepNo n).power = s.power := rfl
@[simp] theorem State.setStepNo_test (n : Nat) : (s.setStepNo n).test = s.test := rfl
@[simp] theorem State.setStepNo_sec (n : Nat) : (s.setStepNo n).sec = s.sec := rfl
@[simp] theorem State.setStepNo_snaps (n : Nat) : (s.setStepNo n).snaps = s.snaps := rfl

@[simp] theorem State.retire_pending (p : Nat) : (s.retire p).pending = s.pending := rfl
@[simp] theorem State.retire_regs (p : Nat) : (s.retire p).regs = s.regs := rfl
@[simp] theorem State.retire_now (p : Nat) : (s.retire p).now = s.now := rfl
@[simp] theorem State.retire_fresh (p : Nat) : (s.retire p).fresh = s.fresh := rfl
@[simp] theorem State.retire_out (p : Nat) : (s.retire p).out = s.out := rfl
@[simp] theorem State.retire_time (p : Nat) : (s.retire p).time = s.time := rfl
@[simp] theorem State.retire_links (p : Nat) : (s.retire p).links = s.links := rfl
@[simp] theorem State.retire_tacks (p : Nat) : (s.retire p).tacks = s.tacks := rfl
@[simp] theorem State.retire_seam (p : Nat) : (s.retire p).seam = s.seam := rfl
@[simp] theorem State.retire_fab (p : Nat) : (s.retire p).fab = s.fab := rfl
@[simp] theorem State.retire_streams (p : Nat) : (s.retire p).streams = s.streams := rfl
@[simp] theorem State.retire_mem (p : Nat) : (s.retire p).mem = s.mem := rfl
@[simp] theorem State.retire_poison (p : Nat) : (s.retire p).poison = s.poison := rfl
@[simp] theorem State.retire_mdies (p : Nat) : (s.retire p).mdies = s.mdies := rfl
@[simp] theorem State.retire_seqs (p : Nat) : (s.retire p).seqs = s.seqs := rfl
@[simp] theorem State.retire_harvest (p : Nat) : (s.retire p).harvest = s.harvest := rfl
@[simp] theorem State.retire_commit (p : Nat) : (s.retire p).commit = s.commit := rfl
@[simp] theorem State.retire_monitors (p : Nat) : (s.retire p).monitors = s.monitors := rfl
@[simp] theorem State.retire_rcv (p : Nat) : (s.retire p).rcv = s.rcv := rfl
@[simp] theorem State.retire_host (p : Nat) : (s.retire p).host = s.host := rfl
@[simp] theorem State.retire_power (p : Nat) : (s.retire p).power = s.power := rfl
@[simp] theorem State.retire_test (p : Nat) : (s.retire p).test = s.test := rfl
@[simp] theorem State.retire_sec (p : Nat) : (s.retire p).sec = s.sec := rfl
@[simp] theorem State.retire_snaps (p : Nat) : (s.retire p).snaps = s.snaps := rfl

end Sys2Proof.Machine
end

