-- ==== Sys2Proof/Laws/Frame.lean ====
section
/-! SUPPORT. Frames: how the rules of `Frame` follow the shape of a definition, one rule for each operation. -/

namespace Sys2Proof.Machine

variable {fs : List Fld} {ps : List StatePart} {s x : State}

theorem Frame.refl (fs : List Fld) (ps : List StatePart) (s : State) : Frame fs ps s s :=
  ⟨fun _ _ => rfl, fun p _ => by cases p <;> rfl⟩

theorem StatePart.Same.trans {s t u : State} {p : StatePart} (a : p.Same s t) (b : p.Same t u) : p.Same s u := by
  cases p <;> exact Eq.trans b a

theorem Frame.trans {t u : State} (a : Frame fs ps s t) (b : Frame fs ps t u) : Frame fs ps s u :=
  ⟨fun k h => (b.regs k h).trans (a.regs k h), fun p h => (a.parts p h).trans (b.parts p h)⟩

/-- A frame that allows more. -/
theorem Frame.mono {gs : List Fld} {qs : List StatePart} {t : State} (h : Frame fs ps s t) (hf : ∀ f ∈ fs, f ∈ gs)
    (hp : ∀ p ∈ ps, p ∈ qs) : Frame gs qs s t := by
  refine ⟨fun k hk => h.regs k (fun hm => hk ?_), fun p hq => h.parts p (fun hm => hq (hp p hm))⟩
  simp only [List.mem_map] at hm ⊢
  obtain ⟨f, hm, e⟩ := hm
  exact ⟨f, hf f hm, e⟩

/-- A register field that the frame does not name reads as before. -/
theorem Frame.rd {t : State} (h : Frame fs ps s t) (f : Fld) (hf : f.key ∉ fs.map Fld.key) : t.rd f = s.rd f := by
  simp only [State.rd, smGet, h.regs f.key hf]

theorem Frame.wr (h : Frame fs ps s x) {f : Fld} (hf : f ∈ fs) (v : Nat) : Frame fs ps s (x.wr f v) := by
  refine ⟨fun k hk => ?_, fun p hp => (h.parts p hp).trans (by cases p <;> rfl)⟩
  rw [State.find_wr_ne x v (f := f) (fun e => hk (by rw [e]; exact List.mem_map_of_mem hf))]
  exact h.regs k hk

theorem Frame.bump (h : Frame fs ps s x) {f : Fld} (hf : f ∈ fs) (n : Nat) : Frame fs ps s (x.bump f n) := h.wr hf _

theorem Frame.flag (h : Frame fs ps s x) {f : Fld} (hf : f ∈ fs) : Frame fs ps s (x.flag f) := h.wr hf _

theorem Frame.foldl {α : Type} (f : State → α → State) (l : List α) (h : Frame fs ps s x)
    (hf : ∀ y a, Frame fs ps s y → Frame fs ps s (f y a)) : Frame fs ps s (l.foldl f x) := by
  induction l generalizing x with
  | nil => exact h
  | cons a l ih => exact ih (hf _ _ h)

theorem Frame.ite {a b : State} (c : Prop) [Decidable c] (ha : Frame fs ps s a) (hb : Frame fs ps s b) :
    Frame fs ps s (if c then a else b) := by split <;> assumption


theorem Frame.emit (h : Frame fs ps s x) (hout : .out ∈ ps) (o : Out) : Frame fs ps s (x.emit o) := by
  refine ⟨h.regs, fun p hp => (h.parts p hp).trans ?_⟩
  cases p <;> first | rfl | exact absurd hout hp

theorem Frame.setLink (h : Frame fs ps s x) (hlinks : .links ∈ ps) (n : Nat) (l : LinkSt) : Frame fs ps s (x.setLink n l) := by
  refine ⟨h.regs, fun p hp => (h.parts p hp).trans ?_⟩
  cases p <;> first | rfl | exact absurd hlinks hp

theorem Frame.modLink (h : Frame fs ps s x) (hlinks : .links ∈ ps) (n : Nat) (g : LinkSt → LinkSt) : Frame fs ps s (x.modLink n g) := by
  refine ⟨h.regs, fun p hp => (h.parts p hp).trans ?_⟩
  cases p <;> first | rfl | exact absurd hlinks hp

theorem Frame.setTack (h : Frame fs ps s x) (htacks : .tacks ∈ ps) (k : Nat) (y : TackSt) : Frame fs ps s (x.setTack k y) := by
  refine ⟨h.regs, fun p hp => (h.parts p hp).trans ?_⟩
  cases p <;> first | rfl | exact absurd htacks hp

theorem Frame.setTile (h : Frame fs ps s x) (htiles : .tiles ∈ ps) (p : Nat) (y : Tile) : Frame fs ps s (x.setTile p y) := by
  refine ⟨h.regs, fun p hp => (h.parts p hp).trans ?_⟩
  cases p <;> first | rfl | exact absurd htiles hp

theorem Frame.modTile (h : Frame fs ps s x) (htiles : .tiles ∈ ps) (p : Nat) (g : Tile → Tile) : Frame fs ps s (x.modTile p g) := by
  refine ⟨h.regs, fun p hp => (h.parts p hp).trans ?_⟩
  cases p <;> first | rfl | exact absurd htiles hp

theorem Frame.sendMsg (h : Frame fs ps s x) (hout : .out ∈ ps) (hhost : .host ∈ ps) (d : DevId) (k : Nat) (b : List Nat) : Frame fs ps s (x.sendMsg d k b) := by
  refine ⟨h.regs, fun p hp => (h.parts p hp).trans ?_⟩
  cases p <;> first | rfl | exact absurd hout hp | exact absurd hhost hp

theorem Frame.sendRoot (h : Frame fs ps s x) (hout : .out ∈ ps) (hhost : .host ∈ ps) (k : Nat) (b : List Nat) : Frame fs ps s (x.sendRoot k b) := by
  refine ⟨h.regs, fun p hp => (h.parts p hp).trans ?_⟩
  cases p <;> first | rfl | exact absurd hout hp | exact absurd hhost hp

theorem Frame.noteMsg (h : Frame fs ps s x) (hhost : .host ∈ ps) (m : MsgId) : Frame fs ps s (x.noteMsg m) := by
  refine ⟨h.regs, fun p hp => (h.parts p hp).trans ?_⟩
  cases p <;> first | rfl | exact absurd hhost hp

theorem Frame.retire (h : Frame fs ps s x) (htiles : .tiles ∈ ps) (hstep : .step ∈ ps) (p : Nat) : Frame fs ps s (x.retire p) := by
  refine ⟨h.regs, fun p hp => (h.parts p hp).trans ?_⟩
  cases p <;> first | rfl | exact absurd htiles hp | exact absurd hstep hp

/-- An update of parts of the state that the frame names. -/
theorem Frame.upd (h : Frame fs ps s x) {y : State} (hr : y.regs = x.regs) (hp : ∀ p, p ∉ ps → p.Same x y) :
    Frame fs ps s y :=
  ⟨fun k hk => by rw [hr]; exact h.regs k hk, fun p hq => (h.parts p hq).trans (hp p hq)⟩

end Sys2Proof.Machine
end

