-- ==== Sys2Proof/Laws/FrameOps.lean ====
section
/-! SUPPORT. What each shared operation leaves as it was, as rules of `Frame`. -/

namespace Sys2Proof.Machine

variable {fs : List Fld} {ps : List StatePart} {s x : State}

theorem Frame.refresh (h : Frame fs ps s x) (hf : Reg.AT_STAT_DEPTH ∈ fs) (hp : .time ∈ ps) :
    Frame fs ps s x.refresh := Frame.ite _ (h.wr hf _) ((h.wr hf _).upd rfl
    (fun p hq => by cases p <;> first | exact absurd hp hq | rfl))

/-- Refreshing the subtree count writes no register field but the depth. -/
theorem State.rd_refresh (s : State) {f : Fld} (hf : f.key ≠ Reg.AT_STAT_DEPTH.key) : s.refresh.rd f = s.rd f :=
  ((Frame.refl [Reg.AT_STAT_DEPTH] [.time] s).refresh (.head _) (.head _)).rd f (by simpa using hf)

theorem logBytes_length (at_ core level point code seq : Nat) (payload : List Nat) :
    (logBytes at_ core level point code seq payload).length = 64 := by
  simp [logBytes]

theorem Frame.logRec (h : Frame fs ps s x) (hf : Reg.FW_LOG_WP_SEQ ∈ fs) (hd : Reg.FW_CNT_LOGDROP_COUNT ∈ fs) (ho : .ring ∈ ps)
    (hh : .host ∈ ps) (level point code : Nat) (payload : List Nat) (core : Nat) :
    Frame fs ps s (x.logRec level point code payload core) := by
  unfold State.logRec
  split
  · split
    · refine Frame.wr ?_ hf _
      refine h.upd rfl (fun p hq => ?_)
      cases p <;> first | exact absurd hh hq | exact absurd ho hq | skip
      case mem =>
        refine Memory.filter_writeN (fun a => !inRing a) _ _ _ (fun i hi => ?_)
        rw [logBytes_length] at hi
        have : x.host.logSeq % 65536 < 65536 := Nat.mod_lt _ (by decide)
        simp only [inRing, Bool.not_eq_false', decide_eq_true_eq]
        omega
      all_goals rfl
    · exact h.bump hd _
  · exact h

theorem Frame.queueRec (h : Frame fs ps s x) (hp : .links ∈ ps) (n : Nat) (r : SideRec) (t : Nat) :
    Frame fs ps s (x.queueRec n r t) := by
  unfold State.queueRec
  split
  · exact h.modLink hp ..
  · exact h

theorem Frame.floodRec (h : Frame fs ps s x) (hp : .links ∈ ps) (r : SideRec) (t : Nat) :
    Frame fs ps s (x.floodRec r t) := Frame.foldl _ _ h (fun _ _ hy => hy.queueRec hp _ _ _)

theorem Frame.queueCtl (h : Frame fs ps s x) (hp : .links ∈ ps) (n : Nat) (b : List Byte) :
    Frame fs ps s (x.queueCtl n b) := by
  unfold State.queueCtl
  split
  · exact h.modLink hp ..
  · exact h

theorem Frame.floodCtl (h : Frame fs ps s x) (hp : .links ∈ ps) (b : List Byte) : Frame fs ps s (x.floodCtl b) :=
  Frame.foldl _ _ h (fun _ _ hy => hy.queueCtl hp _ _)

/-- The register fields of `JB_RCV_LAST`. -/
def lastFields : List Fld :=
  [Reg.JB_RCV_LAST_0_LAYER, Reg.JB_RCV_LAST_0_CODE, Reg.JB_RCV_LAST_0_CLASS_H, Reg.JB_RCV_LAST_0_DEV,
    Reg.JB_RCV_LAST_1_LTILE, Reg.JB_RCV_LAST_1_PTILE, Reg.JB_RCV_LAST_1_LINK, Reg.JB_RCV_LAST_2_VALUE,
    Reg.JB_RCV_LAST_3_VALUE, Reg.JB_RCV_LAST_0_ENDED, Reg.JB_RCV_LAST_0_VALID]

theorem Frame.writeLast (h : Frame fs ps s x) (hf : ∀ f ∈ lastFields, f ∈ fs) (r : FaultRec) (e : Bool) :
    Frame fs ps s (x.writeLast r e) := by
  simp only [lastFields, List.mem_cons, List.not_mem_nil, or_false, forall_eq_or_imp, forall_eq] at hf
  obtain ⟨h1, h2, h3, h4, h5, h6, h7, h8, h9, h10, h11⟩ := hf
  exact ((((((((((h.wr h1 _).wr h2 _).wr h3 _).wr h4 _).wr h5 _).wr h6 _).wr h7 _).wr h8 _).wr h9 _).wr h10 _).wr h11 _

/-- A layer hands a fault over: only `JB_RCV_LAST`, `JB_RCV_STAT.STATE`, the recovery state and what is sent change. -/
theorem Frame.openFault (h : Frame fs ps s x) (hf : ∀ f ∈ lastFields, f ∈ fs) (h0 : Reg.JB_RCV_STAT_STATE ∈ fs)
    (hr : .rcv ∈ ps) (ho : .out ∈ ps) (hh : .host ∈ ps) (r : FaultRec) : Frame fs ps s (x.openFault r) := by
  have h1 : Frame fs ps s (if x.on Reg.JB_RCV_LAST_0_VALID then x else x.writeLast r false) :=
    Frame.ite _ h (h.writeLast hf r false)
  unfold State.openFault
  generalize (if x.on Reg.JB_RCV_LAST_0_VALID then x else x.writeLast r false) = y at h1
  refine Frame.sendRoot ?_ ho hh _ _
  have h2 : Frame fs ps s (if y.rd Reg.JB_RCV_STAT_STATE = 0 then y.wr Reg.JB_RCV_STAT_STATE 1
      else if y.rd Reg.JB_RCV_STAT_STATE = 4 ∧ y.step.startAt = none then y.wr Reg.JB_RCV_STAT_STATE 3 else y) :=
    Frame.ite _ (h1.wr h0 _) (Frame.ite _ (h1.wr h0 _) h1)
  exact h2.upd rfl (fun p hq => by cases p <;> first | exact absurd hr hq | rfl)

theorem Frame.endVisibly (h : Frame fs ps s x) (hf : ∀ f ∈ lastFields, f ∈ fs) (h0 : Reg.JB_RCV_STAT_STATE ∈ fs)
    (h1 : Reg.JB_STAT_STATE ∈ fs) (r : FaultRec) : Frame fs ps s (x.endVisibly r) :=
  ((h.writeLast hf r true).wr h0 _).wr h1 _

theorem Frame.endWait (h : Frame fs ps s x) (ht : .tiles ∈ ps) (hs : .step ∈ ps) (p : Nat) (ok : Bool) :
    Frame fs ps s (x.endWait p ok) := by
  unfold State.endWait
  split
  · exact h
  · exact (h.modTile ht ..).retire ht hs _

theorem Frame.endWaits (h : Frame fs ps s x) (ht : .tiles ∈ ps) (hs : .step ∈ ps) (l : List Nat) (ok : Bool) :
    Frame fs ps s (x.endWaits l ok) := Frame.foldl _ _ h (fun _ _ hy => hy.endWait ht hs _ _)

theorem Frame.wake (h : Frame fs ps s x) (ht : .tiles ∈ ps) (p : Nat) : Frame fs ps s (x.wake p) := h.modTile ht ..

theorem Frame.abandonTree (h : Frame fs ps s x) (hf : Reg.TK_FLT_ABANDON ∈ fs) (hk : .tacks ∈ ps) (ht : .tiles ∈ ps)
    (hs : .step ∈ ps) (k : Nat) : Frame fs ps s (x.abandonTree k) := by
  have h1 := (h.setTack hk k { x.tack k with abandoned := true }).flag hf
  unfold State.abandonTree
  dsimp only
  refine Frame.endWaits ?_ ht hs _ _
  split
  · exact h1.upd rfl (fun p hq => by cases p <;> first | exact absurd hs hq | rfl)
  · exact h1

theorem Frame.abandonTrees (h : Frame fs ps s x) (hf : Reg.TK_FLT_ABANDON ∈ fs) (hk : .tacks ∈ ps) (ht : .tiles ∈ ps)
    (hs : .step ∈ ps) (m : Nat) : Frame fs ps s (x.abandonTrees m) :=
  Frame.foldl _ _ h (fun _ _ hy => Frame.ite _ (hy.abandonTree hf hk ht hs _) hy)

theorem Frame.setStepNo (h : Frame fs ps s x) (h0 : Reg.TK_STEP_LO_VALUE ∈ fs) (h1 : Reg.TK_STEP_HI_VALUE ∈ fs)
    (n : Nat) : Frame fs ps s (x.setStepNo n) := (h.wr h0 _).wr h1 _

/-- A message that has not been seen is taken in. -/
theorem State.takeMsg_new (s : State) (m : MsgId) (f : State → State) (h : s.msgSeen m = false) :
    s.takeMsg m f = f (s.noteMsg m) := by simp [State.takeMsg, h]

/-- A repeat is only counted. -/
theorem State.takeMsg_seen (s : State) (m : MsgId) (f : State → State) (h : s.msgSeen m = true) :
    s.takeMsg m f = s.bump Reg.FW_CNT_RANGE_MGMT 1 := by simp [State.takeMsg, h]

/-- A fault that is handed over is open. -/
theorem State.openFault_opens (s : State) (r : FaultRec) : (s.openFault r).rcv.opens = s.rcv.opens ++ [r] := by
  unfold State.openFault
  have h1 : Frame lastFields [] s (if s.on Reg.JB_RCV_LAST_0_VALID then s else s.writeLast r false) :=
    Frame.ite _ (Frame.refl ..) ((Frame.refl ..).writeLast (fun _ h => h) r false)
  have h2 := h1.parts .rcv (by simp)
  simp only [StatePart.Same] at h2
  generalize (if s.on Reg.JB_RCV_LAST_0_VALID then s else s.writeLast r false) = y at h2
  show (State.sendRoot _ _ _).rcv.opens = _
  simp only [State.sendRoot_rcv]
  split
  · simp [h2]
  · split <;> simp [h2]

end Sys2Proof.Machine
end

