-- ==== Sys2Proof/Laws/Keep.lean ====
section
/-! SUPPORT. What every operation of the model keeps: the queue of waiting commands, the canonical form of the device memory,
and the fuses that only burn. `Keep s t` says so of a state `t` that an operation makes of `s`; the rules here follow the
shape of a definition. -/

namespace Sys2Proof.Machine

/-- `t` has the queue of `s`, its memory is canonical if that of `s` is, and no fuse of `s` is unburnt in it. -/
structure Keep (s t : State) : Prop where
  queue : t.pending = s.pending
  mem : s.Canonical → t.Canonical
  fuses : FusesOnlyBurn s t

theorem FusesOnlyBurn.refl (s : State) : FusesOnlyBurn s s :=
  ⟨Nat.le_refl _, Nat.le_refl _, Nat.le_refl _, fun _ h => h, rfl, rfl, rfl, rfl⟩

theorem FusesOnlyBurn.trans {s t u : State} (a : FusesOnlyBurn s t) (b : FusesOnlyBurn t u) : FusesOnlyBurn s u :=
  ⟨Nat.le_trans a.fwSvn b.fwSvn, Nat.le_trans a.cfgSvn b.cfgSvn, Nat.le_trans a.mark b.mark,
    fun i h => b.revoked i (a.revoked i h), b.dies.trans a.dies, b.serial.trans a.serial, b.grade.trans a.grade,
    b.capacity.trans a.capacity⟩

theorem Keep.refl (s : State) : Keep s s := ⟨rfl, id, .refl s⟩

theorem Keep.trans {s t u : State} (a : Keep s t) (b : Keep t u) : Keep s u :=
  ⟨b.queue.trans a.queue, fun h => b.mem (a.mem h), a.fuses.trans b.fuses⟩

/-- An update of other fields. -/
theorem Keep.upd {s : State} (x : State) (h : Keep s x) (a1 a2 a3 a4 a5 a6 a7 a8 a9 a10 a11 a12)
    (b1 b2 b3 b4 b5 b6 b7 b8 b9 b10) (c1) :
    Keep s (State.mk x.pending a1 a2 a3 a4 a5 a6 a7 a8 a9 a10 a11 a12 x.mem b1 b2 b3 b4 b5 b6 b7 b8 b9 b10 x.sec c1) :=
  ⟨h.queue, h.mem, ⟨h.fuses.fwSvn, h.fuses.cfgSvn, h.fuses.mark, h.fuses.revoked, h.fuses.dies, h.fuses.serial,
    h.fuses.grade, h.fuses.capacity⟩⟩

/-- An update of the security state that leaves the fuses as they are. -/
theorem Keep.updSec {s : State} (x : State) (h : Keep s x) (a1 a2 a3 a4 a5 a6 a7 a8 a9 a10 a11 a12)
    (b1 b2 b3 b4 b5 b6 b7 b8 b9 b10) (d1 d2 d3 d4 d5 d6 d7 d8 d9 d10 d11 d12 d13 d14) (c1) :
    Keep s (State.mk x.pending a1 a2 a3 a4 a5 a6 a7 a8 a9 a10 a11 a12 x.mem b1 b2 b3 b4 b5 b6 b7 b8 b9 b10
      (SecSt.mk x.sec.fwSvn x.sec.cfgSvn x.sec.revoked x.sec.mark x.sec.gradeB x.sec.capacity x.sec.dies x.sec.serial
        d1 d2 d3 d4 d5 d6 d7 d8 d9 d10 d11 d12 d13 d14) c1) :=
  ⟨h.queue, h.mem, ⟨h.fuses.fwSvn, h.fuses.cfgSvn, h.fuses.mark, h.fuses.revoked, h.fuses.dies, h.fuses.serial,
    h.fuses.grade, h.fuses.capacity⟩⟩

theorem Keep.foldl {α : Type} {s : State} (f : State → α → State) (l : List α) (x : State) (h : Keep s x)
    (hf : ∀ y a, Keep s y → Keep s (f y a)) : Keep s (l.foldl f x) := by
  induction l generalizing x with
  | nil => exact h
  | cons a l ih => exact ih _ (hf _ _ h)

theorem Keep.iteT {s a b : State} (c : Prop) [Decidable c] (ha : Keep s a) (hb : Keep s b) :
    Keep s (if c then a else b) := by split <;> assumption

/-- What an instruction that issues leaves satisfies a property. -/
@[irreducible] def Issued.All (p : State → Prop) : Issued → Prop
  | .done s => p s
  | .goto s _ => p s
  | .stall s => p s
  | .seam s => p s
  | .fault _ _ => True
  | .faultIn s _ _ => p s

/-- What a command leaves satisfies a property, if it answers a next state. -/
@[irreducible] def Res.All (p : State → Prop) : Res → Prop
  | .next s => p s
  | .fault _ => True
  | .refused _ => True

theorem Issued.All.done {p : State → Prop} {s : State} (h : p s) : Issued.All p (.done s) := by unfold Issued.All; exact h
theorem Issued.All.goto {p : State → Prop} {s : State} {pc : Nat} (h : p s) : Issued.All p (.goto s pc) := by
  unfold Issued.All; exact h
theorem Issued.All.stall {p : State → Prop} {s : State} (h : p s) : Issued.All p (.stall s) := by unfold Issued.All; exact h
theorem Issued.All.seam {p : State → Prop} {s : State} (h : p s) : Issued.All p (.seam s) := by unfold Issued.All; exact h
theorem Issued.All.faultIn {p : State → Prop} {s : State} {c d : Nat} (h : p s) : Issued.All p (.faultIn s c d) := by
  unfold Issued.All; exact h
theorem Issued.All.fault {p : State → Prop} {c d : Nat} : Issued.All p (.fault c d) := by unfold Issued.All; trivial

theorem Res.All.next {p : State → Prop} {s : State} (h : p s) : Res.All p (.next s) := by unfold Res.All; exact h
theorem Res.All.fault {p : State → Prop} {r : Fault} : Res.All p (.fault r) := by unfold Res.All; trivial

theorem Res.All.ite {p : State → Prop} {a b : Res} {c : Prop} [Decidable c] (ha : Res.All p a) (hb : Res.All p b) :
    Res.All p (if c then a else b) := by split <;> assumption

theorem Res.All.dite {p : State → Prop} {c : Prop} [Decidable c] {a : c → Res} {b : ¬c → Res} (ha : ∀ h, Res.All p (a h))
    (hb : ∀ h, Res.All p (b h)) : Res.All p (if h : c then a h else b h) := by
  split
  · exact ha _
  · exact hb _

theorem Res.All.elim {p : State → Prop} {r : Res} (h : Res.All p r) {t : State} (e : r = .next t) : p t := by
  subst e
  unfold Res.All at h
  exact h

theorem Issued.All.elimDone {p : State → Prop} {s : State} (h : Issued.All p (.done s)) : p s := by
  unfold Issued.All at h
  exact h
theorem Issued.All.elimGoto {p : State → Prop} {s : State} {pc : Nat} (h : Issued.All p (.goto s pc)) : p s := by
  unfold Issued.All at h
  exact h
theorem Issued.All.elimStall {p : State → Prop} {s : State} (h : Issued.All p (.stall s)) : p s := by
  unfold Issued.All at h
  exact h
theorem Issued.All.elimFaultIn {p : State → Prop} {s : State} {c d : Nat} (h : Issued.All p (.faultIn s c d)) : p s := by
  unfold Issued.All at h
  exact h
theorem Issued.All.elimSeam {p : State → Prop} {s : State} (h : Issued.All p (.seam s)) : p s := by
  unfold Issued.All at h
  exact h

end Sys2Proof.Machine
end

