-- ==== Sys2Proof/Laws/Keep/Flags.lean ====
section
/-! SUPPORT. What the operations of `Machine/Flags.lean` keep: the queue, the canonical form of memory, the fuses. -/

namespace Sys2Proof.Machine

theorem State.wr_keep {s0 : State} {s : State} {f : Fld} {v : Nat} (kp : Keep s0 s) : Keep s0 (State.wr s f v) := by
  unfold State.wr
  repeat' first
    | with_reducible assumption
    | (with_reducible apply Keep.upd; with_reducible assumption)
    | split

theorem State.wrHost_keep {s0 : State} {s : State} {f : Fld} {v : Nat} (kp : Keep s0 s) :
    Keep s0 (State.wrHost s f v) := by
  unfold State.wrHost
  repeat' first
    | with_reducible assumption
    | (with_reducible apply Keep.upd; with_reducible assumption)
    | split

theorem State.wrPort_keep {s0 : State} {s : State} {p : Port} {f : Fld} {v : Nat} (kp : Keep s0 s) :
    Keep s0 (State.wrPort s p f v) := by
  unfold State.wrPort
  repeat' first
    | with_reducible assumption
    | with_reducible apply State.wrHost_keep
    | with_reducible apply State.wr_keep
    | split

theorem State.bump_keep {s0 : State} {s : State} {f : Fld} {n : Nat} (kp : Keep s0 s) : Keep s0 (State.bump s f n) := by
  unfold State.bump
  repeat' first
    | with_reducible assumption
    | with_reducible apply State.wr_keep
    | split

theorem State.flag_keep {s0 : State} {s : State} {f : Fld} (kp : Keep s0 s) : Keep s0 (State.flag s f) := by
  unfold State.flag
  repeat' first
    | with_reducible assumption
    | with_reducible apply State.wr_keep
    | split

theorem State.resetRegs_keep {s0 : State} {s : State} {k : ResetKind} (kp : Keep s0 s) :
    Keep s0 (State.resetRegs s k) := by
  unfold State.resetRegs
  repeat' first
    | with_reducible assumption
    | (with_reducible apply Keep.upd; with_reducible assumption)
    | split

end Sys2Proof.Machine
end

