-- ==== Sys2Proof/Laws/Keep/Ops.lean ====
section
/-! SUPPORT. What the operations of `Machine/Ops.lean` keep: the queue, the canonical form of memory, the fuses. -/

namespace Sys2Proof.Machine

theorem State.emit_keep {s0 : State} {s : State} {o : Out} (kp : Keep s0 s) : Keep s0 (State.emit s o) := by
  unfold State.emit
  repeat' first
    | with_reducible assumption
    | (with_reducible apply Keep.upd; with_reducible assumption)
    | split

theorem State.sendMsg_keep {s0 : State} {s : State} {dst : DevId} {type : Nat} {body : List Nat} (kp : Keep s0 s) :
    Keep s0 (State.sendMsg s dst type body) := by
  unfold State.sendMsg
  repeat' first
    | with_reducible assumption
    | (intro x; first | (refine (have hx : Keep s0 x := ?_; ?_); dsimp only [x]) | subst x | skip)
    | lift_lets
    | with_reducible apply State.emit_keep
    | (with_reducible apply Keep.upd; with_reducible assumption)
    | split
    | dsimp only

theorem State.sendRoot_keep {s0 : State} {s : State} {type : Nat} {body : List Nat} (kp : Keep s0 s) :
    Keep s0 (State.sendRoot s type body) := by
  unfold State.sendRoot
  repeat' first
    | with_reducible assumption
    | with_reducible apply State.sendMsg_keep
    | split

theorem State.noteMsg_keep {s0 : State} {s : State} {m : MsgId} (kp : Keep s0 s) : Keep s0 (State.noteMsg s m) := by
  unfold State.noteMsg
  repeat' first
    | with_reducible assumption
    | (with_reducible apply Keep.upd; with_reducible assumption)
    | split

theorem State.takeMsg_keep {s0 : State} {s : State} {m : MsgId} {f : State → State} (kp : Keep s0 s) (hf : ∀ x0, Keep
    s0 x0 → Keep s0 (f x0)) : Keep s0 (State.takeMsg s m f) := by
  unfold State.takeMsg
  repeat' first
    | with_reducible assumption
    | with_reducible apply State.bump_keep
    | with_reducible apply State.noteMsg_keep
    | with_reducible apply hf
    | split

theorem State.logRec_keep {s0 : State} {s : State} {level point code : Nat} {payload : List Nat} {core : Nat}
    (h : Keep s0 s) : Keep s0 (State.logRec s level point code payload core) := by
  unfold State.logRec
  split
  · split
    · exact State.wr_keep ⟨h.queue, fun h0 => Memory.wf_writeN _ _ (h.mem h0), ⟨h.fuses.fwSvn, h.fuses.cfgSvn, h.fuses.mark,
        h.fuses.revoked, h.fuses.dies, h.fuses.serial, h.fuses.grade, h.fuses.capacity⟩⟩
    · exact State.bump_keep h
  · exact h

theorem State.draw_keep {s0 : State} {s : State} (kp : Keep s0 s) : Keep s0 (State.draw s).2 := by
  unfold State.draw
  repeat' first
    | with_reducible assumption
    | (with_reducible apply Keep.upd; with_reducible assumption)
    | split

theorem State.drawN_keep {s0 : State} {s : State} {n : Nat} (kp : Keep s0 s) : Keep s0 (State.drawN s n).2 := by
  unfold State.drawN
  repeat' first
    | with_reducible assumption
    | (with_reducible apply Keep.upd; with_reducible assumption)
    | split

theorem State.setLink_keep {s0 : State} {s : State} {n : Nat} {l : LinkSt} (kp : Keep s0 s) :
    Keep s0 (State.setLink s n l) := by
  unfold State.setLink
  repeat' first
    | with_reducible assumption
    | (with_reducible apply Keep.upd; with_reducible assumption)
    | split

theorem State.modLink_keep {s0 : State} {s : State} {n : Nat} {f : LinkSt → LinkSt} (kp : Keep s0 s) :
    Keep s0 (State.modLink s n f) := by
  unfold State.modLink
  repeat' first
    | with_reducible assumption
    | with_reducible apply State.setLink_keep
    | split

theorem State.refresh_keep {s0 : State} {s : State} (kp : Keep s0 s) : Keep s0 (State.refresh s) := by
  unfold State.refresh
  repeat' first
    | with_reducible assumption
    | (intro x; first | (refine (have hx : Keep s0 x := ?_; ?_); dsimp only [x]) | subst x | skip)
    | lift_lets
    | with_reducible apply State.wr_keep
    | (with_reducible apply Keep.upd; with_reducible assumption)
    | split
    | dsimp only

theorem State.setTack_keep {s0 : State} {s : State} {t : Nat} {k : TackSt} (kp : Keep s0 s) :
    Keep s0 (State.setTack s t k) := by
  unfold State.setTack
  repeat' first
    | with_reducible assumption
    | (with_reducible apply Keep.upd; with_reducible assumption)
    | split

theorem State.setStepNo_keep {s0 : State} {s : State} {n : Nat} (kp : Keep s0 s) : Keep s0 (State.setStepNo s n) := by
  unfold State.setStepNo
  repeat' first
    | with_reducible assumption
    | with_reducible apply State.wr_keep
    | split

theorem State.queueRec_keep {s0 : State} {s : State} {n : Nat} {r : SideRec} {until_ : Nat} (kp : Keep s0 s) :
    Keep s0 (State.queueRec s n r until_) := by
  unfold State.queueRec
  repeat' first
    | with_reducible assumption
    | with_reducible apply State.modLink_keep
    | split

theorem State.floodRec_keep {s0 : State} {s : State} {r : SideRec} {until_ : Nat} (kp : Keep s0 s) :
    Keep s0 (State.floodRec s r until_) := by
  unfold State.floodRec
  repeat' first
    | with_reducible assumption
    | (intro x; first | (refine (have hx : Keep s0 x := ?_; ?_); dsimp only [x]) | subst x | skip)
    | lift_lets
    | with_reducible apply State.queueRec_keep
    | (with_reducible apply Keep.upd; first | with_reducible assumption | with_reducible apply State.queueRec_keep | with_reducible apply Keep.foldl)
    | with_reducible apply Keep.foldl
    | split
    | dsimp only

theorem State.queueCtl_keep {s0 : State} {s : State} {n : Nat} {payload : List Byte} (kp : Keep s0 s) :
    Keep s0 (State.queueCtl s n payload) := by
  unfold State.queueCtl
  repeat' first
    | with_reducible assumption
    | with_reducible apply State.modLink_keep
    | split

theorem State.floodCtl_keep {s0 : State} {s : State} {payload : List Byte} (kp : Keep s0 s) :
    Keep s0 (State.floodCtl s payload) := by
  unfold State.floodCtl
  repeat' first
    | with_reducible assumption
    | (intro x; first | (refine (have hx : Keep s0 x := ?_; ?_); dsimp only [x]) | subst x | skip)
    | lift_lets
    | with_reducible apply State.queueCtl_keep
    | (with_reducible apply Keep.upd; first | with_reducible assumption | with_reducible apply State.queueCtl_keep | with_reducible apply Keep.foldl)
    | with_reducible apply Keep.foldl
    | split
    | dsimp only

theorem State.writeLast_keep {s0 : State} {s : State} {r : FaultRec} {ended : Bool} (kp : Keep s0 s) :
    Keep s0 (State.writeLast s r ended) := by
  unfold State.writeLast
  repeat' first
    | with_reducible assumption
    | with_reducible apply State.wr_keep
    | split

theorem State.reportFault_keep {s0 : State} {s : State} {r : FaultRec} (kp : Keep s0 s) :
    Keep s0 (State.reportFault s r) := by
  unfold State.reportFault
  repeat' first
    | with_reducible assumption
    | with_reducible apply State.sendRoot_keep
    | split

theorem State.openFault_keep {s0 : State} {s : State} {r : FaultRec} (kp : Keep s0 s) :
    Keep s0 (State.openFault s r) := by
  unfold State.openFault
  repeat' first
    | with_reducible assumption
    | (intro x; first | (refine (have hx : Keep s0 x := ?_; ?_); dsimp only [x]) | subst x | skip)
    | lift_lets
    | with_reducible apply State.reportFault_keep
    | with_reducible apply State.wr_keep
    | with_reducible apply State.writeLast_keep
    | (with_reducible apply Keep.upd; with_reducible assumption)
    | split
    | dsimp only

theorem State.endVisibly_keep {s0 : State} {s : State} {r : FaultRec} (kp : Keep s0 s) :
    Keep s0 (State.endVisibly s r) := by
  unfold State.endVisibly
  repeat' first
    | with_reducible assumption
    | with_reducible apply State.wr_keep
    | with_reducible apply State.writeLast_keep
    | split

theorem State.setTile_keep {s0 : State} {s : State} {p : Nat} {t : Tile} (kp : Keep s0 s) :
    Keep s0 (State.setTile s p t) := by
  unfold State.setTile
  repeat' first
    | with_reducible assumption
    | (with_reducible apply Keep.upd; with_reducible assumption)
    | split

theorem State.modTile_keep {s0 : State} {s : State} {p : Nat} {f : Tile → Tile} (kp : Keep s0 s) :
    Keep s0 (State.modTile s p f) := by
  unfold State.modTile
  repeat' first
    | with_reducible assumption
    | with_reducible apply State.setTile_keep
    | split

theorem State.mapTiles_keep {s0 : State} {s : State} {f : Nat → Tile → Tile} (kp : Keep s0 s) :
    Keep s0 (State.mapTiles s f) := by
  unfold State.mapTiles
  repeat' first
    | with_reducible assumption
    | (with_reducible apply Keep.upd; with_reducible assumption)
    | split

theorem State.notePool_keep {s0 : State} {s : State} (kp : Keep s0 s) : Keep s0 (State.notePool s) := by
  unfold State.notePool
  repeat' first
    | with_reducible assumption
    | (with_reducible apply Keep.upd; with_reducible assumption)
    | split

theorem State.retire_keep {s0 : State} {s : State} {p : Nat} (kp : Keep s0 s) : Keep s0 (State.retire s p) := by
  unfold State.retire
  repeat' first
    | with_reducible assumption
    | (intro x; first | (refine (have hx : Keep s0 x := ?_; ?_); dsimp only [x]) | subst x | skip)
    | lift_lets
    | with_reducible apply State.setTile_keep
    | (with_reducible apply Keep.upd; with_reducible assumption)
    | split
    | dsimp only

theorem State.endWait_keep {s0 : State} {s : State} {p : Nat} {ok : Bool} (kp : Keep s0 s) :
    Keep s0 (State.endWait s p ok) := by
  unfold State.endWait
  repeat' first
    | with_reducible assumption
    | with_reducible apply State.modTile_keep
    | with_reducible apply State.retire_keep
    | split

theorem State.wake_keep {s0 : State} {s : State} {p : Nat} (kp : Keep s0 s) : Keep s0 (State.wake s p) := by
  unfold State.wake
  repeat' first
    | with_reducible assumption
    | with_reducible apply State.modTile_keep
    | split

theorem State.endWaits_keep {s0 : State} {s : State} {ps : List Nat} {ok : Bool} (kp : Keep s0 s) :
    Keep s0 (State.endWaits s ps ok) := by
  unfold State.endWaits
  repeat' first
    | with_reducible assumption
    | (intro x; first | (refine (have hx : Keep s0 x := ?_; ?_); dsimp only [x]) | subst x | skip)
    | lift_lets
    | with_reducible apply State.endWait_keep
    | (with_reducible apply Keep.upd; first | with_reducible assumption | with_reducible apply State.endWait_keep | with_reducible apply Keep.foldl)
    | with_reducible apply Keep.foldl
    | split
    | dsimp only

theorem State.abandonTree_keep {s0 : State} {s : State} {k : Nat} (kp : Keep s0 s) :
    Keep s0 (State.abandonTree s k) := by
  unfold State.abandonTree
  repeat' first
    | with_reducible assumption
    | (intro x; first | (refine (have hx : Keep s0 x := ?_; ?_); dsimp only [x]) | subst x | skip)
    | lift_lets
    | with_reducible apply State.endWaits_keep
    | with_reducible apply State.flag_keep
    | with_reducible apply State.setTack_keep
    | (with_reducible apply Keep.upd; with_reducible assumption)
    | split
    | dsimp only

theorem State.abandonTrees_keep {s0 : State} {s : State} {mask : Nat} (kp : Keep s0 s) :
    Keep s0 (State.abandonTrees s mask) := by
  unfold State.abandonTrees
  repeat' first
    | with_reducible assumption
    | (intro x; first | (refine (have hx : Keep s0 x := ?_; ?_); dsimp only [x]) | subst x | skip)
    | lift_lets
    | with_reducible apply State.abandonTree_keep
    | (with_reducible apply Keep.upd; first | with_reducible assumption | with_reducible apply State.abandonTree_keep | with_reducible apply Keep.foldl)
    | with_reducible apply Keep.foldl
    | split
    | dsimp only

end Sys2Proof.Machine
end

