-- ==== Sys2Proof/Laws/Keep/Packets.lean ====
section
/-! SUPPORT. What the operations of `Machine/Packets.lean` keep: the queue, the canonical form of memory, the fuses. -/

namespace Sys2Proof.Machine

theorem State.land_keep {s0 : State} {s : State} {q : Pkt} (kp : Keep s0 s) : Keep s0 (State.land s q) := by
  unfold State.land
  repeat' first
    | with_reducible assumption
    | (with_reducible apply Keep.upd; with_reducible assumption)
    | split

theorem State.countEdge_keep {s0 : State} {s : State} {e n : Nat} (kp : Keep s0 s) :
    Keep s0 (State.countEdge s e n) := by
  unfold State.countEdge
  repeat' first
    | with_reducible assumption
    | (with_reducible apply Keep.upd; with_reducible assumption)
    | split

theorem State.countFlits_keep {s0 : State} {s : State} {src dest col n : Nat} (kp : Keep s0 s) :
    Keep s0 (State.countFlits s src dest col n) := by
  unfold State.countFlits
  repeat' first
    | with_reducible assumption
    | (intro x; first | (refine (have hx : Keep s0 x := ?_; ?_); dsimp only [x]) | subst x | skip)
    | lift_lets
    | with_reducible apply State.countEdge_keep
    | (with_reducible apply Keep.upd; first | with_reducible assumption | with_reducible apply State.countEdge_keep | with_reducible apply Keep.foldl)
    | with_reducible apply Keep.foldl
    | split
    | dsimp only

theorem State.countPacket_keep {s0 : State} {s : State} {p : Pkt} (kp : Keep s0 s) :
    Keep s0 (State.countPacket s p) := by
  unfold State.countPacket
  repeat' first
    | with_reducible assumption
    | with_reducible apply State.countFlits_keep
    | split

theorem State.countPart_keep {s0 : State} {s : State} {p : Pkt} {dest : Nat} (kp : Keep s0 s) :
    Keep s0 (State.countPart s p dest) := by
  unfold State.countPart
  repeat' first
    | with_reducible assumption
    | with_reducible apply State.countFlits_keep
    | split

theorem State.countCtl_keep {s0 : State} {s : State} {port : Port} {p n : Nat} {toTile : Bool} (kp : Keep s0 s) :
    Keep s0 (State.countCtl s port p n toTile) := by
  unfold State.countCtl
  repeat' first
    | with_reducible assumption
    | with_reducible apply State.countFlits_keep
    | split

end Sys2Proof.Machine
end

