-- ==== Sys2Proof/Laws/Keep/Rings.lean ====
section
/-! SUPPORT. What the operations of `Machine/Rings.lean` keep: the queue, the canonical form of memory, the fuses. -/

namespace Sys2Proof.Machine

theorem State.countRing_keep {s0 : State} {s : State} {k n : Nat} (kp : Keep s0 s) :
    Keep s0 (State.countRing s k n) := by
  unfold State.countRing
  repeat' first
    | with_reducible assumption
    | (with_reducible apply Keep.upd; with_reducible assumption)
    | split

theorem State.replyTo_keep {s0 : State} {s : State} {own : Nat} {q : Pkt} {h : PktHdr} (kp : Keep s0 s) :
    Keep s0 (State.replyTo s own q h) := by
  unfold State.replyTo
  repeat' first
    | with_reducible assumption
    | with_reducible apply State.emit_keep
    | split

theorem State.grantReq_keep {s0 : State} {s : State} {p own : Nat} {q : Pkt} (kp : Keep s0 s) :
    Keep s0 (State.grantReq s p own q) := by
  unfold State.grantReq
  repeat' first
    | with_reducible assumption
    | (intro x; first | (refine (have hx : Keep s0 x := ?_; ?_); dsimp only [x]) | subst x | skip)
    | lift_lets
    | with_reducible apply State.replyTo_keep
    | with_reducible apply State.setTile_keep
    | split

theorem serveReqs_keep {s0 : State} {p own : Nat} {stopped : Bool} {qs : List Pkt} {held : List Nat} {keep : List Pkt}
    {s : State} (h : Keep s0 s) : Keep s0 (serveReqs p own stopped qs held keep s) := by
  induction qs generalizing held keep s with
  | nil => exact State.modTile_keep h
  | cons q qs ih =>
    simp only [serveReqs]
    split
    · exact ih (State.grantReq_keep h)
    · exact ih (State.replyTo_keep h)
    · split
      · exact ih (State.replyTo_keep h)
      · exact ih h

theorem State.serve_keep {s0 : State} {s : State} {p : Nat} (kp : Keep s0 s) : Keep s0 (State.serve s p) := by
  unfold State.serve
  repeat' first
    | with_reducible assumption
    | with_reducible apply serveReqs_keep
    | split

theorem State.request_keep {s0 : State} {s : State} {p : Nat} {q : Pkt} (kp : Keep s0 s) :
    Keep s0 (State.request s p q) := by
  unfold State.request
  repeat' first
    | with_reducible assumption
    | (intro x; first | (refine (have hx : Keep s0 x := ?_; ?_); dsimp only [x]) | subst x | skip)
    | lift_lets
    | with_reducible apply State.countRing_keep
    | with_reducible apply State.grantReq_keep
    | with_reducible apply State.replyTo_keep
    | with_reducible apply State.setTile_keep
    | split

theorem State.releaseArrives_keep {s0 : State} {s : State} {p : Nat} {q : Pkt} (kp : Keep s0 s) :
    Keep s0 (State.releaseArrives s p q) := by
  unfold State.releaseArrives
  repeat' first
    | with_reducible assumption
    | with_reducible apply State.serve_keep
    | with_reducible apply State.setTile_keep
    | split

theorem State.sendRequest_keep {s0 : State} {s : State} {p k : Nat} (kp : Keep s0 s) :
    Keep s0 (State.sendRequest s p k) := by
  unfold State.sendRequest
  repeat' first
    | with_reducible assumption
    | with_reducible apply State.emit_keep
    | split

theorem State.releaseThim_keep {s0 : State} {s : State} {p k : Nat} (kp : Keep s0 s) :
    Keep s0 (State.releaseThim s p k) := by
  unfold State.releaseThim
  repeat' first
    | with_reducible assumption
    | with_reducible apply State.emit_keep
    | with_reducible apply State.modTile_keep
    | split

theorem State.ringWake_keep {s0 : State} {s : State} {p : Nat} (kp : Keep s0 s) : Keep s0 (State.ringWake s p) := by
  unfold State.ringWake
  repeat' first
    | with_reducible assumption
    | (intro x; first | (refine (have hx : Keep s0 x := ?_; ?_); dsimp only [x]) | subst x | skip)
    | lift_lets
    | with_reducible apply State.countRing_keep
    | with_reducible apply State.endWait_keep
    | with_reducible apply State.wake_keep
    | split

theorem State.stopBobbins_keep {s0 : State} {s : State} {p : Nat} (kp : Keep s0 s) :
    Keep s0 (State.stopBobbins s p) := by
  unfold State.stopBobbins
  repeat' first
    | with_reducible assumption
    | (intro x; first | (refine (have hx : Keep s0 x := ?_; ?_); dsimp only [x]) | subst x | skip)
    | lift_lets
    | with_reducible apply State.releaseThim_keep
    | with_reducible apply State.serve_keep
    | (with_reducible apply Keep.upd; first | with_reducible assumption | with_reducible apply State.releaseThim_keep | with_reducible apply State.serve_keep | with_reducible apply Keep.foldl)
    | with_reducible apply Keep.foldl
    | split
    | dsimp only

end Sys2Proof.Machine
end

