-- ==== Sys2Proof/Laws/Keep/TileFaults.lean ====
section
/-! SUPPORT. What the operations of `Machine/TileFaults.lean` keep: the queue, the canonical form of memory, the fuses. -/

namespace Sys2Proof.Machine

theorem State.recordFault_keep {s0 : State} {s : State} {p : Nat} {code detail pc : Nat} {iw : Word64} {async : Bool}
    (kp : Keep s0 s) : Keep s0 (State.recordFault s p code detail pc iw async) := by
  unfold State.recordFault
  repeat' first
    | with_reducible assumption
    | (intro x; first | (refine (have hx : Keep s0 x := ?_; ?_); dsimp only [x]) | subst x | skip)
    | lift_lets
    | with_reducible apply State.setTile_keep
    | split

theorem State.stopTile_keep {s0 : State} {s : State} {p : Nat} (kp : Keep s0 s) : Keep s0 (State.stopTile s p) := by
  unfold State.stopTile
  repeat' first
    | with_reducible assumption
    | with_reducible apply State.abandonTrees_keep
    | with_reducible apply State.setTile_keep
    | with_reducible apply State.stopBobbins_keep
    | split

theorem State.tileFault_keep {s0 : State} {s : State} {p : Nat} {code detail pc : Nat} {iw : Word64} {async : Bool}
    (kp : Keep s0 s) : Keep s0 (State.tileFault s p code detail pc iw async) := by
  unfold State.tileFault
  repeat' first
    | with_reducible assumption
    | (intro x; first | (refine (have hx : Keep s0 x := ?_; ?_); dsimp only [x]) | subst x | skip)
    | lift_lets
    | with_reducible apply State.logRec_keep
    | with_reducible apply State.openFault_keep
    | with_reducible apply State.recordFault_keep
    | with_reducible apply State.stopTile_keep
    | split

theorem State.patternFault_keep {s0 : State} {s : State} {p : Nat} (kp : Keep s0 s) :
    Keep s0 (State.patternFault s p) := by
  unfold State.patternFault
  repeat' first
    | with_reducible assumption
    | with_reducible apply State.modTile_keep
    | with_reducible apply State.tileFault_keep
    | split

end Sys2Proof.Machine
end

