-- ==== Sys2Proof/Laws/Keep/Issue.lean ====
section
/-! SUPPORT. What the operations of `Machine/Issue.lean` keep: the queue, the canonical form of memory, the fuses. -/

namespace Sys2Proof.Machine

theorem State.settle_keep {s0 : State} {s : State} {p : Nat} {iw : Word64} {r : Issued} (h : Keep s0 s)
    (hr : r.All (Keep s0)) : Keep s0 (State.settle s p iw r) := by
  unfold State.settle
  cases r with
  | done s1 => exact State.retire_keep hr.elimDone
  | goto s1 pc => exact State.modTile_keep (State.retire_keep hr.elimGoto)
  | stall s1 => exact State.modTile_keep hr.elimStall
  | seam s1 => exact State.modTile_keep hr.elimSeam
  | fault c d => exact State.tileFault_keep h
  | faultIn s1 c d => exact State.tileFault_keep hr.elimFaultIn

theorem State.issueAt_keep {s0 : State} {s : State} {p : Nat} {iw : Word64} {reads : List Nat} {illegal : Bool} {body
    : State → Nat → Issued} (kp : Keep s0 s) (hbody : ∀ x0 x1, Keep s0 x0 → Issued.All (Keep s0) (body x0 x1)) : Keep s0 (State.issueAt s p iw reads illegal body) := by
  unfold State.issueAt
  repeat' first
    | with_reducible assumption
    | (intro x; first | (refine (have hx : Keep s0 x := ?_; ?_); dsimp only [x]) | subst x | skip)
    | lift_lets
    | with_reducible apply State.retire_keep
    | with_reducible apply State.setTile_keep
    | with_reducible apply State.settle_keep
    | with_reducible apply State.tileFault_keep
    | with_reducible apply hbody
    | split

theorem issue_keep {s0 : State} {t : TileId} {iw : Word64} {row : Bool} {reads : List Nat} {illegal : Bool} {body :
    State → Nat → Issued} {s : State} (kp : Keep s0 s) (hbody : ∀ x0 x1, Keep s0 x0 → Issued.All (Keep s0) (body x0 x1)) : Res.All (Keep s0) (issue t iw row reads illegal body s) := by
  unfold issue
  repeat' first
    | with_reducible assumption
    | with_reducible exact Res.All.fault
    | with_reducible apply Res.All.next
    | with_reducible apply State.issueAt_keep
    | with_reducible apply hbody
    | split

end Sys2Proof.Machine
end

