-- ==== Sys2Proof/Laws/Keep/Scratch.lean ====
section
/-! SUPPORT. What the operations of `Machine/Scratch.lean` keep: the queue, the canonical form of memory, the fuses. -/

namespace Sys2Proof.Machine

theorem State.asyncDone_keep {s0 : State} {s : State} {p : Nat} (kp : Keep s0 s) : Keep s0 (State.asyncDone s p) := by
  unfold State.asyncDone
  repeat' first
    | with_reducible assumption
    | (intro x; first | (refine (have hx : Keep s0 x := ?_; ?_); dsimp only [x]) | subst x | skip)
    | lift_lets
    | with_reducible apply State.endWait_keep
    | with_reducible apply State.retire_keep
    | with_reducible apply State.setTile_keep
    | with_reducible apply State.wake_keep
    | split

end Sys2Proof.Machine
end

