-- ==== Sys2Proof/Laws/Keep/Async.lean ====
section
/-! SUPPORT. What the operations of `Machine/Async.lean` keep: the queue, the canonical form of memory, the fuses. -/

namespace Sys2Proof.Machine

theorem bodyMover_keep {s0 : State} {iw : Word64} {copy : Bool} {s : State} {p : Nat} (kp : Keep s0 s) :
    Issued.All (Keep s0) (bodyMover iw copy s p) := by
  unfold bodyMover
  repeat' first
    | with_reducible assumption
    | (intro x; first | (refine (have hx : Keep s0 x := ?_; ?_); dsimp only [x]) | subst x | skip)
    | lift_lets
    | with_reducible exact Issued.All.fault
    | with_reducible apply Issued.All.faultIn
    | with_reducible apply Issued.All.done
    | with_reducible apply Issued.All.goto
    | with_reducible apply Issued.All.stall
    | with_reducible apply Issued.All.seam
    | with_reducible apply State.setTile_keep
    | split

theorem execFill_keep {s0 : State} {tile : TileId} {iw : Word64} {s : State} (kp : Keep s0 s) :
    Res.All (Keep s0) (execFill tile iw s) := by
  unfold execFill
  repeat' first
    | with_reducible assumption
    | with_reducible exact Res.All.fault
    | with_reducible apply Res.All.next
    | with_reducible apply bodyMover_keep
    | with_reducible apply issue_keep
    | split

theorem execCopy_keep {s0 : State} {tile : TileId} {iw : Word64} {s : State} (kp : Keep s0 s) :
    Res.All (Keep s0) (execCopy tile iw s) := by
  unfold execCopy
  repeat' first
    | with_reducible assumption
    | with_reducible exact Res.All.fault
    | with_reducible apply Res.All.next
    | with_reducible apply bodyMover_keep
    | with_reducible apply issue_keep
    | split

theorem State.runMover_keep {s0 : State} {s : State} {p : Nat} {o : MoverOp} (kp : Keep s0 s) :
    Keep s0 (State.runMover s p o) := by
  unfold State.runMover
  repeat' first
    | with_reducible assumption
    | (intro x; first | (refine (have hx : Keep s0 x := ?_; ?_); dsimp only [x]) | subst x | skip)
    | lift_lets
    | with_reducible apply State.setTile_keep
    | with_reducible apply State.tileFault_keep
    | split

theorem execMoverComplete_keep {s0 : State} {tile : TileId} {s : State} (kp : Keep s0 s) :
    Res.All (Keep s0) (execMoverComplete tile s) := by
  unfold execMoverComplete
  repeat' first
    | with_reducible assumption
    | with_reducible exact Res.All.fault
    | with_reducible apply Res.All.next
    | with_reducible apply State.asyncDone_keep
    | with_reducible apply State.runMover_keep
    | split

theorem bodyMwait_keep {s0 : State} {iw : Word64} {s : State} {p : Nat} (kp : Keep s0 s) :
    Issued.All (Keep s0) (bodyMwait iw s p) := by
  unfold bodyMwait
  repeat' first
    | with_reducible assumption
    | (intro x; first | (refine (have hx : Keep s0 x := ?_; ?_); dsimp only [x]) | subst x | skip)
    | lift_lets
    | with_reducible exact Issued.All.fault
    | with_reducible apply Issued.All.faultIn
    | with_reducible apply Issued.All.done
    | with_reducible apply Issued.All.goto
    | with_reducible apply Issued.All.stall
    | with_reducible apply Issued.All.seam
    | with_reducible apply State.setTile_keep
    | split

theorem execMwait_keep {s0 : State} {tile : TileId} {iw : Word64} {s : State} (kp : Keep s0 s) :
    Res.All (Keep s0) (execMwait tile iw s) := by
  unfold execMwait
  repeat' first
    | with_reducible assumption
    | with_reducible exact Res.All.fault
    | with_reducible apply Res.All.next
    | with_reducible apply bodyMwait_keep
    | with_reducible apply issue_keep
    | split

theorem bodyFence_keep {s0 : State} {iw : Word64} {s : State} {p : Nat} (kp : Keep s0 s) :
    Issued.All (Keep s0) (bodyFence iw s p) := by
  unfold bodyFence
  repeat' first
    | with_reducible assumption
    | (intro x; first | (refine (have hx : Keep s0 x := ?_; ?_); dsimp only [x]) | subst x | skip)
    | lift_lets
    | with_reducible exact Issued.All.fault
    | with_reducible apply Issued.All.faultIn
    | with_reducible apply Issued.All.done
    | with_reducible apply Issued.All.goto
    | with_reducible apply Issued.All.stall
    | with_reducible apply Issued.All.seam
    | with_reducible apply State.setTile_keep
    | split

theorem execFence_keep {s0 : State} {tile : TileId} {iw : Word64} {s : State} (kp : Keep s0 s) :
    Res.All (Keep s0) (execFence tile iw s) := by
  unfold execFence
  repeat' first
    | with_reducible assumption
    | with_reducible exact Res.All.fault
    | with_reducible apply Res.All.next
    | with_reducible apply bodyFence_keep
    | with_reducible apply issue_keep
    | split

theorem bodyMnon_keep {s0 : State} {iw : Word64} {s : State} {p : Nat} (kp : Keep s0 s) :
    Issued.All (Keep s0) (bodyMnon iw s p) := by
  unfold bodyMnon
  repeat' first
    | with_reducible assumption
    | (intro x; first | (refine (have hx : Keep s0 x := ?_; ?_); dsimp only [x]) | subst x | skip)
    | lift_lets
    | with_reducible exact Issued.All.fault
    | with_reducible apply Issued.All.faultIn
    | with_reducible apply Issued.All.done
    | with_reducible apply Issued.All.goto
    | with_reducible apply Issued.All.stall
    | with_reducible apply Issued.All.seam
    | with_reducible apply State.setTile_keep
    | split

theorem execMnon_keep {s0 : State} {tile : TileId} {iw : Word64} {s : State} (kp : Keep s0 s) :
    Res.All (Keep s0) (execMnon tile iw s) := by
  unfold execMnon
  repeat' first
    | with_reducible assumption
    | with_reducible exact Res.All.fault
    | with_reducible apply Res.All.next
    | with_reducible apply bodyMnon_keep
    | with_reducible apply issue_keep
    | split

theorem bodyMnoff_keep {s0 : State} {iw : Word64} {s : State} {p : Nat} (kp : Keep s0 s) :
    Issued.All (Keep s0) (bodyMnoff iw s p) := by
  unfold bodyMnoff
  repeat' first
    | with_reducible assumption
    | with_reducible exact Issued.All.fault
    | with_reducible apply Issued.All.faultIn
    | with_reducible apply Issued.All.done
    | with_reducible apply Issued.All.goto
    | with_reducible apply Issued.All.stall
    | with_reducible apply Issued.All.seam
    | with_reducible apply State.modTile_keep
    | split

theorem execMnoff_keep {s0 : State} {tile : TileId} {iw : Word64} {s : State} (kp : Keep s0 s) :
    Res.All (Keep s0) (execMnoff tile iw s) := by
  unfold execMnoff
  repeat' first
    | with_reducible assumption
    | with_reducible exact Res.All.fault
    | with_reducible apply Res.All.next
    | with_reducible apply bodyMnoff_keep
    | with_reducible apply issue_keep
    | split

theorem execPleatIdleFlush_keep {s0 : State} {tile : TileId} {row : Fin 3072} {s : State} (kp : Keep s0 s) :
    Res.All (Keep s0) (execPleatIdleFlush tile row s) := by
  unfold execPleatIdleFlush
  repeat' first
    | with_reducible assumption
    | with_reducible exact Res.All.fault
    | with_reducible apply Res.All.next
    | with_reducible apply State.setTile_keep
    | split

theorem execPatrolScrub_keep {s0 : State} {tile : TileId} {ups : TileUpsets} {s : State} (kp : Keep s0 s) :
    Res.All (Keep s0) (execPatrolScrub tile ups s) := by
  unfold execPatrolScrub
  repeat' first
    | with_reducible assumption
    | with_reducible exact Res.All.fault
    | with_reducible apply Res.All.next
    | with_reducible apply State.patternFault_keep
    | with_reducible apply State.setTile_keep
    | split

end Sys2Proof.Machine
end

