-- ==== Sys2Proof/Laws/Keep/Bobbins.lean ====
section
/-! SUPPORT. What the operations of `Machine/Bobbins.lean` keep: the queue, the canonical form of memory, the fuses. -/

namespace Sys2Proof.Machine

theorem bodyBcfg_keep {s0 : State} {iw : Word64} {s : State} {p : Nat} (kp : Keep s0 s) :
    Issued.All (Keep s0) (bodyBcfg iw s p) := by
  unfold bodyBcfg
  repeat' first
    | with_reducible assumption
    | (intro x; first | (refine (have hx : Keep s0 x := ?_; ?_); dsimp only [x]) | subst x | skip)
    | lift_lets
    | with_reducible exact Issued.All.fault
    | with_reducible apply Issued.All.faultIn
    | with_reducible apply Issued.All.done
    | with_reducible apply Issued.All.goto
    | with_reducible apply Issued.All.stall
    | with_reducible apply Issued.All.seam
    | with_reducible apply State.setTile_keep
    | split

theorem execBcfg_keep {s0 : State} {tile : TileId} {iw : Word64} {s : State} (kp : Keep s0 s) :
    Res.All (Keep s0) (execBcfg tile iw s) := by
  unfold execBcfg
  repeat' first
    | with_reducible assumption
    | with_reducible exact Res.All.fault
    | with_reducible apply Res.All.next
    | with_reducible apply bodyBcfg_keep
    | with_reducible apply issue_keep
    | split

theorem bodyUnconfigure_keep {s0 : State} {iw : Word64} {s : State} {p : Nat} (kp : Keep s0 s) :
    Issued.All (Keep s0) (bodyUnconfigure iw s p) := by
  unfold bodyUnconfigure
  repeat' first
    | with_reducible assumption
    | (intro x; first | (refine (have hx : Keep s0 x := ?_; ?_); dsimp only [x]) | subst x | skip)
    | lift_lets
    | with_reducible exact Issued.All.fault
    | with_reducible apply Issued.All.faultIn
    | with_reducible apply Issued.All.done
    | with_reducible apply Issued.All.goto
    | with_reducible apply Issued.All.stall
    | with_reducible apply Issued.All.seam
    | with_reducible apply State.setTile_keep
    | split

theorem execBcfgUnconfigure_keep {s0 : State} {tile : TileId} {iw : Word64} {s : State} (kp : Keep s0 s) :
    Res.All (Keep s0) (execBcfgUnconfigure tile iw s) := by
  unfold execBcfgUnconfigure
  repeat' first
    | with_reducible assumption
    | with_reducible exact Res.All.fault
    | with_reducible apply Res.All.next
    | with_reducible apply bodyUnconfigure_keep
    | with_reducible apply issue_keep
    | split

theorem treqBody_keep {s0 : State} {iw : Word64} {s : State} {p : Nat} {take : Word64 → Issued} (kp : Keep s0 s)
    (htake : ∀ x0, Keep s0 s → Issued.All (Keep s0) (take x0)) : Issued.All (Keep s0) (treqBody iw s p take) := by
  unfold treqBody
  repeat' first
    | with_reducible assumption
    | (intro x; first | (refine (have hx : Keep s0 x := ?_; ?_); dsimp only [x]) | subst x | skip)
    | lift_lets
    | with_reducible exact Issued.All.fault
    | with_reducible apply Issued.All.faultIn
    | with_reducible apply Issued.All.done
    | with_reducible apply Issued.All.goto
    | with_reducible apply Issued.All.stall
    | with_reducible apply Issued.All.seam
    | with_reducible apply htake
    | split

theorem bodyTreq_keep {s0 : State} {iw : Word64} {s : State} {p : Nat} (kp : Keep s0 s) :
    Issued.All (Keep s0) (bodyTreq iw s p) := by
  unfold bodyTreq
  repeat' first
    | with_reducible assumption
    | (intro x; first | (refine (have hx : Keep s0 x := ?_; ?_); dsimp only [x]) | subst x | skip)
    | lift_lets
    | with_reducible exact Issued.All.fault
    | with_reducible apply Issued.All.faultIn
    | with_reducible apply Issued.All.done
    | with_reducible apply Issued.All.goto
    | with_reducible apply Issued.All.stall
    | with_reducible apply Issued.All.seam
    | with_reducible apply State.modTile_keep
    | with_reducible apply State.sendRequest_keep
    | with_reducible apply treqBody_keep
    | split

theorem bodyTreqRead_keep {s0 : State} {iw : Word64} {s : State} {p : Nat} (kp : Keep s0 s) :
    Issued.All (Keep s0) (bodyTreqRead iw s p) := by
  unfold bodyTreqRead
  repeat' first
    | with_reducible assumption
    | (intro x; first | (refine (have hx : Keep s0 x := ?_; ?_); dsimp only [x]) | subst x | skip)
    | lift_lets
    | with_reducible exact Issued.All.fault
    | with_reducible apply Issued.All.faultIn
    | with_reducible apply Issued.All.done
    | with_reducible apply Issued.All.goto
    | with_reducible apply Issued.All.stall
    | with_reducible apply Issued.All.seam
    | with_reducible apply State.emit_keep
    | with_reducible apply State.setTile_keep
    | with_reducible apply treqBody_keep
    | split

theorem execTreqMessage_keep {s0 : State} {tile : TileId} {iw : Word64} {s : State} (kp : Keep s0 s) :
    Res.All (Keep s0) (execTreqMessage tile iw s) := by
  unfold execTreqMessage
  repeat' first
    | with_reducible assumption
    | with_reducible exact Res.All.fault
    | with_reducible apply Res.All.next
    | with_reducible apply bodyTreq_keep
    | with_reducible apply issue_keep
    | split

theorem execTreqCombining_keep {s0 : State} {tile : TileId} {iw : Word64} {s : State} (kp : Keep s0 s) :
    Res.All (Keep s0) (execTreqCombining tile iw s) := by
  unfold execTreqCombining
  repeat' first
    | with_reducible assumption
    | with_reducible exact Res.All.fault
    | with_reducible apply Res.All.next
    | with_reducible apply bodyTreq_keep
    | with_reducible apply issue_keep
    | split

theorem execTreqWrite_keep {s0 : State} {tile : TileId} {iw : Word64} {s : State} (kp : Keep s0 s) :
    Res.All (Keep s0) (execTreqWrite tile iw s) := by
  unfold execTreqWrite
  repeat' first
    | with_reducible assumption
    | with_reducible exact Res.All.fault
    | with_reducible apply Res.All.next
    | with_reducible apply bodyTreq_keep
    | with_reducible apply issue_keep
    | split

theorem execTreqRead_keep {s0 : State} {tile : TileId} {iw : Word64} {s : State} (kp : Keep s0 s) :
    Res.All (Keep s0) (execTreqRead tile iw s) := by
  unfold execTreqRead
  repeat' first
    | with_reducible assumption
    | with_reducible exact Res.All.fault
    | with_reducible apply Res.All.next
    | with_reducible apply bodyTreqRead_keep
    | with_reducible apply issue_keep
    | split

theorem bodyBsend_keep {s0 : State} {iw : Word64} {s : State} {p : Nat} (kp : Keep s0 s) :
    Issued.All (Keep s0) (bodyBsend iw s p) := by
  unfold bodyBsend
  repeat' first
    | with_reducible assumption
    | (intro x; first | (refine (have hx : Keep s0 x := ?_; ?_); dsimp only [x]) | subst x | skip)
    | lift_lets
    | with_reducible exact Issued.All.fault
    | with_reducible apply Issued.All.faultIn
    | with_reducible apply Issued.All.done
    | with_reducible apply Issued.All.goto
    | with_reducible apply Issued.All.stall
    | with_reducible apply Issued.All.seam
    | with_reducible apply State.emit_keep
    | with_reducible apply State.releaseThim_keep
    | with_reducible apply State.setTile_keep
    | split

theorem execBsend_keep {s0 : State} {tile : TileId} {iw : Word64} {s : State} (kp : Keep s0 s) :
    Res.All (Keep s0) (execBsend tile iw s) := by
  unfold execBsend
  repeat' first
    | with_reducible assumption
    | with_reducible exact Res.All.fault
    | with_reducible apply Res.All.next
    | with_reducible apply bodyBsend_keep
    | with_reducible apply issue_keep
    | split

theorem bodyBwait_keep {s0 : State} {iw : Word64} {s : State} {p : Nat} (kp : Keep s0 s) :
    Issued.All (Keep s0) (bodyBwait iw s p) := by
  unfold bodyBwait
  repeat' first
    | with_reducible assumption
    | (intro x; first | (refine (have hx : Keep s0 x := ?_; ?_); dsimp only [x]) | subst x | skip)
    | lift_lets
    | with_reducible exact Issued.All.fault
    | with_reducible apply Issued.All.faultIn
    | with_reducible apply Issued.All.done
    | with_reducible apply Issued.All.goto
    | with_reducible apply Issued.All.stall
    | with_reducible apply Issued.All.seam
    | with_reducible apply State.setTile_keep
    | split

theorem execBwait_keep {s0 : State} {tile : TileId} {iw : Word64} {s : State} (kp : Keep s0 s) :
    Res.All (Keep s0) (execBwait tile iw s) := by
  unfold execBwait
  repeat' first
    | with_reducible assumption
    | with_reducible exact Res.All.fault
    | with_reducible apply Res.All.next
    | with_reducible apply bodyBwait_keep
    | with_reducible apply issue_keep
    | split

theorem bodyBwaitThimble_keep {s0 : State} {iw : Word64} {s : State} {p : Nat} (kp : Keep s0 s) :
    Issued.All (Keep s0) (bodyBwaitThimble iw s p) := by
  unfold bodyBwaitThimble
  repeat' first
    | with_reducible assumption
    | (intro x; first | (refine (have hx : Keep s0 x := ?_; ?_); dsimp only [x]) | subst x | skip)
    | lift_lets
    | with_reducible exact Issued.All.fault
    | with_reducible apply Issued.All.faultIn
    | with_reducible apply Issued.All.done
    | with_reducible apply Issued.All.goto
    | with_reducible apply Issued.All.stall
    | with_reducible apply Issued.All.seam
    | with_reducible apply State.countRing_keep
    | with_reducible apply State.setTile_keep
    | split

theorem execBwaitThimble_keep {s0 : State} {tile : TileId} {iw : Word64} {s : State} (kp : Keep s0 s) :
    Res.All (Keep s0) (execBwaitThimble tile iw s) := by
  unfold execBwaitThimble
  repeat' first
    | with_reducible assumption
    | with_reducible exact Res.All.fault
    | with_reducible apply Res.All.next
    | with_reducible apply bodyBwaitThimble_keep
    | with_reducible apply issue_keep
    | split

theorem bodyBadv_keep {s0 : State} {iw : Word64} {s : State} {p : Nat} (kp : Keep s0 s) :
    Issued.All (Keep s0) (bodyBadv iw s p) := by
  unfold bodyBadv
  repeat' first
    | with_reducible assumption
    | (intro x; first | (refine (have hx : Keep s0 x := ?_; ?_); dsimp only [x]) | subst x | skip)
    | lift_lets
    | with_reducible exact Issued.All.fault
    | with_reducible apply Issued.All.faultIn
    | with_reducible apply Issued.All.done
    | with_reducible apply Issued.All.goto
    | with_reducible apply Issued.All.stall
    | with_reducible apply Issued.All.seam
    | with_reducible apply State.serve_keep
    | with_reducible apply State.setTile_keep
    | split

theorem execBadv_keep {s0 : State} {tile : TileId} {iw : Word64} {s : State} (kp : Keep s0 s) :
    Res.All (Keep s0) (execBadv tile iw s) := by
  unfold execBadv
  repeat' first
    | with_reducible assumption
    | with_reducible exact Res.All.fault
    | with_reducible apply Res.All.next
    | with_reducible apply bodyBadv_keep
    | with_reducible apply issue_keep
    | split

end Sys2Proof.Machine
end

