-- ==== Sys2Proof/Laws/Keep/Fabric.lean ====
section
/-! SUPPORT. What the operations of `Machine/Fabric.lean` keep: the queue, the canonical form of memory, the fuses. -/

namespace Sys2Proof.Machine

theorem State.dropPacket_keep {s0 : State} {s : State} {q : Pkt} (kp : Keep s0 s) : Keep s0 (State.dropPacket s q) := by
  unfold State.dropPacket
  repeat' first
    | with_reducible assumption
    | (intro x; first | (refine (have hx : Keep s0 x := ?_; ?_); dsimp only [x]) | subst x | skip)
    | lift_lets
    | with_reducible apply State.bump_keep
    | with_reducible apply State.countPacket_keep
    | with_reducible apply State.countPart_keep
    | with_reducible apply State.flag_keep
    | with_reducible apply State.land_keep
    | with_reducible apply State.tileFault_keep
    | split

theorem State.takePacket_keep {s0 : State} {s : State} {q : Pkt} (kp : Keep s0 s) : Keep s0 (State.takePacket s q) := by
  unfold State.takePacket
  repeat' first
    | with_reducible assumption
    | with_reducible apply State.countPacket_keep
    | with_reducible apply State.land_keep
    | split

theorem arriveAt_keep {s0 : State} {q : Pkt} {row : Bool} {f : Nat → State → State} {s : State} (kp : Keep s0 s) (hf
    : ∀ x0 x1, Keep s0 x1 → Keep s0 (f x0 x1)) : Res.All (Keep s0) (arriveAt q row f s) := by
  unfold arriveAt
  repeat' first
    | with_reducible assumption
    | with_reducible exact Res.All.fault
    | with_reducible apply Res.All.next
    | with_reducible apply State.dropPacket_keep
    | with_reducible apply State.takePacket_keep
    | with_reducible apply hf
    | split

theorem State.sendAck_keep {s0 : State} {s : State} {q : Pkt} (kp : Keep s0 s) : Keep s0 (State.sendAck s q) := by
  unfold State.sendAck
  repeat' first
    | with_reducible assumption
    | with_reducible apply State.replyTo_keep
    | split

theorem execWrite_keep {s0 : State} {pkt : Pkt} {s : State} (kp : Keep s0 s) : Res.All (Keep s0) (execWrite pkt s) := by
  unfold execWrite
  repeat' first
    | with_reducible assumption
    | (intro x; first | (refine (have hx : Keep s0 x := ?_; ?_); dsimp only [x]) | subst x | skip)
    | lift_lets
    | with_reducible exact Res.All.fault
    | with_reducible apply Res.All.next
    | with_reducible apply State.ringWake_keep
    | with_reducible apply State.sendAck_keep
    | with_reducible apply State.setTile_keep
    | with_reducible apply arriveAt_keep
    | split

theorem execRdreq_keep {s0 : State} {pkt : Pkt} {s : State} (kp : Keep s0 s) : Res.All (Keep s0) (execRdreq pkt s) := by
  unfold execRdreq
  repeat' first
    | with_reducible assumption
    | (intro x; first | (refine (have hx : Keep s0 x := ?_; ?_); dsimp only [x]) | subst x | skip)
    | lift_lets
    | with_reducible exact Res.All.fault
    | with_reducible apply Res.All.next
    | with_reducible apply State.emit_keep
    | with_reducible apply State.setTile_keep
    | with_reducible apply arriveAt_keep
    | split

theorem execRdrsp_keep {s0 : State} {pkt : Pkt} {s : State} (kp : Keep s0 s) : Res.All (Keep s0) (execRdrsp pkt s) := by
  unfold execRdrsp
  repeat' first
    | with_reducible assumption
    | (intro x; first | (refine (have hx : Keep s0 x := ?_; ?_); dsimp only [x]) | subst x | skip)
    | lift_lets
    | with_reducible exact Res.All.fault
    | with_reducible apply Res.All.next
    | with_reducible apply State.ringWake_keep
    | with_reducible apply State.setTile_keep
    | with_reducible apply arriveAt_keep
    | split

theorem execMsg_keep {s0 : State} {pkt : Pkt} {s : State} (kp : Keep s0 s) : Res.All (Keep s0) (execMsg pkt s) := by
  unfold execMsg
  repeat' first
    | with_reducible assumption
    | (intro x; first | (refine (have hx : Keep s0 x := ?_; ?_); dsimp only [x]) | subst x | skip)
    | lift_lets
    | with_reducible exact Res.All.fault
    | with_reducible apply Res.All.next
    | with_reducible apply State.countRing_keep
    | with_reducible apply State.ringWake_keep
    | with_reducible apply State.sendAck_keep
    | with_reducible apply State.setTile_keep
    | with_reducible apply arriveAt_keep
    | split

theorem State.addPacket_keep {s0 : State} {s : State} {p : Nat} {q : Pkt} (kp : Keep s0 s) :
    Keep s0 (State.addPacket s p q) := by
  unfold State.addPacket
  repeat' first
    | with_reducible assumption
    | (intro x; first | (refine (have hx : Keep s0 x := ?_; ?_); dsimp only [x]) | subst x | skip)
    | lift_lets
    | with_reducible apply State.countRing_keep
    | with_reducible apply State.ringWake_keep
    | with_reducible apply State.sendAck_keep
    | with_reducible apply State.setTile_keep
    | with_reducible apply State.tileFault_keep
    | split

theorem execAdd_keep {s0 : State} {pkt : Pkt} {s : State} (kp : Keep s0 s) : Res.All (Keep s0) (execAdd pkt s) := by
  unfold execAdd
  repeat' first
    | with_reducible assumption
    | (intro x; first | (refine (have hx : Keep s0 x := ?_; ?_); dsimp only [x]) | subst x | skip)
    | lift_lets
    | with_reducible exact Res.All.fault
    | with_reducible apply Res.All.next
    | with_reducible apply State.addPacket_keep
    | with_reducible apply State.setTile_keep
    | with_reducible apply arriveAt_keep
    | split

theorem State.fanOut_keep {s0 : State} {s : State} {p : Nat} {q : Pkt} (kp : Keep s0 s) :
    Keep s0 (State.fanOut s p q) := by
  unfold State.fanOut
  repeat' first
    | with_reducible assumption
    | (intro x; first | (refine (have hx : Keep s0 x := ?_; ?_); dsimp only [x]) | subst x | skip)
    | lift_lets
    | with_reducible apply State.replyTo_keep
    | (with_reducible apply Keep.upd; first | with_reducible assumption | with_reducible apply State.replyTo_keep | with_reducible apply Keep.foldl)
    | with_reducible apply Keep.foldl
    | split
    | dsimp only

theorem execAck_keep {s0 : State} {pkt : Pkt} {s : State} (kp : Keep s0 s) : Res.All (Keep s0) (execAck pkt s) := by
  unfold execAck
  repeat' first
    | with_reducible assumption
    | (intro x; first | (refine (have hx : Keep s0 x := ?_; ?_); dsimp only [x]) | subst x | skip)
    | lift_lets
    | with_reducible exact Res.All.fault
    | with_reducible apply Res.All.next
    | with_reducible apply State.asyncDone_keep
    | with_reducible apply State.fanOut_keep
    | with_reducible apply State.ringWake_keep
    | with_reducible apply State.setTile_keep
    | with_reducible apply arriveAt_keep
    | split

theorem State.checkAt_keep {s0 : State} {s : State} {router : Fin 6336} {q : Pkt} (kp : Keep s0 s) :
    Keep s0 (State.checkAt s router q) := by
  unfold State.checkAt
  repeat' first
    | with_reducible assumption
    | with_reducible apply State.dropPacket_keep
    | split

theorem execAddMerge_keep {s0 : State} {router : Fin 6336} {a b : Pkt} {s : State} (kp : Keep s0 s) :
    Res.All (Keep s0) (execAddMerge router a b s) := by
  unfold execAddMerge
  repeat' first
    | with_reducible assumption
    | (intro x; first | (refine (have hx : Keep s0 x := ?_; ?_); dsimp only [x]) | subst x | skip)
    | lift_lets
    | with_reducible exact Res.All.fault
    | with_reducible apply Res.All.next
    | with_reducible apply State.checkAt_keep
    | with_reducible apply State.countPart_keep
    | with_reducible apply State.emit_keep
    | with_reducible apply State.land_keep
    | (with_reducible apply Keep.upd; first | with_reducible assumption | with_reducible apply State.checkAt_keep | with_reducible apply State.countPart_keep | with_reducible apply State.emit_keep | with_reducible apply State.land_keep | with_reducible apply Keep.foldl)
    | with_reducible apply Keep.foldl
    | split
    | dsimp only

theorem State.xAnswer_keep {s0 : State} {s : State} {x : Nat} {q : Pkt} {sub : Nat} (kp : Keep s0 s) :
    Keep s0 (State.xAnswer s x q sub) := by
  unfold State.xAnswer
  repeat' first
    | with_reducible assumption
    | with_reducible apply State.emit_keep
    | split

theorem State.takeAtX_keep {s0 : State} {s t : State} {x : Nat} {q : Pkt} (h : Keep s0 s)
    (ht : State.takeAtX s x q = some t) : Keep s0 t := by
  unfold State.takeAtX at ht
  repeat' split at ht
  all_goals first
    | (injection ht with ht; subst ht; exact State.modLink_keep h)
    | (injection ht with ht; subst ht; exact State.takePacket_keep h)
    | cases ht

theorem State.dropAtX_keep {s0 : State} {s : State} {x : Nat} {q : Pkt} (kp : Keep s0 s) :
    Keep s0 (State.dropAtX s x q) := by
  unfold State.dropAtX
  repeat' first
    | with_reducible assumption
    | with_reducible apply State.bump_keep
    | with_reducible apply State.dropPacket_keep
    | with_reducible apply State.flag_keep
    | with_reducible apply State.modLink_keep
    | split

theorem execPacketForward_keep {s0 : State} {x : Fin 2} {pkt : Pkt} {s : State} (h : Keep s0 s) :
    Res.All (Keep s0) (execPacketForward x pkt s) := by
  unfold execPacketForward
  split
  · exact Res.All.next (State.dropAtX_keep h)
  · split
    · exact Res.All.next (State.dropAtX_keep h)
    · refine Res.All.next ?_
      split
      · exact h
      · rename_i s1 he
        have h1 : Keep s0 s1 := State.takeAtX_keep h he
        dsimp only
        repeat' split
        all_goals first
          | exact State.xAnswer_keep h1
          | exact State.emit_keep h1
          | exact State.countRing_keep (State.modLink_keep h1)

theorem State.setRow_keep {s0 : State} {s : State} {d r v : Nat} (kp : Keep s0 s) : Keep s0 (State.setRow s d r v) := by
  unfold State.setRow
  repeat' first
    | with_reducible assumption
    | (with_reducible apply Keep.upd; with_reducible assumption)
    | split

theorem State.recordBad_keep {s0 : State} {s : State} {p : Nat} (kp : Keep s0 s) : Keep s0 (State.recordBad s p) := by
  unfold State.recordBad
  repeat' first
    | with_reducible assumption
    | with_reducible apply State.flag_keep
    | (with_reducible apply Keep.upd; with_reducible assumption)
    | split

theorem State.claimSpare_keep {s0 : State} {s : State} {d r bad : Nat} (kp : Keep s0 s) :
    Keep s0 (State.claimSpare s d r bad) := by
  unfold State.claimSpare
  repeat' first
    | with_reducible assumption
    | (intro x; first | (refine (have hx : Keep s0 x := ?_; ?_); dsimp only [x]) | subst x | skip)
    | lift_lets
    | with_reducible apply State.recordBad_keep
    | with_reducible apply State.setRow_keep
    | (with_reducible apply Keep.upd; with_reducible assumption)
    | split
    | dsimp only

theorem State.applyStaged_keep {s0 : State} {s : State} (kp : Keep s0 s) : Keep s0 (State.applyStaged s) := by
  unfold State.applyStaged
  repeat' first
    | with_reducible assumption
    | (intro x; first | (refine (have hx : Keep s0 x := ?_; ?_); dsimp only [x]) | subst x | skip)
    | lift_lets
    | with_reducible apply State.claimSpare_keep
    | (with_reducible apply Keep.upd; first | with_reducible assumption | with_reducible apply State.claimSpare_keep | with_reducible apply Keep.foldl)
    | with_reducible apply Keep.foldl
    | split
    | dsimp only

theorem execRowMapWrite_keep {s0 : State} {value : Word32} {s : State} (kp : Keep s0 s) :
    Res.All (Keep s0) (execRowMapWrite value s) := by
  unfold execRowMapWrite
  repeat' first
    | with_reducible assumption
    | (intro x; first | (refine (have hx : Keep s0 x := ?_; ?_); dsimp only [x]) | subst x | skip)
    | lift_lets
    | with_reducible exact Res.All.fault
    | with_reducible apply Res.All.next
    | with_reducible apply State.claimSpare_keep
    | with_reducible apply State.flag_keep
    | with_reducible apply State.setRow_keep
    | (with_reducible apply Keep.upd; with_reducible assumption)
    | split
    | dsimp only

end Sys2Proof.Machine
end

