-- ==== Sys2Proof/Laws/Keep/Gddr.lean ====
section
/-! SUPPORT. What the operations of `Machine/Gddr.lean` keep: the queue, the canonical form of memory, the fuses. -/

namespace Sys2Proof.Machine

theorem State.modHv_keep {s0 : State} {s : State} {m : Nat} {f : HarvestSt → HarvestSt} (kp : Keep s0 s) :
    Keep s0 (State.modHv s m f) := by
  unfold State.modHv
  repeat' first
    | with_reducible assumption
    | (with_reducible apply Keep.upd; with_reducible assumption)
    | split

theorem State.modMdie_keep {s0 : State} {s : State} {m : Nat} {f : MDieSt → MDieSt} (kp : Keep s0 s) :
    Keep s0 (State.modMdie s m f) := by
  unfold State.modMdie
  repeat' first
    | with_reducible assumption
    | (with_reducible apply Keep.upd; with_reducible assumption)
    | split

theorem State.recordPersist_keep {s0 : State} {s : State} {b : Nat} {patrol write : Bool} (kp : Keep s0 s) :
    Keep s0 (State.recordPersist s b patrol write) := by
  unfold State.recordPersist
  repeat' first
    | with_reducible assumption
    | (intro x; first | (refine (have hx : Keep s0 x := ?_; ?_); dsimp only [x]) | subst x | skip)
    | lift_lets
    | with_reducible apply State.bump_keep
    | with_reducible apply State.flag_keep
    | with_reducible apply State.wr_keep
    | split

theorem State.countLink_keep {s0 : State} {s : State} {m n : Nat} (kp : Keep s0 s) :
    Keep s0 (State.countLink s m n) := by
  unfold State.countLink
  repeat' first
    | with_reducible assumption
    | with_reducible apply State.bump_keep
    | split

theorem State.persistFault_keep {s0 : State} {s : State} {opens write : Bool} {b : Nat} (kp : Keep s0 s) :
    Keep s0 (State.persistFault s opens write b) := by
  unfold State.persistFault
  repeat' first
    | with_reducible assumption
    | with_reducible apply State.openFault_keep
    | with_reducible apply State.recordPersist_keep
    | split

theorem State.readPending_keep {s0 : State} {s : State} {m b : Nat} (kp : Keep s0 s) :
    Keep s0 (State.readPending s m b) := by
  unfold State.readPending
  repeat' first
    | with_reducible assumption
    | (intro x; first | (refine (have hx : Keep s0 x := ?_; ?_); dsimp only [x]) | subst x | skip)
    | lift_lets
    | with_reducible apply State.bump_keep
    | with_reducible apply State.draw_keep
    | with_reducible apply State.modMdie_keep
    | split

theorem State.checkBlock_keep {s0 : State} {s : State} {env : MemEnv} {opens write : Bool} {b : Nat} (kp : Keep s0 s) :
    Keep s0 (State.checkBlock s env opens write b) := by
  unfold State.checkBlock
  repeat' first
    | with_reducible assumption
    | (intro x; first | (refine (have hx : Keep s0 x := ?_; ?_); dsimp only [x]) | subst x | skip)
    | lift_lets
    | with_reducible apply State.bump_keep
    | with_reducible apply State.countLink_keep
    | with_reducible apply State.persistFault_keep
    | with_reducible apply State.readPending_keep
    | split

theorem State.memRead_keep {s0 : State} {s : State} {env : MemEnv} {opens : Bool} {a n : Nat} (kp : Keep s0 s) :
    Keep s0 (State.memRead s env opens a n).2.2 := by
  unfold State.memRead
  repeat' first
    | with_reducible assumption
    | (intro x; first | (refine (have hx : Keep s0 x := ?_; ?_); dsimp only [x]) | subst x | skip)
    | lift_lets
    | with_reducible apply State.checkBlock_keep
    | (with_reducible apply Keep.upd; first | with_reducible assumption | with_reducible apply State.checkBlock_keep | with_reducible apply Keep.foldl)
    | with_reducible apply Keep.foldl
    | split
    | dsimp only

theorem State.fetchMem_keep {s0 : State} {s : State} {env : MemEnv} {a n : Nat} (kp : Keep s0 s) :
    Keep s0 (State.fetchMem s env a n).2 := by
  unfold State.fetchMem
  repeat' first
    | with_reducible assumption
    | with_reducible apply State.memRead_keep
    | split

theorem State.putBytes_keep {s0 : State} {s : State} {a : Nat} {bs : List Byte} (h : Keep s0 s) :
    Keep s0 (State.putBytes s a bs) := by
  refine ⟨h.queue, fun h0 => ?_, ⟨h.fuses.fwSvn, h.fuses.cfgSvn, h.fuses.mark, h.fuses.revoked, h.fuses.dies,
    h.fuses.serial, h.fuses.grade, h.fuses.capacity⟩⟩
  have hw : ∀ (l : List (Byte × Nat)) (m : List Host.Cell), Memory.wf m = true →
      Memory.wf (l.foldl (fun m e => Memory.write m (s.storage (a + e.2)) e.1) m) = true := by
    intro l
    induction l with
    | nil => exact fun _ hm => hm
    | cons e l ih => exact fun m hm => ih _ (Memory.wf_write _ _ hm)
  exact hw _ _ (h.mem h0)

theorem State.setPoison_keep {s0 : State} {s : State} {b : Nat} {on : Bool} (kp : Keep s0 s) :
    Keep s0 (State.setPoison s b on) := by
  unfold State.setPoison
  repeat' first
    | with_reducible assumption
    | (with_reducible apply Keep.upd; with_reducible assumption)
    | split

theorem State.sendBlock_keep {s0 : State} {s : State} {env : MemEnv} {opens : Bool} {b : Nat} (kp : Keep s0 s) :
    Keep s0 (State.sendBlock s env opens b) := by
  unfold State.sendBlock
  repeat' first
    | with_reducible assumption
    | (intro x; first | (refine (have hx : Keep s0 x := ?_; ?_); dsimp only [x]) | subst x | skip)
    | lift_lets
    | with_reducible apply State.countLink_keep
    | with_reducible apply State.persistFault_keep
    | with_reducible apply State.setPoison_keep
    | split

theorem State.writeBlock_keep {s0 : State} {s : State} {env : MemEnv} {opens : Bool} {a : Nat} {bs : List Byte} {bad
    : List Nat} (kp : Keep s0 s) : Keep s0 (State.writeBlock s env opens a bs bad) := by
  unfold State.writeBlock
  repeat' first
    | with_reducible assumption
    | with_reducible apply State.checkBlock_keep
    | with_reducible apply State.putBytes_keep
    | with_reducible apply State.sendBlock_keep
    | with_reducible apply State.setPoison_keep
    | split

theorem writeParts_keep {s0 : State} {env : MemEnv} {opens : Bool} {n a : Nat} {bs : List Byte} {bad : List Nat} {s :
    State}
    (h : Keep s0 s) : Keep s0 (writeParts env opens n a bs bad s) := by
  induction n generalizing a bs bad s with
  | zero => exact h
  | succ n ih =>
    simp only [writeParts]
    split
    · exact h
    · exact ih (State.writeBlock_keep h)

theorem State.memWrite_keep {s0 : State} {s : State} {env : MemEnv} {opens : Bool} {a : Nat} {bs : List Byte} {bad :
    List Nat} (kp : Keep s0 s) : Keep s0 (State.memWrite s env opens a bs bad) := by
  unfold State.memWrite
  repeat' first
    | with_reducible assumption
    | with_reducible apply writeParts_keep
    | split

end Sys2Proof.Machine
end

