-- ==== Sys2Proof/Laws/Keep/Time.lean ====
section
/-! SUPPORT. What the operations of `Machine/Time.lean` keep: the queue, the canonical form of memory, the fuses. -/

namespace Sys2Proof.Machine

theorem State.slewTick_keep {s0 : State} {s : State} (kp : Keep s0 s) : Keep s0 (State.slewTick s) := by
  unfold State.slewTick
  repeat' first
    | with_reducible assumption
    | (intro x; first | (refine (have hx : Keep s0 x := ?_; ?_); dsimp only [x]) | subst x | skip)
    | lift_lets
    | (with_reducible apply Keep.upd; with_reducible assumption)
    | split
    | dsimp only

theorem State.stutTick_keep {s0 : State} {s : State} (kp : Keep s0 s) : Keep s0 (State.stutTick s) := by
  unfold State.stutTick
  repeat' first
    | with_reducible assumption
    | (with_reducible apply Keep.upd; with_reducible assumption)
    | split

theorem State.tick_keep {s0 : State} {s : State} (kp : Keep s0 s) : Keep s0 (State.tick s) := by
  unfold State.tick
  repeat' first
    | with_reducible assumption
    | with_reducible apply State.slewTick_keep
    | with_reducible apply State.stutTick_keep
    | (with_reducible apply Keep.upd; with_reducible assumption)
    | split

theorem State.setParent_keep {s0 : State} {s : State} {n : Nat} (kp : Keep s0 s) : Keep s0 (State.setParent s n) := by
  unfold State.setParent
  repeat' first
    | with_reducible assumption
    | with_reducible apply State.modLink_keep
    | with_reducible apply State.refresh_keep
    | with_reducible apply State.wr_keep
    | (with_reducible apply Keep.upd; with_reducible assumption)
    | split

theorem State.noParent_keep {s0 : State} {s : State} (kp : Keep s0 s) : Keep s0 (State.noParent s) := by
  unfold State.noParent
  repeat' first
    | with_reducible assumption
    | with_reducible apply State.wr_keep
    | split

theorem State.chooseParent_keep {s0 : State} {s : State} (kp : Keep s0 s) : Keep s0 (State.chooseParent s) := by
  unfold State.chooseParent
  repeat' first
    | with_reducible assumption
    | with_reducible apply State.setParent_keep
    | split

theorem State.enterMeasure_keep {s0 : State} {s : State} (kp : Keep s0 s) : Keep s0 (State.enterMeasure s) := by
  unfold State.enterMeasure
  repeat' first
    | with_reducible assumption
    | (intro x; first | (refine (have hx : Keep s0 x := ?_; ?_); dsimp only [x]) | subst x | skip)
    | lift_lets
    | with_reducible apply State.chooseParent_keep
    | with_reducible apply State.noParent_keep
    | with_reducible apply State.refresh_keep
    | with_reducible apply State.wr_keep
    | (with_reducible apply Keep.upd; with_reducible assumption)
    | split
    | dsimp only

theorem State.enterHoldover_keep {s0 : State} {s : State} {preferred : Option Nat} (kp : Keep s0 s) :
    Keep s0 (State.enterHoldover s preferred) := by
  unfold State.enterHoldover
  repeat' first
    | with_reducible assumption
    | (intro x; first | (refine (have hx : Keep s0 x := ?_; ?_); dsimp only [x]) | subst x | skip)
    | lift_lets
    | with_reducible apply State.chooseParent_keep
    | with_reducible apply State.noParent_keep
    | with_reducible apply State.refresh_keep
    | with_reducible apply State.setParent_keep
    | with_reducible apply State.wr_keep
    | (with_reducible apply Keep.upd; with_reducible assumption)
    | split
    | dsimp only

theorem State.enterIsolated_keep {s0 : State} {s : State} (kp : Keep s0 s) : Keep s0 (State.enterIsolated s) := by
  unfold State.enterIsolated
  repeat' first
    | with_reducible assumption
    | (intro x; first | (refine (have hx : Keep s0 x := ?_; ?_); dsimp only [x]) | subst x | skip)
    | lift_lets
    | with_reducible apply State.abandonTrees_keep
    | with_reducible apply State.noParent_keep
    | with_reducible apply State.refresh_keep
    | with_reducible apply State.wr_keep
    | (with_reducible apply Keep.upd; with_reducible assumption)
    | split
    | dsimp only

theorem State.noteManagerLink_keep {s0 : State} {s : State} {n : Nat} (kp : Keep s0 s) :
    Keep s0 (State.noteManagerLink s n) := by
  unfold State.noteManagerLink
  repeat' first
    | with_reducible assumption
    | (with_reducible apply Keep.upd; with_reducible assumption)
    | split

theorem State.noteManagerBack_keep {s0 : State} {s : State} {n : Nat} (kp : Keep s0 s) :
    Keep s0 (State.noteManagerBack s n) := by
  unfold State.noteManagerBack
  repeat' first
    | with_reducible assumption
    | (with_reducible apply Keep.upd; with_reducible assumption)
    | split

theorem State.loseParent_keep {s0 : State} {s : State} (kp : Keep s0 s) : Keep s0 (State.loseParent s) := by
  unfold State.loseParent
  repeat' first
    | with_reducible assumption
    | with_reducible apply State.chooseParent_keep
    | with_reducible apply State.enterHoldover_keep
    | with_reducible apply State.enterMeasure_keep
    | with_reducible apply State.noParent_keep
    | with_reducible apply State.refresh_keep
    | split

theorem State.noteGen_keep {s0 : State} {s : State} {g : Nat} (kp : Keep s0 s) : Keep s0 (State.noteGen s g) := by
  unfold State.noteGen
  repeat' first
    | with_reducible assumption
    | (intro x; first | (refine (have hx : Keep s0 x := ?_; ?_); dsimp only [x]) | subst x | skip)
    | lift_lets
    | with_reducible apply State.flag_keep
    | with_reducible apply State.reportFault_keep
    | with_reducible apply State.wr_keep
    | (with_reducible apply Keep.upd; first | with_reducible assumption | with_reducible apply State.flag_keep | with_reducible apply State.reportFault_keep | with_reducible apply State.wr_keep | with_reducible apply Keep.foldl)
    | with_reducible apply Keep.foldl
    | split
    | dsimp only

theorem State.selectTable_keep {s0 : State} {s : State} {t : Nat} (kp : Keep s0 s) :
    Keep s0 (State.selectTable s t) := by
  unfold State.selectTable
  repeat' first
    | with_reducible assumption
    | (intro x; first | (refine (have hx : Keep s0 x := ?_; ?_); dsimp only [x]) | subst x | skip)
    | lift_lets
    | with_reducible apply State.flag_keep
    | with_reducible apply State.wr_keep
    | (with_reducible apply Keep.upd; with_reducible assumption)
    | split
    | dsimp only

theorem State.checkCable_keep {s0 : State} {s : State} {n : Nat} (kp : Keep s0 s) : Keep s0 (State.checkCable s n) := by
  unfold State.checkCable
  repeat' first
    | with_reducible assumption
    | with_reducible apply State.flag_keep
    | split

theorem State.checkCables_keep {s0 : State} {s : State} (kp : Keep s0 s) : Keep s0 (State.checkCables s) := by
  unfold State.checkCables
  repeat' first
    | with_reducible assumption
    | (intro x; first | (refine (have hx : Keep s0 x := ?_; ?_); dsimp only [x]) | subst x | skip)
    | lift_lets
    | with_reducible apply State.checkCable_keep
    | (with_reducible apply Keep.upd; first | with_reducible assumption | with_reducible apply State.checkCable_keep | with_reducible apply Keep.foldl)
    | with_reducible apply Keep.foldl
    | split
    | dsimp only

theorem State.reachReady_keep {s0 : State} {s : State} (h : Keep s0 s) : Keep s0 (State.reachReady s) := by
  unfold State.reachReady
  split
  · have hx : Keep s0 ((s.wr Reg.FW_STAT_STAGE 8).wr Reg.SC_STAT_SVN_PEND 0) := State.wr_keep (State.wr_keep h)
    refine ⟨hx.queue, hx.mem, ⟨?_, ?_, h.fuses.mark, h.fuses.revoked, h.fuses.dies, h.fuses.serial, h.fuses.grade,
      h.fuses.capacity⟩⟩
    · exact Nat.le_trans h.fuses.fwSvn (Nat.le_max_left ..)
    · exact Nat.le_trans h.fuses.cfgSvn (Nat.le_max_left ..)
  · exact h

theorem State.tryRun_keep {s0 : State} {s : State} {formation : Bool} (kp : Keep s0 s) :
    Keep s0 (State.tryRun s formation) := by
  unfold State.tryRun
  repeat' first
    | with_reducible assumption
    | (intro x; first | (refine (have hx : Keep s0 x := ?_; ?_); dsimp only [x]) | subst x | skip)
    | lift_lets
    | with_reducible apply State.checkCables_keep
    | with_reducible apply State.flag_keep
    | with_reducible apply State.reachReady_keep
    | with_reducible apply State.refresh_keep
    | with_reducible apply State.wr_keep
    | (with_reducible apply Keep.upd; with_reducible assumption)
    | split
    | dsimp only

theorem State.declareEpoch_keep {s0 : State} {s : State} (kp : Keep s0 s) : Keep s0 (State.declareEpoch s) := by
  unfold State.declareEpoch
  repeat' first
    | with_reducible assumption
    | (intro x; first | (refine (have hx : Keep s0 x := ?_; ?_); dsimp only [x]) | subst x | skip)
    | lift_lets
    | with_reducible apply State.floodCtl_keep
    | with_reducible apply State.selectTable_keep
    | with_reducible apply State.wr_keep
    | (with_reducible apply Keep.upd; with_reducible assumption)
    | split
    | dsimp only

theorem State.renegotiate_keep {s0 : State} {s : State} (kp : Keep s0 s) : Keep s0 (State.renegotiate s) := by
  unfold State.renegotiate
  repeat' first
    | with_reducible assumption
    | (intro x; first | (refine (have hx : Keep s0 x := ?_; ?_); dsimp only [x]) | subst x | skip)
    | lift_lets
    | with_reducible apply State.floodCtl_keep
    | with_reducible apply State.selectTable_keep
    | (with_reducible apply Keep.upd; with_reducible assumption)
    | split
    | dsimp only

theorem State.tryDeclare_keep {s0 : State} {s : State} (kp : Keep s0 s) : Keep s0 (State.tryDeclare s) := by
  unfold State.tryDeclare
  repeat' first
    | with_reducible assumption
    | (intro x; first | (refine (have hx : Keep s0 x := ?_; ?_); dsimp only [x]) | subst x | skip)
    | lift_lets
    | with_reducible apply State.declareEpoch_keep
    | split

theorem State.setNow_keep {s0 : State} {s : State} {new : Nat} (kp : Keep s0 s) : Keep s0 (State.setNow s new) := by
  unfold State.setNow
  repeat' first
    | with_reducible assumption
    | (with_reducible apply Keep.upd; with_reducible assumption)
    | split

theorem State.startRoot_keep {s0 : State} {s : State} {at_ : Nat} (kp : Keep s0 s) :
    Keep s0 (State.startRoot s at_) := by
  unfold State.startRoot
  repeat' first
    | with_reducible assumption
    | (intro x; first | (refine (have hx : Keep s0 x := ?_; ?_); dsimp only [x]) | subst x | skip)
    | lift_lets
    | with_reducible apply State.noParent_keep
    | with_reducible apply State.refresh_keep
    | with_reducible apply State.setNow_keep
    | with_reducible apply State.tryDeclare_keep
    | with_reducible apply State.wr_keep
    | (with_reducible apply Keep.upd; with_reducible assumption)
    | split
    | dsimp only

theorem execAtStart_keep {s0 : State} {s : State} (kp : Keep s0 s) : Res.All (Keep s0) (execAtStart s) := by
  unfold execAtStart
  repeat' first
    | with_reducible assumption
    | with_reducible exact Res.All.fault
    | with_reducible apply Res.All.next
    | with_reducible apply State.enterMeasure_keep
    | with_reducible apply State.startRoot_keep
    | (with_reducible apply Keep.upd; with_reducible assumption)
    | split

theorem State.capturePps_keep {s0 : State} {s : State} {frac : Nat} (kp : Keep s0 s) :
    Keep s0 (State.capturePps s frac) := by
  unfold State.capturePps
  repeat' first
    | with_reducible assumption
    | with_reducible apply State.wr_keep
    | split

theorem execPpsEdge_keep {s0 : State} {frac : BitVec 16} {ref10 : Bool} {s : State} (kp : Keep s0 s) :
    Res.All (Keep s0) (execPpsEdge frac ref10 s) := by
  unfold execPpsEdge
  repeat' first
    | with_reducible assumption
    | (intro x; first | (refine (have hx : Keep s0 x := ?_; ?_); dsimp only [x]) | subst x | skip)
    | lift_lets
    | with_reducible exact Res.All.fault
    | with_reducible apply Res.All.next
    | with_reducible apply State.bump_keep
    | with_reducible apply State.capturePps_keep
    | with_reducible apply State.draw_keep
    | with_reducible apply State.flag_keep
    | with_reducible apply State.startRoot_keep
    | with_reducible apply State.wr_keep
    | (with_reducible apply Keep.upd; with_reducible assumption)
    | split
    | dsimp only

theorem execPpsTimeout_keep {s0 : State} {s : State} (kp : Keep s0 s) : Res.All (Keep s0) (execPpsTimeout s) := by
  unfold execPpsTimeout
  repeat' first
    | with_reducible assumption
    | (intro x; first | (refine (have hx : Keep s0 x := ?_; ?_); dsimp only [x]) | subst x | skip)
    | lift_lets
    | with_reducible exact Res.All.fault
    | with_reducible apply Res.All.next
    | with_reducible apply State.wr_keep
    | (with_reducible apply Keep.upd; with_reducible assumption)
    | split
    | dsimp only

theorem execRef10Loss_keep {s0 : State} {s : State} (kp : Keep s0 s) : Res.All (Keep s0) (execRef10Loss s) := by
  unfold execRef10Loss
  repeat' first
    | with_reducible assumption
    | (intro x; first | (refine (have hx : Keep s0 x := ?_; ?_); dsimp only [x]) | subst x | skip)
    | lift_lets
    | with_reducible exact Res.All.fault
    | with_reducible apply Res.All.next
    | with_reducible apply State.wr_keep
    | (with_reducible apply Keep.upd; with_reducible assumption)
    | split
    | dsimp only

theorem execPpsOut_keep {s0 : State} {s : State} (kp : Keep s0 s) : Res.All (Keep s0) (execPpsOut s) := by
  unfold execPpsOut
  repeat' first
    | with_reducible assumption
    | with_reducible exact Res.All.fault
    | with_reducible apply Res.All.next
    | with_reducible apply State.emit_keep
    | split

theorem State.stepTime_keep {s0 : State} {s : State} {steps : Int} (kp : Keep s0 s) :
    Keep s0 (State.stepTime s steps) := by
  unfold State.stepTime
  repeat' first
    | with_reducible assumption
    | (intro x; first | (refine (have hx : Keep s0 x := ?_; ?_); dsimp only [x]) | subst x | skip)
    | lift_lets
    | with_reducible apply State.setNow_keep
    | (with_reducible apply Keep.upd; with_reducible assumption)
    | split
    | dsimp only

theorem State.reachReadyIf_keep {s0 : State} {s : State} (kp : Keep s0 s) : Keep s0 (State.reachReadyIf s) := by
  unfold State.reachReadyIf
  repeat' first
    | with_reducible assumption
    | with_reducible apply State.reachReady_keep
    | split

theorem State.parentWindow_keep {s0 : State} {s : State} {theta : Int} {freq : Int} (kp : Keep s0 s) :
    Keep s0 (State.parentWindow s theta freq) := by
  unfold State.parentWindow
  repeat' first
    | with_reducible assumption
    | (intro x; first | (refine (have hx : Keep s0 x := ?_; ?_); dsimp only [x]) | subst x | skip)
    | lift_lets
    | with_reducible apply State.enterIsolated_keep
    | with_reducible apply State.flag_keep
    | with_reducible apply State.noteGen_keep
    | with_reducible apply State.openFault_keep
    | with_reducible apply State.reachReadyIf_keep
    | with_reducible apply State.refresh_keep
    | with_reducible apply State.sendRoot_keep
    | with_reducible apply State.stepTime_keep
    | with_reducible apply State.tryRun_keep
    | with_reducible apply State.wr_keep
    | (with_reducible apply Keep.upd; with_reducible assumption)
    | split
    | dsimp only

theorem execTimeWindow_keep {s0 : State} {link : LinkId} {freq : Int} {s : State} (kp : Keep s0 s) :
    Res.All (Keep s0) (execTimeWindow link freq s) := by
  unfold execTimeWindow
  repeat' first
    | with_reducible assumption
    | (intro x; first | (refine (have hx : Keep s0 x := ?_; ?_); dsimp only [x]) | subst x | skip)
    | lift_lets
    | with_reducible exact Res.All.fault
    | with_reducible apply Res.All.next
    | with_reducible apply State.checkCable_keep
    | with_reducible apply State.chooseParent_keep
    | with_reducible apply State.loseParent_keep
    | with_reducible apply State.modLink_keep
    | with_reducible apply State.parentWindow_keep
    | with_reducible apply State.wr_keep
    | (with_reducible apply Keep.upd; with_reducible assumption)
    | split
    | dsimp only

theorem execLockAchieved_keep {s0 : State} {s : State} (kp : Keep s0 s) : Res.All (Keep s0) (execLockAchieved s) := by
  unfold execLockAchieved
  repeat' first
    | with_reducible assumption
    | (intro x; first | (refine (have hx : Keep s0 x := ?_; ?_); dsimp only [x]) | subst x | skip)
    | lift_lets
    | with_reducible exact Res.All.fault
    | with_reducible apply Res.All.next
    | with_reducible apply State.wr_keep
    | (with_reducible apply Keep.upd; with_reducible assumption)
    | split
    | dsimp only

theorem execLockTimeout_keep {s0 : State} {s : State} (kp : Keep s0 s) : Res.All (Keep s0) (execLockTimeout s) := by
  unfold execLockTimeout
  repeat' first
    | with_reducible assumption
    | with_reducible exact Res.All.fault
    | with_reducible apply Res.All.next
    | with_reducible apply State.enterMeasure_keep
    | split

theorem State.noteSilence_keep {s0 : State} {s : State} (kp : Keep s0 s) : Keep s0 (State.noteSilence s) := by
  unfold State.noteSilence
  repeat' first
    | with_reducible assumption
    | (intro x; first | (refine (have hx : Keep s0 x := ?_; ?_); dsimp only [x]) | subst x | skip)
    | lift_lets
    | with_reducible apply State.noteManagerLink_keep
    | (with_reducible apply Keep.upd; first | with_reducible assumption | with_reducible apply State.noteManagerLink_keep | with_reducible apply Keep.foldl)
    | with_reducible apply Keep.foldl
    | split
    | dsimp only

theorem execParentLossTimeout_keep {s0 : State} {s : State} (kp : Keep s0 s) :
    Res.All (Keep s0) (execParentLossTimeout s) := by
  unfold execParentLossTimeout
  repeat' first
    | with_reducible assumption
    | (intro x; first | (refine (have hx : Keep s0 x := ?_; ?_); dsimp only [x]) | subst x | skip)
    | lift_lets
    | with_reducible exact Res.All.fault
    | with_reducible apply Res.All.next
    | with_reducible apply State.loseParent_keep
    | with_reducible apply State.noteSilence_keep
    | split

theorem execHoldoverTimeout_keep {s0 : State} {estErr : BitVec 8} {s : State} (kp : Keep s0 s) :
    Res.All (Keep s0) (execHoldoverTimeout estErr s) := by
  unfold execHoldoverTimeout
  repeat' first
    | with_reducible assumption
    | (intro x; first | (refine (have hx : Keep s0 x := ?_; ?_); dsimp only [x]) | subst x | skip)
    | lift_lets
    | with_reducible exact Res.All.fault
    | with_reducible apply Res.All.next
    | with_reducible apply State.enterIsolated_keep
    | with_reducible apply State.flag_keep
    | with_reducible apply State.openFault_keep
    | (with_reducible apply Keep.upd; with_reducible assumption)
    | split
    | dsimp only

theorem State.managerLost_keep {s0 : State} {s : State} (kp : Keep s0 s) : Keep s0 (State.managerLost s) := by
  unfold State.managerLost
  repeat' first
    | with_reducible assumption
    | (intro x; first | (refine (have hx : Keep s0 x := ?_; ?_); dsimp only [x]) | subst x | skip)
    | lift_lets
    | with_reducible apply State.endVisibly_keep
    | with_reducible apply State.logRec_keep
    | with_reducible apply State.openFault_keep
    | with_reducible apply State.wr_keep
    | split

theorem State.takeover_keep {s0 : State} {s : State} (kp : Keep s0 s) : Keep s0 (State.takeover s) := by
  unfold State.takeover
  repeat' first
    | with_reducible assumption
    | (intro x; first | (refine (have hx : Keep s0 x := ?_; ?_); dsimp only [x]) | subst x | skip)
    | lift_lets
    | with_reducible apply State.managerLost_keep
    | with_reducible apply State.noParent_keep
    | with_reducible apply State.noteGen_keep
    | with_reducible apply State.refresh_keep
    | with_reducible apply State.wr_keep
    | (with_reducible apply Keep.upd; with_reducible assumption)
    | split
    | dsimp only

theorem execRootLossTimeout_keep {s0 : State} {s : State} (kp : Keep s0 s) :
    Res.All (Keep s0) (execRootLossTimeout s) := by
  unfold execRootLossTimeout
  repeat' first
    | with_reducible assumption
    | with_reducible exact Res.All.fault
    | with_reducible apply Res.All.next
    | with_reducible apply State.takeover_keep
    | split

theorem execReady_keep {s0 : State} {msg : MsgId} {native : BitVec 8} {tables : List (BitVec 8)} {s : State} (kp :
    Keep s0 s) : Res.All (Keep s0) (execReady msg native tables s) := by
  unfold execReady
  repeat' first
    | with_reducible assumption
    | (intro x; first | (refine (have hx : Keep s0 x := ?_; ?_); dsimp only [x]) | subst x | skip)
    | lift_lets
    | with_reducible exact Res.All.fault
    | with_reducible apply Res.All.next
    | with_reducible apply State.takeMsg_keep
    | with_reducible apply State.tryDeclare_keep
    | (with_reducible apply Keep.upd; with_reducible assumption)
    | split
    | dsimp only

theorem execFormationTimeout_keep {s0 : State} {s : State} (kp : Keep s0 s) :
    Res.All (Keep s0) (execFormationTimeout s) := by
  unfold execFormationTimeout
  repeat' first
    | with_reducible assumption
    | with_reducible exact Res.All.fault
    | with_reducible apply Res.All.next
    | with_reducible apply State.declareEpoch_keep
    | split

theorem State.acceptEpoch_keep {s0 : State} {s : State} {r : EpochRec} (kp : Keep s0 s) :
    Keep s0 (State.acceptEpoch s r) := by
  unfold State.acceptEpoch
  repeat' first
    | with_reducible assumption
    | (intro x; first | (refine (have hx : Keep s0 x := ?_; ?_); dsimp only [x]) | subst x | skip)
    | lift_lets
    | with_reducible apply State.floodCtl_keep
    | with_reducible apply State.noteGen_keep
    | with_reducible apply State.reachReady_keep
    | with_reducible apply State.selectTable_keep
    | with_reducible apply State.tryRun_keep
    | with_reducible apply State.wr_keep
    | (with_reducible apply Keep.upd; with_reducible assumption)
    | split
    | dsimp only

theorem execEpochRecord_keep {s0 : State} {_link : LinkId} {rc : EpochRec} {s : State} (kp : Keep s0 s) :
    Res.All (Keep s0) (execEpochRecord _link rc s) := by
  unfold execEpochRecord
  repeat' first
    | with_reducible assumption
    | with_reducible exact Res.All.fault
    | with_reducible apply Res.All.next
    | with_reducible apply State.acceptEpoch_keep
    | split

theorem execEpochStart_keep {s0 : State} {s : State} (kp : Keep s0 s) : Res.All (Keep s0) (execEpochStart s) := by
  unfold execEpochStart
  repeat' first
    | with_reducible assumption
    | with_reducible exact Res.All.fault
    | with_reducible apply Res.All.next
    | with_reducible apply State.checkCables_keep
    | with_reducible apply State.reachReady_keep
    | with_reducible apply State.refresh_keep
    | with_reducible apply State.tryRun_keep
    | with_reducible apply State.wr_keep
    | split

theorem State.treeArrived_keep {s0 : State} {s : State} {n : Nat} {t : TreeField} (kp : Keep s0 s) :
    Keep s0 (State.treeArrived s n t) := by
  unfold State.treeArrived
  repeat' first
    | with_reducible assumption
    | (intro x; first | (refine (have hx : Keep s0 x := ?_; ?_); dsimp only [x]) | subst x | skip)
    | lift_lets
    | with_reducible apply State.chooseParent_keep
    | with_reducible apply State.enterHoldover_keep
    | with_reducible apply State.enterIsolated_keep
    | with_reducible apply State.loseParent_keep
    | with_reducible apply State.modLink_keep
    | with_reducible apply State.noteGen_keep
    | with_reducible apply State.queueCtl_keep
    | with_reducible apply State.refresh_keep
    | (with_reducible apply Keep.upd; with_reducible assumption)
    | split
    | dsimp only

end Sys2Proof.Machine
end

