-- ==== Sys2Proof/Laws/Keep/Steps.lean ====
section
/-! SUPPORT. What the operations of `Machine/Steps.lean` keep: the queue, the canonical form of memory, the fuses. -/

namespace Sys2Proof.Machine

theorem State.useMark_keep {s0 : State} {s : State} {r : MarkRef} (h : Keep s0 s) : Keep s0 (State.useMark s r) := by
  cases r with
  | harvest m i => exact Keep.upd _ h ..
  | spool m t sp i =>
    simp only [State.useMark]
    split
    · exact Keep.upd _ h ..
    · exact h

theorem State.useMarks_keep {s0 : State} {s : State} {k : Nat} (kp : Keep s0 s) : Keep s0 (State.useMarks s k) := by
  unfold State.useMarks
  repeat' first
    | with_reducible assumption
    | (intro x; first | (refine (have hx : Keep s0 x := ?_; ?_); dsimp only [x]) | subst x | skip)
    | lift_lets
    | with_reducible apply State.useMark_keep
    | (with_reducible apply Keep.upd; first | with_reducible assumption | with_reducible apply State.useMark_keep | with_reducible apply Keep.foldl)
    | with_reducible apply Keep.foldl
    | split
    | dsimp only

theorem State.clearFlags_keep {s0 : State} {s : State} {k : Nat} (kp : Keep s0 s) : Keep s0 (State.clearFlags s k) := by
  unfold State.clearFlags
  repeat' first
    | with_reducible assumption
    | (intro x; first | (refine (have hx : Keep s0 x := ?_; ?_); dsimp only [x]) | subst x | skip)
    | lift_lets
    | with_reducible apply State.mapTiles_keep
    | with_reducible apply State.notePool_keep
    | (with_reducible apply Keep.upd; with_reducible assumption)
    | split
    | dsimp only

theorem State.syncRound_keep {s0 : State} {s : State} {k : Nat} (kp : Keep s0 s) : Keep s0 (State.syncRound s k) := by
  unfold State.syncRound
  repeat' first
    | with_reducible assumption
    | (with_reducible apply Keep.upd; with_reducible assumption)
    | split

theorem execChipRoundComplete_keep {s0 : State} {tree : Fin 32} {s : State} (kp : Keep s0 s) :
    Res.All (Keep s0) (execChipRoundComplete tree s) := by
  unfold execChipRoundComplete
  repeat' first
    | with_reducible assumption
    | (intro x; first | (refine (have hx : Keep s0 x := ?_; ?_); dsimp only [x]) | subst x | skip)
    | lift_lets
    | with_reducible exact Res.All.fault
    | with_reducible apply Res.All.next
    | with_reducible apply State.clearFlags_keep
    | with_reducible apply State.endWaits_keep
    | with_reducible apply State.setTack_keep
    | with_reducible apply State.syncRound_keep
    | with_reducible apply State.useMarks_keep
    | (with_reducible apply Keep.upd; with_reducible assumption)
    | split
    | dsimp only

theorem execTackRailFault_keep {s0 : State} {tree : Fin 32} {s : State} (kp : Keep s0 s) :
    Res.All (Keep s0) (execTackRailFault tree s) := by
  unfold execTackRailFault
  repeat' first
    | with_reducible assumption
    | with_reducible exact Res.All.fault
    | with_reducible apply Res.All.next
    | with_reducible apply State.flag_keep
    | with_reducible apply State.openFault_keep
    | with_reducible apply State.setTack_keep
    | split

theorem execCountHoldEnd_keep {s0 : State} {s : State} (kp : Keep s0 s) : Res.All (Keep s0) (execCountHoldEnd s) := by
  unfold execCountHoldEnd
  repeat' first
    | with_reducible assumption
    | with_reducible exact Res.All.fault
    | with_reducible apply Res.All.next
    | (with_reducible apply Keep.upd; with_reducible assumption)
    | split

theorem execLendEntry_keep {s0 : State} {tile : TileId} {s : State} (kp : Keep s0 s) :
    Res.All (Keep s0) (execLendEntry tile s) := by
  unfold execLendEntry
  repeat' first
    | with_reducible assumption
    | with_reducible exact Res.All.fault
    | with_reducible apply Res.All.next
    | with_reducible apply State.notePool_keep
    | with_reducible apply State.setTile_keep
    | split

theorem State.releaseChip_keep {s0 : State} {s : State} {h : Nat} (kp : Keep s0 s) :
    Keep s0 (State.releaseChip s h) := by
  unfold State.releaseChip
  repeat' first
    | with_reducible assumption
    | (intro x; first | (refine (have hx : Keep s0 x := ?_; ?_); dsimp only [x]) | subst x | skip)
    | lift_lets
    | with_reducible apply State.clearFlags_keep
    | with_reducible apply State.setTack_keep
    | split

theorem State.logDecision_keep {s0 : State} {s : State} {d : Decision} (kp : Keep s0 s) :
    Keep s0 (State.logDecision s d) := by
  unfold State.logDecision
  repeat' first
    | with_reducible assumption
    | (with_reducible apply Keep.upd; with_reducible assumption)
    | split

theorem State.noteRound_keep {s0 : State} {s : State} {h : Nat} {parity : Bool} (kp : Keep s0 s) :
    Keep s0 (State.noteRound s h parity) := by
  unfold State.noteRound
  repeat' first
    | with_reducible assumption
    | (intro x; first | (refine (have hx : Keep s0 x := ?_; ?_); dsimp only [x]) | subst x | skip)
    | lift_lets
    | with_reducible apply State.wr_keep
    | (with_reducible apply Keep.upd; with_reducible assumption)
    | split
    | dsimp only

theorem State.lateRelease_keep {s0 : State} {s : State} {h : Nat} (kp : Keep s0 s) :
    Keep s0 (State.lateRelease s h) := by
  unfold State.lateRelease
  repeat' first
    | with_reducible assumption
    | with_reducible apply State.flag_keep
    | with_reducible apply State.openFault_keep
    | with_reducible apply State.wr_keep
    | split

theorem State.acceptRelease_keep {s0 : State} {s : State} {r : ReleaseRec} (kp : Keep s0 s) :
    Keep s0 (State.acceptRelease s r) := by
  unfold State.acceptRelease
  repeat' first
    | with_reducible assumption
    | (intro x; first | (refine (have hx : Keep s0 x := ?_; ?_); dsimp only [x]) | subst x | skip)
    | lift_lets
    | with_reducible apply State.flag_keep
    | with_reducible apply State.floodRec_keep
    | with_reducible apply State.lateRelease_keep
    | with_reducible apply State.logDecision_keep
    | with_reducible apply State.noteRound_keep
    | with_reducible apply State.releaseChip_keep
    | with_reducible apply State.wr_keep
    | (with_reducible apply Keep.upd; with_reducible assumption)
    | split
    | dsimp only

theorem execReleaseRecord_keep {s0 : State} {_link : LinkId} {rc : ReleaseRec} {s : State} (kp : Keep s0 s) :
    Res.All (Keep s0) (execReleaseRecord _link rc s) := by
  unfold execReleaseRecord
  repeat' first
    | with_reducible assumption
    | with_reducible exact Res.All.fault
    | with_reducible apply Res.All.next
    | with_reducible apply State.acceptRelease_keep
    | split

theorem State.acceptResume_keep {s0 : State} {s : State} {r : GridRec} (kp : Keep s0 s) :
    Keep s0 (State.acceptResume s r) := by
  unfold State.acceptResume
  repeat' first
    | with_reducible assumption
    | (intro x; first | (refine (have hx : Keep s0 x := ?_; ?_); dsimp only [x]) | subst x | skip)
    | lift_lets
    | with_reducible apply State.flag_keep
    | with_reducible apply State.floodRec_keep
    | with_reducible apply State.openFault_keep
    | (with_reducible apply Keep.upd; with_reducible assumption)
    | split
    | dsimp only

theorem State.acceptAbort_keep {s0 : State} {s : State} {r : GridRec} (kp : Keep s0 s) :
    Keep s0 (State.acceptAbort s r) := by
  unfold State.acceptAbort
  repeat' first
    | with_reducible assumption
    | (intro x; first | (refine (have hx : Keep s0 x := ?_; ?_); dsimp only [x]) | subst x | skip)
    | lift_lets
    | with_reducible apply State.floodRec_keep
    | (with_reducible apply Keep.upd; with_reducible assumption)
    | split
    | dsimp only

theorem State.sendRelease_keep {s0 : State} {s : State} {h : Fin 8} {commit start : Bool} (kp : Keep s0 s) :
    Keep s0 (State.sendRelease s h commit start) := by
  unfold State.sendRelease
  repeat' first
    | with_reducible assumption
    | with_reducible apply State.acceptRelease_keep
    | split

theorem State.commitDecision_keep {s0 : State} {s : State} (kp : Keep s0 s) : Keep s0 (State.commitDecision s).2 := by
  unfold State.commitDecision
  repeat' first
    | with_reducible assumption
    | with_reducible apply State.wr_keep
    | split

theorem execHallRoundComplete_keep {s0 : State} {h : Fin 8} {s : State} (kp : Keep s0 s) :
    Res.All (Keep s0) (execHallRoundComplete h s) := by
  unfold execHallRoundComplete
  repeat' first
    | with_reducible assumption
    | with_reducible exact Res.All.fault
    | with_reducible apply Res.All.next
    | with_reducible apply State.acceptResume_keep
    | with_reducible apply State.commitDecision_keep
    | with_reducible apply State.sendRelease_keep
    | split

end Sys2Proof.Machine
end

