-- ==== Sys2Proof/Laws/Keep/Spools.lean ====
section
/-! SUPPORT. What the operations of `Machine/Spools.lean` keep: the queue, the canonical form of memory, the fuses. -/

namespace Sys2Proof.Machine

theorem State.setStream_keep {s0 : State} {s : State} {t k : Nat} {x : StreamSt} (kp : Keep s0 s) :
    Keep s0 (State.setStream s t k x) := by
  unfold State.setStream
  repeat' first
    | with_reducible assumption
    | (with_reducible apply Keep.upd; with_reducible assumption)
    | split

theorem State.wakeNext_keep {s0 : State} {s : State} {p k : Nat} (kp : Keep s0 s) : Keep s0 (State.wakeNext s p k) := by
  unfold State.wakeNext
  repeat' first
    | with_reducible assumption
    | (with_reducible apply Keep.upd; with_reducible assumption)
    | split

theorem emitWords_keep {s0 : State} {src dest k n : Nat} {ws : List SpoolWord} {s : State} (h : Keep s0 s) :
    Keep s0 (emitWords src dest k n ws s) := by
  induction n generalizing ws s with
  | zero => exact h
  | succ n ih =>
    simp only [emitWords]
    split
    · exact h
    · exact ih (State.emit_keep h)

theorem State.emitCredit_keep {s0 : State} {s : State} {src dest k n : Nat} (kp : Keep s0 s) :
    Keep s0 (State.emitCredit s src dest k n) := by
  unfold State.emitCredit
  repeat' first
    | with_reducible assumption
    | with_reducible apply State.emit_keep
    | split

theorem State.sendSpool_keep {s0 : State} {s : State} {p k : Nat} (kp : Keep s0 s) :
    Keep s0 (State.sendSpool s p k) := by
  unfold State.sendSpool
  repeat' first
    | with_reducible assumption
    | (intro x; first | (refine (have hx : Keep s0 x := ?_; ?_); dsimp only [x]) | subst x | skip)
    | lift_lets
    | with_reducible apply State.modTile_keep
    | with_reducible apply State.wakeNext_keep
    | with_reducible apply emitWords_keep
    | split

theorem pushMore_keep {s0 : State} {p : Nat} {iw : Word64} {n : Nat} {s : State} (h : Keep s0 s) :
    Keep s0 (pushMore p iw n s) := by
  induction n generalizing s with
  | zero => exact h
  | succ n ih =>
    simp only [pushMore]
    split
    · exact h
    · exact ih (State.sendSpool_keep (State.setTile_keep h))

theorem State.touchStream_keep {s0 : State} {s : State} {t k : Nat} (kp : Keep s0 s) :
    Keep s0 (State.touchStream s t k) := by
  unfold State.touchStream
  repeat' first
    | with_reducible assumption
    | with_reducible apply State.setStream_keep
    | split

theorem State.pushOn_keep {s0 : State} {s : State} {p : Nat} {iw : Word64} (kp : Keep s0 s) :
    Keep s0 (State.pushOn s p iw) := by
  unfold State.pushOn
  repeat' first
    | with_reducible assumption
    | (intro x; first | (refine (have hx : Keep s0 x := ?_; ?_); dsimp only [x]) | subst x | skip)
    | lift_lets
    | with_reducible apply State.touchStream_keep
    | with_reducible apply pushMore_keep
    | split

theorem State.clearPush_keep {s0 : State} {s : State} {p k : Nat} (kp : Keep s0 s) :
    Keep s0 (State.clearPush s p k) := by
  unfold State.clearPush
  repeat' first
    | with_reducible assumption
    | with_reducible apply State.modTile_keep
    | split

theorem bodySpush_keep {s0 : State} {iw : Word64} {s : State} {p : Nat} (kp : Keep s0 s) :
    Issued.All (Keep s0) (bodySpush iw s p) := by
  unfold bodySpush
  repeat' first
    | with_reducible assumption
    | (intro x; first | (refine (have hx : Keep s0 x := ?_; ?_); dsimp only [x]) | subst x | skip)
    | lift_lets
    | with_reducible exact Issued.All.fault
    | with_reducible apply Issued.All.faultIn
    | with_reducible apply Issued.All.done
    | with_reducible apply Issued.All.goto
    | with_reducible apply Issued.All.stall
    | with_reducible apply Issued.All.seam
    | with_reducible apply State.clearPush_keep
    | with_reducible apply State.modTile_keep
    | with_reducible apply State.pushOn_keep
    | split

theorem execSpush_keep {s0 : State} {tile : TileId} {iw : Word64} {s : State} (kp : Keep s0 s) :
    Res.All (Keep s0) (execSpush tile iw s) := by
  unfold execSpush
  repeat' first
    | with_reducible assumption
    | with_reducible exact Res.All.fault
    | with_reducible apply Res.All.next
    | with_reducible apply bodySpush_keep
    | with_reducible apply issue_keep
    | split

theorem State.popWords_keep {s0 : State} {s : State} {p : Nat} {iw : Word64} (kp : Keep s0 s) :
    Keep s0 (State.popWords s p iw) := by
  unfold State.popWords
  repeat' first
    | with_reducible assumption
    | with_reducible apply State.emitCredit_keep
    | with_reducible apply State.setTile_keep
    | split

theorem bodySpop_keep {s0 : State} {iw : Word64} {s : State} {p : Nat} (kp : Keep s0 s) :
    Issued.All (Keep s0) (bodySpop iw s p) := by
  unfold bodySpop
  repeat' first
    | with_reducible assumption
    | (intro x; first | (refine (have hx : Keep s0 x := ?_; ?_); dsimp only [x]) | subst x | skip)
    | lift_lets
    | with_reducible exact Issued.All.fault
    | with_reducible apply Issued.All.faultIn
    | with_reducible apply Issued.All.done
    | with_reducible apply Issued.All.goto
    | with_reducible apply Issued.All.stall
    | with_reducible apply Issued.All.seam
    | with_reducible apply State.modTile_keep
    | with_reducible apply State.popWords_keep
    | with_reducible apply State.setTile_keep
    | split

theorem execSpop_keep {s0 : State} {tile : TileId} {iw : Word64} {s : State} (kp : Keep s0 s) :
    Res.All (Keep s0) (execSpop tile iw s) := by
  unfold execSpop
  repeat' first
    | with_reducible assumption
    | with_reducible exact Res.All.fault
    | with_reducible apply Res.All.next
    | with_reducible apply bodySpop_keep
    | with_reducible apply issue_keep
    | split

theorem bodySwait_keep {s0 : State} {iw : Word64} {s : State} {p : Nat} (kp : Keep s0 s) :
    Issued.All (Keep s0) (bodySwait iw s p) := by
  unfold bodySwait
  repeat' first
    | with_reducible assumption
    | (intro x; first | (refine (have hx : Keep s0 x := ?_; ?_); dsimp only [x]) | subst x | skip)
    | lift_lets
    | with_reducible exact Issued.All.fault
    | with_reducible apply Issued.All.faultIn
    | with_reducible apply Issued.All.done
    | with_reducible apply Issued.All.goto
    | with_reducible apply Issued.All.stall
    | with_reducible apply Issued.All.seam
    | with_reducible apply State.setTile_keep
    | split

theorem execSwait_keep {s0 : State} {tile : TileId} {iw : Word64} {s : State} (kp : Keep s0 s) :
    Res.All (Keep s0) (execSwait tile iw s) := by
  unfold execSwait
  repeat' first
    | with_reducible assumption
    | with_reducible exact Res.All.fault
    | with_reducible apply Res.All.next
    | with_reducible apply bodySwait_keep
    | with_reducible apply issue_keep
    | split

theorem State.spoolWake_keep {s0 : State} {s : State} {p k : Nat} (kp : Keep s0 s) :
    Keep s0 (State.spoolWake s p k) := by
  unfold State.spoolWake
  repeat' first
    | with_reducible assumption
    | (intro x; first | (refine (have hx : Keep s0 x := ?_; ?_); dsimp only [x]) | subst x | skip)
    | lift_lets
    | with_reducible apply State.clearPush_keep
    | with_reducible apply State.endWait_keep
    | with_reducible apply State.modTile_keep
    | with_reducible apply State.popWords_keep
    | with_reducible apply State.pushOn_keep
    | split

theorem State.wakeSpools_keep {s0 : State} {s : State} (kp : Keep s0 s) : Keep s0 (State.wakeSpools s) := by
  unfold State.wakeSpools
  repeat' first
    | with_reducible assumption
    | (intro x; first | (refine (have hx : Keep s0 x := ?_; ?_); dsimp only [x]) | subst x | skip)
    | lift_lets
    | with_reducible apply State.spoolWake_keep
    | (with_reducible apply Keep.upd; first | with_reducible assumption | with_reducible apply State.spoolWake_keep | with_reducible apply Keep.foldl)
    | with_reducible apply Keep.foldl
    | split
    | dsimp only

theorem spoolAt_keep {s0 : State} {q : Pkt} {row : Bool} {atTile atDie : State → Nat → State} {s : State} (kp : Keep
    s0 s) (hatTile : ∀ x0 x1, Keep s0 x0 → Keep s0 (atTile x0 x1)) (hatDie : ∀ x0 x1, Keep s0 x0 → Keep s0 (atDie x0 x1)) : Res.All (Keep s0) (spoolAt q row atTile atDie s) := by
  unfold spoolAt
  repeat' first
    | with_reducible assumption
    | with_reducible exact Res.All.fault
    | with_reducible apply Res.All.next
    | with_reducible apply State.dropPacket_keep
    | with_reducible apply State.takePacket_keep
    | with_reducible apply hatTile
    | with_reducible apply hatDie
    | split

theorem execSpoolData_keep {s0 : State} {pkt : Pkt} {s : State} (kp : Keep s0 s) :
    Res.All (Keep s0) (execSpoolData pkt s) := by
  unfold execSpoolData
  repeat' first
    | with_reducible assumption
    | (intro x; first | (refine (have hx : Keep s0 x := ?_; ?_); dsimp only [x]) | subst x | skip)
    | lift_lets
    | with_reducible exact Res.All.fault
    | with_reducible apply Res.All.next
    | with_reducible apply State.modTile_keep
    | with_reducible apply State.setStream_keep
    | with_reducible apply State.wakeNext_keep
    | with_reducible apply spoolAt_keep
    | split

theorem State.sendStream_keep {s0 : State} {s : State} {t k : Nat} (kp : Keep s0 s) :
    Keep s0 (State.sendStream s t k) := by
  unfold State.sendStream
  repeat' first
    | with_reducible assumption
    | with_reducible apply State.setStream_keep
    | with_reducible apply emitWords_keep
    | split

theorem execSpoolCredit_keep {s0 : State} {pkt : Pkt} {s : State} (kp : Keep s0 s) :
    Res.All (Keep s0) (execSpoolCredit pkt s) := by
  unfold execSpoolCredit
  repeat' first
    | with_reducible assumption
    | (intro x; first | (refine (have hx : Keep s0 x := ?_; ?_); dsimp only [x]) | subst x | skip)
    | lift_lets
    | with_reducible exact Res.All.fault
    | with_reducible apply Res.All.next
    | with_reducible apply State.modTile_keep
    | with_reducible apply State.sendSpool_keep
    | with_reducible apply State.sendStream_keep
    | with_reducible apply State.setStream_keep
    | with_reducible apply State.spoolWake_keep
    | with_reducible apply spoolAt_keep
    | split

theorem State.stopSpool_keep {s0 : State} {s : State} {p k : Nat} (kp : Keep s0 s) :
    Keep s0 (State.stopSpool s p k) := by
  unfold State.stopSpool
  repeat' first
    | with_reducible assumption
    | with_reducible apply State.modTile_keep
    | with_reducible apply State.spoolWake_keep
    | split

theorem execSpoolStopped_keep {s0 : State} {pkt : Pkt} {s : State} (kp : Keep s0 s) :
    Res.All (Keep s0) (execSpoolStopped pkt s) := by
  unfold execSpoolStopped
  repeat' first
    | with_reducible assumption
    | (intro x; first | (refine (have hx : Keep s0 x := ?_; ?_); dsimp only [x]) | subst x | skip)
    | lift_lets
    | with_reducible exact Res.All.fault
    | with_reducible apply Res.All.next
    | with_reducible apply State.stopSpool_keep
    | with_reducible apply spoolAt_keep
    | split

theorem State.bindSpools_keep {s0 : State} {s : State} {pos : Nat → Nat} {bs : List SpoolBind} (kp : Keep s0 s) :
    Keep s0 (State.bindSpools s pos bs) := by
  unfold State.bindSpools
  repeat' first
    | with_reducible assumption
    | (intro x; first | (refine (have hx : Keep s0 x := ?_; ?_); dsimp only [x]) | subst x | skip)
    | lift_lets
    | with_reducible apply State.modTile_keep
    | (with_reducible apply Keep.upd; first | with_reducible assumption | with_reducible apply State.modTile_keep | with_reducible apply Keep.foldl)
    | with_reducible apply Keep.foldl
    | split
    | dsimp only

end Sys2Proof.Machine
end

