-- ==== Sys2Proof/Laws/Keep/Streams.lean ====
section
/-! SUPPORT. What the operations of `Machine/Streams.lean` keep: the queue, the canonical form of memory, the fuses. -/

namespace Sys2Proof.Machine

theorem State.fetchLists_keep {s0 : State} {s : State} {env : MemEnv} {d : List Word64} (kp : Keep s0 s) :
    Keep s0 (State.fetchLists s env d).2 := by
  unfold State.fetchLists
  repeat' first
    | with_reducible assumption
    | with_reducible apply State.fetchMem_keep
    | split

theorem State.abandonEngine_keep {s0 : State} {s : State} {m : Nat} (kp : Keep s0 s) :
    Keep s0 (State.abandonEngine s m) := by
  unfold State.abandonEngine
  repeat' first
    | with_reducible assumption
    | (intro x; first | (refine (have hx : Keep s0 x := ?_; ?_); dsimp only [x]) | subst x | skip)
    | lift_lets
    | with_reducible apply State.abandonTree_keep
    | (with_reducible apply Keep.upd; first | with_reducible assumption | with_reducible apply State.abandonTree_keep | with_reducible apply Keep.foldl)
    | with_reducible apply Keep.foldl
    | split
    | dsimp only

theorem State.stopStream_keep {s0 : State} {s : State} {t k code : Nat} (kp : Keep s0 s) :
    Keep s0 (State.stopStream s t k code) := by
  unfold State.stopStream
  repeat' first
    | with_reducible assumption
    | with_reducible apply State.abandonEngine_keep
    | with_reducible apply State.emit_keep
    | with_reducible apply State.flag_keep
    | with_reducible apply State.openFault_keep
    | with_reducible apply State.setStream_keep
    | with_reducible apply State.wr_keep
    | split

theorem State.nextDesc_keep {s0 : State} {s : State} {t k : Nat} (kp : Keep s0 s) : Keep s0 (State.nextDesc s t k) := by
  unfold State.nextDesc
  repeat' first
    | with_reducible assumption
    | with_reducible apply State.setStream_keep
    | split

theorem State.startDesc_keep {s0 : State} {s : State} {env : MemEnv} {t k : Nat} {run : State → Nat → Nat → List
    Word64 → State} {d : List Word64} (kp : Keep s0 s) (hrun : ∀ x0 x1 x2 x3, Keep s0 x0 → Keep s0 (run x0 x1 x2 x3)) : Keep s0 (State.startDesc s env t k run d) := by
  unfold State.startDesc
  repeat' first
    | with_reducible assumption
    | (intro x; first | (refine (have hx : Keep s0 x := ?_; ?_); dsimp only [x]) | subst x | skip)
    | lift_lets
    | with_reducible apply State.fetchLists_keep
    | with_reducible apply State.setStream_keep
    | with_reducible apply State.stopStream_keep
    | with_reducible apply hrun
    | split

theorem streamRow_keep {s0 : State} {tile : TileId} {spool : Fin 4} {op : Nat} {env : MemEnv} {run : State → Nat →
    Nat → List Word64 → State} {s : State} (kp : Keep s0 s) (hrun : ∀ x0 x1 x2 x3, Keep s0 x0 → Keep s0 (run x0 x1 x2 x3)) : Res.All (Keep s0) (streamRow tile spool op env run s) := by
  unfold streamRow
  repeat' first
    | with_reducible assumption
    | (intro x; first | (refine (have hx : Keep s0 x := ?_; ?_); dsimp only [x]) | subst x | skip)
    | lift_lets
    | with_reducible exact Res.All.fault
    | with_reducible apply Res.All.next
    | with_reducible apply State.fetchMem_keep
    | with_reducible apply State.startDesc_keep
    | with_reducible apply hrun
    | split

theorem readRows_keep {s0 : State} {env : MemEnv} {n : Nat} {as : List Nat} {s : State} (h : Keep s0 s) :
    Keep s0 (readRows env n as s).2 := by
  induction as generalizing s with
  | nil => exact h
  | cons a as ih => exact ih (State.memRead_keep h)

theorem State.deliver_keep {s0 : State} {s : State} {t k : Nat} {ws : List SpoolWord} (kp : Keep s0 s) :
    Keep s0 (State.deliver s t k ws) := by
  unfold State.deliver
  repeat' first
    | with_reducible assumption
    | with_reducible apply State.sendStream_keep
    | with_reducible apply State.setStream_keep
    | split

theorem State.askExt_keep {s0 : State} {s : State} {d : List Word64} {a n : Nat} (kp : Keep s0 s) :
    Keep s0 (State.askExt s d a n) := by
  unfold State.askExt
  repeat' first
    | with_reducible assumption
    | with_reducible apply State.emit_keep
    | split

theorem State.askRows_keep {s0 : State} {s : State} {d : List Word64} (kp : Keep s0 s) :
    Keep s0 (State.askRows s d) := by
  unfold State.askRows
  repeat' first
    | with_reducible assumption
    | (intro x; first | (refine (have hx : Keep s0 x := ?_; ?_); dsimp only [x]) | subst x | skip)
    | lift_lets
    | with_reducible apply State.askExt_keep
    | (with_reducible apply Keep.upd; first | with_reducible assumption | with_reducible apply State.askExt_keep | with_reducible apply Keep.foldl)
    | with_reducible apply Keep.foldl
    | split
    | dsimp only

theorem runRd_keep {s0 : State} {env : MemEnv} {s : State} {t k : Nat} {d : List Word64} (kp : Keep s0 s) :
    Keep s0 (runRd env s t k d) := by
  unfold runRd
  repeat' first
    | with_reducible assumption
    | (intro x; first | (refine (have hx : Keep s0 x := ?_; ?_); dsimp only [x]) | subst x | skip)
    | lift_lets
    | with_reducible apply State.askRows_keep
    | with_reducible apply State.deliver_keep
    | with_reducible apply State.memRead_keep
    | with_reducible apply State.setStream_keep
    | with_reducible apply State.stopStream_keep
    | with_reducible apply readRows_keep
    | split

theorem execRd_keep {s0 : State} {tile : TileId} {spool : Fin 4} {env : MemEnv} {s : State} (kp : Keep s0 s) :
    Res.All (Keep s0) (execRd tile spool env s) := by
  unfold execRd
  repeat' first
    | with_reducible assumption
    | with_reducible exact Res.All.fault
    | with_reducible apply Res.All.next
    | with_reducible apply runRd_keep
    | with_reducible apply streamRow_keep
    | split

theorem runRdp_keep {s0 : State} {env : MemEnv} {s : State} {t k : Nat} {d : List Word64} (kp : Keep s0 s) :
    Keep s0 (runRdp env s t k d) := by
  unfold runRdp
  repeat' first
    | with_reducible assumption
    | (intro x; first | (refine (have hx : Keep s0 x := ?_; ?_); dsimp only [x]) | subst x | skip)
    | lift_lets
    | with_reducible apply State.deliver_keep
    | with_reducible apply State.setStream_keep
    | with_reducible apply readRows_keep
    | split

theorem execRdp_keep {s0 : State} {tile : TileId} {spool : Fin 4} {env : MemEnv} {s : State} (kp : Keep s0 s) :
    Res.All (Keep s0) (execRdp tile spool env s) := by
  unfold execRdp
  repeat' first
    | with_reducible assumption
    | with_reducible exact Res.All.fault
    | with_reducible apply Res.All.next
    | with_reducible apply runRdp_keep
    | with_reducible apply streamRow_keep
    | split

theorem State.tapWrite_keep {s0 : State} {s : State} {m a : Nat} {bs : List Byte} (kp : Keep s0 s) :
    Keep s0 (State.tapWrite s m a bs) := by
  unfold State.tapWrite
  repeat' first
    | with_reducible assumption
    | with_reducible apply State.modHv_keep
    | split

theorem State.writeOut_keep {s0 : State} {s : State} {m : Nat} {d : List Word64} {env : MemEnv} {a : Nat} {bs : List
    Byte} {bad : List Nat} (kp : Keep s0 s) : Keep s0 (State.writeOut s m d env a bs bad) := by
  unfold State.writeOut
  repeat' first
    | with_reducible assumption
    | with_reducible apply State.emit_keep
    | with_reducible apply State.memWrite_keep
    | with_reducible apply State.tapWrite_keep
    | split

theorem State.putTail_keep {s0 : State} {s : State} {t k : Nat} {env : MemEnv} {x : TailSt} (kp : Keep s0 s) :
    Keep s0 (State.putTail s t k env x) := by
  unfold State.putTail
  repeat' first
    | with_reducible assumption
    | with_reducible apply State.emitCredit_keep
    | with_reducible apply State.writeOut_keep
    | split

theorem State.flushTails_keep {s0 : State} {s : State} {t k : Nat} {env : MemEnv} (kp : Keep s0 s) :
    Keep s0 (State.flushTails s t k env) := by
  unfold State.flushTails
  repeat' first
    | with_reducible assumption
    | (intro x; first | (refine (have hx : Keep s0 x := ?_; ?_); dsimp only [x]) | subst x | skip)
    | lift_lets
    | with_reducible apply State.putTail_keep
    | with_reducible apply State.setStream_keep
    | (with_reducible apply Keep.upd; first | with_reducible assumption | with_reducible apply State.putTail_keep | with_reducible apply State.setStream_keep | with_reducible apply Keep.foldl)
    | with_reducible apply Keep.foldl
    | split
    | dsimp only

theorem State.takeBytes_keep {s0 : State} {s : State} {t k : Nat} {env : MemEnv} {a : Nat} {bs : List Byte} {bad :
    List Nat} {words : Nat} (kp : Keep s0 s) : Keep s0 (State.takeBytes s t k env a bs bad words) := by
  unfold State.takeBytes
  repeat' first
    | with_reducible assumption
    | (intro x; first | (refine (have hx : Keep s0 x := ?_; ?_); dsimp only [x]) | subst x | skip)
    | lift_lets
    | with_reducible apply State.putTail_keep
    | with_reducible apply State.setStream_keep
    | (with_reducible apply Keep.upd; first | with_reducible assumption | with_reducible apply State.putTail_keep | with_reducible apply State.setStream_keep | with_reducible apply Keep.foldl)
    | with_reducible apply Keep.foldl
    | split
    | dsimp only

theorem State.takeWord_keep {s0 : State} {s : State} {t k : Nat} {env : MemEnv} {w : SpoolWord} (kp : Keep s0 s) :
    Keep s0 (State.takeWord s t k env w) := by
  unfold State.takeWord
  repeat' first
    | with_reducible assumption
    | with_reducible apply State.flushTails_keep
    | with_reducible apply State.setStream_keep
    | with_reducible apply State.takeBytes_keep
    | split

theorem State.takeGroup_keep {s0 : State} {s : State} {t k : Nat} {env : MemEnv} {ws : List SpoolWord} (kp : Keep s0 s) :
    Keep s0 (State.takeGroup s t k env ws) := by
  unfold State.takeGroup
  repeat' first
    | with_reducible assumption
    | with_reducible apply State.emitCredit_keep
    | with_reducible apply State.flushTails_keep
    | with_reducible apply State.modMdie_keep
    | with_reducible apply State.setStream_keep
    | with_reducible apply State.takeBytes_keep
    | split

theorem drainWrite_keep {s0 : State} {t k : Nat} {env : MemEnv} {n : Nat} {s : State} (h : Keep s0 s) :
    Keep s0 (drainWrite t k env n s) := by
  induction n generalizing s with
  | zero => exact h
  | succ n ih =>
    simp only [drainWrite]
    repeat' split
    all_goals first
      | with_reducible exact h
      | with_reducible exact State.stopStream_keep h
      | with_reducible exact ih (State.takeGroup_keep h)
      | with_reducible exact ih (Keep.foldl _ _ _ h (fun _ _ hy => State.takeWord_keep hy))

theorem runWrite_keep {s0 : State} {env : MemEnv} {s : State} {t k : Nat} {d : List Word64} (kp : Keep s0 s) :
    Keep s0 (runWrite env s t k d) := by
  unfold runWrite
  repeat' first
    | with_reducible assumption
    | (intro x; first | (refine (have hx : Keep s0 x := ?_; ?_); dsimp only [x]) | subst x | skip)
    | lift_lets
    | with_reducible apply State.emit_keep
    | with_reducible apply State.stopStream_keep
    | with_reducible apply drainWrite_keep
    | split

theorem execWr_keep {s0 : State} {tile : TileId} {spool : Fin 4} {env : MemEnv} {s : State} (kp : Keep s0 s) :
    Res.All (Keep s0) (execWr tile spool env s) := by
  unfold execWr
  repeat' first
    | with_reducible assumption
    | with_reducible exact Res.All.fault
    | with_reducible apply Res.All.next
    | with_reducible apply runWrite_keep
    | with_reducible apply streamRow_keep
    | split

theorem execWrp_keep {s0 : State} {tile : TileId} {spool : Fin 4} {env : MemEnv} {s : State} (kp : Keep s0 s) :
    Res.All (Keep s0) (execWrp tile spool env s) := by
  unfold execWrp
  repeat' first
    | with_reducible assumption
    | with_reducible exact Res.All.fault
    | with_reducible apply Res.All.next
    | with_reducible apply runWrite_keep
    | with_reducible apply streamRow_keep
    | split

theorem runMark_keep {s0 : State} {s : State} {t k : Nat} {d : List Word64} (kp : Keep s0 s) :
    Keep s0 (runMark s t k d) := by
  unfold runMark
  repeat' first
    | with_reducible assumption
    | with_reducible apply State.nextDesc_keep
    | with_reducible apply State.setStream_keep
    | split

theorem execSpoolMark_keep {s0 : State} {tile : TileId} {spool : Fin 4} {env : MemEnv} {s : State} (kp : Keep s0 s) :
    Res.All (Keep s0) (execSpoolMark tile spool env s) := by
  unfold execSpoolMark
  repeat' first
    | with_reducible assumption
    | with_reducible exact Res.All.fault
    | with_reducible apply Res.All.next
    | with_reducible apply runMark_keep
    | with_reducible apply streamRow_keep
    | split

theorem execSpoolEnd_keep {s0 : State} {tile : TileId} {spool : Fin 4} {env : MemEnv} {s : State} (kp : Keep s0 s) :
    Res.All (Keep s0) (execSpoolEnd tile spool env s) := by
  unfold execSpoolEnd
  repeat' first
    | with_reducible assumption
    | (intro x; first | (refine (have hx : Keep s0 x := ?_; ?_); dsimp only [x]) | subst x | skip)
    | lift_lets
    | with_reducible exact Res.All.fault
    | with_reducible apply Res.All.next
    | with_reducible apply State.setStream_keep
    | with_reducible apply streamRow_keep
    | split

theorem execDescriptorComplete_keep {s0 : State} {tile : TileId} {spool : Fin 4} {s : State} (kp : Keep s0 s) :
    Res.All (Keep s0) (execDescriptorComplete tile spool s) := by
  unfold execDescriptorComplete
  repeat' first
    | with_reducible assumption
    | with_reducible exact Res.All.fault
    | with_reducible apply Res.All.next
    | with_reducible apply State.nextDesc_keep
    | (with_reducible apply Keep.upd; with_reducible assumption)
    | split

theorem execStaleTailFlush_keep {s0 : State} {tile : TileId} {spool : Fin 4} {env : MemEnv} {s : State} (kp : Keep s0
    s) : Res.All (Keep s0) (execStaleTailFlush tile spool env s) := by
  unfold execStaleTailFlush
  repeat' first
    | with_reducible assumption
    | with_reducible exact Res.All.fault
    | with_reducible apply Res.All.next
    | with_reducible apply State.flushTails_keep
    | with_reducible apply State.modMdie_keep
    | with_reducible apply State.stopStream_keep
    | split

theorem execStaleReadPeriod_keep {s0 : State} {tile : TileId} {spool : Fin 4} {s : State} (kp : Keep s0 s) :
    Res.All (Keep s0) (execStaleReadPeriod tile spool s) := by
  unfold execStaleReadPeriod
  repeat' first
    | with_reducible assumption
    | with_reducible exact Res.All.fault
    | with_reducible apply Res.All.next
    | with_reducible apply State.modMdie_keep
    | with_reducible apply State.modTile_keep
    | split

end Sys2Proof.Machine
end

