-- ==== Sys2Proof/Laws/Keep/Harvest.lean ====
section
/-! SUPPORT. What the operations of `Machine/Harvest.lean` keep: the queue, the canonical form of memory, the fuses. -/

namespace Sys2Proof.Machine

theorem State.harvestError_keep {s0 : State} {s : State} {m code tid : Nat} (kp : Keep s0 s) :
    Keep s0 (State.harvestError s m code tid) := by
  unfold State.harvestError
  repeat' first
    | with_reducible assumption
    | with_reducible apply State.flag_keep
    | with_reducible apply State.modHv_keep
    | with_reducible apply State.openFault_keep
    | with_reducible apply State.wr_keep
    | split

theorem State.nextCmd_keep {s0 : State} {s : State} {m : Nat} (kp : Keep s0 s) : Keep s0 (State.nextCmd s m) := by
  unfold State.nextCmd
  repeat' first
    | with_reducible assumption
    | with_reducible apply State.modHv_keep
    | split

theorem State.hvRead_keep {s0 : State} {s : State} {env : MemEnv} {m a n : Nat} (kp : Keep s0 s) :
    Keep s0 (State.hvRead s env m a n).2 := by
  unfold State.hvRead
  repeat' first
    | with_reducible assumption
    | (intro x; first | (refine (have hx : Keep s0 x := ?_; ?_); dsimp only [x]) | subst x | skip)
    | lift_lets
    | with_reducible apply State.memRead_keep
    | split

theorem harvestRow_keep {s0 : State} {m : Nat} {op : Nat} {env : MemEnv} {run : State → List Word64 → State} {s :
    State} (kp : Keep s0 s) (hrun : ∀ x0 x1, Keep s0 x0 → Keep s0 (run x0 x1)) : Res.All (Keep s0) (harvestRow m op env run s) := by
  unfold harvestRow
  repeat' first
    | with_reducible assumption
    | (intro x; first | (refine (have hx : Keep s0 x := ?_; ?_); dsimp only [x]) | subst x | skip)
    | lift_lets
    | with_reducible exact Res.All.fault
    | with_reducible apply Res.All.next
    | with_reducible apply State.harvestError_keep
    | with_reducible apply State.hvRead_keep
    | with_reducible apply hrun
    | split

theorem State.useDesc_keep {s0 : State} {s : State} {m t : Nat} {x : Except Nat (List Byte)} {f : State → List Word64
    → State} (kp : Keep s0 s) (hf : ∀ x0 x1, Keep s0 x0 → Keep s0 (f x0 x1)) : Keep s0 (State.useDesc s m t x f) := by
  unfold State.useDesc
  repeat' first
    | with_reducible assumption
    | (intro x; first | (refine (have hx : Keep s0 x := ?_; ?_); dsimp only [x]) | subst x | skip)
    | lift_lets
    | with_reducible apply State.harvestError_keep
    | with_reducible apply State.modHv_keep
    | with_reducible apply hf
    | split

theorem State.readDesc_keep {s0 : State} {s : State} {env : MemEnv} {m t : Nat} {f : State → List Word64 → State} (kp
    : Keep s0 s) (hf : ∀ x0 x1, Keep s0 x0 → Keep s0 (f x0 x1)) : Keep s0 (State.readDesc s env m t f) := by
  unfold State.readDesc
  repeat' first
    | with_reducible assumption
    | with_reducible apply State.hvRead_keep
    | with_reducible apply State.useDesc_keep
    | with_reducible apply hf
    | split

theorem State.skipFrozen_keep {s0 : State} {s : State} {m : Nat} (kp : Keep s0 s) : Keep s0 (State.skipFrozen s m) := by
  unfold State.skipFrozen
  repeat' first
    | with_reducible assumption
    | with_reducible apply State.modHv_keep
    | with_reducible apply State.nextCmd_keep
    | split

theorem execTap_keep {s0 : State} {m : Fin 2} {env : MemEnv} {s : State} (kp : Keep s0 s) :
    Res.All (Keep s0) (execTap m env s) := by
  unfold execTap
  repeat' first
    | with_reducible assumption
    | (intro x; first | (refine (have hx : Keep s0 x := ?_; ?_); dsimp only [x]) | subst x | skip)
    | lift_lets
    | with_reducible exact Res.All.fault
    | with_reducible apply Res.All.next
    | with_reducible apply State.harvestError_keep
    | with_reducible apply State.modHv_keep
    | with_reducible apply State.nextCmd_keep
    | with_reducible apply State.readDesc_keep
    | with_reducible apply harvestRow_keep
    | split

theorem execTouch_keep {s0 : State} {m : Fin 2} {env : MemEnv} {s : State} (kp : Keep s0 s) :
    Res.All (Keep s0) (execTouch m env s) := by
  unfold execTouch
  repeat' first
    | with_reducible assumption
    | (intro x; first | (refine (have hx : Keep s0 x := ?_; ?_); dsimp only [x]) | subst x | skip)
    | lift_lets
    | with_reducible exact Res.All.fault
    | with_reducible apply Res.All.next
    | with_reducible apply State.modHv_keep
    | with_reducible apply State.nextCmd_keep
    | with_reducible apply State.readDesc_keep
    | with_reducible apply State.skipFrozen_keep
    | with_reducible apply harvestRow_keep
    | split

theorem execSync_keep {s0 : State} {m : Fin 2} {env : MemEnv} {s : State} (kp : Keep s0 s) :
    Res.All (Keep s0) (execSync m env s) := by
  unfold execSync
  repeat' first
    | with_reducible assumption
    | (intro x; first | (refine (have hx : Keep s0 x := ?_; ?_); dsimp only [x]) | subst x | skip)
    | lift_lets
    | with_reducible exact Res.All.fault
    | with_reducible apply Res.All.next
    | with_reducible apply State.modHv_keep
    | with_reducible apply harvestRow_keep
    | split

theorem execHarvestMark_keep {s0 : State} {m : Fin 2} {env : MemEnv} {s : State} (kp : Keep s0 s) :
    Res.All (Keep s0) (execHarvestMark m env s) := by
  unfold execHarvestMark
  repeat' first
    | with_reducible assumption
    | (intro x; first | (refine (have hx : Keep s0 x := ?_; ?_); dsimp only [x]) | subst x | skip)
    | lift_lets
    | with_reducible exact Res.All.fault
    | with_reducible apply Res.All.next
    | with_reducible apply State.modHv_keep
    | with_reducible apply State.nextCmd_keep
    | with_reducible apply harvestRow_keep
    | split

theorem execHarvestEnd_keep {s0 : State} {m : Fin 2} {env : MemEnv} {s : State} (kp : Keep s0 s) :
    Res.All (Keep s0) (execHarvestEnd m env s) := by
  unfold execHarvestEnd
  repeat' first
    | with_reducible assumption
    | (intro x; first | (refine (have hx : Keep s0 x := ?_; ?_); dsimp only [x]) | subst x | skip)
    | lift_lets
    | with_reducible exact Res.All.fault
    | with_reducible apply Res.All.next
    | with_reducible apply State.modHv_keep
    | with_reducible apply harvestRow_keep
    | split

theorem execNoise_keep {s0 : State} {m : Fin 2} {env : MemEnv} {s : State} (kp : Keep s0 s) :
    Res.All (Keep s0) (execNoise m env s) := by
  unfold execNoise
  repeat' first
    | with_reducible assumption
    | (intro x; first | (refine (have hx : Keep s0 x := ?_; ?_); dsimp only [x]) | subst x | skip)
    | lift_lets
    | with_reducible exact Res.All.fault
    | with_reducible apply Res.All.next
    | with_reducible apply State.harvestError_keep
    | with_reducible apply State.hvRead_keep
    | with_reducible apply State.modHv_keep
    | with_reducible apply State.nextCmd_keep
    | with_reducible apply State.readDesc_keep
    | with_reducible apply State.skipFrozen_keep
    | with_reducible apply harvestRow_keep
    | split

theorem State.sendNorm_keep {s0 : State} {s : State} {round : Nat} {vals : List Nat} (kp : Keep s0 s) :
    Keep s0 (State.sendNorm s round vals) := by
  unfold State.sendNorm
  repeat' first
    | with_reducible assumption
    | (intro x; first | (refine (have hx : Keep s0 x := ?_; ?_); dsimp only [x]) | subst x | skip)
    | lift_lets
    | with_reducible apply State.sendMsg_keep
    | (with_reducible apply Keep.upd; first | with_reducible assumption | with_reducible apply State.sendMsg_keep | with_reducible apply Keep.foldl)
    | with_reducible apply Keep.foldl
    | split
    | dsimp only

theorem State.normEnd_keep {s0 : State} {s : State} {vals : List Nat} (kp : Keep s0 s) :
    Keep s0 (State.normEnd s vals) := by
  unfold State.normEnd
  repeat' first
    | with_reducible assumption
    | (intro x; first | (refine (have hx : Keep s0 x := ?_; ?_); dsimp only [x]) | subst x | skip)
    | lift_lets
    | (with_reducible apply Keep.upd; with_reducible assumption)
    | split
    | dsimp only

theorem normAdvance_keep {s0 : State} {n : Nat} {s : State} (h : Keep s0 s) : Keep s0 (normAdvance n s) := by
  induction n generalizing s with
  | zero => exact h
  | succ n ih =>
    simp only [normAdvance]
    repeat' split
    all_goals first
      | exact h
      | exact State.normEnd_keep (Keep.upd _ h ..)
      | exact ih (State.sendNorm_keep (Keep.upd _ h ..))

theorem execNorm_keep {s0 : State} {m : Fin 2} {env : MemEnv} {s : State} (kp : Keep s0 s) :
    Res.All (Keep s0) (execNorm m env s) := by
  unfold execNorm
  repeat' first
    | with_reducible assumption
    | (intro x; first | (refine (have hx : Keep s0 x := ?_; ?_); dsimp only [x]) | subst x | skip)
    | lift_lets
    | with_reducible exact Res.All.fault
    | with_reducible apply Res.All.next
    | with_reducible apply State.modHv_keep
    | with_reducible apply State.nextCmd_keep
    | with_reducible apply State.sendNorm_keep
    | with_reducible apply harvestRow_keep
    | with_reducible apply normAdvance_keep
    | (with_reducible apply Keep.upd; first | with_reducible assumption | with_reducible apply State.modHv_keep | with_reducible apply State.nextCmd_keep | with_reducible apply State.sendNorm_keep | with_reducible apply harvestRow_keep | with_reducible apply normAdvance_keep | with_reducible apply Keep.foldl)
    | with_reducible apply Keep.foldl
    | split
    | dsimp only

theorem execNormVector_keep {s0 : State} {msg : MsgId} {vec : NormVec} {s : State} (kp : Keep s0 s) :
    Res.All (Keep s0) (execNormVector msg vec s) := by
  unfold execNormVector
  repeat' first
    | with_reducible assumption
    | (intro x; first | (refine (have hx : Keep s0 x := ?_; ?_); dsimp only [x]) | subst x | skip)
    | lift_lets
    | with_reducible exact Res.All.fault
    | with_reducible apply Res.All.next
    | with_reducible apply State.takeMsg_keep
    | with_reducible apply normAdvance_keep
    | (with_reducible apply Keep.upd; with_reducible assumption)
    | split
    | dsimp only

theorem State.endNorm_keep {s0 : State} {s : State} (kp : Keep s0 s) : Keep s0 (State.endNorm s) := by
  unfold State.endNorm
  repeat' first
    | with_reducible assumption
    | (with_reducible apply Keep.upd; with_reducible assumption)
    | split

theorem State.abandonNorm_keep {s0 : State} {s : State} {n : Nat} (kp : Keep s0 s) :
    Keep s0 (State.abandonNorm s n) := by
  unfold State.abandonNorm
  repeat' first
    | with_reducible assumption
    | with_reducible apply State.endNorm_keep
    | split

theorem State.writeAlt_keep {s0 : State} {s : State} {env : MemEnv} {m : Nat} {d : List Word64} {a : Nat} {bs : List
    Byte} (kp : Keep s0 s) : Keep s0 (State.writeAlt s env m d a bs) := by
  unfold State.writeAlt
  repeat' first
    | with_reducible assumption
    | with_reducible apply State.emit_keep
    | with_reducible apply State.memWrite_keep
    | split

theorem State.thinWrite_keep {s0 : State} {s : State} {env : MemEnv} {c : ThinCmd} {j : Nat} {x r : List Byte} (kp :
    Keep s0 s) : Keep s0 (State.thinWrite s env c j x r) := by
  unfold State.thinWrite
  repeat' first
    | with_reducible assumption
    | with_reducible apply State.memWrite_keep
    | with_reducible apply State.writeAlt_keep
    | split

theorem State.thinBlock_keep {s0 : State} {s : State} {env : MemEnv} {c : ThinCmd} {j : Nat} (h : Keep s0 s) :
    Keep s0 (State.thinBlock s env c j).2 := by
  have h1 : Keep s0 (s.hvRead env c.m (c.inA + 16384 * j) (4 * c.blockLen j)).2 := State.hvRead_keep h
  unfold State.thinBlock
  dsimp only
  split
  · exact State.thinWrite_keep (State.hvRead_keep h1)
  · exact h1
  · exact State.hvRead_keep h1

theorem State.thinBlocks_keep {s0 : State} {s : State} {env : MemEnv} {c : ThinCmd} (h : Keep s0 s) :
    Keep s0 (State.thinBlocks s env c).2 := by
  have hl : ∀ (l : List Nat) (x : Option Nat × State), Keep s0 x.2 →
      Keep s0 (l.foldl (fun x j => if x.1.isSome then x else x.2.thinBlock env c j) x).2 := by
    intro l
    induction l with
    | nil => exact fun x hx => hx
    | cons j l ih =>
      refine fun x hx => ih _ ?_
      dsimp only
      split
      · exact hx
      · exact State.thinBlock_keep hx
  exact hl _ _ h

theorem execThin_keep {s0 : State} {m : Fin 2} {env : MemEnv} {s : State} (kp : Keep s0 s) :
    Res.All (Keep s0) (execThin m env s) := by
  unfold execThin
  repeat' first
    | with_reducible assumption
    | (intro x; first | (refine (have hx : Keep s0 x := ?_; ?_); dsimp only [x]) | subst x | skip)
    | lift_lets
    | with_reducible exact Res.All.fault
    | with_reducible apply Res.All.next
    | with_reducible apply State.harvestError_keep
    | with_reducible apply State.nextCmd_keep
    | with_reducible apply State.readDesc_keep
    | with_reducible apply State.skipFrozen_keep
    | with_reducible apply State.thinBlocks_keep
    | with_reducible apply harvestRow_keep
    | split

theorem execMirrorWrite_keep {s0 : State} {addr : Nat} {data : List Byte} {_src : DevId} {s : State} (kp : Keep s0 s) :
    Res.All (Keep s0) (execMirrorWrite addr data _src s) := by
  unfold execMirrorWrite
  repeat' first
    | with_reducible assumption
    | with_reducible exact Res.All.fault
    | with_reducible apply Res.All.next
    | with_reducible apply State.harvestError_keep
    | with_reducible apply State.memWrite_keep
    | split

end Sys2Proof.Machine
end

