-- ==== Sys2Proof/Laws/Keep/Windows.lean ====
section
/-! SUPPORT. What the operations of `Machine/Windows.lean` keep: the queue, the canonical form of memory, the fuses. -/

namespace Sys2Proof.Machine

theorem State.countDrop_keep {s0 : State} {s : State} (kp : Keep s0 s) : Keep s0 (State.countDrop s) := by
  unfold State.countDrop
  repeat' first
    | with_reducible assumption
    | (intro x; first | (refine (have hx : Keep s0 x := ?_; ?_); dsimp only [x]) | subst x | skip)
    | lift_lets
    | with_reducible apply State.bump_keep
    | with_reducible apply State.flag_keep
    | (with_reducible apply Keep.upd; with_reducible assumption)
    | split
    | dsimp only

theorem State.answer_keep {s0 : State} {s : State} {port : Port} {data : List Byte} {poisoned : Bool} (kp : Keep s0 s) :
    Keep s0 (State.answer s port data poisoned) := by
  unfold State.answer
  repeat' first
    | with_reducible assumption
    | with_reducible apply State.emit_keep
    | split

theorem State.writeTileWord_keep {s0 : State} {s : State} {p o v : Nat} (kp : Keep s0 s) :
    Keep s0 (State.writeTileWord s p o v) := by
  unfold State.writeTileWord
  repeat' first
    | with_reducible assumption
    | with_reducible apply State.setTile_keep
    | with_reducible apply State.wr_keep
    | split

theorem State.logUnmapped_keep {s0 : State} {s : State} {port : Port} {a : Nat} (kp : Keep s0 s) :
    Keep s0 (State.logUnmapped s port a) := by
  unfold State.logUnmapped
  repeat' first
    | with_reducible assumption
    | with_reducible apply State.logRec_keep
    | split

theorem State.windowRead_keep {s0 : State} {s : State} {port : Port} {addr len : Nat} (kp : Keep s0 s) :
    Keep s0 (State.windowRead s port addr len) := by
  unfold State.windowRead
  repeat' first
    | with_reducible assumption
    | with_reducible apply State.answer_keep
    | with_reducible apply State.countCtl_keep
    | with_reducible apply State.logUnmapped_keep
    | with_reducible apply State.modTile_keep
    | with_reducible apply State.setTile_keep
    | with_reducible apply State.wr_keep
    | split

theorem State.answerHeld_keep {s0 : State} {s : State} (kp : Keep s0 s) : Keep s0 (State.answerHeld s) := by
  unfold State.answerHeld
  repeat' first
    | with_reducible assumption
    | (intro x; first | (refine (have hx : Keep s0 x := ?_; ?_); dsimp only [x]) | subst x | skip)
    | lift_lets
    | with_reducible apply State.windowRead_keep
    | (with_reducible apply Keep.upd; first | with_reducible assumption | with_reducible apply State.windowRead_keep | with_reducible apply Keep.foldl)
    | with_reducible apply Keep.foldl
    | split
    | dsimp only

theorem execTileWindowRead_keep {s0 : State} {port : Port} {addr : Nat} {len : Nat} {s : State} (kp : Keep s0 s) :
    Res.All (Keep s0) (execTileWindowRead port addr len s) := by
  unfold execTileWindowRead
  repeat' first
    | with_reducible assumption
    | with_reducible exact Res.All.fault
    | with_reducible apply Res.All.next
    | with_reducible apply State.answer_keep
    | with_reducible apply State.countDrop_keep
    | with_reducible apply State.windowRead_keep
    | (with_reducible apply Keep.upd; with_reducible assumption)
    | split

theorem execTileWindowWrite_keep {s0 : State} {port : Port} {addr : Nat} {data : List Byte} {s : State} (kp : Keep s0
    s) : Res.All (Keep s0) (execTileWindowWrite port addr data s) := by
  unfold execTileWindowWrite
  repeat' first
    | with_reducible assumption
    | (intro x; first | (refine (have hx : Keep s0 x := ?_; ?_); dsimp only [x]) | subst x | skip)
    | lift_lets
    | with_reducible exact Res.All.fault
    | with_reducible apply Res.All.next
    | with_reducible apply State.countCtl_keep
    | with_reducible apply State.countDrop_keep
    | with_reducible apply State.logUnmapped_keep
    | with_reducible apply State.setTile_keep
    | with_reducible apply State.wr_keep
    | with_reducible apply State.writeTileWord_keep
    | split

end Sys2Proof.Machine
end

