-- ==== Sys2Proof/Laws/Keep/Memory.lean ====
section
/-! SUPPORT. What the operations of `Machine/Memory.lean` keep: the queue, the canonical form of memory, the fuses. -/

namespace Sys2Proof.Machine

theorem execMemoryPatrol_keep {s0 : State} {m : Fin 2} {block : Nat} {env : MemEnv} {s : State} (kp : Keep s0 s) :
    Res.All (Keep s0) (execMemoryPatrol m block env s) := by
  unfold execMemoryPatrol
  repeat' first
    | with_reducible assumption
    | (intro x; first | (refine (have hx : Keep s0 x := ?_; ?_); dsimp only [x]) | subst x | skip)
    | lift_lets
    | with_reducible exact Res.All.fault
    | with_reducible apply Res.All.next
    | with_reducible apply State.bump_keep
    | with_reducible apply State.countLink_keep
    | with_reducible apply State.recordPersist_keep
    | split

theorem State.zeroStorage_keep {s0 : State} {s : State} {a n : Nat} (h : Keep s0 s) :
    Keep s0 (State.zeroStorage s a n) := by
  refine ⟨h.queue, fun h0 => ?_, ⟨h.fuses.fwSvn, h.fuses.cfgSvn, h.fuses.mark, h.fuses.revoked, h.fuses.dies,
    h.fuses.serial, h.fuses.grade, h.fuses.capacity⟩⟩
  exact Memory.wf_delRange _ _ (h.mem h0)

theorem execZeroStart_keep {s0 : State} {m : Fin 2} {s : State} (kp : Keep s0 s) :
    Res.All (Keep s0) (execZeroStart m s) := by
  unfold execZeroStart
  repeat' first
    | with_reducible assumption
    | with_reducible exact Res.All.fault
    | with_reducible apply Res.All.next
    | with_reducible apply State.flag_keep
    | with_reducible apply State.modMdie_keep
    | with_reducible apply State.zeroStorage_keep
    | split

theorem execZeroDone_keep {s0 : State} {m : Fin 2} {s : State} (kp : Keep s0 s) :
    Res.All (Keep s0) (execZeroDone m s) := by
  unfold execZeroDone
  repeat' first
    | with_reducible assumption
    | with_reducible exact Res.All.fault
    | with_reducible apply Res.All.next
    | with_reducible apply State.modMdie_keep
    | with_reducible apply State.wr_keep
    | split

theorem execBar2Read_keep {s0 : State} {off : Nat} {len : Nat} {size : Fin 8} {env : MemEnv} {s : State} (kp : Keep
    s0 s) : Res.All (Keep s0) (execBar2Read off len size env s) := by
  unfold execBar2Read
  repeat' first
    | with_reducible assumption
    | with_reducible exact Res.All.fault
    | with_reducible apply Res.All.next
    | with_reducible apply State.answer_keep
    | with_reducible apply State.countDrop_keep
    | with_reducible apply State.memRead_keep
    | split

theorem execBar2Write_keep {s0 : State} {off : Nat} {data : List Byte} {size : Fin 8} {env : MemEnv} {s : State} (kp
    : Keep s0 s) : Res.All (Keep s0) (execBar2Write off data size env s) := by
  unfold execBar2Write
  repeat' first
    | with_reducible assumption
    | (intro x; first | (refine (have hx : Keep s0 x := ?_; ?_); dsimp only [x]) | subst x | skip)
    | lift_lets
    | with_reducible exact Res.All.fault
    | with_reducible apply Res.All.next
    | with_reducible apply State.bump_keep
    | with_reducible apply State.countDrop_keep
    | with_reducible apply State.memWrite_keep
    | split

theorem State.applySlot_keep {s0 : State} {s : State} {c : SeqCmd} (kp : Keep s0 s) :
    Keep s0 (State.applySlot s c) := by
  unfold State.applySlot
  repeat' first
    | with_reducible assumption
    | (with_reducible apply Keep.upd; with_reducible assumption)
    | split

theorem State.applySlots_keep {s0 : State} {s : State} {m : Nat} (kp : Keep s0 s) : Keep s0 (State.applySlots s m) := by
  unfold State.applySlots
  repeat' first
    | with_reducible assumption
    | (intro x; first | (refine (have hx : Keep s0 x := ?_; ?_); dsimp only [x]) | subst x | skip)
    | lift_lets
    | with_reducible apply State.applySlot_keep
    | with_reducible apply State.modMdie_keep
    | (with_reducible apply Keep.upd; first | with_reducible assumption | with_reducible apply State.applySlot_keep | with_reducible apply State.modMdie_keep | with_reducible apply Keep.foldl)
    | with_reducible apply Keep.foldl
    | split
    | dsimp only

theorem State.slotCommand_keep {s0 : State} {s : State} {m cmd : Nat} (kp : Keep s0 s) :
    Keep s0 (State.slotCommand s m cmd) := by
  unfold State.slotCommand
  repeat' first
    | with_reducible assumption
    | (intro x; first | (refine (have hx : Keep s0 x := ?_; ?_); dsimp only [x]) | subst x | skip)
    | lift_lets
    | with_reducible apply State.applySlot_keep
    | with_reducible apply State.flag_keep
    | with_reducible apply State.modMdie_keep
    | split

theorem execSqWrite_keep {s0 : State} {m : Fin 2} {s : State} (kp : Keep s0 s) :
    Res.All (Keep s0) (execSqWrite m s) := by
  unfold execSqWrite
  repeat' first
    | with_reducible assumption
    | with_reducible exact Res.All.fault
    | with_reducible apply Res.All.next
    | with_reducible apply State.slotCommand_keep
    | split

theorem execSqFree_keep {s0 : State} {m : Fin 2} {s : State} (kp : Keep s0 s) : Res.All (Keep s0) (execSqFree m s) := by
  unfold execSqFree
  repeat' first
    | with_reducible assumption
    | with_reducible exact Res.All.fault
    | with_reducible apply Res.All.next
    | with_reducible apply State.slotCommand_keep
    | split

theorem execSqSetlen_keep {s0 : State} {m : Fin 2} {s : State} (kp : Keep s0 s) :
    Res.All (Keep s0) (execSqSetlen m s) := by
  unfold execSqSetlen
  repeat' first
    | with_reducible assumption
    | with_reducible exact Res.All.fault
    | with_reducible apply Res.All.next
    | with_reducible apply State.slotCommand_keep
    | split

theorem State.refusePeer_keep {s0 : State} {s : State} {m : Nat} (kp : Keep s0 s) : Keep s0 (State.refusePeer s m) := by
  unfold State.refusePeer
  repeat' first
    | with_reducible assumption
    | with_reducible apply State.flag_keep
    | with_reducible apply State.wr_keep
    | split

theorem execOffloadPeerAccess_keep {s0 : State} {m : Fin 2} {addr : Nat} {len : Nat} {data : Option (List Byte)} {env
    : MemEnv} {s : State} (kp : Keep s0 s) : Res.All (Keep s0) (execOffloadPeerAccess m addr len data env s) := by
  unfold execOffloadPeerAccess
  repeat' first
    | with_reducible assumption
    | with_reducible exact Res.All.fault
    | with_reducible apply Res.All.next
    | with_reducible apply State.emit_keep
    | with_reducible apply State.memRead_keep
    | with_reducible apply State.memWrite_keep
    | with_reducible apply State.refusePeer_keep
    | split

end Sys2Proof.Machine
end

