-- ==== Sys2Proof/Laws/Keep/Patterns.lean ====
section
/-! SUPPORT. What the operations of `Machine/Patterns.lean` keep: the queue, the canonical form of memory, the fuses. -/

namespace Sys2Proof.Machine

theorem State.loadSet_keep {s0 : State} {s : State} {st : Superstep} {same : Bool} (kp : Keep s0 s) :
    Keep s0 (State.loadSet s st same) := by
  unfold State.loadSet
  repeat' first
    | with_reducible assumption
    | (intro x; first | (refine (have hx : Keep s0 x := ?_; ?_); dsimp only [x]) | subst x | skip)
    | lift_lets
    | with_reducible apply State.mapTiles_keep
    | with_reducible apply State.wr_keep
    | (with_reducible apply Keep.upd; with_reducible assumption)
    | split
    | dsimp only

theorem State.startLoader_keep {s0 : State} {s : State} {i : Nat} {same : Bool} (kp : Keep s0 s) :
    Keep s0 (State.startLoader s i same) := by
  unfold State.startLoader
  repeat' first
    | with_reducible assumption
    | with_reducible apply State.loadSet_keep
    | split

theorem State.patFail_keep {s0 : State} {s : State} {part : PatPart} (kp : Keep s0 s) :
    Keep s0 (State.patFail s part) := by
  unfold State.patFail
  repeat' first
    | with_reducible assumption
    | (intro x; first | (refine (have hx : Keep s0 x := ?_; ?_); dsimp only [x]) | subst x | skip)
    | lift_lets
    | with_reducible apply State.bump_keep
    | with_reducible apply State.flag_keep
    | with_reducible apply State.openFault_keep
    | with_reducible apply State.wr_keep
    | (with_reducible apply Keep.upd; with_reducible assumption)
    | split
    | dsimp only

theorem State.readyDie_keep {s0 : State} {s : State} {d : Nat} (kp : Keep s0 s) : Keep s0 (State.readyDie s d) := by
  unfold State.readyDie
  repeat' first
    | with_reducible assumption
    | (intro x; first | (refine (have hx : Keep s0 x := ?_; ?_); dsimp only [x]) | subst x | skip)
    | lift_lets
    | with_reducible apply State.modTile_keep
    | (with_reducible apply Keep.upd; first | with_reducible assumption | with_reducible apply State.modTile_keep | with_reducible apply Keep.foldl)
    | with_reducible apply Keep.foldl
    | split
    | dsimp only

theorem State.loaderStat_keep {s0 : State} {s : State} (kp : Keep s0 s) : Keep s0 (State.loaderStat s) := by
  unfold State.loaderStat
  repeat' first
    | with_reducible assumption
    | (intro x; first | (refine (have hx : Keep s0 x := ?_; ?_); dsimp only [x]) | subst x | skip)
    | lift_lets
    | with_reducible apply State.wr_keep
    | split

theorem State.countHalf_keep {s0 : State} {s : State} {t : Nat} (kp : Keep s0 s) : Keep s0 (State.countHalf s t) := by
  unfold State.countHalf
  repeat' first
    | with_reducible assumption
    | with_reducible apply State.countFlits_keep
    | split

theorem execPatternHalfLoaded_keep {s0 : State} {part : PatPart} {data : List Byte} {s : State} (kp : Keep s0 s) :
    Res.All (Keep s0) (execPatternHalfLoaded part data s) := by
  unfold execPatternHalfLoaded
  repeat' first
    | with_reducible assumption
    | with_reducible exact Res.All.fault
    | with_reducible apply Res.All.next
    | with_reducible apply State.countHalf_keep
    | with_reducible apply State.loaderStat_keep
    | with_reducible apply State.modTile_keep
    | with_reducible apply State.patFail_keep
    | with_reducible apply State.readyDie_keep
    | (with_reducible apply Keep.upd; with_reducible assumption)
    | split

end Sys2Proof.Machine
end

