-- ==== Sys2Proof/Laws/Keep/Stitches.lean ====
section
/-! SUPPORT. What the operations of `Machine/Stitches.lean` keep: the queue, the canonical form of memory, the fuses. -/

namespace Sys2Proof.Machine

theorem actSense_keep {s0 : State} {s : State} {a : StitchAct} (h : Keep s0 s) : Keep s0 (actSense s a) := by
  unfold actSense
  split
  · split
    · exact State.modTile_keep h
    · exact h
  · split
    · exact State.modTile_keep h
    · exact h
  · exact h

theorem actWrite_keep {s0 : State} {c : SpanCtx} {start slot : Nat} {s : State} {a : StitchAct} (h : Keep s0 s) :
    Keep s0 (actWrite c start slot s a) := by
  unfold actWrite
  repeat' split
  all_goals first
    | exact State.modTile_keep h
    | exact Keep.upd _ h ..
    | exact h

theorem State.countSlot_keep {s0 : State} {s : State} {nr slot : Nat} {recs : SMap (List Word64)} {xs : List (Nat ×
    Word64)} (kp : Keep s0 s) : Keep s0 (State.countSlot s nr slot recs xs) := by
  unfold State.countSlot
  repeat' first
    | with_reducible assumption
    | (intro x; first | (refine (have hx : Keep s0 x := ?_; ?_); dsimp only [x]) | subst x | skip)
    | lift_lets
    | with_reducible apply State.countEdge_keep
    | (with_reducible apply Keep.upd; first | with_reducible assumption | with_reducible apply State.countEdge_keep | with_reducible apply Keep.foldl)
    | with_reducible apply Keep.foldl
    | split
    | dsimp only

theorem State.runSlot_keep {s0 : State} {s : State} {b start slot : Nat} (kp : Keep s0 s) :
    Keep s0 (State.runSlot s b start slot) := by
  unfold State.runSlot
  repeat' first
    | with_reducible assumption
    | (intro x; first | (refine (have hx : Keep s0 x := ?_; ?_); dsimp only [x]) | subst x | skip)
    | lift_lets
    | with_reducible apply State.countSlot_keep
    | with_reducible apply actSense_keep
    | with_reducible apply actWrite_keep
    | (with_reducible apply Keep.upd; first | with_reducible assumption | with_reducible apply State.countSlot_keep | with_reducible apply actSense_keep | with_reducible apply actWrite_keep | with_reducible apply Keep.foldl)
    | with_reducible apply Keep.foldl
    | split
    | dsimp only

theorem State.runStitches_keep {s0 : State} {s : State} (kp : Keep s0 s) : Keep s0 (State.runStitches s) := by
  unfold State.runStitches
  repeat' first
    | with_reducible assumption
    | (intro x; first | (refine (have hx : Keep s0 x := ?_; ?_); dsimp only [x]) | subst x | skip)
    | lift_lets
    | with_reducible apply State.runSlot_keep
    | (with_reducible apply Keep.upd; first | with_reducible assumption | with_reducible apply State.runSlot_keep | with_reducible apply Keep.foldl)
    | with_reducible apply Keep.foldl
    | split
    | dsimp only

end Sys2Proof.Machine
end

