-- ==== Sys2Proof/Laws/Keep/Seams.lean ====
section
/-! SUPPORT. What the operations of `Machine/Seams.lean` keep: the queue, the canonical form of memory, the fuses. -/

namespace Sys2Proof.Machine

theorem State.leaveLend_keep {s0 : State} {s : State} (kp : Keep s0 s) : Keep s0 (State.leaveLend s) := by
  unfold State.leaveLend
  repeat' first
    | with_reducible assumption
    | (intro x; first | (refine (have hx : Keep s0 x := ?_; ?_); dsimp only [x]) | subst x | skip)
    | lift_lets
    | with_reducible apply State.mapTiles_keep
    | with_reducible apply State.notePool_keep
    | (with_reducible apply Keep.upd; with_reducible assumption)
    | split
    | dsimp only

theorem State.swapHalves_keep {s0 : State} {s : State} (kp : Keep s0 s) : Keep s0 (State.swapHalves s) := by
  unfold State.swapHalves
  repeat' first
    | with_reducible assumption
    | (intro x; first | (refine (have hx : Keep s0 x := ?_; ?_); dsimp only [x]) | subst x | skip)
    | lift_lets
    | with_reducible apply State.mapTiles_keep
    | (with_reducible apply Keep.upd; with_reducible assumption)
    | split
    | dsimp only

theorem State.patternFaults_keep {s0 : State} {s : State} (kp : Keep s0 s) : Keep s0 (State.patternFaults s) := by
  unfold State.patternFaults
  repeat' first
    | with_reducible assumption
    | (intro x; first | (refine (have hx : Keep s0 x := ?_; ?_); dsimp only [x]) | subst x | skip)
    | lift_lets
    | with_reducible apply State.patternFault_keep
    | (with_reducible apply Keep.upd; first | with_reducible assumption | with_reducible apply State.patternFault_keep | with_reducible apply Keep.foldl)
    | with_reducible apply Keep.foldl
    | split
    | dsimp only

theorem execSeamStart_keep {s0 : State} {s : State} (kp : Keep s0 s) : Res.All (Keep s0) (execSeamStart s) := by
  unfold execSeamStart
  repeat' first
    | with_reducible assumption
    | (intro x; first | (refine (have hx : Keep s0 x := ?_; ?_); dsimp only [x]) | subst x | skip)
    | lift_lets
    | with_reducible exact Res.All.fault
    | with_reducible apply Res.All.next
    | with_reducible apply State.leaveLend_keep
    | with_reducible apply State.patternFaults_keep
    | with_reducible apply State.runStitches_keep
    | with_reducible apply State.swapHalves_keep
    | with_reducible apply State.wr_keep
    | (with_reducible apply Keep.upd; with_reducible assumption)
    | split
    | dsimp only

theorem State.startSpan_keep {s0 : State} {s : State} {b : Nat} (kp : Keep s0 s) : Keep s0 (State.startSpan s b) := by
  unfold State.startSpan
  repeat' first
    | with_reducible assumption
    | (intro x; first | (refine (have hx : Keep s0 x := ?_; ?_); dsimp only [x]) | subst x | skip)
    | lift_lets
    | with_reducible apply State.runStitches_keep
    | with_reducible apply State.wr_keep
    | (with_reducible apply Keep.upd; with_reducible assumption)
    | split
    | dsimp only

theorem State.idle_keep {s0 : State} {s : State} (kp : Keep s0 s) : Keep s0 (State.idle s) := by
  unfold State.idle
  repeat' first
    | with_reducible assumption
    | with_reducible apply State.runStitches_keep
    | with_reducible apply State.tick_keep
    | with_reducible apply State.wakeSpools_keep
    | split

theorem execSpanStart_keep {s0 : State} {s : State} (kp : Keep s0 s) : Res.All (Keep s0) (execSpanStart s) := by
  unfold execSpanStart
  repeat' first
    | with_reducible assumption
    | (intro x; first | (refine (have hx : Keep s0 x := ?_; ?_); dsimp only [x]) | subst x | skip)
    | lift_lets
    | with_reducible exact Res.All.fault
    | with_reducible apply Res.All.next
    | with_reducible apply State.runStitches_keep
    | with_reducible apply State.startSpan_keep
    | split

theorem State.acceptHold_keep {s0 : State} {s : State} {r : HoldRec} (kp : Keep s0 s) :
    Keep s0 (State.acceptHold s r) := by
  unfold State.acceptHold
  repeat' first
    | with_reducible assumption
    | (intro x; first | (refine (have hx : Keep s0 x := ?_; ?_); dsimp only [x]) | subst x | skip)
    | lift_lets
    | with_reducible apply State.flag_keep
    | with_reducible apply State.floodRec_keep
    | with_reducible apply State.openFault_keep
    | with_reducible apply State.wr_keep
    | (with_reducible apply Keep.upd; with_reducible assumption)
    | split
    | dsimp only

theorem State.raiseHold_keep {s0 : State} {s : State} {link span : Nat} (kp : Keep s0 s) :
    Keep s0 (State.raiseHold s link span) := by
  unfold State.raiseHold
  repeat' first
    | with_reducible assumption
    | (intro x; first | (refine (have hx : Keep s0 x := ?_; ?_); dsimp only [x]) | subst x | skip)
    | lift_lets
    | with_reducible apply State.acceptHold_keep
    | with_reducible apply State.flag_keep
    | with_reducible apply State.wr_keep
    | (with_reducible apply Keep.upd; with_reducible assumption)
    | split
    | dsimp only

theorem execWindowCheck_keep {s0 : State} {span : Fin 32} {s : State} (kp : Keep s0 s) :
    Res.All (Keep s0) (execWindowCheck span s) := by
  unfold execWindowCheck
  repeat' first
    | with_reducible assumption
    | (intro x; first | (refine (have hx : Keep s0 x := ?_; ?_); dsimp only [x]) | subst x | skip)
    | lift_lets
    | with_reducible exact Res.All.fault
    | with_reducible apply Res.All.next
    | with_reducible apply State.raiseHold_keep
    | (with_reducible apply Keep.upd; with_reducible assumption)
    | split
    | dsimp only

theorem execHoldRecord_keep {s0 : State} {_link : LinkId} {rc : HoldRec} {s : State} (kp : Keep s0 s) :
    Res.All (Keep s0) (execHoldRecord _link rc s) := by
  unfold execHoldRecord
  repeat' first
    | with_reducible assumption
    | with_reducible exact Res.All.fault
    | with_reducible apply Res.All.next
    | with_reducible apply State.acceptHold_keep
    | split

theorem State.clearHold_keep {s0 : State} {s : State} (kp : Keep s0 s) : Keep s0 (State.clearHold s) := by
  unfold State.clearHold
  repeat' first
    | with_reducible assumption
    | (with_reducible apply Keep.upd; with_reducible assumption)
    | split

theorem execPause_keep {s0 : State} {s : State} (kp : Keep s0 s) : Res.All (Keep s0) (execPause s) := by
  unfold execPause
  repeat' first
    | with_reducible assumption
    | (intro x; first | (refine (have hx : Keep s0 x := ?_; ?_); dsimp only [x]) | subst x | skip)
    | lift_lets
    | with_reducible exact Res.All.fault
    | with_reducible apply Res.All.next
    | with_reducible apply State.clearHold_keep
    | with_reducible apply State.wr_keep
    | (with_reducible apply Keep.upd; with_reducible assumption)
    | split
    | dsimp only

theorem execResumeRecord_keep {s0 : State} {_link : LinkId} {rc : GridRec} {s : State} (kp : Keep s0 s) :
    Res.All (Keep s0) (execResumeRecord _link rc s) := by
  unfold execResumeRecord
  repeat' first
    | with_reducible assumption
    | with_reducible exact Res.All.fault
    | with_reducible apply Res.All.next
    | with_reducible apply State.acceptResume_keep
    | split

theorem execSeamResume_keep {s0 : State} {s : State} (kp : Keep s0 s) : Res.All (Keep s0) (execSeamResume s) := by
  unfold execSeamResume
  repeat' first
    | with_reducible assumption
    | (intro x; first | (refine (have hx : Keep s0 x := ?_; ?_); dsimp only [x]) | subst x | skip)
    | lift_lets
    | with_reducible exact Res.All.fault
    | with_reducible apply Res.All.next
    | with_reducible apply State.startSpan_keep
    | with_reducible apply State.wr_keep
    | (with_reducible apply Keep.upd; with_reducible assumption)
    | split
    | dsimp only

theorem execHoldLimit_keep {s0 : State} {s : State} (kp : Keep s0 s) : Res.All (Keep s0) (execHoldLimit s) := by
  unfold execHoldLimit
  repeat' first
    | with_reducible assumption
    | (intro x; first | (refine (have hx : Keep s0 x := ?_; ?_); dsimp only [x]) | subst x | skip)
    | lift_lets
    | with_reducible exact Res.All.fault
    | with_reducible apply Res.All.next
    | with_reducible apply State.acceptAbort_keep
    | (with_reducible apply Keep.upd; with_reducible assumption)
    | split
    | dsimp only

theorem execAbortRecord_keep {s0 : State} {_link : LinkId} {rc : GridRec} {s : State} (kp : Keep s0 s) :
    Res.All (Keep s0) (execAbortRecord _link rc s) := by
  unfold execAbortRecord
  repeat' first
    | with_reducible assumption
    | with_reducible exact Res.All.fault
    | with_reducible apply Res.All.next
    | with_reducible apply State.acceptAbort_keep
    | split

theorem State.closeSeam_keep {s0 : State} {s : State} {code len : Nat} (kp : Keep s0 s) :
    Keep s0 (State.closeSeam s code len) := by
  unfold State.closeSeam
  repeat' first
    | with_reducible assumption
    | (intro x; first | (refine (have hx : Keep s0 x := ?_; ?_); dsimp only [x]) | subst x | skip)
    | lift_lets
    | with_reducible apply State.answerHeld_keep
    | with_reducible apply State.wr_keep
    | (with_reducible apply Keep.upd; with_reducible assumption)
    | split
    | dsimp only

theorem State.abortSeam_keep {s0 : State} {s : State} (kp : Keep s0 s) : Keep s0 (State.abortSeam s) := by
  unfold State.abortSeam
  repeat' first
    | with_reducible assumption
    | with_reducible apply State.closeSeam_keep
    | with_reducible apply State.endWaits_keep
    | split

theorem execHoldAbort_keep {s0 : State} {s : State} (kp : Keep s0 s) : Res.All (Keep s0) (execHoldAbort s) := by
  unfold execHoldAbort
  repeat' first
    | with_reducible assumption
    | with_reducible exact Res.All.fault
    | with_reducible apply Res.All.next
    | with_reducible apply State.abortSeam_keep
    | with_reducible apply State.flag_keep
    | with_reducible apply State.openFault_keep
    | split

theorem State.enterSuperstep_keep {s0 : State} {s : State} {i mb : Nat} (kp : Keep s0 s) :
    Keep s0 (State.enterSuperstep s i mb) := by
  unfold State.enterSuperstep
  repeat' first
    | with_reducible assumption
    | (intro x; first | (refine (have hx : Keep s0 x := ?_; ?_); dsimp only [x]) | subst x | skip)
    | lift_lets
    | with_reducible apply State.wr_keep
    | (with_reducible apply Keep.upd; with_reducible assumption)
    | split
    | dsimp only

theorem execSeamEnd_keep {s0 : State} {s : State} (kp : Keep s0 s) : Res.All (Keep s0) (execSeamEnd s) := by
  unfold execSeamEnd
  repeat' first
    | with_reducible assumption
    | (intro x; first | (refine (have hx : Keep s0 x := ?_; ?_); dsimp only [x]) | subst x | skip)
    | lift_lets
    | with_reducible exact Res.All.fault
    | with_reducible apply Res.All.next
    | with_reducible apply State.closeSeam_keep
    | with_reducible apply State.endWaits_keep
    | with_reducible apply State.enterSuperstep_keep
    | with_reducible apply State.runStitches_keep
    | with_reducible apply State.startLoader_keep
    | split

end Sys2Proof.Machine
end

