-- ==== Sys2Proof/Laws/Keep/Hem.lean ====
section
/-! SUPPORT. What the operations of `Machine/Hem.lean` keep: the queue, the canonical form of memory, the fuses. -/

namespace Sys2Proof.Machine

theorem State.countWaits_keep {s0 : State} {s : State} (kp : Keep s0 s) : Keep s0 (State.countWaits s) := by
  unfold State.countWaits
  repeat' first
    | with_reducible assumption
    | (intro x; first | (refine (have hx : Keep s0 x := ?_; ?_); dsimp only [x]) | subst x | skip)
    | lift_lets
    | with_reducible apply State.mapTiles_keep
    | (with_reducible apply Keep.upd; with_reducible assumption)
    | split
    | dsimp only

theorem State.latchTiles_keep {s0 : State} {s : State} (kp : Keep s0 s) : Keep s0 (State.latchTiles s) := by
  unfold State.latchTiles
  repeat' first
    | with_reducible assumption
    | (intro x; first | (refine (have hx : Keep s0 x := ?_; ?_); dsimp only [x]) | subst x | skip)
    | lift_lets
    | with_reducible apply State.countWaits_keep
    | with_reducible apply State.mapTiles_keep
    | with_reducible apply State.wr_keep
    | (with_reducible apply Keep.upd; with_reducible assumption)
    | split
    | dsimp only

theorem State.latchFabric_keep {s0 : State} {s : State} (kp : Keep s0 s) : Keep s0 (State.latchFabric s) := by
  unfold State.latchFabric
  repeat' first
    | with_reducible assumption
    | (intro x; first | (refine (have hx : Keep s0 x := ?_; ?_); dsimp only [x]) | subst x | skip)
    | lift_lets
    | with_reducible apply State.wr_keep
    | (with_reducible apply Keep.upd; first | with_reducible assumption | with_reducible apply State.wr_keep | with_reducible apply Keep.foldl)
    | with_reducible apply Keep.foldl
    | split
    | dsimp only

theorem State.latchDie_keep {s0 : State} {s : State} {m : Nat} (kp : Keep s0 s) : Keep s0 (State.latchDie s m) := by
  unfold State.latchDie
  repeat' first
    | with_reducible assumption
    | with_reducible apply State.modHv_keep
    | with_reducible apply State.modMdie_keep
    | with_reducible apply State.wr_keep
    | split

theorem State.latchCommit_keep {s0 : State} {s : State} (kp : Keep s0 s) : Keep s0 (State.latchCommit s) := by
  unfold State.latchCommit
  repeat' first
    | with_reducible assumption
    | with_reducible apply State.wr_keep
    | split

theorem State.latchPower_keep {s0 : State} {s : State} (kp : Keep s0 s) : Keep s0 (State.latchPower s) := by
  unfold State.latchPower
  repeat' first
    | with_reducible assumption
    | (intro x; first | (refine (have hx : Keep s0 x := ?_; ?_); dsimp only [x]) | subst x | skip)
    | lift_lets
    | with_reducible apply State.wr_keep
    | (with_reducible apply Keep.upd; with_reducible assumption)
    | split
    | dsimp only

theorem State.latchAll_keep {s0 : State} {s : State} (kp : Keep s0 s) : Keep s0 (State.latchAll s) := by
  unfold State.latchAll
  repeat' first
    | with_reducible assumption
    | with_reducible apply State.latchCommit_keep
    | with_reducible apply State.latchDie_keep
    | with_reducible apply State.latchFabric_keep
    | with_reducible apply State.latchPower_keep
    | with_reducible apply State.latchTiles_keep
    | split

theorem State.haltStep_keep {s0 : State} {s : State} (kp : Keep s0 s) : Keep s0 (State.haltStep s) := by
  unfold State.haltStep
  repeat' first
    | with_reducible assumption
    | (intro x; first | (refine (have hx : Keep s0 x := ?_; ?_); dsimp only [x]) | subst x | skip)
    | lift_lets
    | with_reducible apply State.abortSeam_keep
    | with_reducible apply State.countRing_keep
    | with_reducible apply State.mapTiles_keep
    | (with_reducible apply Keep.upd; with_reducible assumption)
    | split
    | dsimp only

theorem State.endInWindow_keep {s0 : State} {s : State} {r : FaultRec} (kp : Keep s0 s) :
    Keep s0 (State.endInWindow s r) := by
  unfold State.endInWindow
  repeat' first
    | with_reducible assumption
    | with_reducible apply State.endVisibly_keep
    | with_reducible apply State.logRec_keep
    | with_reducible apply State.wr_keep
    | split

theorem State.rollBack_keep {s0 : State} {s : State} {h : Nat} (kp : Keep s0 s) : Keep s0 (State.rollBack s h) := by
  unfold State.rollBack
  repeat' first
    | with_reducible assumption
    | (intro x; first | (refine (have hx : Keep s0 x := ?_; ?_); dsimp only [x]) | subst x | skip)
    | lift_lets
    | with_reducible apply State.bump_keep
    | with_reducible apply State.endInWindow_keep
    | with_reducible apply State.wr_keep
    | (with_reducible apply Keep.upd; with_reducible assumption)
    | split
    | dsimp only

theorem State.commitStep_keep {s0 : State} {s : State} {step : Nat} (kp : Keep s0 s) :
    Keep s0 (State.commitStep s step) := by
  unfold State.commitStep
  repeat' first
    | with_reducible assumption
    | (intro x; first | (refine (have hx : Keep s0 x := ?_; ?_); dsimp only [x]) | subst x | skip)
    | lift_lets
    | with_reducible apply State.wr_keep
    | (with_reducible apply Keep.upd; with_reducible assumption)
    | split
    | dsimp only

theorem State.admitAtHem_keep {s0 : State} {s : State} (kp : Keep s0 s) : Keep s0 (State.admitAtHem s) := by
  unfold State.admitAtHem
  repeat' first
    | with_reducible assumption
    | (intro x; first | (refine (have hx : Keep s0 x := ?_; ?_); dsimp only [x]) | subst x | skip)
    | lift_lets
    | with_reducible apply State.checkCables_keep
    | with_reducible apply State.refresh_keep
    | with_reducible apply State.wr_keep
    | (with_reducible apply Keep.upd; with_reducible assumption)
    | split
    | dsimp only

theorem State.applyStagedParams_keep {s0 : State} {s : State} {commit : Bool} (kp : Keep s0 s) :
    Keep s0 (State.applyStagedParams s commit) := by
  unfold State.applyStagedParams
  repeat' first
    | with_reducible assumption
    | (intro x; first | (refine (have hx : Keep s0 x := ?_; ?_); dsimp only [x]) | subst x | skip)
    | lift_lets
    | with_reducible apply State.applySlots_keep
    | with_reducible apply State.wr_keep
    | (with_reducible apply Keep.upd; first | with_reducible assumption | with_reducible apply State.applySlots_keep | with_reducible apply State.wr_keep | with_reducible apply Keep.foldl)
    | with_reducible apply Keep.foldl
    | split
    | dsimp only

theorem State.cutWindow_keep {s0 : State} {s : State} (kp : Keep s0 s) : Keep s0 (State.cutWindow s) := by
  unfold State.cutWindow
  repeat' first
    | with_reducible assumption
    | with_reducible apply State.applyStagedParams_keep
    | split

theorem State.atHem_keep {s0 : State} {s : State} {h : Nat} (kp : Keep s0 s) : Keep s0 (State.atHem s h) := by
  unfold State.atHem
  repeat' first
    | with_reducible assumption
    | (intro x; first | (refine (have hx : Keep s0 x := ?_; ?_); dsimp only [x]) | subst x | skip)
    | lift_lets
    | with_reducible apply State.admitAtHem_keep
    | with_reducible apply State.commitStep_keep
    | with_reducible apply State.cutWindow_keep
    | with_reducible apply State.haltStep_keep
    | with_reducible apply State.latchAll_keep
    | with_reducible apply State.logRec_keep
    | with_reducible apply State.rollBack_keep
    | with_reducible apply State.setStepNo_keep
    | with_reducible apply State.wr_keep
    | (with_reducible apply Keep.upd; with_reducible assumption)
    | split
    | dsimp only

theorem State.requestPark_keep {s0 : State} {s : State} {reason : Nat} (kp : Keep s0 s) :
    Keep s0 (State.requestPark s reason) := by
  unfold State.requestPark
  repeat' first
    | with_reducible assumption
    | (intro x; first | (refine (have hx : Keep s0 x := ?_; ?_); dsimp only [x]) | subst x | skip)
    | lift_lets
    | with_reducible apply State.sendRoot_keep
    | with_reducible apply State.wr_keep
    | (with_reducible apply Keep.upd; with_reducible assumption)
    | split
    | dsimp only

theorem State.withdrawPark_keep {s0 : State} {s : State} {reason : Nat} (kp : Keep s0 s) :
    Keep s0 (State.withdrawPark s reason) := by
  unfold State.withdrawPark
  repeat' first
    | with_reducible assumption
    | (intro x; first | (refine (have hx : Keep s0 x := ?_; ?_); dsimp only [x]) | subst x | skip)
    | lift_lets
    | with_reducible apply State.wr_keep
    | (with_reducible apply Keep.upd; with_reducible assumption)
    | split
    | dsimp only

theorem State.acceptParam_keep {s0 : State} {s : State} {r : ParamRec} (kp : Keep s0 s) :
    Keep s0 (State.acceptParam s r) := by
  unfold State.acceptParam
  repeat' first
    | with_reducible assumption
    | (intro x; first | (refine (have hx : Keep s0 x := ?_; ?_); dsimp only [x]) | subst x | skip)
    | lift_lets
    | with_reducible apply State.floodCtl_keep
    | (with_reducible apply Keep.upd; with_reducible assumption)
    | split
    | dsimp only

theorem execParameterRecord_keep {s0 : State} {_link : LinkId} {rc : ParamRec} {s : State} (kp : Keep s0 s) :
    Res.All (Keep s0) (execParameterRecord _link rc s) := by
  unfold execParameterRecord
  repeat' first
    | with_reducible assumption
    | with_reducible exact Res.All.fault
    | with_reducible apply Res.All.next
    | with_reducible apply State.acceptParam_keep
    | split

theorem State.capture_keep {s0 : State} {s : State} {commit : Bool} (kp : Keep s0 s) :
    Keep s0 (State.capture s commit) := by
  unfold State.capture
  repeat' first
    | with_reducible assumption
    | (intro x; first | (refine (have hx : Keep s0 x := ?_; ?_); dsimp only [x]) | subst x | skip)
    | lift_lets
    | with_reducible apply State.emit_keep
    | with_reducible apply State.floodCtl_keep
    | with_reducible apply State.wr_keep
    | (with_reducible apply Keep.upd; with_reducible assumption)
    | split
    | dsimp only

theorem execPolicyDeadline_keep {s0 : State} {s : State} (kp : Keep s0 s) :
    Res.All (Keep s0) (execPolicyDeadline s) := by
  unfold execPolicyDeadline
  repeat' first
    | with_reducible assumption
    | (intro x; first | (refine (have hx : Keep s0 x := ?_; ?_); dsimp only [x]) | subst x | skip)
    | lift_lets
    | with_reducible exact Res.All.fault
    | with_reducible apply Res.All.next
    | with_reducible apply State.capture_keep
    | with_reducible apply State.requestPark_keep
    | (with_reducible apply Keep.upd; with_reducible assumption)
    | split
    | dsimp only

theorem State.startTiles_keep {s0 : State} {s : State} (kp : Keep s0 s) : Keep s0 (State.startTiles s) := by
  unfold State.startTiles
  repeat' first
    | with_reducible assumption
    | (intro x; first | (refine (have hx : Keep s0 x := ?_; ?_); dsimp only [x]) | subst x | skip)
    | lift_lets
    | with_reducible apply State.modTile_keep
    | (with_reducible apply Keep.upd; first | with_reducible assumption | with_reducible apply State.modTile_keep | with_reducible apply Keep.foldl)
    | with_reducible apply Keep.foldl
    | split
    | dsimp only

theorem State.startStep_keep {s0 : State} {s : State} (kp : Keep s0 s) : Keep s0 (State.startStep s) := by
  unfold State.startStep
  repeat' first
    | with_reducible assumption
    | (intro x; first | (refine (have hx : Keep s0 x := ?_; ?_); dsimp only [x]) | subst x | skip)
    | lift_lets
    | with_reducible apply State.enterSuperstep_keep
    | with_reducible apply State.requestPark_keep
    | with_reducible apply State.startLoader_keep
    | with_reducible apply State.startTiles_keep
    | (with_reducible apply Keep.upd; with_reducible assumption)
    | split
    | dsimp only

theorem State.parkJob_keep {s0 : State} {s : State} {ends : Bool} (kp : Keep s0 s) :
    Keep s0 (State.parkJob s ends) := by
  unfold State.parkJob
  repeat' first
    | with_reducible assumption
    | (intro x; first | (refine (have hx : Keep s0 x := ?_; ?_); dsimp only [x]) | subst x | skip)
    | lift_lets
    | with_reducible apply State.idle_keep
    | with_reducible apply State.logRec_keep
    | with_reducible apply State.mapTiles_keep
    | with_reducible apply State.wr_keep
    | (with_reducible apply Keep.upd; with_reducible assumption)
    | split
    | dsimp only

theorem State.windowEnd_keep {s0 : State} {s : State} (kp : Keep s0 s) : Keep s0 (State.windowEnd s) := by
  unfold State.windowEnd
  repeat' first
    | with_reducible assumption
    | (intro x; first | (refine (have hx : Keep s0 x := ?_; ?_); dsimp only [x]) | subst x | skip)
    | lift_lets
    | with_reducible apply State.applyStagedParams_keep
    | with_reducible apply State.flag_keep
    | with_reducible apply State.openFault_keep
    | with_reducible apply State.parkJob_keep
    | with_reducible apply State.startStep_keep
    | with_reducible apply State.wr_keep
    | (with_reducible apply Keep.upd; with_reducible assumption)
    | split
    | dsimp only

theorem State.placeTiles_keep {s0 : State} {s : State} {ts : List Nat} (kp : Keep s0 s) :
    Keep s0 (State.placeTiles s ts) := by
  unfold State.placeTiles
  repeat' first
    | with_reducible assumption
    | (intro x; first | (refine (have hx : Keep s0 x := ?_; ?_); dsimp only [x]) | subst x | skip)
    | lift_lets
    | with_reducible apply State.bindSpools_keep
    | with_reducible apply State.modTile_keep
    | (with_reducible apply Keep.upd; first | with_reducible assumption | with_reducible apply State.bindSpools_keep | with_reducible apply State.modTile_keep | with_reducible apply Keep.foldl)
    | with_reducible apply Keep.foldl
    | split
    | dsimp only

theorem State.startRelease_keep {s0 : State} {s : State} (kp : Keep s0 s) : Keep s0 (State.startRelease s) := by
  unfold State.startRelease
  repeat' first
    | with_reducible assumption
    | (intro x; first | (refine (have hx : Keep s0 x := ?_; ?_); dsimp only [x]) | subst x | skip)
    | lift_lets
    | with_reducible apply State.applyStagedParams_keep
    | with_reducible apply State.applyStaged_keep
    | with_reducible apply State.logRec_keep
    | with_reducible apply State.placeTiles_keep
    | with_reducible apply State.startStep_keep
    | with_reducible apply State.wr_keep
    | (with_reducible apply Keep.upd; with_reducible assumption)
    | split
    | dsimp only

theorem execStepStart_keep {s0 : State} {s : State} (kp : Keep s0 s) : Res.All (Keep s0) (execStepStart s) := by
  unfold execStepStart
  repeat' first
    | with_reducible assumption
    | with_reducible exact Res.All.fault
    | with_reducible apply Res.All.next
    | with_reducible apply State.sendRoot_keep
    | with_reducible apply State.startRelease_keep
    | with_reducible apply State.windowEnd_keep
    | split

end Sys2Proof.Machine
end

