-- ==== Sys2Proof/Laws/Keep/Thimbles.lean ====
section
/-! SUPPORT. What the operations of `Machine/Thimbles.lean` keep: the queue, the canonical form of memory, the fuses. -/

namespace Sys2Proof.Machine

theorem thimbleAt_keep {s0 : State} {q : Pkt} {sub : Nat} {f : Nat → State → State} {s : State} (kp : Keep s0 s) (hf
    : ∀ x0 x1, Keep s0 x1 → Keep s0 (f x0 x1)) : Res.All (Keep s0) (thimbleAt q sub f s) := by
  unfold thimbleAt
  repeat' first
    | with_reducible assumption
    | with_reducible exact Res.All.fault
    | with_reducible apply Res.All.next
    | with_reducible apply arriveAt_keep
    | with_reducible apply hf
    | split

theorem execThimbleRequest_keep {s0 : State} {pkt : Pkt} {s : State} (kp : Keep s0 s) :
    Res.All (Keep s0) (execThimbleRequest pkt s) := by
  unfold execThimbleRequest
  repeat' first
    | with_reducible assumption
    | (intro x; first | (refine (have hx : Keep s0 x := ?_; ?_); dsimp only [x]) | subst x | skip)
    | lift_lets
    | with_reducible exact Res.All.fault
    | with_reducible apply Res.All.next
    | with_reducible apply State.request_keep
    | with_reducible apply State.ringWake_keep
    | with_reducible apply thimbleAt_keep
    | split

theorem State.slotSpan_keep {s0 : State} {s : State} {h : ThimSt} (kp : Keep s0 s) :
    Keep s0 (State.slotSpan s h).2 := by
  unfold State.slotSpan
  repeat' first
    | with_reducible assumption
    | with_reducible apply State.draw_keep
    | split

theorem execThimbleGrant_keep {s0 : State} {pkt : Pkt} {s : State} (kp : Keep s0 s) :
    Res.All (Keep s0) (execThimbleGrant pkt s) := by
  unfold execThimbleGrant
  repeat' first
    | with_reducible assumption
    | (intro x; first | (refine (have hx : Keep s0 x := ?_; ?_); dsimp only [x]) | subst x | skip)
    | lift_lets
    | with_reducible exact Res.All.fault
    | with_reducible apply Res.All.next
    | with_reducible apply State.modTile_keep
    | with_reducible apply State.releaseThim_keep
    | with_reducible apply State.ringWake_keep
    | with_reducible apply State.slotSpan_keep
    | with_reducible apply thimbleAt_keep
    | split

theorem execThimbleRelease_keep {s0 : State} {pkt : Pkt} {s : State} (kp : Keep s0 s) :
    Res.All (Keep s0) (execThimbleRelease pkt s) := by
  unfold execThimbleRelease
  repeat' first
    | with_reducible assumption
    | (intro x; first | (refine (have hx : Keep s0 x := ?_; ?_); dsimp only [x]) | subst x | skip)
    | lift_lets
    | with_reducible exact Res.All.fault
    | with_reducible apply Res.All.next
    | with_reducible apply State.releaseArrives_keep
    | with_reducible apply State.ringWake_keep
    | with_reducible apply thimbleAt_keep
    | split

theorem execThimbleRefuse_keep {s0 : State} {pkt : Pkt} {s : State} (kp : Keep s0 s) :
    Res.All (Keep s0) (execThimbleRefuse pkt s) := by
  unfold execThimbleRefuse
  repeat' first
    | with_reducible assumption
    | (intro x; first | (refine (have hx : Keep s0 x := ?_; ?_); dsimp only [x]) | subst x | skip)
    | lift_lets
    | with_reducible exact Res.All.fault
    | with_reducible apply Res.All.next
    | with_reducible apply State.modTile_keep
    | with_reducible apply State.tileFault_keep
    | with_reducible apply thimbleAt_keep
    | split

theorem State.abandonThim_keep {s0 : State} {s : State} {p k : Nat} (kp : Keep s0 s) :
    Keep s0 (State.abandonThim s p k) := by
  unfold State.abandonThim
  repeat' first
    | with_reducible assumption
    | (intro x; first | (refine (have hx : Keep s0 x := ?_; ?_); dsimp only [x]) | subst x | skip)
    | lift_lets
    | with_reducible apply State.modTile_keep
    | with_reducible apply State.ringWake_keep
    | split

theorem execThimbleAbandoned_keep {s0 : State} {pkt : Pkt} {s : State} (kp : Keep s0 s) :
    Res.All (Keep s0) (execThimbleAbandoned pkt s) := by
  unfold execThimbleAbandoned
  repeat' first
    | with_reducible assumption
    | (intro x; first | (refine (have hx : Keep s0 x := ?_; ?_); dsimp only [x]) | subst x | skip)
    | lift_lets
    | with_reducible exact Res.All.fault
    | with_reducible apply Res.All.next
    | with_reducible apply State.abandonThim_keep
    | with_reducible apply thimbleAt_keep
    | split

theorem execThimbleRetry_keep {s0 : State} {pkt : Pkt} {s : State} (kp : Keep s0 s) :
    Res.All (Keep s0) (execThimbleRetry pkt s) := by
  unfold execThimbleRetry
  repeat' first
    | with_reducible assumption
    | (intro x; first | (refine (have hx : Keep s0 x := ?_; ?_); dsimp only [x]) | subst x | skip)
    | lift_lets
    | with_reducible exact Res.All.fault
    | with_reducible apply Res.All.next
    | with_reducible apply State.modTile_keep
    | with_reducible apply thimbleAt_keep
    | split

theorem execThimbleRerequest_keep {s0 : State} {tile : TileId} {reg : Fin 8} {s : State} (kp : Keep s0 s) :
    Res.All (Keep s0) (execThimbleRerequest tile reg s) := by
  unfold execThimbleRerequest
  repeat' first
    | with_reducible assumption
    | with_reducible exact Res.All.fault
    | with_reducible apply Res.All.next
    | with_reducible apply State.modTile_keep
    | with_reducible apply State.sendRequest_keep
    | split

theorem execSlotZeroed_keep {s0 : State} {tile : TileId} {ring : Fin 8} {slot : Fin 64} {s : State} (kp : Keep s0 s) :
    Res.All (Keep s0) (execSlotZeroed tile ring slot s) := by
  unfold execSlotZeroed
  repeat' first
    | with_reducible assumption
    | (intro x; first | (refine (have hx : Keep s0 x := ?_; ?_); dsimp only [x]) | subst x | skip)
    | lift_lets
    | with_reducible exact Res.All.fault
    | with_reducible apply Res.All.next
    | with_reducible apply State.addPacket_keep
    | with_reducible apply State.setTile_keep
    | (with_reducible apply Keep.upd; first | with_reducible assumption | with_reducible apply State.addPacket_keep | with_reducible apply State.setTile_keep | with_reducible apply Keep.foldl)
    | with_reducible apply Keep.foldl
    | split
    | dsimp only

end Sys2Proof.Machine
end

