-- ==== Sys2Proof/Laws/Keep/Links.lean ====
section
/-! SUPPORT. What the operations of `Machine/Links.lean` keep: the queue, the canonical form of memory, the fuses. -/

namespace Sys2Proof.Machine

theorem State.noteLanes_keep {s0 : State} {s : State} (kp : Keep s0 s) : Keep s0 (State.noteLanes s) := by
  unfold State.noteLanes
  repeat' first
    | with_reducible assumption
    | with_reducible apply State.wr_keep
    | split

theorem State.leaveUp_keep {s0 : State} {s : State} {n st : Nat} (kp : Keep s0 s) : Keep s0 (State.leaveUp s n st) := by
  unfold State.leaveUp
  repeat' first
    | with_reducible assumption
    | with_reducible apply State.flag_keep
    | with_reducible apply State.loseParent_keep
    | with_reducible apply State.modLink_keep
    | with_reducible apply State.noteLanes_keep
    | with_reducible apply State.noteManagerLink_keep
    | with_reducible apply State.refresh_keep
    | with_reducible apply State.wr_keep
    | split

theorem State.startTrain_keep {s0 : State} {s : State} {n : Nat} (kp : Keep s0 s) : Keep s0 (State.startTrain s n) := by
  unfold State.startTrain
  repeat' first
    | with_reducible assumption
    | with_reducible apply State.leaveUp_keep
    | with_reducible apply State.modLink_keep
    | split

theorem State.tryTrain_keep {s0 : State} {s : State} {n : Nat} (kp : Keep s0 s) : Keep s0 (State.tryTrain s n) := by
  unfold State.tryTrain
  repeat' first
    | with_reducible assumption
    | with_reducible apply State.startTrain_keep
    | split

theorem State.skipSlots_keep {s0 : State} {s : State} {n : Nat} (kp : Keep s0 s) : Keep s0 (State.skipSlots s n) := by
  unfold State.skipSlots
  repeat' first
    | with_reducible assumption
    | (with_reducible apply Keep.upd; with_reducible assumption)
    | split

theorem State.enterUp_keep {s0 : State} {s : State} {n : Nat} {cal : LinkCal} {full : Bool} (kp : Keep s0 s) :
    Keep s0 (State.enterUp s n cal full) := by
  unfold State.enterUp
  repeat' first
    | with_reducible assumption
    | with_reducible apply State.bump_keep
    | with_reducible apply State.modLink_keep
    | with_reducible apply State.noteLanes_keep
    | with_reducible apply State.noteManagerBack_keep
    | with_reducible apply State.queueCtl_keep
    | with_reducible apply State.refresh_keep
    | with_reducible apply State.skipSlots_keep
    | with_reducible apply State.wr_keep
    | split

theorem execLinkEnable_keep {s0 : State} {link : LinkId} {s : State} (kp : Keep s0 s) :
    Res.All (Keep s0) (execLinkEnable link s) := by
  unfold execLinkEnable
  repeat' first
    | with_reducible assumption
    | with_reducible exact Res.All.fault
    | with_reducible apply Res.All.next
    | with_reducible apply State.tryTrain_keep
    | with_reducible apply State.wr_keep
    | split

theorem State.trainEnds_keep {s0 : State} {s : State} {n result : Nat} (kp : Keep s0 s) :
    Keep s0 (State.trainEnds s n result) := by
  unfold State.trainEnds
  repeat' first
    | with_reducible assumption
    | with_reducible apply State.bump_keep
    | with_reducible apply State.wr_keep
    | split

theorem State.trainFail_keep {s0 : State} {s : State} {n result : Nat} (kp : Keep s0 s) :
    Keep s0 (State.trainFail s n result) := by
  unfold State.trainFail
  repeat' first
    | with_reducible assumption
    | (intro x; first | (refine (have hx : Keep s0 x := ?_; ?_); dsimp only [x]) | subst x | skip)
    | lift_lets
    | with_reducible apply State.leaveUp_keep
    | with_reducible apply State.modLink_keep
    | with_reducible apply State.openFault_keep
    | with_reducible apply State.trainEnds_keep
    | with_reducible apply State.wr_keep
    | split

theorem execLinkPhyDone_keep {s0 : State} {link : LinkId} {lanes : List (Fin 4)} {s : State} (kp : Keep s0 s) :
    Res.All (Keep s0) (execLinkPhyDone link lanes s) := by
  unfold execLinkPhyDone
  repeat' first
    | with_reducible assumption
    | with_reducible exact Res.All.fault
    | with_reducible apply Res.All.next
    | with_reducible apply State.modLink_keep
    | with_reducible apply State.trainFail_keep
    | with_reducible apply State.wr_keep
    | split

theorem execLinkLockDone_keep {s0 : State} {link : LinkId} {nonce : Vector Byte 48} {s : State} (kp : Keep s0 s) :
    Res.All (Keep s0) (execLinkLockDone link nonce s) := by
  unfold execLinkLockDone
  repeat' first
    | with_reducible assumption
    | with_reducible exact Res.All.fault
    | with_reducible apply Res.All.next
    | with_reducible apply State.emit_keep
    | with_reducible apply State.modLink_keep
    | with_reducible apply State.wr_keep
    | split

theorem State.authFail_keep {s0 : State} {s : State} {n result : Nat} (kp : Keep s0 s) :
    Keep s0 (State.authFail s n result) := by
  unfold State.authFail
  repeat' first
    | with_reducible assumption
    | with_reducible apply State.leaveUp_keep
    | with_reducible apply State.trainEnds_keep
    | with_reducible apply State.wr_keep
    | split

theorem execAuthNonce_keep {s0 : State} {link : LinkId} {peer : AuthPeer} {s : State} (kp : Keep s0 s) :
    Res.All (Keep s0) (execAuthNonce link peer s) := by
  unfold execAuthNonce
  repeat' first
    | with_reducible assumption
    | with_reducible exact Res.All.fault
    | with_reducible apply Res.All.next
    | with_reducible apply State.authFail_keep
    | with_reducible apply State.emit_keep
    | with_reducible apply State.flag_keep
    | with_reducible apply State.modLink_keep
    | with_reducible apply State.wr_keep
    | split

theorem execAuthSignature_keep {s0 : State} {link : LinkId} {sig : List Byte} {cert : CertChain} {s : State} (kp :
    Keep s0 s) : Res.All (Keep s0) (execAuthSignature link sig cert s) := by
  unfold execAuthSignature
  repeat' first
    | with_reducible assumption
    | (intro x; first | (refine (have hx : Keep s0 x := ?_; ?_); dsimp only [x]) | subst x | skip)
    | lift_lets
    | with_reducible exact Res.All.fault
    | with_reducible apply Res.All.next
    | with_reducible apply State.authFail_keep
    | with_reducible apply State.flag_keep
    | with_reducible apply State.wr_keep
    | split

theorem execLinkUp_keep {s0 : State} {link : LinkId} {cal : LinkCal} {s : State} (kp : Keep s0 s) :
    Res.All (Keep s0) (execLinkUp link cal s) := by
  unfold execLinkUp
  repeat' first
    | with_reducible assumption
    | with_reducible exact Res.All.fault
    | with_reducible apply Res.All.next
    | with_reducible apply State.enterUp_keep
    | split

theorem execLinkRetryTimer_keep {s0 : State} {link : LinkId} {s : State} (kp : Keep s0 s) :
    Res.All (Keep s0) (execLinkRetryTimer link s) := by
  unfold execLinkRetryTimer
  repeat' first
    | with_reducible assumption
    | with_reducible exact Res.All.fault
    | with_reducible apply Res.All.next
    | with_reducible apply State.modLink_keep
    | with_reducible apply State.tryTrain_keep
    | split

theorem execTrainingStageFail_keep {s0 : State} {link : LinkId} {stage : TrainFail} {s : State} (kp : Keep s0 s) :
    Res.All (Keep s0) (execTrainingStageFail link stage s) := by
  unfold execTrainingStageFail
  repeat' first
    | with_reducible assumption
    | with_reducible exact Res.All.fault
    | with_reducible apply Res.All.next
    | with_reducible apply State.trainFail_keep
    | with_reducible apply State.wr_keep
    | split

theorem State.startRetrain_keep {s0 : State} {s : State} {n : Nat} {drop : Nat} (kp : Keep s0 s) :
    Keep s0 (State.startRetrain s n drop) := by
  unfold State.startRetrain
  repeat' first
    | with_reducible assumption
    | with_reducible apply State.leaveUp_keep
    | with_reducible apply State.modLink_keep
    | split

theorem execLossOfLock_keep {s0 : State} {link : LinkId} {s : State} (kp : Keep s0 s) :
    Res.All (Keep s0) (execLossOfLock link s) := by
  unfold execLossOfLock
  repeat' first
    | with_reducible assumption
    | with_reducible exact Res.All.fault
    | with_reducible apply Res.All.next
    | with_reducible apply State.startTrain_keep
    | split

theorem execLaneLoss_keep {s0 : State} {link : LinkId} {lanes : List (Fin 4)} {s : State} (kp : Keep s0 s) :
    Res.All (Keep s0) (execLaneLoss link lanes s) := by
  unfold execLaneLoss
  repeat' first
    | with_reducible assumption
    | with_reducible exact Res.All.fault
    | with_reducible apply Res.All.next
    | with_reducible apply State.startRetrain_keep
    | with_reducible apply State.startTrain_keep
    | split

theorem State.noteErrs_keep {s0 : State} {s : State} {n : Nat} {errs : LaneErrs} (kp : Keep s0 s) :
    Keep s0 (State.noteErrs s n errs) := by
  unfold State.noteErrs
  repeat' first
    | with_reducible assumption
    | with_reducible apply State.wr_keep
    | split

theorem execLaneErrorThreshold_keep {s0 : State} {link : LinkId} {errs : LaneErrs} {s : State} (kp : Keep s0 s) :
    Res.All (Keep s0) (execLaneErrorThreshold link errs s) := by
  unfold execLaneErrorThreshold
  repeat' first
    | with_reducible assumption
    | with_reducible exact Res.All.fault
    | with_reducible apply Res.All.next
    | with_reducible apply State.noteErrs_keep
    | with_reducible apply State.startRetrain_keep
    | split

theorem execRetrainDone_keep {s0 : State} {link : LinkId} {cal : LinkCal} {s : State} (kp : Keep s0 s) :
    Res.All (Keep s0) (execRetrainDone link cal s) := by
  unfold execRetrainDone
  repeat' first
    | with_reducible assumption
    | with_reducible exact Res.All.fault
    | with_reducible apply Res.All.next
    | with_reducible apply State.enterUp_keep
    | split

theorem State.giveUpRoutes_keep {s0 : State} {s : State} {n : Nat} (h : Keep s0 s) :
    Keep s0 (State.giveUpRoutes s n).2 := by
  unfold State.giveUpRoutes
  have inner : ∀ (e : Nat × Tile) (l : List Nat) (x : Bool × State), Keep s0 x.2 → Keep s0 (l.foldl (fun x k =>
      if (e.2.thim k).remote && ((e.2.thim k).mode == ThimMode.requested ||
          ((e.2.thim k).mode == ThimMode.draining && (e.2.thim k).form == 3)) && s.routeTo (e.2.thim k).dev == some n then
        (true, State.abandonThim x.2 e.1 k) else x) x).2 := by
    intro e l
    induction l with
    | nil => exact fun x hx => hx
    | cons k l ih =>
      intro x hx
      refine ih _ ?_
      dsimp only
      split
      · exact State.abandonThim_keep hx
      · exact hx
  have outer : ∀ (l : List (Nat × Tile)) (x : Bool × State), Keep s0 x.2 → Keep s0 (l.foldl (fun x e => (List.range 8).foldl
      (fun x k => if (e.2.thim k).remote && ((e.2.thim k).mode == ThimMode.requested ||
          ((e.2.thim k).mode == ThimMode.draining && (e.2.thim k).form == 3)) && s.routeTo (e.2.thim k).dev == some n then
        (true, State.abandonThim x.2 e.1 k) else x) x) x).2 := by
    intro l
    induction l with
    | nil => exact fun x hx => hx
    | cons e l ih => exact fun x hx => ih _ (inner e _ _ hx)
  exact outer _ _ h

theorem execLinkGiveUp_keep {s0 : State} {link : LinkId} {errs : LaneErrs} {s : State} (kp : Keep s0 s) :
    Res.All (Keep s0) (execLinkGiveUp link errs s) := by
  unfold execLinkGiveUp
  repeat' first
    | with_reducible assumption
    | (intro x; first | (refine (have hx : Keep s0 x := ?_; ?_); dsimp only [x]) | subst x | skip)
    | lift_lets
    | with_reducible exact Res.All.fault
    | with_reducible apply Res.All.next
    | with_reducible apply State.abandonNorm_keep
    | with_reducible apply State.bump_keep
    | with_reducible apply State.flag_keep
    | with_reducible apply State.giveUpRoutes_keep
    | with_reducible apply State.logRec_keep
    | with_reducible apply State.noteErrs_keep
    | with_reducible apply State.openFault_keep
    | with_reducible apply State.startRetrain_keep
    | with_reducible apply State.startTrain_keep
    | with_reducible apply State.wr_keep
    | split

theorem execLinkRetrain_keep {s0 : State} {link : LinkId} {s : State} (kp : Keep s0 s) :
    Res.All (Keep s0) (execLinkRetrain link s) := by
  unfold execLinkRetrain
  repeat' first
    | with_reducible assumption
    | with_reducible exact Res.All.fault
    | with_reducible apply Res.All.next
    | with_reducible apply State.modLink_keep
    | with_reducible apply State.startTrain_keep
    | split

theorem execLinkReset_keep {s0 : State} {link : LinkId} {s : State} (kp : Keep s0 s) :
    Res.All (Keep s0) (execLinkReset link s) := by
  unfold execLinkReset
  repeat' first
    | with_reducible assumption
    | with_reducible exact Res.All.fault
    | with_reducible apply Res.All.next
    | with_reducible apply State.leaveUp_keep
    | with_reducible apply State.setLink_keep
    | with_reducible apply State.wr_keep
    | split

theorem execXarmArm_keep {s0 : State} {link : LinkId} {s : State} (kp : Keep s0 s) :
    Res.All (Keep s0) (execXarmArm link s) := by
  unfold execXarmArm
  repeat' first
    | with_reducible assumption
    | with_reducible exact Res.All.fault
    | with_reducible apply Res.All.next
    | with_reducible apply State.modLink_keep
    | split

theorem execXarmDone_keep {s0 : State} {link : LinkId} {s : State} (kp : Keep s0 s) :
    Res.All (Keep s0) (execXarmDone link s) := by
  unfold execXarmDone
  repeat' first
    | with_reducible assumption
    | with_reducible exact Res.All.fault
    | with_reducible apply Res.All.next
    | with_reducible apply State.modLink_keep
    | with_reducible apply State.tryTrain_keep
    | with_reducible apply State.wr_keep
    | split

end Sys2Proof.Machine
end

