-- ==== Sys2Proof/Laws/Keep/Blocks.lean ====
section
/-! SUPPORT. What the operations of `Machine/Blocks.lean` keep: the queue, the canonical form of memory, the fuses. -/

namespace Sys2Proof.Machine

theorem State.hashSent_keep {s0 : State} {s : State} {w : WinSt} {k : Nat} {payload : List Byte} (kp : Keep s0 s) :
    Keep s0 (State.hashSent s w k payload) := by
  unfold State.hashSent
  repeat' first
    | with_reducible assumption
    | (intro x; first | (refine (have hx : Keep s0 x := ?_; ?_); dsimp only [x]) | subst x | skip)
    | lift_lets
    | (with_reducible apply Keep.upd; with_reducible assumption)
    | split
    | dsimp only

theorem State.countResend_keep {s0 : State} {s : State} {n : Nat} {win : Bool} {id : Nat} (kp : Keep s0 s) :
    Keep s0 (State.countResend s n win id) := by
  unfold State.countResend
  repeat' first
    | with_reducible assumption
    | (intro x; first | (refine (have hx : Keep s0 x := ?_; ?_); dsimp only [x]) | subst x | skip)
    | lift_lets
    | with_reducible apply State.bump_keep
    | with_reducible apply State.flag_keep
    | with_reducible apply State.modLink_keep
    | (with_reducible apply Keep.upd; with_reducible assumption)
    | split
    | dsimp only

theorem State.newBlock_keep {s0 : State} {s : State} {n : Nat} (kp : Keep s0 s) : Keep s0 (State.newBlock s n).2 := by
  unfold State.newBlock
  repeat' first
    | with_reducible assumption
    | (intro x; first | (refine (have hx : Keep s0 x := ?_; ?_); dsimp only [x]) | subst x | skip)
    | lift_lets
    | with_reducible apply State.setLink_keep
    | split

theorem State.pickItem_keep {s0 : State} {s : State} {n : Nat} (h : Keep s0 s) : Keep s0 (State.pickItem s n).2 := by
  have hn : Keep s0 (s.newBlock n).2 := State.newBlock_keep h
  unfold State.pickItem
  dsimp only
  split
  · exact State.hashSent_keep h
  · split
    · exact State.countResend_keep (State.modLink_keep (State.hashSent_keep h))
    · split
      · exact State.countResend_keep (State.modLink_keep h)
      · split
        · rename_i he
          rw [he] at hn
          exact hn
        · rename_i he
          rw [he] at hn
          exact hn

theorem State.pickAck_keep {s0 : State} {s : State} {n : Nat} (kp : Keep s0 s) : Keep s0 (State.pickAck s n).2.2 := by
  unfold State.pickAck
  repeat' first
    | with_reducible assumption
    | (intro x; first | (refine (have hx : Keep s0 x := ?_; ?_); dsimp only [x]) | subst x | skip)
    | lift_lets
    | with_reducible apply State.setLink_keep
    | split

theorem State.pruneBudgets_keep {s0 : State} {s : State} {n : Nat} (kp : Keep s0 s) :
    Keep s0 (State.pruneBudgets s n) := by
  unfold State.pruneBudgets
  repeat' first
    | with_reducible assumption
    | with_reducible apply State.modLink_keep
    | split

theorem execBlockSlot_keep {s0 : State} {link : LinkId} {frac : BitVec 16} {s : State} (kp : Keep s0 s) :
    Res.All (Keep s0) (execBlockSlot link frac s) := by
  unfold execBlockSlot
  repeat' first
    | with_reducible assumption
    | (intro x; first | (refine (have hx : Keep s0 x := ?_; ?_); dsimp only [x]) | subst x | skip)
    | lift_lets
    | with_reducible exact Res.All.fault
    | with_reducible apply Res.All.next
    | with_reducible apply State.emit_keep
    | with_reducible apply State.modLink_keep
    | with_reducible apply State.pickAck_keep
    | with_reducible apply State.pickItem_keep
    | with_reducible apply State.pruneBudgets_keep
    | with_reducible apply State.setLink_keep
    | (with_reducible apply Keep.upd; with_reducible assumption)
    | split
    | dsimp only

theorem State.takeSide_keep {s0 : State} {s : State} {n : Nat} {c : BlockCtl} {arr : Nat} (h : Keep s0 s) :
    Keep s0 (State.takeSide s n c arr) := by
  unfold State.takeSide
  dsimp only
  have ht : ∀ f, Keep s0 ((s.modLink n f).noteManagerBack n) := fun f => State.noteManagerBack_keep (State.modLink_keep h)
  have hm : ∀ f, Keep s0 (s.modLink n f) := fun f => State.modLink_keep h
  refine Keep.iteT _ (ht _) (Keep.iteT _ (ht _) (Keep.iteT _ (ht _) (Keep.iteT _ (ht _) (Keep.iteT _ (ht _)
    (Keep.iteT _ (State.treeArrived_keep h) (Keep.iteT _ (State.acceptRelease_keep h) (Keep.iteT _ (State.acceptHold_keep h)
      (Keep.iteT _ (Keep.iteT _ (Keep.iteT _ (State.acceptResume_keep h) (State.acceptAbort_keep h)) h) ?_))))))))
  first
    | exact h
    | (repeat' split) <;> first
      | exact h
      | exact hm _

theorem State.takeAck_keep {s0 : State} {s : State} {n q : Nat} (kp : Keep s0 s) : Keep s0 (State.takeAck s n q) := by
  unfold State.takeAck
  repeat' first
    | with_reducible assumption
    | (intro x; first | (refine (have hx : Keep s0 x := ?_; ?_); dsimp only [x]) | subst x | skip)
    | lift_lets
    | with_reducible apply State.modLink_keep
    | (with_reducible apply Keep.upd; with_reducible assumption)
    | split
    | dsimp only

theorem State.takeNak_keep {s0 : State} {s : State} {n q : Nat} (kp : Keep s0 s) : Keep s0 (State.takeNak s n q) := by
  unfold State.takeNak
  repeat' first
    | with_reducible assumption
    | with_reducible apply State.modLink_keep
    | split

theorem State.takeWinNak_keep {s0 : State} {s : State} {n id : Nat} (kp : Keep s0 s) :
    Keep s0 (State.takeWinNak s n id) := by
  unfold State.takeWinNak
  repeat' first
    | with_reducible assumption
    | (intro x; first | (refine (have hx : Keep s0 x := ?_; ?_); dsimp only [x]) | subst x | skip)
    | lift_lets
    | with_reducible apply State.modLink_keep
    | split

theorem State.takeAk_keep {s0 : State} {s : State} {n : Nat} {c : BlockCtl} (kp : Keep s0 s) :
    Keep s0 (State.takeAk s n c) := by
  unfold State.takeAk
  repeat' first
    | with_reducible assumption
    | (intro x; first | (refine (have hx : Keep s0 x := ?_; ?_); dsimp only [x]) | subst x | skip)
    | lift_lets
    | with_reducible apply State.takeAck_keep
    | with_reducible apply State.takeNak_keep
    | with_reducible apply State.takeWinNak_keep
    | split

theorem State.floodOn_keep {s0 : State} {s : State} {n : Nat} {payload : List Byte} (kp : Keep s0 s) :
    Keep s0 (State.floodOn s n payload).2 := by
  unfold State.floodOn
  repeat' first
    | with_reducible assumption
    | (intro x; first | (refine (have hx : Keep s0 x := ?_; ?_); dsimp only [x]) | subst x | skip)
    | lift_lets
    | with_reducible apply State.queueCtl_keep
    | (with_reducible apply Keep.upd; first | with_reducible assumption | with_reducible apply State.queueCtl_keep | with_reducible apply Keep.foldl)
    | with_reducible apply Keep.foldl
    | split
    | dsimp only

theorem State.takeMessage_keep {s0 : State} {s : State} {n : Nat} {m : List Byte} (kp : Keep s0 s) :
    Keep s0 (State.takeMessage s n m) := by
  unfold State.takeMessage
  repeat' first
    | with_reducible assumption
    | (intro x; first | (refine (have hx : Keep s0 x := ?_; ?_); dsimp only [x]) | subst x | skip)
    | lift_lets
    | with_reducible apply State.bump_keep
    | with_reducible apply State.logRec_keep
    | with_reducible apply State.modLink_keep
    | split

theorem State.takeFragment_keep {s0 : State} {s : State} {n : Nat} {payload : List Byte} (kp : Keep s0 s) :
    Keep s0 (State.takeFragment s n payload) := by
  unfold State.takeFragment
  repeat' first
    | with_reducible assumption
    | (intro x; first | (refine (have hx : Keep s0 x := ?_; ?_); dsimp only [x]) | subst x | skip)
    | lift_lets
    | with_reducible apply State.floodOn_keep
    | with_reducible apply State.modLink_keep
    | with_reducible apply State.queueCtl_keep
    | with_reducible apply State.takeMessage_keep
    | split

theorem State.takeCtl_keep {s0 : State} {s : State} {n : Nat} {payload : List Byte} (kp : Keep s0 s) :
    Keep s0 (State.takeCtl s n payload) := by
  unfold State.takeCtl
  repeat' first
    | with_reducible assumption
    | (intro x; first | (refine (have hx : Keep s0 x := ?_; ?_); dsimp only [x]) | subst x | skip)
    | lift_lets
    | with_reducible apply State.acceptEpoch_keep
    | with_reducible apply State.acceptParam_keep
    | with_reducible apply State.takeFragment_keep
    | split

theorem State.takeInOrder_keep {s0 : State} {s : State} {n kind : Nat} {payload : List Byte} (kp : Keep s0 s) :
    Keep s0 (State.takeInOrder s n kind payload) := by
  unfold State.takeInOrder
  repeat' first
    | with_reducible assumption
    | with_reducible apply State.modLink_keep
    | with_reducible apply State.takeCtl_keep
    | split

theorem State.takeHeld_keep {s0 : State} {n k : Nat} {s : State} (h : Keep s0 s) : Keep s0 (State.takeHeld n k s) := by
  induction k generalizing s with
  | zero => exact h
  | succ k ih =>
    simp only [State.takeHeld]
    split
    · exact ih (State.takeInOrder_keep (State.modLink_keep h))
    · exact h

theorem State.takeSequenced_keep {s0 : State} {s : State} {n : Nat} {c : BlockCtl} {payload : List Byte} (kp : Keep
    s0 s) : Keep s0 (State.takeSequenced s n c payload) := by
  unfold State.takeSequenced
  repeat' first
    | with_reducible assumption
    | (intro x; first | (refine (have hx : Keep s0 x := ?_; ?_); dsimp only [x]) | subst x | skip)
    | lift_lets
    | with_reducible apply State.modLink_keep
    | with_reducible apply State.takeHeld_keep
    | with_reducible apply State.takeInOrder_keep
    | split

theorem State.takeWin_keep {s0 : State} {s : State} {n : Nat} {c : BlockCtl} {payload : List Byte} (kp : Keep s0 s) :
    Keep s0 (State.takeWin s n c payload) := by
  unfold State.takeWin
  repeat' first
    | with_reducible assumption
    | (intro x; first | (refine (have hx : Keep s0 x := ?_; ?_); dsimp only [x]) | subst x | skip)
    | lift_lets
    | with_reducible apply State.clearHold_keep
    | with_reducible apply State.modLink_keep
    | (with_reducible apply Keep.upd; with_reducible assumption)
    | split
    | dsimp only

theorem State.blockFailed_keep {s0 : State} {s : State} {n arr : Nat} (kp : Keep s0 s) :
    Keep s0 (State.blockFailed s n arr) := by
  unfold State.blockFailed
  repeat' first
    | with_reducible assumption
    | with_reducible apply State.bump_keep
    | with_reducible apply State.flag_keep
    | with_reducible apply State.modLink_keep
    | split

theorem State.countFec_keep {s0 : State} {s : State} {n corr uncorr : Nat} (kp : Keep s0 s) :
    Keep s0 (State.countFec s n corr uncorr) := by
  unfold State.countFec
  repeat' first
    | with_reducible assumption
    | with_reducible apply State.bump_keep
    | with_reducible apply State.modLink_keep
    | split

theorem State.followPeer_keep {s0 : State} {s : State} {n : Nat} (kp : Keep s0 s) : Keep s0 (State.followPeer s n) := by
  unfold State.followPeer
  repeat' first
    | with_reducible assumption
    | with_reducible apply State.modLink_keep
    | with_reducible apply State.startTrain_keep
    | split

theorem execBlockReceive_keep {s0 : State} {link : LinkId} {rx : RxBlock} {s : State} (kp : Keep s0 s) :
    Res.All (Keep s0) (execBlockReceive link rx s) := by
  unfold execBlockReceive
  repeat' first
    | with_reducible assumption
    | (intro x; first | (refine (have hx : Keep s0 x := ?_; ?_); dsimp only [x]) | subst x | skip)
    | lift_lets
    | with_reducible exact Res.All.fault
    | with_reducible apply Res.All.next
    | with_reducible apply State.blockFailed_keep
    | with_reducible apply State.countFec_keep
    | with_reducible apply State.followPeer_keep
    | with_reducible apply State.modLink_keep
    | with_reducible apply State.startTrain_keep
    | with_reducible apply State.takeAk_keep
    | with_reducible apply State.takeSequenced_keep
    | with_reducible apply State.takeSide_keep
    | with_reducible apply State.takeWin_keep
    | split

end Sys2Proof.Machine
end

