-- ==== Sys2Proof/Laws/Keep/Commit.lean ====
section
/-! SUPPORT. What the operations of `Machine/Commit.lean` keep: the queue, the canonical form of memory, the fuses. -/

namespace Sys2Proof.Machine

theorem State.sendFold_keep {s0 : State} {s : State} {f : Fold} (kp : Keep s0 s) : Keep s0 (State.sendFold s f) := by
  unfold State.sendFold
  repeat' first
    | with_reducible assumption
    | (intro x; first | (refine (have hx : Keep s0 x := ?_; ?_); dsimp only [x]) | subst x | skip)
    | lift_lets
    | with_reducible apply State.queueCtl_keep
    | (with_reducible apply Keep.upd; with_reducible assumption)
    | split
    | dsimp only

theorem execFoldSend_keep {s0 : State} {s : State} (kp : Keep s0 s) : Res.All (Keep s0) (execFoldSend s) := by
  unfold execFoldSend
  repeat' first
    | with_reducible assumption
    | (intro x; first | (refine (have hx : Keep s0 x := ?_; ?_); dsimp only [x]) | subst x | skip)
    | lift_lets
    | with_reducible exact Res.All.fault
    | with_reducible apply Res.All.next
    | with_reducible apply State.sendFold_keep
    | split

theorem execHemFold_keep {s0 : State} {msg : MsgId} {fold : Fold} {s : State} (kp : Keep s0 s) :
    Res.All (Keep s0) (execHemFold msg fold s) := by
  unfold execHemFold
  repeat' first
    | with_reducible assumption
    | (intro x; first | (refine (have hx : Keep s0 x := ?_; ?_); dsimp only [x]) | subst x | skip)
    | lift_lets
    | with_reducible exact Res.All.fault
    | with_reducible apply Res.All.next
    | with_reducible apply State.bump_keep
    | with_reducible apply State.modLink_keep
    | with_reducible apply State.takeMsg_keep
    | (with_reducible apply Keep.upd; first | with_reducible assumption | with_reducible apply State.bump_keep | with_reducible apply State.modLink_keep | with_reducible apply State.takeMsg_keep | with_reducible apply Keep.foldl)
    | with_reducible apply Keep.foldl
    | split
    | dsimp only

end Sys2Proof.Machine
end

