-- ==== Sys2Proof/Laws/Keep/Recovery.lean ====
section
/-! SUPPORT. What the operations of `Machine/Recovery.lean` keep: the queue, the canonical form of memory, the fuses. -/

namespace Sys2Proof.Machine

theorem State.mutualFault_keep {s0 : State} {s : State} {a b : Nat} (kp : Keep s0 s) :
    Keep s0 (State.mutualFault s a b) := by
  unfold State.mutualFault
  repeat' first
    | with_reducible assumption
    | with_reducible apply State.tileFault_keep
    | split

theorem State.askPeers_keep {s0 : State} {s : State} (kp : Keep s0 s) : Keep s0 (State.askPeers s) := by
  unfold State.askPeers
  repeat' first
    | with_reducible assumption
    | (intro x; first | (refine (have hx : Keep s0 x := ?_; ?_); dsimp only [x]) | subst x | skip)
    | lift_lets
    | with_reducible apply State.sendMsg_keep
    | (with_reducible apply Keep.upd; first | with_reducible assumption | with_reducible apply State.sendMsg_keep | with_reducible apply Keep.foldl)
    | with_reducible apply Keep.foldl
    | split
    | dsimp only

theorem State.watchdogFires_keep {s0 : State} {s : State} (kp : Keep s0 s) : Keep s0 (State.watchdogFires s) := by
  unfold State.watchdogFires
  repeat' first
    | with_reducible assumption
    | (intro x; first | (refine (have hx : Keep s0 x := ?_; ?_); dsimp only [x]) | subst x | skip)
    | lift_lets
    | with_reducible apply State.askPeers_keep
    | with_reducible apply State.flag_keep
    | with_reducible apply State.logRec_keep
    | with_reducible apply State.mutualFault_keep
    | with_reducible apply State.openFault_keep
    | (with_reducible apply Keep.upd; first | with_reducible assumption | with_reducible apply State.askPeers_keep | with_reducible apply State.flag_keep | with_reducible apply State.logRec_keep | with_reducible apply State.mutualFault_keep | with_reducible apply State.openFault_keep | with_reducible apply Keep.foldl)
    | with_reducible apply Keep.foldl
    | split
    | dsimp only

theorem execPhaseWatchdog_keep {s0 : State} {s : State} (kp : Keep s0 s) : Res.All (Keep s0) (execPhaseWatchdog s) := by
  unfold execPhaseWatchdog
  repeat' first
    | with_reducible assumption
    | (intro x; first | (refine (have hx : Keep s0 x := ?_; ?_); dsimp only [x]) | subst x | skip)
    | lift_lets
    | with_reducible exact Res.All.fault
    | with_reducible apply Res.All.next
    | with_reducible apply State.watchdogFires_keep
    | (with_reducible apply Keep.upd; with_reducible assumption)
    | split
    | dsimp only

theorem execMwQuery_keep {s0 : State} {msg : MsgId} {q : MwPair} {s : State} (kp : Keep s0 s) :
    Res.All (Keep s0) (execMwQuery msg q s) := by
  unfold execMwQuery
  repeat' first
    | with_reducible assumption
    | (intro x; first | (refine (have hx : Keep s0 x := ?_; ?_); dsimp only [x]) | subst x | skip)
    | lift_lets
    | with_reducible exact Res.All.fault
    | with_reducible apply Res.All.next
    | with_reducible apply State.sendMsg_keep
    | with_reducible apply State.takeMsg_keep
    | with_reducible apply State.wr_keep
    | split

theorem execMwReply_keep {s0 : State} {msg : MsgId} {q : MwPair} {s : State} (kp : Keep s0 s) :
    Res.All (Keep s0) (execMwReply msg q s) := by
  unfold execMwReply
  repeat' first
    | with_reducible assumption
    | (intro x; first | (refine (have hx : Keep s0 x := ?_; ?_); dsimp only [x]) | subst x | skip)
    | lift_lets
    | with_reducible exact Res.All.fault
    | with_reducible apply Res.All.next
    | with_reducible apply State.takeMsg_keep
    | with_reducible apply State.wr_keep
    | split

theorem execFaultReport_keep {s0 : State} {msg : MsgId} {step : Word64} {rc : FaultRec} {s : State} (kp : Keep s0 s) :
    Res.All (Keep s0) (execFaultReport msg step rc s) := by
  unfold execFaultReport
  repeat' first
    | with_reducible assumption
    | (intro x; first | (refine (have hx : Keep s0 x := ?_; ?_); dsimp only [x]) | subst x | skip)
    | lift_lets
    | with_reducible exact Res.All.fault
    | with_reducible apply Res.All.next
    | with_reducible apply State.endInWindow_keep
    | with_reducible apply State.logRec_keep
    | with_reducible apply State.sendRelease_keep
    | with_reducible apply State.takeMsg_keep
    | (with_reducible apply Keep.upd; with_reducible assumption)
    | split
    | dsimp only

theorem State.stageClaims_keep {s0 : State} {s : State} (kp : Keep s0 s) : Keep s0 (State.stageClaims s) := by
  unfold State.stageClaims
  repeat' first
    | with_reducible assumption
    | (intro x; first | (refine (have hx : Keep s0 x := ?_; ?_); dsimp only [x]) | subst x | skip)
    | lift_lets
    | with_reducible apply State.bump_keep
    | with_reducible apply State.logRec_keep
    | (with_reducible apply Keep.upd; first | with_reducible assumption | with_reducible apply State.bump_keep | with_reducible apply State.logRec_keep | with_reducible apply Keep.foldl)
    | with_reducible apply Keep.foldl
    | split
    | dsimp only

theorem State.rewindTiles_keep {s0 : State} {s : State} (kp : Keep s0 s) : Keep s0 (State.rewindTiles s) := by
  unfold State.rewindTiles
  repeat' first
    | with_reducible assumption
    | (intro x; first | (refine (have hx : Keep s0 x := ?_; ?_); dsimp only [x]) | subst x | skip)
    | lift_lets
    | with_reducible apply State.bindSpools_keep
    | with_reducible apply State.mapTiles_keep
    | with_reducible apply State.modTile_keep
    | with_reducible apply State.wr_keep
    | (with_reducible apply Keep.upd; first | with_reducible assumption | with_reducible apply State.bindSpools_keep | with_reducible apply State.mapTiles_keep | with_reducible apply State.modTile_keep | with_reducible apply State.wr_keep | with_reducible apply Keep.foldl)
    | with_reducible apply Keep.foldl
    | split
    | dsimp only

theorem State.restoreBlocks_keep {s0 : State} {s : State} (kp : Keep s0 s) : Keep s0 (State.restoreBlocks s) := by
  unfold State.restoreBlocks
  repeat' first
    | with_reducible assumption
    | (intro x; first | (refine (have hx : Keep s0 x := ?_; ?_); dsimp only [x]) | subst x | skip)
    | lift_lets
    | with_reducible apply State.bump_keep
    | (with_reducible apply Keep.upd; with_reducible assumption)
    | split
    | dsimp only

theorem execRewindDone_keep {s0 : State} {s : State} (kp : Keep s0 s) : Res.All (Keep s0) (execRewindDone s) := by
  unfold execRewindDone
  repeat' first
    | with_reducible assumption
    | (intro x; first | (refine (have hx : Keep s0 x := ?_; ?_); dsimp only [x]) | subst x | skip)
    | lift_lets
    | with_reducible exact Res.All.fault
    | with_reducible apply Res.All.next
    | with_reducible apply State.endInWindow_keep
    | with_reducible apply State.restoreBlocks_keep
    | with_reducible apply State.rewindTiles_keep
    | with_reducible apply State.stageClaims_keep
    | with_reducible apply State.wr_keep
    | (with_reducible apply Keep.upd; with_reducible assumption)
    | split
    | dsimp only

theorem execRewindTimeout_keep {s0 : State} {s : State} (kp : Keep s0 s) : Res.All (Keep s0) (execRewindTimeout s) := by
  unfold execRewindTimeout
  repeat' first
    | with_reducible assumption
    | (intro x; first | (refine (have hx : Keep s0 x := ?_; ?_); dsimp only [x]) | subst x | skip)
    | lift_lets
    | with_reducible exact Res.All.fault
    | with_reducible apply Res.All.next
    | with_reducible apply State.endVisibly_keep
    | with_reducible apply State.logRec_keep
    | with_reducible apply State.wr_keep
    | (with_reducible apply Keep.upd; with_reducible assumption)
    | split
    | dsimp only

theorem execDecisionReq_keep {s0 : State} {msg : MsgId} {step : Word64} {s : State} (kp : Keep s0 s) :
    Res.All (Keep s0) (execDecisionReq msg step s) := by
  unfold execDecisionReq
  repeat' first
    | with_reducible assumption
    | (intro x; first | (refine (have hx : Keep s0 x := ?_; ?_); dsimp only [x]) | subst x | skip)
    | lift_lets
    | with_reducible exact Res.All.fault
    | with_reducible apply Res.All.next
    | with_reducible apply State.sendMsg_keep
    | with_reducible apply State.takeMsg_keep
    | split

theorem execThawWindowExpiry_keep {s0 : State} {core : Fin 20} {resumed : Bool} {s : State} (kp : Keep s0 s) :
    Res.All (Keep s0) (execThawWindowExpiry core resumed s) := by
  unfold execThawWindowExpiry
  repeat' first
    | with_reducible assumption
    | with_reducible exact Res.All.fault
    | with_reducible apply Res.All.next
    | with_reducible apply State.endNorm_keep
    | with_reducible apply State.openFault_keep
    | (with_reducible apply Keep.upd; with_reducible assumption)
    | split

end Sys2Proof.Machine
end

