-- ==== Sys2Proof/Laws/Keep/Survival.lean ====
section
/-! SUPPORT. What the operations of `Machine/Survival.lean` keep: the queue, the canonical form of memory, the fuses. -/

namespace Sys2Proof.Machine

theorem State.setMeasurement_keep {s0 : State} {s : State} {i : Nat} {v : List Byte} (kp : Keep s0 s) :
    Keep s0 (State.setMeasurement s i v) := by
  unfold State.setMeasurement
  repeat' first
    | with_reducible assumption
    | (intro x; first | (refine (have hx : Keep s0 x := ?_; ?_); dsimp only [x]) | subst x | skip)
    | lift_lets
    | (with_reducible apply Keep.upd; first | with_reducible assumption | with_reducible apply Keep.foldl)
    | with_reducible apply Keep.foldl
    | split
    | (with_reducible apply Keep.updSec; first | with_reducible assumption)
    | dsimp only

theorem State.extend_keep {s0 : State} {s : State} {i : Nat} {x : List Byte} (kp : Keep s0 s) :
    Keep s0 (State.extend s i x) := by
  unfold State.extend
  repeat' first
    | with_reducible assumption
    | with_reducible apply State.setMeasurement_keep
    | split

theorem State.relock_keep {s0 : State} {s : State} (kp : Keep s0 s) : Keep s0 (State.relock s) := by
  unfold State.relock
  repeat' first
    | with_reducible assumption
    | (intro x; first | (refine (have hx : Keep s0 x := ?_; ?_); dsimp only [x]) | subst x | skip)
    | lift_lets
    | with_reducible apply State.extend_keep
    | with_reducible apply State.setMeasurement_keep
    | (with_reducible apply Keep.upd; first | with_reducible assumption | with_reducible apply State.extend_keep | with_reducible apply State.setMeasurement_keep | with_reducible apply Keep.foldl)
    | with_reducible apply Keep.foldl
    | split
    | (with_reducible apply Keep.updSec; first | with_reducible assumption | with_reducible apply State.extend_keep | with_reducible apply State.setMeasurement_keep)
    | dsimp only

theorem State.gradePower_keep {s0 : State} {s : State} (kp : Keep s0 s) : Keep s0 (State.gradePower s) := by
  unfold State.gradePower
  repeat' first
    | with_reducible assumption
    | with_reducible apply State.wr_keep
    | split

theorem State.coldState_keep {s0 : State} {s : State} (h : Keep s0 s) : Keep s0 (State.coldState s) := by
  unfold State.coldState
  refine State.gradePower_keep ⟨h.queue, fun _ => rfl, ⟨h.fuses.fwSvn, h.fuses.cfgSvn, h.fuses.mark, h.fuses.revoked,
    h.fuses.dies, h.fuses.serial, h.fuses.grade, h.fuses.capacity⟩⟩

theorem State.resetP_keep {s0 : State} {s : State} (kp : Keep s0 s) : Keep s0 (State.resetP s) := by
  unfold State.resetP
  repeat' first
    | with_reducible assumption
    | (intro x; first | (refine (have hx : Keep s0 x := ?_; ?_); dsimp only [x]) | subst x | skip)
    | lift_lets
    | with_reducible apply State.coldState_keep
    | (with_reducible apply Keep.upd; with_reducible assumption)
    | split
    | dsimp only

theorem State.resetW_keep {s0 : State} {s : State} {cause : Nat} (kp : Keep s0 s) : Keep s0 (State.resetW s cause) := by
  unfold State.resetW
  repeat' first
    | with_reducible assumption
    | (intro x; first | (refine (have hx : Keep s0 x := ?_; ?_); dsimp only [x]) | subst x | skip)
    | lift_lets
    | with_reducible apply State.coldState_keep
    | with_reducible apply State.wr_keep
    | (with_reducible apply Keep.upd; with_reducible assumption)
    | split
    | dsimp only

theorem State.haltAll_keep {s0 : State} {s : State} (kp : Keep s0 s) : Keep s0 (State.haltAll s) := by
  unfold State.haltAll
  repeat' first
    | with_reducible assumption
    | with_reducible apply State.haltStep_keep
    | split

theorem State.powerOff_keep {s0 : State} {s : State} {causes : List Nat} (kp : Keep s0 s) :
    Keep s0 (State.powerOff s causes) := by
  unfold State.powerOff
  repeat' first
    | with_reducible assumption
    | (intro x; first | (refine (have hx : Keep s0 x := ?_; ?_); dsimp only [x]) | subst x | skip)
    | lift_lets
    | with_reducible apply State.coldState_keep
    | with_reducible apply State.haltAll_keep
    | (with_reducible apply Keep.upd; with_reducible assumption)
    | split
    | dsimp only

theorem State.resetF_keep {s0 : State} {s : State} (kp : Keep s0 s) : Keep s0 (State.resetF s) := by
  unfold State.resetF
  repeat' first
    | with_reducible assumption
    | (intro x; first | (refine (have hx : Keep s0 x := ?_; ?_); dsimp only [x]) | subst x | skip)
    | lift_lets
    | with_reducible apply State.mapTiles_keep
    | with_reducible apply State.relock_keep
    | with_reducible apply State.resetRegs_keep
    | with_reducible apply State.wr_keep
    | (with_reducible apply Keep.upd; first | with_reducible assumption | with_reducible apply State.mapTiles_keep | with_reducible apply State.relock_keep | with_reducible apply State.resetRegs_keep | with_reducible apply State.wr_keep | with_reducible apply Keep.foldl)
    | with_reducible apply Keep.foldl
    | split
    | (with_reducible apply Keep.updSec; first | with_reducible assumption | with_reducible apply State.mapTiles_keep | with_reducible apply State.relock_keep | with_reducible apply State.resetRegs_keep | with_reducible apply State.wr_keep)
    | dsimp only

theorem State.resetJ_keep {s0 : State} {s : State} (kp : Keep s0 s) : Keep s0 (State.resetJ s) := by
  unfold State.resetJ
  repeat' first
    | with_reducible assumption
    | (intro x; first | (refine (have hx : Keep s0 x := ?_; ?_); dsimp only [x]) | subst x | skip)
    | lift_lets
    | with_reducible apply State.abandonTrees_keep
    | with_reducible apply State.flag_keep
    | with_reducible apply State.mapTiles_keep
    | with_reducible apply State.refresh_keep
    | with_reducible apply State.relock_keep
    | with_reducible apply State.resetRegs_keep
    | with_reducible apply State.setMeasurement_keep
    | with_reducible apply State.wr_keep
    | (with_reducible apply Keep.upd; with_reducible assumption)
    | split
    | dsimp only

theorem State.thawCore_keep {s0 : State} {s : State} {core : Nat} (kp : Keep s0 s) :
    Keep s0 (State.thawCore s core) := by
  unfold State.thawCore
  repeat' first
    | with_reducible assumption
    | (intro x; first | (refine (have hx : Keep s0 x := ?_; ?_); dsimp only [x]) | subst x | skip)
    | lift_lets
    | with_reducible apply State.logRec_keep
    | with_reducible apply State.openFault_keep
    | with_reducible apply State.resetRegs_keep
    | (with_reducible apply Keep.upd; with_reducible assumption)
    | split
    | dsimp only

theorem State.thawHeld_keep {s0 : State} {s : State} (kp : Keep s0 s) : Keep s0 (State.thawHeld s) := by
  unfold State.thawHeld
  repeat' first
    | with_reducible assumption
    | (intro x; first | (refine (have hx : Keep s0 x := ?_; ?_); dsimp only [x]) | subst x | skip)
    | lift_lets
    | with_reducible apply State.thawCore_keep
    | (with_reducible apply Keep.upd; first | with_reducible assumption | with_reducible apply State.thawCore_keep | with_reducible apply Keep.foldl)
    | with_reducible apply Keep.foldl
    | split
    | dsimp only

theorem State.resetD_keep {s0 : State} {s : State} {standby : Bool} (kp : Keep s0 s) :
    Keep s0 (State.resetD s standby) := by
  unfold State.resetD
  repeat' first
    | with_reducible assumption
    | (intro x; first | (refine (have hx : Keep s0 x := ?_; ?_); dsimp only [x]) | subst x | skip)
    | lift_lets
    | with_reducible apply State.relock_keep
    | with_reducible apply State.resetRegs_keep
    | (with_reducible apply Keep.upd; with_reducible assumption)
    | split
    | dsimp only

theorem State.drowseExit_keep {s0 : State} {s : State} {standby : Bool} (kp : Keep s0 s) :
    Keep s0 (State.drowseExit s standby) := by
  unfold State.drowseExit
  repeat' first
    | with_reducible assumption
    | (intro x; first | (refine (have hx : Keep s0 x := ?_; ?_); dsimp only [x]) | subst x | skip)
    | lift_lets
    | with_reducible apply State.placeTiles_keep
    | with_reducible apply State.resetD_keep
    | with_reducible apply State.wr_keep
    | split

end Sys2Proof.Machine
end

