-- ==== Sys2Proof/Laws/Keep/Power.lean ====
section
/-! SUPPORT. What the operations of `Machine/Power.lean` keep: the queue, the canonical form of memory, the fuses. -/

namespace Sys2Proof.Machine

theorem execInputQualified_keep {s0 : State} {s : State} (kp : Keep s0 s) :
    Res.All (Keep s0) (execInputQualified s) := by
  unfold execInputQualified
  repeat' first
    | with_reducible assumption
    | with_reducible exact Res.All.fault
    | with_reducible apply Res.All.next
    | with_reducible apply State.resetP_keep
    | split

theorem execEnableContactBreak_keep {s0 : State} {s : State} (kp : Keep s0 s) :
    Res.All (Keep s0) (execEnableContactBreak s) := by
  unfold execEnableContactBreak
  repeat' first
    | with_reducible assumption
    | with_reducible exact Res.All.fault
    | with_reducible apply Res.All.next
    | (with_reducible apply Keep.upd; with_reducible assumption)
    | split

theorem execInputFault_keep {s0 : State} {kind : InputKind} {s : State} (kp : Keep s0 s) :
    Res.All (Keep s0) (execInputFault kind s) := by
  unfold execInputFault
  repeat' first
    | with_reducible assumption
    | with_reducible exact Res.All.fault
    | with_reducible apply Res.All.next
    | with_reducible apply State.powerOff_keep
    | split

theorem execShortCircuit_keep {s0 : State} {s : State} (kp : Keep s0 s) : Res.All (Keep s0) (execShortCircuit s) := by
  unfold execShortCircuit
  repeat' first
    | with_reducible assumption
    | with_reducible exact Res.All.fault
    | with_reducible apply Res.All.next
    | with_reducible apply State.powerOff_keep
    | split

theorem execInputGlitch_keep {s0 : State} {s : State} (kp : Keep s0 s) : Res.All (Keep s0) (execInputGlitch s) := by
  unfold execInputGlitch
  repeat' first
    | with_reducible assumption
    | with_reducible exact Res.All.fault
    | with_reducible apply Res.All.next
    | with_reducible apply State.bump_keep
    | split

theorem State.evaluate_keep {s0 : State} {s : State} (kp : Keep s0 s) : Keep s0 (State.evaluate s) := by
  unfold State.evaluate
  repeat' first
    | with_reducible assumption
    | (with_reducible apply Keep.upd; with_reducible assumption)
    | split

theorem execPowerEvaluation_keep {s0 : State} {sample : PowerSample} {s : State} (kp : Keep s0 s) :
    Res.All (Keep s0) (execPowerEvaluation sample s) := by
  unfold execPowerEvaluation
  repeat' first
    | with_reducible assumption
    | (intro x; first | (refine (have hx : Keep s0 x := ?_; ?_); dsimp only [x]) | subst x | skip)
    | lift_lets
    | with_reducible exact Res.All.fault
    | with_reducible apply Res.All.next
    | with_reducible apply State.evaluate_keep
    | (with_reducible apply Keep.upd; with_reducible assumption)
    | split
    | dsimp only

theorem execPowerLimitWrite_keep {s0 : State} {value : Word32} {s : State} (kp : Keep s0 s) :
    Res.All (Keep s0) (execPowerLimitWrite value s) := by
  unfold execPowerLimitWrite
  repeat' first
    | with_reducible assumption
    | with_reducible exact Res.All.fault
    | with_reducible apply Res.All.next
    | with_reducible apply State.bump_keep
    | with_reducible apply State.wr_keep
    | (with_reducible apply Keep.upd; with_reducible assumption)
    | split

theorem execThermalCheck_keep {s0 : State} {temps : TempReadings} {s : State} (kp : Keep s0 s) :
    Res.All (Keep s0) (execThermalCheck temps s) := by
  unfold execThermalCheck
  repeat' first
    | with_reducible assumption
    | with_reducible exact Res.All.fault
    | with_reducible apply Res.All.next
    | with_reducible apply State.emit_keep
    | with_reducible apply State.flag_keep
    | (with_reducible apply Keep.upd; with_reducible assumption)
    | split

theorem execThermalTrip_keep {s0 : State} {temps : TempReadings} {s : State} (kp : Keep s0 s) :
    Res.All (Keep s0) (execThermalTrip temps s) := by
  unfold execThermalTrip
  refine Res.All.next ?_
  split
  · have h : Keep s0 ((s.haltAll.flag Reg.PW_EVT_TRIP).emit .alert) :=
      State.emit_keep (State.flag_keep (State.haltAll_keep kp))
    exact ⟨h.queue, fun _ => rfl, ⟨h.fuses.fwSvn, h.fuses.cfgSvn, h.fuses.mark, h.fuses.revoked, h.fuses.dies,
      h.fuses.serial, h.fuses.grade, h.fuses.capacity⟩⟩
  · exact kp

theorem execLowflow_keep {s0 : State} {s : State} (kp : Keep s0 s) : Res.All (Keep s0) (execLowflow s) := by
  unfold execLowflow
  repeat' first
    | with_reducible assumption
    | with_reducible exact Res.All.fault
    | with_reducible apply Res.All.next
    | with_reducible apply State.emit_keep
    | with_reducible apply State.flag_keep
    | split

theorem execSensorTimeout_keep {s0 : State} {x : SensorId} {s : State} (kp : Keep s0 s) :
    Res.All (Keep s0) (execSensorTimeout x s) := by
  unfold execSensorTimeout
  repeat' first
    | with_reducible assumption
    | (intro x; first | (refine (have hx : Keep s0 x := ?_; ?_); dsimp only [x]) | subst x | skip)
    | lift_lets
    | with_reducible exact Res.All.fault
    | with_reducible apply Res.All.next
    | with_reducible apply State.emit_keep
    | with_reducible apply State.flag_keep
    | with_reducible apply State.powerOff_keep
    | (with_reducible apply Keep.upd; with_reducible assumption)
    | split
    | dsimp only

theorem execPldmSensorRead_keep {s0 : State} {x : SensorId} {s : State} (kp : Keep s0 s) :
    Res.All (Keep s0) (execPldmSensorRead x s) := by
  unfold execPldmSensorRead
  repeat' first
    | with_reducible assumption
    | with_reducible exact Res.All.fault
    | with_reducible apply Res.All.next
    | with_reducible apply State.emit_keep
    | split

theorem execPowerStateRequest_keep {s0 : State} {s : State} (kp : Keep s0 s) :
    Res.All (Keep s0) (execPowerStateRequest s) := by
  unfold execPowerStateRequest
  repeat' first
    | with_reducible assumption
    | (intro x; first | (refine (have hx : Keep s0 x := ?_; ?_); dsimp only [x]) | subst x | skip)
    | lift_lets
    | with_reducible exact Res.All.fault
    | with_reducible apply Res.All.next
    | with_reducible apply State.flag_keep
    | (with_reducible apply Keep.upd; with_reducible assumption)
    | split
    | dsimp only

theorem State.unpower_keep {s0 : State} {s : State} (kp : Keep s0 s) : Keep s0 (State.unpower s) := by
  unfold State.unpower
  repeat' first
    | with_reducible assumption
    | with_reducible apply State.wr_keep
    | (with_reducible apply Keep.upd; with_reducible assumption)
    | split

theorem execPowerTransitionDone_keep {s0 : State} {s : State} (kp : Keep s0 s) :
    Res.All (Keep s0) (execPowerTransitionDone s) := by
  unfold execPowerTransitionDone
  repeat' first
    | with_reducible assumption
    | (intro x; first | (refine (have hx : Keep s0 x := ?_; ?_); dsimp only [x]) | subst x | skip)
    | lift_lets
    | with_reducible exact Res.All.fault
    | with_reducible apply Res.All.next
    | with_reducible apply State.drowseExit_keep
    | with_reducible apply State.emit_keep
    | with_reducible apply State.unpower_keep
    | with_reducible apply State.wr_keep
    | (with_reducible apply Keep.upd; with_reducible assumption)
    | split
    | dsimp only

end Sys2Proof.Machine
end

