-- ==== Sys2Proof/Laws/Keep/RegWrite.lean ====
section
/-! SUPPORT. What the operations of `Machine/RegWrite.lean` keep: the queue, the canonical form of memory, the fuses. -/

namespace Sys2Proof.Machine

theorem State.writeField_keep {s0 : State} {locked : Bool} {port : Port} {v : Nat} {s : State} {f : Fld} (kp : Keep
    s0 s) : Keep s0 (State.writeField locked port v s f) := by
  unfold State.writeField
  repeat' first
    | with_reducible assumption
    | with_reducible apply State.wrPort_keep
    | with_reducible apply State.wr_keep
    | split

theorem State.clearRecord_keep {s0 : State} {s : State} {a : Nat} (kp : Keep s0 s) :
    Keep s0 (State.clearRecord s a) := by
  unfold State.clearRecord
  repeat' first
    | with_reducible assumption
    | (intro x; first | (refine (have hx : Keep s0 x := ?_; ?_); dsimp only [x]) | subst x | skip)
    | lift_lets
    | with_reducible apply State.wr_keep
    | (with_reducible apply Keep.upd; first | with_reducible assumption | with_reducible apply State.wr_keep | with_reducible apply Keep.foldl)
    | with_reducible apply Keep.foldl
    | split
    | dsimp only

theorem State.tieLocks_keep {s0 : State} {s : State} (kp : Keep s0 s) : Keep s0 (State.tieLocks s) := by
  unfold State.tieLocks
  repeat' first
    | with_reducible assumption
    | with_reducible apply State.flag_keep
    | split

theorem State.storeWord_keep {s0 : State} {s : State} {port : Port} {a v : Nat} (kp : Keep s0 s) :
    Keep s0 (State.storeWord s port a v) := by
  unfold State.storeWord
  repeat' first
    | with_reducible assumption
    | (intro x; first | (refine (have hx : Keep s0 x := ?_; ?_); dsimp only [x]) | subst x | skip)
    | lift_lets
    | with_reducible apply State.clearRecord_keep
    | with_reducible apply State.tieLocks_keep
    | with_reducible apply State.writeField_keep
    | (with_reducible apply Keep.upd; first | with_reducible assumption | with_reducible apply State.clearRecord_keep | with_reducible apply State.tieLocks_keep | with_reducible apply State.writeField_keep | with_reducible apply Keep.foldl)
    | with_reducible apply Keep.foldl
    | split
    | dsimp only

end Sys2Proof.Machine
end

