-- ==== Sys2Proof/Laws/Keep/SelfTest.lean ====
section
/-! SUPPORT. What the operations of `Machine/SelfTest.lean` keep: the queue, the canonical form of memory, the fuses. -/

namespace Sys2Proof.Machine

theorem State.stopModule_keep {s0 : State} {s : State} {code die : Nat} (kp : Keep s0 s) :
    Keep s0 (State.stopModule s code die) := by
  unfold State.stopModule
  repeat' first
    | with_reducible assumption
    | with_reducible apply State.wr_keep
    | split

theorem State.markBad_keep {s0 : State} {s : State} {p : Nat} (kp : Keep s0 s) : Keep s0 (State.markBad s p) := by
  unfold State.markBad
  repeat' first
    | with_reducible assumption
    | (with_reducible apply Keep.upd; with_reducible assumption)
    | split

theorem State.noteFailure_keep {s0 : State} {s : State} {r : TestResult} (kp : Keep s0 s) :
    Keep s0 (State.noteFailure s r) := by
  unfold State.noteFailure
  repeat' first
    | with_reducible assumption
    | with_reducible apply State.wr_keep
    | split

theorem State.failUnit_keep {s0 : State} {s : State} {r : TestResult} (kp : Keep s0 s) :
    Keep s0 (State.failUnit s r) := by
  unfold State.failUnit
  repeat' first
    | with_reducible assumption
    | (intro x; first | (refine (have hx : Keep s0 x := ?_; ?_); dsimp only [x]) | subst x | skip)
    | lift_lets
    | with_reducible apply State.markBad_keep
    | with_reducible apply State.stopModule_keep
    | with_reducible apply State.wr_keep
    | (with_reducible apply Keep.upd; first | with_reducible assumption | with_reducible apply State.markBad_keep | with_reducible apply State.stopModule_keep | with_reducible apply State.wr_keep | with_reducible apply Keep.foldl)
    | with_reducible apply Keep.foldl
    | split
    | dsimp only

theorem State.takeResult_keep {s0 : State} {s : State} {r : TestResult} (kp : Keep s0 s) :
    Keep s0 (State.takeResult s r) := by
  unfold State.takeResult
  repeat' first
    | with_reducible assumption
    | (intro x; first | (refine (have hx : Keep s0 x := ?_; ?_); dsimp only [x]) | subst x | skip)
    | lift_lets
    | with_reducible apply State.bump_keep
    | with_reducible apply State.failUnit_keep
    | with_reducible apply State.noteFailure_keep
    | (with_reducible apply Keep.upd; with_reducible assumption)
    | split
    | dsimp only

theorem State.buildDie_keep {s0 : State} {s : State} {d : Nat} (h : Keep s0 s) : Keep s0 (State.buildDie s d) :=
  Keep.upd _ (Keep.foldl _ _ _ h (fun _ _ hy => State.setRow_keep hy)) ..

theorem State.buildRows_keep {s0 : State} {s : State} (h : Keep s0 s) : Keep s0 (State.buildRows s) := by
  have h1 : Keep s0 ((List.range 4).foldl (fun x d => x.buildDie d) s) :=
    Keep.foldl _ _ _ h (fun _ _ hy => State.buildDie_keep hy)
  unfold State.buildRows
  generalize (List.range 4).foldl (fun x d => x.buildDie d) s = t at h1 ⊢
  dsimp only
  split
  · exact State.stopModule_keep h1
  · exact h1

theorem State.selfTest_keep {s0 : State} {s : State} {env : BootEnv} (kp : Keep s0 s) :
    Keep s0 (State.selfTest s env) := by
  unfold State.selfTest
  repeat' first
    | with_reducible assumption
    | (intro x; first | (refine (have hx : Keep s0 x := ?_; ?_); dsimp only [x]) | subst x | skip)
    | lift_lets
    | with_reducible apply State.buildRows_keep
    | with_reducible apply State.markBad_keep
    | with_reducible apply State.stopModule_keep
    | with_reducible apply State.takeResult_keep
    | with_reducible apply State.wr_keep
    | (with_reducible apply Keep.upd; first | with_reducible assumption | with_reducible apply State.buildRows_keep | with_reducible apply State.markBad_keep | with_reducible apply State.stopModule_keep | with_reducible apply State.takeResult_keep | with_reducible apply State.wr_keep | with_reducible apply Keep.foldl)
    | with_reducible apply Keep.foldl
    | split
    | dsimp only

end Sys2Proof.Machine
end

