-- ==== Sys2Proof/Laws/Keep/Boot.lean ====
section
/-! SUPPORT. What the operations of `Machine/Boot.lean` keep: the queue, the canonical form of memory, the fuses. -/

namespace Sys2Proof.Machine

theorem State.bootStop_keep {s0 : State} {s : State} {stage cause : Nat} (kp : Keep s0 s) :
    Keep s0 (State.bootStop s stage cause) := by
  unfold State.bootStop
  repeat' first
    | with_reducible assumption
    | with_reducible apply State.logRec_keep
    | with_reducible apply State.wr_keep
    | split

theorem State.restoreLms_keep {s0 : State} {s : State} (h : Keep s0 s) : Keep s0 (State.restoreLms s) := by
  have hb : Keep s0 (s.bump Reg.SC_LMS_MARK_RESTORES 1) := State.bump_keep h
  have hx : Keep s0 { s.bump Reg.SC_LMS_MARK_RESTORES 1 with sec := { s.sec with lmsIdx := s.sec.mark * 1024 } } :=
    ⟨hb.queue, hb.mem, ⟨h.fuses.fwSvn, h.fuses.cfgSvn, h.fuses.mark, h.fuses.revoked, h.fuses.dies, h.fuses.serial,
      h.fuses.grade, h.fuses.capacity⟩⟩
  unfold State.restoreLms
  split
  · split
    · exact Keep.updSec _ h ..
    · exact hx
  · exact hx

theorem State.program_keep {s0 : State} {s : State} {f : Flash} (kp : Keep s0 s) : Keep s0 (State.program s f) := by
  unfold State.program
  repeat' first
    | with_reducible assumption
    | (intro x; first | (refine (have hx : Keep s0 x := ?_; ?_); dsimp only [x]) | subst x | skip)
    | lift_lets
    | (with_reducible apply Keep.upd; first | with_reducible assumption | with_reducible apply Keep.foldl)
    | with_reducible apply Keep.foldl
    | split
    | (with_reducible apply Keep.updSec; first | with_reducible assumption)
    | dsimp only

theorem State.bootRom_keep {s0 : State} {s : State} {env : BootEnv} (kp : Keep s0 s) :
    Keep s0 (State.bootRom s env) := by
  unfold State.bootRom
  repeat' first
    | with_reducible assumption
    | (intro x; first | (refine (have hx : Keep s0 x := ?_; ?_); dsimp only [x]) | subst x | skip)
    | lift_lets
    | with_reducible apply State.extend_keep
    | with_reducible apply State.program_keep
    | with_reducible apply State.relock_keep
    | with_reducible apply State.restoreLms_keep
    | (with_reducible apply Keep.upd; first | with_reducible assumption | with_reducible apply State.extend_keep | with_reducible apply State.program_keep | with_reducible apply State.relock_keep | with_reducible apply State.restoreLms_keep | with_reducible apply Keep.foldl)
    | with_reducible apply Keep.foldl
    | split
    | (with_reducible apply Keep.updSec; first | with_reducible assumption | with_reducible apply State.extend_keep | with_reducible apply State.program_keep | with_reducible apply State.relock_keep | with_reducible apply State.restoreLms_keep)
    | dsimp only

theorem State.mapLink_keep {s0 : State} {s : State} {n : Nat} {c : LinkCfg} (kp : Keep s0 s) :
    Keep s0 (State.mapLink s n c) := by
  unfold State.mapLink
  repeat' first
    | with_reducible assumption
    | with_reducible apply State.modLink_keep
    | with_reducible apply State.wr_keep
    | split

theorem State.configureLinks_keep {s0 : State} {s : State} {c : ConfigRec} (kp : Keep s0 s) :
    Keep s0 (State.configureLinks s c) := by
  unfold State.configureLinks
  repeat' first
    | with_reducible assumption
    | (intro x; first | (refine (have hx : Keep s0 x := ?_; ?_); dsimp only [x]) | subst x | skip)
    | lift_lets
    | with_reducible apply State.mapLink_keep
    | with_reducible apply State.wr_keep
    | (with_reducible apply Keep.upd; first | with_reducible assumption | with_reducible apply State.mapLink_keep | with_reducible apply State.wr_keep | with_reducible apply Keep.foldl)
    | with_reducible apply Keep.foldl
    | split
    | dsimp only

theorem State.configurePower_keep {s0 : State} {s : State} {c : ConfigRec} (kp : Keep s0 s) :
    Keep s0 (State.configurePower s c) := by
  unfold State.configurePower
  repeat' first
    | with_reducible assumption
    | with_reducible apply State.storeWord_keep
    | with_reducible apply State.wr_keep
    | split

theorem State.configure_keep {s0 : State} {s : State} {c : ConfigRec} (kp : Keep s0 s) :
    Keep s0 (State.configure s c) := by
  unfold State.configure
  repeat' first
    | with_reducible assumption
    | (intro x; first | (refine (have hx : Keep s0 x := ?_; ?_); dsimp only [x]) | subst x | skip)
    | lift_lets
    | with_reducible apply State.configureLinks_keep
    | with_reducible apply State.configurePower_keep
    | with_reducible apply State.flag_keep
    | with_reducible apply State.storeWord_keep
    | (with_reducible apply Keep.upd; first | with_reducible assumption | with_reducible apply State.configureLinks_keep | with_reducible apply State.configurePower_keep | with_reducible apply State.flag_keep | with_reducible apply State.storeWord_keep | with_reducible apply Keep.foldl)
    | with_reducible apply Keep.foldl
    | split
    | dsimp only

theorem State.checkIdentity_keep {s0 : State} {s : State} (kp : Keep s0 s) : Keep s0 (State.checkIdentity s) := by
  unfold State.checkIdentity
  repeat' first
    | with_reducible assumption
    | with_reducible apply State.wr_keep
    | split

theorem State.bootImage_keep {s0 : State} {s t : State} (h : Keep s0 s) (ht : State.bootImage s = some t) :
    Keep s0 t := by
  unfold State.bootImage at ht
  cases hp : s.pickImage with
  | none => rw [hp] at ht; cases ht
  | some e =>
    rw [hp] at ht
    injection ht with ht
    subst ht
    exact Keep.updSec _ (State.extend_keep (State.wr_keep (State.wr_keep (State.wr_keep h)))) ..

theorem State.bootConfig_keep {s0 : State} {s t : State} (h : Keep s0 s) (ht : State.bootConfig s = some t) :
    Keep s0 t := by
  unfold State.bootConfig at ht
  split at ht
  · split at ht
    · injection ht with ht
      subst ht
      exact State.checkIdentity_keep (State.configure_keep (State.wr_keep (Keep.updSec _
        (State.extend_keep (State.wr_keep (State.wr_keep (State.wr_keep h)))) ..)))
    · cases ht
  · cases ht

theorem State.trainMemory_keep {s0 : State} {s : State} {bad : List (Fin 32)} (kp : Keep s0 s) :
    Keep s0 (State.trainMemory s bad) := by
  unfold State.trainMemory
  repeat' first
    | with_reducible assumption
    | (intro x; first | (refine (have hx : Keep s0 x := ?_; ?_); dsimp only [x]) | subst x | skip)
    | lift_lets
    | with_reducible apply State.wr_keep
    | (with_reducible apply Keep.upd; first | with_reducible assumption | with_reducible apply State.wr_keep | with_reducible apply Keep.foldl)
    | with_reducible apply Keep.foldl
    | split
    | dsimp only

theorem State.logCause_keep {s0 : State} {s : State} (kp : Keep s0 s) : Keep s0 (State.logCause s) := by
  unfold State.logCause
  repeat' first
    | with_reducible assumption
    | with_reducible apply State.logRec_keep
    | split

theorem State.bootTests_keep {s0 : State} {s : State} {env : BootEnv} (kp : Keep s0 s) :
    Keep s0 (State.bootTests s env) := by
  unfold State.bootTests
  repeat' first
    | with_reducible assumption
    | (intro x; first | (refine (have hx : Keep s0 x := ?_; ?_); dsimp only [x]) | subst x | skip)
    | lift_lets
    | with_reducible apply State.bootStop_keep
    | with_reducible apply State.logCause_keep
    | with_reducible apply State.selfTest_keep
    | with_reducible apply State.stopModule_keep
    | with_reducible apply State.trainMemory_keep
    | with_reducible apply State.tryTrain_keep
    | with_reducible apply State.wr_keep
    | (with_reducible apply Keep.upd; first | with_reducible assumption | with_reducible apply State.bootStop_keep | with_reducible apply State.logCause_keep | with_reducible apply State.selfTest_keep | with_reducible apply State.stopModule_keep | with_reducible apply State.trainMemory_keep | with_reducible apply State.tryTrain_keep | with_reducible apply State.wr_keep | with_reducible apply Keep.foldl)
    | with_reducible apply Keep.foldl
    | split
    | dsimp only

theorem State.boot_keep {s0 : State} {s : State} {env : BootEnv} (h : Keep s0 s) : Keep s0 (State.boot s env) := by
  have h1 : Keep s0 (s.bootRom env) := State.bootRom_keep h
  unfold State.boot
  generalize s.bootRom env = s1 at h1 ⊢
  dsimp only
  split
  · exact Keep.upd _ (State.bootStop_keep h1) ..
  · rename_i s2 h2
    have h3 : Keep s0 (s2.wr Reg.PW_EVT_PREV (s2.power.cause.head?.getD 0)) := State.wr_keep (State.bootImage_keep h1 h2)
    generalize s2.wr Reg.PW_EVT_PREV (s2.power.cause.head?.getD 0) = s3 at h3 ⊢
    split
    · exact State.bootStop_keep h3
    · rename_i s4 h4
      exact State.bootTests_keep (State.bootConfig_keep h3 h4)

theorem execBulkCharged_keep {s0 : State} {boot : BootEnv} {s : State} (kp : Keep s0 s) :
    Res.All (Keep s0) (execBulkCharged boot s) := by
  unfold execBulkCharged
  repeat' first
    | with_reducible assumption
    | with_reducible exact Res.All.fault
    | with_reducible apply Res.All.next
    | with_reducible apply State.boot_keep
    | (with_reducible apply Keep.upd; with_reducible assumption)
    | split

theorem State.warm_keep {s0 : State} {s : State} {cause : Nat} {env : BootEnv} (kp : Keep s0 s) :
    Keep s0 (State.warm s cause env) := by
  unfold State.warm
  repeat' first
    | with_reducible assumption
    | with_reducible apply State.boot_keep
    | with_reducible apply State.resetW_keep
    | split

theorem State.requestWarm_keep {s0 : State} {s : State} {cause : Nat} {env : BootEnv} (kp : Keep s0 s) :
    Keep s0 (State.requestWarm s cause env) := by
  unfold State.requestWarm
  repeat' first
    | with_reducible assumption
    | with_reducible apply State.warm_keep
    | (with_reducible apply Keep.upd; with_reducible assumption)
    | split

theorem execWarmReset_keep {s0 : State} {value : Word32} {boot : BootEnv} {s : State} (kp : Keep s0 s) :
    Res.All (Keep s0) (execWarmReset value boot s) := by
  unfold execWarmReset
  repeat' first
    | with_reducible assumption
    | with_reducible exact Res.All.fault
    | with_reducible apply Res.All.next
    | with_reducible apply State.requestWarm_keep
    | split

theorem execPldmReset_keep {s0 : State} {boot : BootEnv} {s : State} (kp : Keep s0 s) :
    Res.All (Keep s0) (execPldmReset boot s) := by
  unfold execPldmReset
  repeat' first
    | with_reducible assumption
    | with_reducible exact Res.All.fault
    | with_reducible apply Res.All.next
    | with_reducible apply State.requestWarm_keep
    | split

theorem execTripRelease_keep {s0 : State} {temps : TempReadings} {boot : BootEnv} {s : State} (kp : Keep s0 s) :
    Res.All (Keep s0) (execTripRelease temps boot s) := by
  unfold execTripRelease
  repeat' first
    | with_reducible assumption
    | with_reducible exact Res.All.fault
    | with_reducible apply Res.All.next
    | with_reducible apply State.warm_keep
    | split

end Sys2Proof.Machine
end

