-- ==== Sys2Proof/Laws/Keep/Vector.lean ====
section
/-! SUPPORT. What the operations of `Machine/Vector.lean` keep: the queue, the canonical form of memory, the fuses. -/

namespace Sys2Proof.Machine

theorem bodyVector_keep {s0 : State} {iw : Word64} {op : VecOp} {s : State} {p : Nat} (kp : Keep s0 s) :
    Issued.All (Keep s0) (bodyVector iw op s p) := by
  unfold bodyVector
  repeat' first
    | with_reducible assumption
    | with_reducible exact Issued.All.fault
    | with_reducible apply Issued.All.faultIn
    | with_reducible apply Issued.All.done
    | with_reducible apply Issued.All.goto
    | with_reducible apply Issued.All.stall
    | with_reducible apply Issued.All.seam
    | with_reducible apply State.setTile_keep
    | split

theorem execVectorOp_keep {s0 : State} {tile : TileId} {iw : Word64} {op : VecOp} {s : State} (kp : Keep s0 s) :
    Res.All (Keep s0) (execVectorOp tile iw op s) := by
  unfold execVectorOp
  repeat' first
    | with_reducible assumption
    | with_reducible exact Res.All.fault
    | with_reducible apply Res.All.next
    | with_reducible apply bodyVector_keep
    | with_reducible apply issue_keep
    | split

theorem bodyInReg_keep {s0 : State} {iw : Word64} {s : State} {p : Nat} (kp : Keep s0 s) :
    Issued.All (Keep s0) (bodyInReg iw s p) := by
  unfold bodyInReg
  repeat' first
    | with_reducible assumption
    | with_reducible exact Issued.All.fault
    | with_reducible apply Issued.All.faultIn
    | with_reducible apply Issued.All.done
    | with_reducible apply Issued.All.goto
    | with_reducible apply Issued.All.stall
    | with_reducible apply Issued.All.seam
    | with_reducible apply State.setTile_keep
    | split

theorem bodyWiden_keep {s0 : State} {iw : Word64} {s : State} {p : Nat} (kp : Keep s0 s) :
    Issued.All (Keep s0) (bodyWiden iw s p) := by
  unfold bodyWiden
  repeat' first
    | with_reducible assumption
    | (intro x; first | (refine (have hx : Keep s0 x := ?_; ?_); dsimp only [x]) | subst x | skip)
    | lift_lets
    | with_reducible exact Issued.All.fault
    | with_reducible apply Issued.All.faultIn
    | with_reducible apply Issued.All.done
    | with_reducible apply Issued.All.goto
    | with_reducible apply Issued.All.stall
    | with_reducible apply Issued.All.seam
    | with_reducible apply State.setTile_keep
    | split

theorem execConvertWiden_keep {s0 : State} {tile : TileId} {iw : Word64} {cv : CvtArgs} {s : State} (kp : Keep s0 s) :
    Res.All (Keep s0) (execConvertWiden tile iw cv s) := by
  unfold execConvertWiden
  repeat' first
    | with_reducible assumption
    | with_reducible exact Res.All.fault
    | with_reducible apply Res.All.next
    | with_reducible apply bodyInReg_keep
    | with_reducible apply bodyWiden_keep
    | with_reducible apply issue_keep
    | split

theorem bodyNarrow_keep {s0 : State} {iw : Word64} {s : State} {p : Nat} (kp : Keep s0 s) :
    Issued.All (Keep s0) (bodyNarrow iw s p) := by
  unfold bodyNarrow
  repeat' first
    | with_reducible assumption
    | (intro x; first | (refine (have hx : Keep s0 x := ?_; ?_); dsimp only [x]) | subst x | skip)
    | lift_lets
    | with_reducible exact Issued.All.fault
    | with_reducible apply Issued.All.faultIn
    | with_reducible apply Issued.All.done
    | with_reducible apply Issued.All.goto
    | with_reducible apply Issued.All.stall
    | with_reducible apply Issued.All.seam
    | with_reducible apply State.setTile_keep
    | split

theorem execConvertNarrow_keep {s0 : State} {tile : TileId} {iw : Word64} {cv : CvtArgs} {s : State} (kp : Keep s0 s) :
    Res.All (Keep s0) (execConvertNarrow tile iw cv s) := by
  unfold execConvertNarrow
  repeat' first
    | with_reducible assumption
    | with_reducible exact Res.All.fault
    | with_reducible apply Res.All.next
    | with_reducible apply bodyInReg_keep
    | with_reducible apply bodyNarrow_keep
    | with_reducible apply issue_keep
    | split

end Sys2Proof.Machine
end

