-- ==== Sys2Proof/Laws/Keep/HarvestUpdate.lean ====
section
/-! SUPPORT. What the operations of `Machine/HarvestUpdate.lean` keep: the queue, the canonical form of memory, the fuses. -/

namespace Sys2Proof.Machine

theorem State.applyUpdate_keep {s0 : State} {s : State} {env : MemEnv} {m t : Nat} {d : List Word64} {e : SchedEnt}
    {n : Nat} {g w mo : List Nat} {pre : List (Nat × List Mat)} (kp : Keep s0 s) : Keep s0 (State.applyUpdate s env m t d e n g w mo pre) := by
  unfold State.applyUpdate
  repeat' first
    | with_reducible assumption
    | with_reducible apply State.modHv_keep
    | with_reducible apply State.writeAlt_keep
    | split

theorem readMore_keep {s0 : State} {env : MemEnv} {m : Nat} {x : List (Except Nat (List Byte)) × State} {a k : Nat}
    (h : Keep s0 x.2) : Keep s0 (readMore env m x a k).2 := by
  have hr : Keep s0 (x.2.hvRead env m a k).2 := State.hvRead_keep h
  unfold readMore
  dsimp only
  exact hr

theorem State.updateReads_keep {s0 : State} {s : State} {env : MemEnv} {m : Nat} {d : List Word64} (h : Keep s0 s) :
    Keep s0 (State.updateReads s env m d).2 := by
  have h0 : Keep s0 (([], s) : List (Except Nat (List Byte)) × State).2 := h
  unfold State.updateReads
  extract_lets n x0 x1 x2 x3
  have h3 : Keep s0 x3.2 := readMore_keep (readMore_keep (readMore_keep (readMore_keep h0)))
  clear_value x3
  split
  · exact h3
  · exact readMore_keep h3

theorem State.finishUpdate_keep {s0 : State} {s : State} {env : MemEnv} {k t : Nat} {d : List Word64} {l : List
    (Except Nat (List Byte))} (kp : Keep s0 s) : Keep s0 (State.finishUpdate s env k t d l) := by
  unfold State.finishUpdate
  repeat' first
    | with_reducible assumption
    | (intro x; first | (refine (have hx : Keep s0 x := ?_; ?_); dsimp only [x]) | subst x | skip)
    | lift_lets
    | with_reducible apply State.applyUpdate_keep
    | with_reducible apply State.draw_keep
    | with_reducible apply State.harvestError_keep
    | with_reducible apply State.nextCmd_keep
    | split

theorem State.doUpdate_keep {s0 : State} {s : State} {env : MemEnv} {k t : Nat} {d : List Word64} (kp : Keep s0 s) :
    Keep s0 (State.doUpdate s env k t d) := by
  unfold State.doUpdate
  repeat' first
    | with_reducible assumption
    | with_reducible apply State.finishUpdate_keep
    | with_reducible apply State.harvestError_keep
    | with_reducible apply State.modHv_keep
    | with_reducible apply State.nextCmd_keep
    | with_reducible apply State.skipFrozen_keep
    | with_reducible apply State.updateReads_keep
    | split

theorem execUpdate_keep {s0 : State} {m : Fin 2} {env : MemEnv} {s : State} (kp : Keep s0 s) :
    Res.All (Keep s0) (execUpdate m env s) := by
  unfold execUpdate
  repeat' first
    | with_reducible assumption
    | (intro x; first | (refine (have hx : Keep s0 x := ?_; ?_); dsimp only [x]) | subst x | skip)
    | lift_lets
    | with_reducible exact Res.All.fault
    | with_reducible apply Res.All.next
    | with_reducible apply State.doUpdate_keep
    | with_reducible apply State.readDesc_keep
    | with_reducible apply harvestRow_keep
    | split

end Sys2Proof.Machine
end

