-- ==== Sys2Proof/Laws/Keep/HostIf.lean ====
section
/-! SUPPORT. What the operations of `Machine/HostIf.lean` keep: the queue, the canonical form of memory, the fuses. -/

namespace Sys2Proof.Machine

theorem State.setB4_keep {s0 : State} {s : State} {o w : Nat} (kp : Keep s0 s) : Keep s0 (State.setB4 s o w) := by
  unfold State.setB4
  repeat' first
    | with_reducible assumption
    | (with_reducible apply Keep.upd; with_reducible assumption)
    | split

theorem State.loseHeart_keep {s0 : State} {s : State} (kp : Keep s0 s) : Keep s0 (State.loseHeart s) := by
  unfold State.loseHeart
  repeat' first
    | with_reducible assumption
    | (intro x; first | (refine (have hx : Keep s0 x := ?_; ?_); dsimp only [x]) | subst x | skip)
    | lift_lets
    | with_reducible apply State.flag_keep
    | with_reducible apply State.requestPark_keep
    | (with_reducible apply Keep.upd; with_reducible assumption)
    | split
    | dsimp only

theorem State.acceptAttach_keep {s0 : State} {s : State} (kp : Keep s0 s) : Keep s0 (State.acceptAttach s) := by
  unfold State.acceptAttach
  repeat' first
    | with_reducible assumption
    | (intro x; first | (refine (have hx : Keep s0 x := ?_; ?_); dsimp only [x]) | subst x | skip)
    | lift_lets
    | with_reducible apply State.flag_keep
    | with_reducible apply State.setB4_keep
    | with_reducible apply State.wr_keep
    | (with_reducible apply Keep.upd; with_reducible assumption)
    | split
    | dsimp only

theorem State.tryAttach_keep {s0 : State} {s : State} (kp : Keep s0 s) : Keep s0 (State.tryAttach s) := by
  unfold State.tryAttach
  repeat' first
    | with_reducible assumption
    | with_reducible apply State.acceptAttach_keep
    | with_reducible apply State.setB4_keep
    | split

theorem execAttach_keep {s0 : State} {s : State} (kp : Keep s0 s) : Res.All (Keep s0) (execAttach s) := by
  unfold execAttach
  repeat' first
    | with_reducible assumption
    | (intro x; first | (refine (have hx : Keep s0 x := ?_; ?_); dsimp only [x]) | subst x | skip)
    | lift_lets
    | with_reducible exact Res.All.fault
    | with_reducible apply Res.All.next
    | with_reducible apply State.loseHeart_keep
    | with_reducible apply State.request_keep
    | with_reducible apply State.tryAttach_keep
    | (with_reducible apply Keep.upd; with_reducible assumption)
    | split
    | dsimp only

theorem execDetach_keep {s0 : State} {s : State} (kp : Keep s0 s) : Res.All (Keep s0) (execDetach s) := by
  unfold execDetach
  repeat' first
    | with_reducible assumption
    | (intro x; first | (refine (have hx : Keep s0 x := ?_; ?_); dsimp only [x]) | subst x | skip)
    | lift_lets
    | with_reducible exact Res.All.fault
    | with_reducible apply Res.All.next
    | with_reducible apply State.loseHeart_keep
    | with_reducible apply State.request_keep
    | with_reducible apply State.setB4_keep
    | with_reducible apply State.wr_keep
    | (with_reducible apply Keep.upd; with_reducible assumption)
    | split
    | dsimp only

theorem execHeartbeatLost_keep {s0 : State} {s : State} (kp : Keep s0 s) : Res.All (Keep s0) (execHeartbeatLost s) := by
  unfold execHeartbeatLost
  repeat' first
    | with_reducible assumption
    | with_reducible exact Res.All.fault
    | with_reducible apply Res.All.next
    | with_reducible apply State.loseHeart_keep
    | split

theorem State.lastCommitted_keep {s0 : State} {s : State} (kp : Keep s0 s) : Keep s0 (State.lastCommitted s).2 := by
  unfold State.lastCommitted
  repeat' first
    | with_reducible assumption
    | with_reducible apply State.draw_keep
    | split

theorem execStatusBeat_keep {s0 : State} {s : State} (kp : Keep s0 s) : Res.All (Keep s0) (execStatusBeat s) := by
  unfold execStatusBeat
  repeat' first
    | with_reducible assumption
    | (intro x; first | (refine (have hx : Keep s0 x := ?_; ?_); dsimp only [x]) | subst x | skip)
    | lift_lets
    | with_reducible exact Res.All.fault
    | with_reducible apply Res.All.next
    | with_reducible apply State.emit_keep
    | with_reducible apply State.lastCommitted_keep
    | (with_reducible apply Keep.upd; with_reducible assumption)
    | split
    | dsimp only

end Sys2Proof.Machine
end

