-- ==== Sys2Proof/Laws/Keep/Jobs.lean ====
section
/-! SUPPORT. What the operations of `Machine/Jobs.lean` keep: the queue, the canonical form of memory, the fuses. -/

namespace Sys2Proof.Machine

theorem State.complete_keep {s0 : State} {s : State} {k status : Nat} (kp : Keep s0 s) :
    Keep s0 (State.complete s k status) := by
  unfold State.complete
  repeat' first
    | with_reducible assumption
    | with_reducible apply State.bump_keep
    | with_reducible apply State.setB4_keep
    | split

theorem dropUnlisted_keep {s0 : State} {k n : Nat} {s : State} (h : Keep s0 s) : Keep s0 (dropUnlisted k n s) := by
  induction n generalizing s with
  | zero => exact h
  | succ n ih =>
    simp only [dropUnlisted]
    repeat' split
    · exact h
    · exact ih (State.complete_keep h)
    · exact h

theorem State.scan_keep {s0 : State} {s : State} {k op : Nat} {f : Nat → State → State} (kp : Keep s0 s) (hf : ∀ x0
    x1, Keep s0 x1 → Keep s0 (f x0 x1)) : Keep s0 (State.scan s k op f) := by
  unfold State.scan
  repeat' first
    | with_reducible assumption
    | (intro x; first | (refine (have hx : Keep s0 x := ?_; ?_); dsimp only [x]) | subst x | skip)
    | lift_lets
    | with_reducible apply dropUnlisted_keep
    | with_reducible apply hf
    | split

theorem State.simple_keep {s0 : State} {s : State} {k : Nat} {allowed : List Nat} {f : State → State} (kp : Keep s0
    s) (hf : ∀ x0, Keep s0 x0 → Keep s0 (f x0)) : Keep s0 (State.simple s k allowed f) := by
  unfold State.simple
  repeat' first
    | with_reducible assumption
    | with_reducible apply State.complete_keep
    | with_reducible apply hf
    | split

theorem State.jobRegs_keep {s0 : State} {s : State} {g : JobImage} (kp : Keep s0 s) : Keep s0 (State.jobRegs s g) := by
  unfold State.jobRegs
  repeat' first
    | with_reducible assumption
    | (intro x; first | (refine (have hx : Keep s0 x := ?_; ?_); dsimp only [x]) | subst x | skip)
    | lift_lets
    | with_reducible apply State.storeWord_keep
    | with_reducible apply State.wr_keep
    | (with_reducible apply Keep.upd; first | with_reducible assumption | with_reducible apply State.storeWord_keep | with_reducible apply State.wr_keep | with_reducible apply Keep.foldl)
    | with_reducible apply Keep.foldl
    | split
    | dsimp only

theorem State.jobHarvest_keep {s0 : State} {s : State} {m : Nat} {h : HarvestImg} (kp : Keep s0 s) :
    Keep s0 (State.jobHarvest s m h) := by
  unfold State.jobHarvest
  repeat' first
    | with_reducible assumption
    | with_reducible apply State.modHv_keep
    | with_reducible apply State.wr_keep
    | split

theorem State.jobSpools_keep {s0 : State} {s : State} {g : JobImage} (kp : Keep s0 s) :
    Keep s0 (State.jobSpools s g) := by
  unfold State.jobSpools
  repeat' first
    | with_reducible assumption
    | (with_reducible apply Keep.upd; with_reducible assumption)
    | split

theorem State.install_keep {s0 : State} {s : State} {g : JobImage} (kp : Keep s0 s) : Keep s0 (State.install s g) := by
  unfold State.install
  repeat' first
    | with_reducible assumption
    | (intro x; first | (refine (have hx : Keep s0 x := ?_; ?_); dsimp only [x]) | subst x | skip)
    | lift_lets
    | with_reducible apply State.checkCable_keep
    | with_reducible apply State.jobHarvest_keep
    | with_reducible apply State.jobRegs_keep
    | with_reducible apply State.jobSpools_keep
    | with_reducible apply State.memWrite_keep
    | with_reducible apply State.noteLanes_keep
    | with_reducible apply State.placeTiles_keep
    | with_reducible apply State.wr_keep
    | (with_reducible apply Keep.upd; first | with_reducible assumption | with_reducible apply State.checkCable_keep | with_reducible apply State.jobHarvest_keep | with_reducible apply State.jobRegs_keep | with_reducible apply State.jobSpools_keep | with_reducible apply State.memWrite_keep | with_reducible apply State.noteLanes_keep | with_reducible apply State.placeTiles_keep | with_reducible apply State.wr_keep | with_reducible apply Keep.foldl)
    | with_reducible apply Keep.foldl
    | split
    | dsimp only

theorem State.loadDone_keep {s0 : State} {s : State} (kp : Keep s0 s) : Keep s0 (State.loadDone s) := by
  unfold State.loadDone
  repeat' first
    | with_reducible assumption
    | with_reducible apply State.complete_keep
    | with_reducible apply State.install_keep
    | with_reducible apply State.logRec_keep
    | with_reducible apply State.wr_keep
    | split

theorem State.loadFailed_keep {s0 : State} {s : State} (kp : Keep s0 s) : Keep s0 (State.loadFailed s) := by
  unfold State.loadFailed
  repeat' first
    | with_reducible assumption
    | (intro x; first | (refine (have hx : Keep s0 x := ?_; ?_); dsimp only [x]) | subst x | skip)
    | lift_lets
    | with_reducible apply State.complete_keep
    | with_reducible apply State.wr_keep
    | (with_reducible apply Keep.upd; with_reducible assumption)
    | split
    | dsimp only

theorem State.loadAnswer_keep {s0 : State} {s : State} {ok : Bool} {job : Nat} (kp : Keep s0 s) :
    Keep s0 (State.loadAnswer s ok job) := by
  unfold State.loadAnswer
  repeat' first
    | with_reducible assumption
    | with_reducible apply State.loadDone_keep
    | with_reducible apply State.loadFailed_keep
    | split

theorem State.answerLoads_keep {s0 : State} {s : State} {ok : Bool} (kp : Keep s0 s) :
    Keep s0 (State.answerLoads s ok) := by
  unfold State.answerLoads
  repeat' first
    | with_reducible assumption
    | (intro x; first | (refine (have hx : Keep s0 x := ?_; ?_); dsimp only [x]) | subst x | skip)
    | lift_lets
    | with_reducible apply State.loadAnswer_keep
    | with_reducible apply State.sendMsg_keep
    | (with_reducible apply Keep.upd; first | with_reducible assumption | with_reducible apply State.loadAnswer_keep | with_reducible apply State.sendMsg_keep | with_reducible apply Keep.foldl)
    | with_reducible apply Keep.foldl
    | split
    | dsimp only

theorem State.noteDigest_keep {s0 : State} {s : State} {dev : DevId} {job : Word64} {digest : List Byte} (kp : Keep
    s0 s) : Keep s0 (State.noteDigest s dev job digest) := by
  unfold State.noteDigest
  repeat' first
    | with_reducible assumption
    | (intro x; first | (refine (have hx : Keep s0 x := ?_; ?_); dsimp only [x]) | subst x | skip)
    | lift_lets
    | with_reducible apply State.answerLoads_keep
    | (with_reducible apply Keep.upd; with_reducible assumption)
    | split
    | dsimp only

theorem State.startLoad_keep {s0 : State} {s : State} {k : Nat} {g : JobImage} {base len addr : Nat} (kp : Keep s0 s) :
    Keep s0 (State.startLoad s k g base len addr) := by
  unfold State.startLoad
  repeat' first
    | with_reducible assumption
    | (intro x; first | (refine (have hx : Keep s0 x := ?_; ?_); dsimp only [x]) | subst x | skip)
    | lift_lets
    | with_reducible apply State.extend_keep
    | with_reducible apply State.logRec_keep
    | with_reducible apply State.noteDigest_keep
    | with_reducible apply State.refresh_keep
    | with_reducible apply State.renegotiate_keep
    | with_reducible apply State.sendRoot_keep
    | with_reducible apply State.wr_keep
    | (with_reducible apply Keep.upd; with_reducible assumption)
    | split
    | dsimp only

theorem State.notePatternError_keep {s0 : State} {s : State} {g : JobImage} (kp : Keep s0 s) :
    Keep s0 (State.notePatternError s g) := by
  unfold State.notePatternError
  repeat' first
    | with_reducible assumption
    | with_reducible apply State.flag_keep
    | with_reducible apply State.wr_keep
    | split

theorem State.queueLoad_keep {s0 : State} {s : State} {k : Nat} (kp : Keep s0 s) : Keep s0 (State.queueLoad s k) := by
  unfold State.queueLoad
  repeat' first
    | with_reducible assumption
    | (with_reducible apply Keep.upd; with_reducible assumption)
    | split

theorem State.unqueue_keep {s0 : State} {s : State} {k : Nat} (kp : Keep s0 s) : Keep s0 (State.unqueue s k) := by
  unfold State.unqueue
  repeat' first
    | with_reducible assumption
    | (with_reducible apply Keep.upd; with_reducible assumption)
    | split

theorem State.loadNow_keep {s0 : State} {s : State} {k o : Nat} {g : JobImage} (kp : Keep s0 s) :
    Keep s0 (State.loadNow s k o g) := by
  unfold State.loadNow
  repeat' first
    | with_reducible assumption
    | (intro x; first | (refine (have hx : Keep s0 x := ?_; ?_); dsimp only [x]) | subst x | skip)
    | lift_lets
    | with_reducible apply State.complete_keep
    | with_reducible apply State.notePatternError_keep
    | with_reducible apply State.startLoad_keep
    | with_reducible apply State.unqueue_keep
    | split

theorem State.zeroRegion_keep {s0 : State} {s : State} {r : Nat × Nat} (kp : Keep s0 s) :
    Keep s0 (State.zeroRegion s r) := by
  unfold State.zeroRegion
  repeat' first
    | with_reducible assumption
    | with_reducible apply State.flag_keep
    | with_reducible apply State.modMdie_keep
    | with_reducible apply State.zeroStorage_keep
    | split

theorem State.beginScrub_keep {s0 : State} {s : State} {slot : Option Nat} (kp : Keep s0 s) :
    Keep s0 (State.beginScrub s slot) := by
  unfold State.beginScrub
  repeat' first
    | with_reducible assumption
    | (intro x; first | (refine (have hx : Keep s0 x := ?_; ?_); dsimp only [x]) | subst x | skip)
    | lift_lets
    | with_reducible apply State.logRec_keep
    | with_reducible apply State.resetJ_keep
    | with_reducible apply State.wr_keep
    | with_reducible apply State.zeroRegion_keep
    | (with_reducible apply Keep.upd; first | with_reducible assumption | with_reducible apply State.logRec_keep | with_reducible apply State.resetJ_keep | with_reducible apply State.wr_keep | with_reducible apply State.zeroRegion_keep | with_reducible apply Keep.foldl)
    | with_reducible apply Keep.foldl
    | split
    | dsimp only

theorem State.yieldTest_keep {s0 : State} {s : State} (kp : Keep s0 s) : Keep s0 (State.yieldTest s) := by
  unfold State.yieldTest
  repeat' first
    | with_reducible assumption
    | (intro x; first | (refine (have hx : Keep s0 x := ?_; ?_); dsimp only [x]) | subst x | skip)
    | lift_lets
    | with_reducible apply State.wr_keep
    | (with_reducible apply Keep.upd; with_reducible assumption)
    | split
    | dsimp only

theorem execLoad_keep {s0 : State} {slot : Fin 16} {img : JobImage} {s : State} (kp : Keep s0 s) :
    Res.All (Keep s0) (execLoad slot img s) := by
  unfold execLoad
  repeat' first
    | with_reducible assumption
    | (intro x; first | (refine (have hx : Keep s0 x := ?_; ?_); dsimp only [x]) | subst x | skip)
    | lift_lets
    | with_reducible exact Res.All.fault
    | with_reducible apply Res.All.next
    | with_reducible apply State.beginScrub_keep
    | with_reducible apply State.complete_keep
    | with_reducible apply State.loadNow_keep
    | with_reducible apply State.queueLoad_keep
    | with_reducible apply State.scan_keep
    | with_reducible apply State.yieldTest_keep
    | split

theorem execJobDigest_keep {s0 : State} {msg : MsgId} {jobId : Word64} {digest : List Byte} {s : State} (kp : Keep s0
    s) : Res.All (Keep s0) (execJobDigest msg jobId digest s) := by
  unfold execJobDigest
  repeat' first
    | with_reducible assumption
    | (intro x; first | (refine (have hx : Keep s0 x := ?_; ?_); dsimp only [x]) | subst x | skip)
    | lift_lets
    | with_reducible exact Res.All.fault
    | with_reducible apply Res.All.next
    | with_reducible apply State.noteDigest_keep
    | with_reducible apply State.takeMsg_keep
    | split

theorem execLoadOk_keep {s0 : State} {msg : MsgId} {jobId : Word64} {s : State} (kp : Keep s0 s) :
    Res.All (Keep s0) (execLoadOk msg jobId s) := by
  unfold execLoadOk
  repeat' first
    | with_reducible assumption
    | (intro x; first | (refine (have hx : Keep s0 x := ?_; ?_); dsimp only [x]) | subst x | skip)
    | lift_lets
    | with_reducible exact Res.All.fault
    | with_reducible apply Res.All.next
    | with_reducible apply State.loadAnswer_keep
    | with_reducible apply State.takeMsg_keep
    | split

theorem execLoadCheck_keep {s0 : State} {msg : MsgId} {jobId : Word64} {s : State} (kp : Keep s0 s) :
    Res.All (Keep s0) (execLoadCheck msg jobId s) := by
  unfold execLoadCheck
  repeat' first
    | with_reducible assumption
    | (intro x; first | (refine (have hx : Keep s0 x := ?_; ?_); dsimp only [x]) | subst x | skip)
    | lift_lets
    | with_reducible exact Res.All.fault
    | with_reducible apply Res.All.next
    | with_reducible apply State.loadAnswer_keep
    | with_reducible apply State.takeMsg_keep
    | split

theorem execLoadDigestTimeout_keep {s0 : State} {s : State} (kp : Keep s0 s) :
    Res.All (Keep s0) (execLoadDigestTimeout s) := by
  unfold execLoadDigestTimeout
  repeat' first
    | with_reducible assumption
    | with_reducible exact Res.All.fault
    | with_reducible apply Res.All.next
    | with_reducible apply State.answerLoads_keep
    | split

theorem execRun_keep {s0 : State} {slot : Fin 16} {s : State} (kp : Keep s0 s) :
    Res.All (Keep s0) (execRun slot s) := by
  unfold execRun
  repeat' first
    | with_reducible assumption
    | (intro x; first | (refine (have hx : Keep s0 x := ?_; ?_); dsimp only [x]) | subst x | skip)
    | lift_lets
    | with_reducible exact Res.All.fault
    | with_reducible apply Res.All.next
    | with_reducible apply State.scan_keep
    | with_reducible apply State.simple_keep
    | (with_reducible apply Keep.upd; with_reducible assumption)
    | split
    | dsimp only

theorem execBatch_keep {s0 : State} {slot : Fin 16} {s : State} (kp : Keep s0 s) :
    Res.All (Keep s0) (execBatch slot s) := by
  unfold execBatch
  repeat' first
    | with_reducible assumption
    | (intro x; first | (refine (have hx : Keep s0 x := ?_; ?_); dsimp only [x]) | subst x | skip)
    | lift_lets
    | with_reducible exact Res.All.fault
    | with_reducible apply Res.All.next
    | with_reducible apply State.complete_keep
    | with_reducible apply State.scan_keep
    | (with_reducible apply Keep.upd; with_reducible assumption)
    | split
    | dsimp only

theorem execBatchFilled_keep {s0 : State} {data : List Byte} {s : State} (kp : Keep s0 s) :
    Res.All (Keep s0) (execBatchFilled data s) := by
  unfold execBatchFilled
  repeat' first
    | with_reducible assumption
    | (intro x; first | (refine (have hx : Keep s0 x := ?_; ?_); dsimp only [x]) | subst x | skip)
    | lift_lets
    | with_reducible exact Res.All.fault
    | with_reducible apply Res.All.next
    | with_reducible apply State.complete_keep
    | with_reducible apply State.memWrite_keep
    | with_reducible apply State.withdrawPark_keep
    | (with_reducible apply Keep.upd; first | with_reducible assumption | with_reducible apply State.complete_keep | with_reducible apply State.memWrite_keep | with_reducible apply State.withdrawPark_keep | with_reducible apply Keep.foldl)
    | with_reducible apply Keep.foldl
    | split
    | dsimp only

theorem execPark_keep {s0 : State} {slot : Fin 16} {s : State} (kp : Keep s0 s) :
    Res.All (Keep s0) (execPark slot s) := by
  unfold execPark
  repeat' first
    | with_reducible assumption
    | (intro x; first | (refine (have hx : Keep s0 x := ?_; ?_); dsimp only [x]) | subst x | skip)
    | lift_lets
    | with_reducible exact Res.All.fault
    | with_reducible apply Res.All.next
    | with_reducible apply State.requestPark_keep
    | with_reducible apply State.scan_keep
    | with_reducible apply State.simple_keep
    | split

theorem execJobResume_keep {s0 : State} {slot : Fin 16} {s : State} (kp : Keep s0 s) :
    Res.All (Keep s0) (execJobResume slot s) := by
  unfold execJobResume
  repeat' first
    | with_reducible assumption
    | (intro x; first | (refine (have hx : Keep s0 x := ?_; ?_); dsimp only [x]) | subst x | skip)
    | lift_lets
    | with_reducible exact Res.All.fault
    | with_reducible apply Res.All.next
    | with_reducible apply State.scan_keep
    | with_reducible apply State.simple_keep
    | with_reducible apply State.withdrawPark_keep
    | split

theorem execStop_keep {s0 : State} {slot : Fin 16} {s : State} (kp : Keep s0 s) :
    Res.All (Keep s0) (execStop slot s) := by
  unfold execStop
  repeat' first
    | with_reducible assumption
    | (intro x; first | (refine (have hx : Keep s0 x := ?_; ?_); dsimp only [x]) | subst x | skip)
    | lift_lets
    | with_reducible exact Res.All.fault
    | with_reducible apply Res.All.next
    | with_reducible apply State.requestPark_keep
    | with_reducible apply State.scan_keep
    | with_reducible apply State.simple_keep
    | split

theorem State.adopt_keep {s0 : State} {s : State} {k base addr : Nat} (kp : Keep s0 s) :
    Keep s0 (State.adopt s k base addr) := by
  unfold State.adopt
  repeat' first
    | with_reducible assumption
    | with_reducible apply State.sendRoot_keep
    | with_reducible apply State.withdrawPark_keep
    | with_reducible apply State.wr_keep
    | (with_reducible apply Keep.upd; with_reducible assumption)
    | split

theorem execAdopt_keep {s0 : State} {slot : Fin 16} {s : State} (kp : Keep s0 s) :
    Res.All (Keep s0) (execAdopt slot s) := by
  unfold execAdopt
  repeat' first
    | with_reducible assumption
    | (intro x; first | (refine (have hx : Keep s0 x := ?_; ?_); dsimp only [x]) | subst x | skip)
    | lift_lets
    | with_reducible exact Res.All.fault
    | with_reducible apply Res.All.next
    | with_reducible apply State.adopt_keep
    | with_reducible apply State.complete_keep
    | with_reducible apply State.scan_keep
    | with_reducible apply State.simple_keep
    | split

theorem execAdopted_keep {s0 : State} {msg : MsgId} {_jobId : Word64} {s : State} (kp : Keep s0 s) :
    Res.All (Keep s0) (execAdopted msg _jobId s) := by
  unfold execAdopted
  repeat' first
    | with_reducible assumption
    | (intro x; first | (refine (have hx : Keep s0 x := ?_; ?_); dsimp only [x]) | subst x | skip)
    | lift_lets
    | with_reducible exact Res.All.fault
    | with_reducible apply Res.All.next
    | with_reducible apply State.takeMsg_keep
    | (with_reducible apply Keep.upd; with_reducible assumption)
    | split
    | dsimp only

theorem execScrub_keep {s0 : State} {slot : Fin 16} {s : State} (kp : Keep s0 s) :
    Res.All (Keep s0) (execScrub slot s) := by
  unfold execScrub
  repeat' first
    | with_reducible assumption
    | (intro x; first | (refine (have hx : Keep s0 x := ?_; ?_); dsimp only [x]) | subst x | skip)
    | lift_lets
    | with_reducible exact Res.All.fault
    | with_reducible apply Res.All.next
    | with_reducible apply State.beginScrub_keep
    | with_reducible apply State.complete_keep
    | with_reducible apply State.scan_keep
    | split

theorem execScrubDone_keep {s0 : State} {s : State} (kp : Keep s0 s) : Res.All (Keep s0) (execScrubDone s) := by
  unfold execScrubDone
  repeat' first
    | with_reducible assumption
    | (intro x; first | (refine (have hx : Keep s0 x := ?_; ?_); dsimp only [x]) | subst x | skip)
    | lift_lets
    | with_reducible exact Res.All.fault
    | with_reducible apply Res.All.next
    | with_reducible apply State.complete_keep
    | with_reducible apply State.flag_keep
    | with_reducible apply State.logRec_keep
    | with_reducible apply State.thawHeld_keep
    | with_reducible apply State.wr_keep
    | (with_reducible apply Keep.upd; with_reducible assumption)
    | split
    | dsimp only

theorem State.seqCommand_keep {s0 : State} {s : State} {o : Nat} (kp : Keep s0 s) : Keep s0 (State.seqCommand s o) := by
  unfold State.seqCommand
  repeat' first
    | with_reducible assumption
    | (intro x; first | (refine (have hx : Keep s0 x := ?_; ?_); dsimp only [x]) | subst x | skip)
    | lift_lets
    | with_reducible apply State.slotCommand_keep
    | with_reducible apply State.wr_keep
    | (with_reducible apply Keep.upd; first | with_reducible assumption | with_reducible apply State.slotCommand_keep | with_reducible apply State.wr_keep | with_reducible apply Keep.foldl)
    | with_reducible apply Keep.foldl
    | split
    | dsimp only

theorem execSeq_keep {s0 : State} {slot : Fin 16} {s : State} (kp : Keep s0 s) :
    Res.All (Keep s0) (execSeq slot s) := by
  unfold execSeq
  repeat' first
    | with_reducible assumption
    | (intro x; first | (refine (have hx : Keep s0 x := ?_; ?_); dsimp only [x]) | subst x | skip)
    | lift_lets
    | with_reducible exact Res.All.fault
    | with_reducible apply Res.All.next
    | with_reducible apply State.complete_keep
    | with_reducible apply State.scan_keep
    | with_reducible apply State.seqCommand_keep
    | with_reducible apply State.simple_keep
    | split

theorem execParkReq_keep {s0 : State} {msg : MsgId} {reason : BitVec 3} {s : State} (kp : Keep s0 s) :
    Res.All (Keep s0) (execParkReq msg reason s) := by
  unfold execParkReq
  repeat' first
    | with_reducible assumption
    | (intro x; first | (refine (have hx : Keep s0 x := ?_; ?_); dsimp only [x]) | subst x | skip)
    | lift_lets
    | with_reducible exact Res.All.fault
    | with_reducible apply Res.All.next
    | with_reducible apply State.takeMsg_keep
    | (with_reducible apply Keep.upd; with_reducible assumption)
    | split
    | dsimp only

theorem execParkRecord_keep {s0 : State} {_link : LinkId} {_msg : MsgId} {step : Word64} {kind : Bool} {s : State}
    (kp : Keep s0 s) : Res.All (Keep s0) (execParkRecord _link _msg step kind s) := by
  unfold execParkRecord
  repeat' first
    | with_reducible assumption
    | with_reducible exact Res.All.fault
    | with_reducible apply Res.All.next
    | with_reducible apply State.emit_keep
    | (with_reducible apply Keep.upd; with_reducible assumption)
    | split

end Sys2Proof.Machine
end

