-- ==== Sys2Proof/Laws/Keep/Snapshots.lean ====
section
/-! SUPPORT. What the operations of `Machine/Snapshots.lean` keep: the queue, the canonical form of memory, the fuses. -/

namespace Sys2Proof.Machine

theorem State.resnap_keep {s0 : State} {s : State} (kp : Keep s0 s) : Keep s0 (State.resnap s) := by
  unfold State.resnap
  repeat' first
    | with_reducible assumption
    | (with_reducible apply Keep.upd; with_reducible assumption)
    | split

theorem State.snap_keep {s0 : State} {s : State} {blk : SnapBlock} {port : Port} (kp : Keep s0 s) :
    Keep s0 (State.snap s blk port) := by
  unfold State.snap
  repeat' first
    | with_reducible assumption
    | (intro x; first | (refine (have hx : Keep s0 x := ?_; ?_); dsimp only [x]) | subst x | skip)
    | lift_lets
    | with_reducible apply State.wrPort_keep
    | (with_reducible apply Keep.upd; with_reducible assumption)
    | split
    | dsimp only

theorem execAtSnap_keep {s0 : State} {port : Port} {s : State} (kp : Keep s0 s) :
    Res.All (Keep s0) (execAtSnap port s) := by
  unfold execAtSnap
  repeat' first
    | with_reducible assumption
    | with_reducible exact Res.All.fault
    | with_reducible apply Res.All.next
    | with_reducible apply State.snap_keep
    | split

theorem execTkSnap_keep {s0 : State} {port : Port} {s : State} (kp : Keep s0 s) :
    Res.All (Keep s0) (execTkSnap port s) := by
  unfold execTkSnap
  repeat' first
    | with_reducible assumption
    | with_reducible exact Res.All.fault
    | with_reducible apply Res.All.next
    | with_reducible apply State.snap_keep
    | split

theorem execMnSnap_keep {s0 : State} {port : Port} {s : State} (kp : Keep s0 s) :
    Res.All (Keep s0) (execMnSnap port s) := by
  unfold execMnSnap
  repeat' first
    | with_reducible assumption
    | with_reducible exact Res.All.fault
    | with_reducible apply Res.All.next
    | with_reducible apply State.snap_keep
    | split

theorem execBbSnap_keep {s0 : State} {port : Port} {s : State} (kp : Keep s0 s) :
    Res.All (Keep s0) (execBbSnap port s) := by
  unfold execBbSnap
  repeat' first
    | with_reducible assumption
    | with_reducible exact Res.All.fault
    | with_reducible apply Res.All.next
    | with_reducible apply State.snap_keep
    | split

theorem execSpSnap_keep {s0 : State} {port : Port} {m : Fin 2} {s : State} (kp : Keep s0 s) :
    Res.All (Keep s0) (execSpSnap port m s) := by
  unfold execSpSnap
  repeat' first
    | with_reducible assumption
    | with_reducible exact Res.All.fault
    | with_reducible apply Res.All.next
    | with_reducible apply State.snap_keep
    | split

theorem execSqSnap_keep {s0 : State} {port : Port} {m : Fin 2} {s : State} (kp : Keep s0 s) :
    Res.All (Keep s0) (execSqSnap port m s) := by
  unfold execSqSnap
  repeat' first
    | with_reducible assumption
    | with_reducible exact Res.All.fault
    | with_reducible apply Res.All.next
    | with_reducible apply State.snap_keep
    | split

theorem execHvSnap_keep {s0 : State} {port : Port} {m : Fin 2} {s : State} (kp : Keep s0 s) :
    Res.All (Keep s0) (execHvSnap port m s) := by
  unfold execHvSnap
  repeat' first
    | with_reducible assumption
    | with_reducible exact Res.All.fault
    | with_reducible apply Res.All.next
    | with_reducible apply State.snap_keep
    | split

theorem execPwSnap_keep {s0 : State} {port : Port} {s : State} (kp : Keep s0 s) :
    Res.All (Keep s0) (execPwSnap port s) := by
  unfold execPwSnap
  repeat' first
    | with_reducible assumption
    | with_reducible exact Res.All.fault
    | with_reducible apply Res.All.next
    | with_reducible apply State.snap_keep
    | split

theorem execScSnap_keep {s0 : State} {port : Port} {s : State} (kp : Keep s0 s) :
    Res.All (Keep s0) (execScSnap port s) := by
  unfold execScSnap
  repeat' first
    | with_reducible assumption
    | with_reducible exact Res.All.fault
    | with_reducible apply Res.All.next
    | with_reducible apply State.snap_keep
    | split

theorem execSnapshotReady_keep {s0 : State} {blk : SnapBlock} {port : Port} {s : State} (kp : Keep s0 s) :
    Res.All (Keep s0) (execSnapshotReady blk port s) := by
  unfold execSnapshotReady
  repeat' first
    | with_reducible assumption
    | with_reducible exact Res.All.fault
    | with_reducible apply Res.All.next
    | with_reducible apply State.wrPort_keep
    | (with_reducible apply Keep.upd; with_reducible assumption)
    | split

end Sys2Proof.Machine
end

