-- ==== Sys2Proof/Laws/Keep/Latch.lean ====
section
/-! SUPPORT. What the operations of `Machine/Latch.lean` keep: the queue, the canonical form of memory, the fuses. -/

namespace Sys2Proof.Machine

theorem execHem_keep {s0 : State} {s : State} (kp : Keep s0 s) : Res.All (Keep s0) (execHem s) := by
  unfold execHem
  repeat' first
    | with_reducible assumption
    | with_reducible exact Res.All.fault
    | with_reducible apply Res.All.next
    | with_reducible apply State.atHem_keep
    | with_reducible apply State.resnap_keep
    | split

theorem execDecisionReply_keep {s0 : State} {msg : MsgId} {rep : DecisionRep} {s : State} (kp : Keep s0 s) :
    Res.All (Keep s0) (execDecisionReply msg rep s) := by
  unfold execDecisionReply
  repeat' first
    | with_reducible assumption
    | (intro x; first | (refine (have hx : Keep s0 x := ?_; ?_); dsimp only [x]) | subst x | skip)
    | lift_lets
    | with_reducible exact Res.All.fault
    | with_reducible apply Res.All.next
    | with_reducible apply State.atHem_keep
    | with_reducible apply State.flag_keep
    | with_reducible apply State.logDecision_keep
    | with_reducible apply State.noteRound_keep
    | with_reducible apply State.openFault_keep
    | with_reducible apply State.releaseChip_keep
    | with_reducible apply State.resnap_keep
    | with_reducible apply State.takeMsg_keep
    | (with_reducible apply Keep.upd; with_reducible assumption)
    | split
    | dsimp only

end Sys2Proof.Machine
end

