-- ==== Sys2Proof/Laws/Keep/Matrix.lean ====
section
/-! SUPPORT. What the operations of `Machine/Matrix.lean` keep: the queue, the canonical form of memory, the fuses. -/

namespace Sys2Proof.Machine

theorem runMma_keep {s0 : State} {iw : Word64} {s : State} {p a b slot : Nat} {x : SlotSt} (kp : Keep s0 s) :
    Keep s0 (runMma iw s p a b slot x) := by
  unfold runMma
  repeat' first
    | with_reducible assumption
    | (intro x; first | (refine (have hx : Keep s0 x := ?_; ?_); dsimp only [x]) | subst x | skip)
    | lift_lets
    | with_reducible apply State.drawN_keep
    | with_reducible apply State.setTile_keep
    | with_reducible apply State.tileFault_keep
    | split

theorem bodyMma_keep {s0 : State} {iw : Word64} {acc : Bool} {s : State} {p : Nat} (kp : Keep s0 s) :
    Issued.All (Keep s0) (bodyMma iw acc s p) := by
  unfold bodyMma
  repeat' first
    | with_reducible assumption
    | (intro x; first | (refine (have hx : Keep s0 x := ?_; ?_); dsimp only [x]) | subst x | skip)
    | lift_lets
    | with_reducible exact Issued.All.fault
    | with_reducible apply Issued.All.faultIn
    | with_reducible apply Issued.All.done
    | with_reducible apply Issued.All.goto
    | with_reducible apply Issued.All.stall
    | with_reducible apply Issued.All.seam
    | with_reducible apply runMma_keep
    | split

theorem execMmaStart_keep {s0 : State} {tile : TileId} {iw : Word64} {s : State} (kp : Keep s0 s) :
    Res.All (Keep s0) (execMmaStart tile iw s) := by
  unfold execMmaStart
  repeat' first
    | with_reducible assumption
    | with_reducible exact Res.All.fault
    | with_reducible apply Res.All.next
    | with_reducible apply bodyMma_keep
    | with_reducible apply issue_keep
    | split

theorem execMmaAcc_keep {s0 : State} {tile : TileId} {iw : Word64} {s : State} (kp : Keep s0 s) :
    Res.All (Keep s0) (execMmaAcc tile iw s) := by
  unfold execMmaAcc
  repeat' first
    | with_reducible assumption
    | with_reducible exact Res.All.fault
    | with_reducible apply Res.All.next
    | with_reducible apply bodyMma_keep
    | with_reducible apply issue_keep
    | split

theorem bodyDrain_keep {s0 : State} {iw : Word64} {s : State} {p : Nat} (kp : Keep s0 s) :
    Issued.All (Keep s0) (bodyDrain iw s p) := by
  unfold bodyDrain
  repeat' first
    | with_reducible assumption
    | (intro x; first | (refine (have hx : Keep s0 x := ?_; ?_); dsimp only [x]) | subst x | skip)
    | lift_lets
    | with_reducible exact Issued.All.fault
    | with_reducible apply Issued.All.faultIn
    | with_reducible apply Issued.All.done
    | with_reducible apply Issued.All.goto
    | with_reducible apply Issued.All.stall
    | with_reducible apply Issued.All.seam
    | with_reducible apply State.setTile_keep
    | split

theorem execMmaDrain_keep {s0 : State} {tile : TileId} {iw : Word64} {s : State} (kp : Keep s0 s) :
    Res.All (Keep s0) (execMmaDrain tile iw s) := by
  unfold execMmaDrain
  repeat' first
    | with_reducible assumption
    | with_reducible exact Res.All.fault
    | with_reducible apply Res.All.next
    | with_reducible apply bodyDrain_keep
    | with_reducible apply issue_keep
    | split

theorem State.runDrain_keep {s0 : State} {s : State} {p : Nat} {d : DrainOp} (kp : Keep s0 s) :
    Keep s0 (State.runDrain s p d) := by
  unfold State.runDrain
  repeat' first
    | with_reducible assumption
    | (intro x; first | (refine (have hx : Keep s0 x := ?_; ?_); dsimp only [x]) | subst x | skip)
    | lift_lets
    | with_reducible apply State.setTile_keep
    | with_reducible apply State.tileFault_keep
    | split

theorem execDrainComplete_keep {s0 : State} {tile : TileId} {slot : Fin 8} {s : State} (kp : Keep s0 s) :
    Res.All (Keep s0) (execDrainComplete tile slot s) := by
  unfold execDrainComplete
  repeat' first
    | with_reducible assumption
    | with_reducible exact Res.All.fault
    | with_reducible apply Res.All.next
    | with_reducible apply State.asyncDone_keep
    | with_reducible apply State.runDrain_keep
    | split

theorem bodyXwait_keep {s0 : State} {iw : Word64} {s : State} {p : Nat} (kp : Keep s0 s) :
    Issued.All (Keep s0) (bodyXwait iw s p) := by
  unfold bodyXwait
  repeat' first
    | with_reducible assumption
    | (intro x; first | (refine (have hx : Keep s0 x := ?_; ?_); dsimp only [x]) | subst x | skip)
    | lift_lets
    | with_reducible exact Issued.All.fault
    | with_reducible apply Issued.All.faultIn
    | with_reducible apply Issued.All.done
    | with_reducible apply Issued.All.goto
    | with_reducible apply Issued.All.stall
    | with_reducible apply Issued.All.seam
    | with_reducible apply State.setTile_keep
    | split

theorem execXwait_keep {s0 : State} {tile : TileId} {iw : Word64} {s : State} (kp : Keep s0 s) :
    Res.All (Keep s0) (execXwait tile iw s) := by
  unfold execXwait
  repeat' first
    | with_reducible assumption
    | with_reducible exact Res.All.fault
    | with_reducible apply Res.All.next
    | with_reducible apply bodyXwait_keep
    | with_reducible apply issue_keep
    | split

theorem bodyAccrd_keep {s0 : State} {iw : Word64} {s : State} {p : Nat} (kp : Keep s0 s) :
    Issued.All (Keep s0) (bodyAccrd iw s p) := by
  unfold bodyAccrd
  repeat' first
    | with_reducible assumption
    | (intro x; first | (refine (have hx : Keep s0 x := ?_; ?_); dsimp only [x]) | subst x | skip)
    | lift_lets
    | with_reducible exact Issued.All.fault
    | with_reducible apply Issued.All.faultIn
    | with_reducible apply Issued.All.done
    | with_reducible apply Issued.All.goto
    | with_reducible apply Issued.All.stall
    | with_reducible apply Issued.All.seam
    | with_reducible apply State.setTile_keep
    | split

theorem execAccrd_keep {s0 : State} {tile : TileId} {iw : Word64} {s : State} (kp : Keep s0 s) :
    Res.All (Keep s0) (execAccrd tile iw s) := by
  unfold execAccrd
  repeat' first
    | with_reducible assumption
    | with_reducible exact Res.All.fault
    | with_reducible apply Res.All.next
    | with_reducible apply bodyAccrd_keep
    | with_reducible apply issue_keep
    | split

end Sys2Proof.Machine
end

