-- ==== Sys2Proof/Laws/Keep/Resets.lean ====
section
/-! SUPPORT. What the operations of `Machine/Resets.lean` keep: the queue, the canonical form of memory, the fuses. -/

namespace Sys2Proof.Machine

theorem execPcieReset_keep {s0 : State} {s : State} (kp : Keep s0 s) : Res.All (Keep s0) (execPcieReset s) := by
  unfold execPcieReset
  repeat' first
    | with_reducible assumption
    | (intro x; first | (refine (have hx : Keep s0 x := ?_; ?_); dsimp only [x]) | subst x | skip)
    | lift_lets
    | with_reducible exact Res.All.fault
    | with_reducible apply Res.All.next
    | with_reducible apply State.resetF_keep
    | (with_reducible apply Keep.upd; with_reducible assumption)
    | split
    | dsimp only

theorem execPcieXarm_keep {s0 : State} {s : State} (kp : Keep s0 s) : Res.All (Keep s0) (execPcieXarm s) := by
  unfold execPcieXarm
  repeat' first
    | with_reducible assumption
    | with_reducible exact Res.All.fault
    | with_reducible apply Res.All.next
    | (with_reducible apply Keep.upd; with_reducible assumption)
    | split

theorem execPcieXarmDone_keep {s0 : State} {s : State} (kp : Keep s0 s) : Res.All (Keep s0) (execPcieXarmDone s) := by
  unfold execPcieXarmDone
  repeat' first
    | with_reducible assumption
    | (intro x; first | (refine (have hx : Keep s0 x := ?_; ?_); dsimp only [x]) | subst x | skip)
    | lift_lets
    | with_reducible exact Res.All.fault
    | with_reducible apply Res.All.next
    | with_reducible apply State.flag_keep
    | (with_reducible apply Keep.upd; with_reducible assumption)
    | split
    | dsimp only

theorem execOndemandTest_keep {s0 : State} {s : State} (kp : Keep s0 s) : Res.All (Keep s0) (execOndemandTest s) := by
  unfold execOndemandTest
  repeat' first
    | with_reducible assumption
    | (intro x; first | (refine (have hx : Keep s0 x := ?_; ?_); dsimp only [x]) | subst x | skip)
    | lift_lets
    | with_reducible exact Res.All.fault
    | with_reducible apply Res.All.next
    | with_reducible apply State.wr_keep
    | (with_reducible apply Keep.upd; with_reducible assumption)
    | split
    | dsimp only

theorem State.dropPosition_keep {s0 : State} {s : State} {d r : Nat} (kp : Keep s0 s) :
    Keep s0 (State.dropPosition s d r) := by
  unfold State.dropPosition
  repeat' first
    | with_reducible assumption
    | with_reducible apply State.buildDie_keep
    | with_reducible apply State.setRow_keep
    | with_reducible apply State.stopModule_keep
    | split

theorem State.reinitUnit_keep {s0 : State} {s : State} {r : TestResult} (kp : Keep s0 s) :
    Keep s0 (State.reinitUnit s r) := by
  unfold State.reinitUnit
  repeat' first
    | with_reducible assumption
    | (intro x; first | (refine (have hx : Keep s0 x := ?_; ?_); dsimp only [x]) | subst x | skip)
    | lift_lets
    | with_reducible apply State.leaveUp_keep
    | with_reducible apply State.setLink_keep
    | with_reducible apply State.wr_keep
    | (with_reducible apply Keep.upd; first | with_reducible assumption | with_reducible apply State.leaveUp_keep | with_reducible apply State.setLink_keep | with_reducible apply State.wr_keep | with_reducible apply Keep.foldl)
    | with_reducible apply Keep.foldl
    | split
    | dsimp only

theorem State.recordResult_keep {s0 : State} {s : State} {r : TestResult} (kp : Keep s0 s) :
    Keep s0 (State.recordResult s r) := by
  unfold State.recordResult
  repeat' first
    | with_reducible assumption
    | (intro x; first | (refine (have hx : Keep s0 x := ?_; ?_); dsimp only [x]) | subst x | skip)
    | lift_lets
    | with_reducible apply State.dropPosition_keep
    | with_reducible apply State.recordBad_keep
    | (with_reducible apply Keep.upd; first | with_reducible assumption | with_reducible apply State.dropPosition_keep | with_reducible apply State.recordBad_keep | with_reducible apply Keep.foldl)
    | with_reducible apply Keep.foldl
    | split
    | dsimp only

theorem execOndemandTestDone_keep {s0 : State} {res : TestResult} {s : State} (kp : Keep s0 s) :
    Res.All (Keep s0) (execOndemandTestDone res s) := by
  unfold execOndemandTestDone
  repeat' first
    | with_reducible assumption
    | with_reducible exact Res.All.fault
    | with_reducible apply Res.All.next
    | with_reducible apply State.recordResult_keep
    | with_reducible apply State.reinitUnit_keep
    | with_reducible apply State.takeResult_keep
    | with_reducible apply State.wr_keep
    | (with_reducible apply Keep.upd; with_reducible assumption)
    | split

theorem execCoreWatchdog_keep {s0 : State} {core : Fin 20} {s : State} (kp : Keep s0 s) :
    Res.All (Keep s0) (execCoreWatchdog core s) := by
  unfold execCoreWatchdog
  repeat' first
    | with_reducible assumption
    | with_reducible exact Res.All.fault
    | with_reducible apply Res.All.next
    | with_reducible apply State.thawCore_keep
    | (with_reducible apply Keep.upd; with_reducible assumption)
    | split

theorem execCoreThawDone_keep {s0 : State} {core : Fin 20} {s : State} (kp : Keep s0 s) :
    Res.All (Keep s0) (execCoreThawDone core s) := by
  unfold execCoreThawDone
  repeat' first
    | with_reducible assumption
    | with_reducible exact Res.All.fault
    | with_reducible apply Res.All.next
    | (with_reducible apply Keep.upd; with_reducible assumption)
    | split

end Sys2Proof.Machine
end

