-- ==== Sys2Proof/Laws/Keep/Security.lean ====
section
/-! SUPPORT. What the operations of `Machine/Security.lean` keep: the queue, the canonical form of memory, the fuses. -/

namespace Sys2Proof.Machine

theorem State.reply_keep {s0 : State} {s : State} {code : Nat} {data : List Byte} (kp : Keep s0 s) :
    Keep s0 (State.reply s code data) := by
  unfold State.reply
  repeat' first
    | with_reducible assumption
    | with_reducible apply State.emit_keep
    | split

theorem execRevocationOrder_keep {s0 : State} {ord : SignedObj} {s : State} (h : Keep s0 s) :
    Res.All (Keep s0) (execRevocationOrder ord s) := by
  unfold execRevocationOrder
  refine Res.All.next ?_
  split
  · refine State.emit_keep ⟨h.queue, h.mem, ⟨h.fuses.fwSvn, h.fuses.cfgSvn, h.fuses.mark, fun i hi => ?_, h.fuses.dies,
      h.fuses.serial, h.fuses.grade, h.fuses.capacity⟩⟩
    have := h.fuses.revoked i hi
    simp only [hasBit] at this ⊢
    simp [Nat.testBit_or, this]
  · exact State.emit_keep h

theorem execPldmFwUpdate_keep {s0 : State} {up : UpdateObj} {s : State} (kp : Keep s0 s) :
    Res.All (Keep s0) (execPldmFwUpdate up s) := by
  unfold execPldmFwUpdate
  repeat' first
    | with_reducible assumption
    | (intro x; first | (refine (have hx : Keep s0 x := ?_; ?_); dsimp only [x]) | subst x | skip)
    | lift_lets
    | with_reducible exact Res.All.fault
    | with_reducible apply Res.All.next
    | with_reducible apply State.reply_keep
    | (with_reducible apply Keep.upd; first | with_reducible assumption | with_reducible apply State.reply_keep | with_reducible apply Keep.foldl)
    | with_reducible apply Keep.foldl
    | split
    | (with_reducible apply Keep.updSec; first | with_reducible assumption | with_reducible apply State.reply_keep)
    | dsimp only

theorem execSpdmRequest_keep {s0 : State} {rq : SpdmReq} {s : State} (kp : Keep s0 s) :
    Res.All (Keep s0) (execSpdmRequest rq s) := by
  unfold execSpdmRequest
  repeat' first
    | with_reducible assumption
    | (intro x; first | (refine (have hx : Keep s0 x := ?_; ?_); dsimp only [x]) | subst x | skip)
    | lift_lets
    | with_reducible exact Res.All.fault
    | with_reducible apply Res.All.next
    | with_reducible apply State.reply_keep
    | (with_reducible apply Keep.upd; first | with_reducible assumption | with_reducible apply State.reply_keep | with_reducible apply Keep.foldl)
    | with_reducible apply Keep.foldl
    | split
    | (with_reducible apply Keep.updSec; first | with_reducible assumption | with_reducible apply State.reply_keep)
    | dsimp only

theorem execCsign_keep {s0 : State} {msg : List Byte} {s : State} (h : Keep s0 s) :
    Res.All (Keep s0) (execCsign msg s) := by
  unfold execCsign
  refine Res.All.next ?_
  split
  · exact State.emit_keep h
  · split
    · exact State.emit_keep h
    · refine State.emit_keep ⟨h.queue, h.mem, ⟨h.fuses.fwSvn, h.fuses.cfgSvn, ?_, h.fuses.revoked, h.fuses.dies,
        h.fuses.serial, h.fuses.grade, h.fuses.capacity⟩⟩
      dsimp only
      have := h.fuses.mark
      split <;> omega

theorem State.issueNonce_keep {s0 : State} {s : State} (kp : Keep s0 s) : Keep s0 (State.issueNonce s) := by
  unfold State.issueNonce
  repeat' first
    | with_reducible assumption
    | (intro x; first | (refine (have hx : Keep s0 x := ?_; ?_); dsimp only [x]) | subst x | skip)
    | lift_lets
    | (with_reducible apply Keep.upd; first | with_reducible assumption | with_reducible apply Keep.foldl)
    | with_reducible apply Keep.foldl
    | split
    | (with_reducible apply Keep.updSec; first | with_reducible assumption)
    | dsimp only

theorem execDebugNonceRequest_keep {s0 : State} {s : State} (kp : Keep s0 s) :
    Res.All (Keep s0) (execDebugNonceRequest s) := by
  unfold execDebugNonceRequest
  repeat' first
    | with_reducible assumption
    | with_reducible exact Res.All.fault
    | with_reducible apply Res.All.next
    | with_reducible apply State.issueNonce_keep
    | split

theorem execUnlock_keep {s0 : State} {tok : DebugToken} {s : State} (kp : Keep s0 s) :
    Res.All (Keep s0) (execUnlock tok s) := by
  unfold execUnlock
  repeat' first
    | with_reducible assumption
    | (intro x; first | (refine (have hx : Keep s0 x := ?_; ?_); dsimp only [x]) | subst x | skip)
    | lift_lets
    | with_reducible exact Res.All.fault
    | with_reducible apply Res.All.next
    | with_reducible apply State.extend_keep
    | with_reducible apply State.flag_keep
    | with_reducible apply State.reply_keep
    | (with_reducible apply Keep.upd; first | with_reducible assumption | with_reducible apply State.extend_keep | with_reducible apply State.flag_keep | with_reducible apply State.reply_keep | with_reducible apply Keep.foldl)
    | with_reducible apply Keep.foldl
    | split
    | (with_reducible apply Keep.updSec; first | with_reducible assumption | with_reducible apply State.extend_keep | with_reducible apply State.flag_keep | with_reducible apply State.reply_keep)
    | dsimp only

theorem State.endUnlock_keep {s0 : State} {s : State} (kp : Keep s0 s) : Keep s0 (State.endUnlock s) := by
  unfold State.endUnlock
  repeat' first
    | with_reducible assumption
    | (intro x; first | (refine (have hx : Keep s0 x := ?_; ?_); dsimp only [x]) | subst x | skip)
    | lift_lets
    | (with_reducible apply Keep.upd; first | with_reducible assumption | with_reducible apply Keep.foldl)
    | with_reducible apply Keep.foldl
    | split
    | (with_reducible apply Keep.updSec; first | with_reducible assumption)
    | dsimp only

theorem execRelock_keep {s0 : State} {s : State} (kp : Keep s0 s) : Res.All (Keep s0) (execRelock s) := by
  unfold execRelock
  repeat' first
    | with_reducible assumption
    | with_reducible exact Res.All.fault
    | with_reducible apply Res.All.next
    | with_reducible apply State.endUnlock_keep
    | split

theorem State.enterScan_keep {s0 : State} {s : State} (kp : Keep s0 s) : Keep s0 (State.enterScan s) := by
  unfold State.enterScan
  repeat' first
    | with_reducible assumption
    | (intro x; first | (refine (have hx : Keep s0 x := ?_; ?_); dsimp only [x]) | subst x | skip)
    | lift_lets
    | with_reducible apply State.enterIsolated_keep
    | with_reducible apply State.extend_keep
    | with_reducible apply State.flag_keep
    | with_reducible apply State.leaveUp_keep
    | (with_reducible apply Keep.upd; first | with_reducible assumption | with_reducible apply State.enterIsolated_keep | with_reducible apply State.extend_keep | with_reducible apply State.flag_keep | with_reducible apply State.leaveUp_keep | with_reducible apply Keep.foldl)
    | with_reducible apply Keep.foldl
    | split
    | (with_reducible apply Keep.updSec; first | with_reducible assumption | with_reducible apply State.enterIsolated_keep | with_reducible apply State.extend_keep | with_reducible apply State.flag_keep | with_reducible apply State.leaveUp_keep)
    | dsimp only

theorem State.requestScan_keep {s0 : State} {s : State} (kp : Keep s0 s) : Keep s0 (State.requestScan s) := by
  unfold State.requestScan
  repeat' first
    | with_reducible assumption
    | with_reducible apply State.enterScan_keep
    | with_reducible apply State.flag_keep
    | split

theorem execScanEn_keep {s0 : State} {s : State} (kp : Keep s0 s) : Res.All (Keep s0) (execScanEn s) := by
  unfold execScanEn
  repeat' first
    | with_reducible assumption
    | with_reducible exact Res.All.fault
    | with_reducible apply Res.All.next
    | with_reducible apply State.requestScan_keep
    | split

theorem execIdeKm_keep {s0 : State} {rq : IdeReq} {s : State} (kp : Keep s0 s) :
    Res.All (Keep s0) (execIdeKm rq s) := by
  unfold execIdeKm
  repeat' first
    | with_reducible assumption
    | (intro x; first | (refine (have hx : Keep s0 x := ?_; ?_); dsimp only [x]) | subst x | skip)
    | lift_lets
    | with_reducible exact Res.All.fault
    | with_reducible apply Res.All.next
    | with_reducible apply State.reply_keep
    | (with_reducible apply Keep.upd; first | with_reducible assumption | with_reducible apply State.reply_keep | with_reducible apply Keep.foldl)
    | with_reducible apply Keep.foldl
    | split
    | (with_reducible apply Keep.updSec; first | with_reducible assumption | with_reducible apply State.reply_keep)
    | dsimp only

end Sys2Proof.Machine
end

