-- ==== Sys2Proof/Laws/Keep/Registers.lean ====
section
/-! SUPPORT. What the operations of `Machine/Registers.lean` keep: the queue, the canonical form of memory, the fuses. -/

namespace Sys2Proof.Machine

theorem State.clearRc_keep {s0 : State} {s : State} {f : Fld} (kp : Keep s0 s) : Keep s0 (State.clearRc s f) := by
  unfold State.clearRc
  repeat' first
    | with_reducible assumption
    | (intro x; first | (refine (have hx : Keep s0 x := ?_; ?_); dsimp only [x]) | subst x | skip)
    | lift_lets
    | with_reducible apply State.modLink_keep
    | with_reducible apply State.wr_keep
    | (with_reducible apply Keep.upd; with_reducible assumption)
    | split
    | dsimp only

theorem execRcFieldRead_keep {s0 : State} {port : Port} {addr : Nat} {s : State} (kp : Keep s0 s) :
    Res.All (Keep s0) (execRcFieldRead port addr s) := by
  unfold execRcFieldRead
  repeat' first
    | with_reducible assumption
    | (intro x; first | (refine (have hx : Keep s0 x := ?_; ?_); dsimp only [x]) | subst x | skip)
    | lift_lets
    | with_reducible exact Res.All.fault
    | with_reducible apply Res.All.next
    | with_reducible apply State.answer_keep
    | with_reducible apply State.clearRc_keep
    | with_reducible apply State.countDrop_keep
    | with_reducible apply State.logUnmapped_keep
    | with_reducible apply execTileWindowRead_keep
    | (with_reducible apply Keep.upd; first | with_reducible assumption | with_reducible apply State.answer_keep | with_reducible apply State.clearRc_keep | with_reducible apply State.countDrop_keep | with_reducible apply State.logUnmapped_keep | with_reducible apply execTileWindowRead_keep | with_reducible apply Keep.foldl)
    | with_reducible apply Keep.foldl
    | split
    | dsimp only

theorem State.writeSnap_keep {s0 : State} {s t : State} {port : Port} {a v : Nat} (h : Keep s0 s)
    (ht : State.writeSnap s port a v = some t) : Keep s0 t := by
  unfold State.writeSnap at ht
  split at ht
  · injection ht with ht
    subst ht
    split
    · exact State.snap_keep h
    · exact h
  · cases ht

theorem State.writeDebug_keep {s0 : State} {s : State} {v : Nat} (kp : Keep s0 s) : Keep s0 (State.writeDebug s v) := by
  unfold State.writeDebug
  repeat' first
    | with_reducible assumption
    | with_reducible apply State.endUnlock_keep
    | with_reducible apply State.issueNonce_keep
    | with_reducible apply State.requestScan_keep
    | split

theorem State.writeLinkCtl_keep {s0 : State} {s : State} {n : Fin 36} {v : Nat} (kp : Keep s0 s) :
    Res.All (Keep s0) (State.writeLinkCtl s n v) := by
  unfold State.writeLinkCtl
  repeat' first
    | with_reducible assumption
    | (intro x; first | (refine (have hx : Keep s0 x := ?_; ?_); dsimp only [x]) | subst x | skip)
    | lift_lets
    | with_reducible exact Res.All.fault
    | with_reducible apply Res.All.next
    | with_reducible apply State.leaveUp_keep
    | with_reducible apply State.storeWord_keep
    | with_reducible apply State.tryTrain_keep
    | with_reducible apply execLinkReset_keep
    | with_reducible apply execLinkRetrain_keep
    | split

theorem State.writeLink_keep {s0 : State} {s : State} {n : Fin 36} {a v : Nat} (kp : Keep s0 s) :
    Res.All (Keep s0) (State.writeLink s n a v) := by
  unfold State.writeLink
  repeat' first
    | with_reducible assumption
    | with_reducible exact Res.All.fault
    | with_reducible apply Res.All.next
    | with_reducible apply State.storeWord_keep
    | with_reducible apply State.writeLinkCtl_keep
    | with_reducible apply execXarmArm_keep
    | split

theorem State.writeLadj_keep {s0 : State} {s : State} {v : Nat} (kp : Keep s0 s) : Keep s0 (State.writeLadj s v) := by
  unfold State.writeLadj
  repeat' first
    | with_reducible assumption
    | (intro x; first | (refine (have hx : Keep s0 x := ?_; ?_); dsimp only [x]) | subst x | skip)
    | lift_lets
    | with_reducible apply State.modLink_keep
    | split

theorem State.writeLastWord_keep {s0 : State} {s : State} {v : Nat} (kp : Keep s0 s) :
    Keep s0 (State.writeLastWord s v) := by
  unfold State.writeLastWord
  repeat' first
    | with_reducible assumption
    | (intro x; first | (refine (have hx : Keep s0 x := ?_; ?_); dsimp only [x]) | subst x | skip)
    | lift_lets
    | with_reducible apply State.storeWord_keep
    | with_reducible apply State.wr_keep
    | (with_reducible apply Keep.upd; first | with_reducible assumption | with_reducible apply State.storeWord_keep | with_reducible apply State.wr_keep | with_reducible apply Keep.foldl)
    | with_reducible apply Keep.foldl
    | split
    | dsimp only

theorem State.writeRecovery_keep {s0 : State} {s : State} {v : Nat} (kp : Keep s0 s) :
    Res.All (Keep s0) (State.writeRecovery s v) := by
  unfold State.writeRecovery
  repeat' first
    | with_reducible assumption
    | with_reducible exact Res.All.fault
    | with_reducible apply Res.All.next
    | with_reducible apply State.wr_keep
    | with_reducible apply execRewindDone_keep
    | split

theorem State.writeNext_keep {s0 : State} {s : State} {a v : Nat} (kp : Keep s0 s) :
    Keep s0 (State.writeNext s a v) := by
  unfold State.writeNext
  repeat' first
    | with_reducible assumption
    | with_reducible apply State.storeWord_keep
    | (with_reducible apply Keep.upd; with_reducible assumption)
    | split

theorem State.writeEngine_keep {s0 : State} {s : State} {m : Fin 2} {a v : Nat} (kp : Keep s0 s) :
    Res.All (Keep s0) (State.writeEngine s m a v) := by
  unfold State.writeEngine
  repeat' first
    | with_reducible assumption
    | with_reducible exact Res.All.fault
    | with_reducible apply Res.All.next
    | with_reducible apply State.slotCommand_keep
    | with_reducible apply State.storeWord_keep
    | with_reducible apply execZeroStart_keep
    | split

theorem State.writeFw_keep {s0 : State} {s : State} {a v : Nat} (h : Keep s0 s) :
    Res.All (Keep s0) (State.writeFw s a v) := by
  have hw : Keep s0 (s.storeWord .fw a v) := State.storeWord_keep h
  unfold State.writeFw
  refine .ite (.next (State.bump_keep h)) (.dite (fun _ => State.writeLink_keep h) (fun _ => ?_))
  refine .ite (.ite (execAtStart_keep hw) (.next hw)) (.ite (.next (State.writeLadj_keep h)) (.ite (.next (State.writeNext_keep h)) ?_))
  refine .ite (execRowMapWrite_keep h) (.ite (execPowerLimitWrite_keep h) (.ite (execWarmReset_keep h) ?_))
  refine .ite (.ite (execOndemandTest_keep hw) (.next hw)) (.ite (.ite (execPcieXarm_keep hw) (.next hw)) ?_)
  refine .ite (.next (State.writeDebug_keep h)) (.ite (State.writeRecovery_keep h) (.ite (.next (State.writeLastWord_keep h)) ?_))
  exact .ite (State.writeEngine_keep h) (.ite (State.writeEngine_keep h) (.next hw))

theorem State.writeHost_keep {s0 : State} {s : State} {a v : Nat} (kp : Keep s0 s) :
    Res.All (Keep s0) (State.writeHost s a v) := by
  unfold State.writeHost
  repeat' first
    | with_reducible assumption
    | with_reducible exact Res.All.fault
    | with_reducible apply Res.All.next
    | with_reducible apply State.storeWord_keep
    | with_reducible apply State.writeDebug_keep
    | with_reducible apply execWarmReset_keep
    | split

theorem State.writeB4_keep {s0 : State} {s : State} {a size v : Nat} (kp : Keep s0 s) :
    Keep s0 (State.writeB4 s a size v) := by
  unfold State.writeB4
  repeat' first
    | with_reducible assumption
    | (intro x; first | (refine (have hx : Keep s0 x := ?_; ?_); dsimp only [x]) | subst x | skip)
    | lift_lets
    | with_reducible apply State.setB4_keep
    | (with_reducible apply Keep.upd; with_reducible assumption)
    | split
    | dsimp only

theorem execRegisterWrite_keep {s0 : State} {port : Port} {addr : Nat} {size : Nat} {value : Word32} {s : State} (kp
    : Keep s0 s) : Res.All (Keep s0) (execRegisterWrite port addr size value s) := by
  unfold execRegisterWrite
  repeat' first
    | with_reducible assumption
    | with_reducible exact Res.All.fault
    | with_reducible apply Res.All.next
    | with_reducible apply State.countDrop_keep
    | with_reducible apply State.logUnmapped_keep
    | with_reducible apply State.writeB4_keep
    | with_reducible apply State.writeFw_keep
    | with_reducible apply State.writeHost_keep
    | with_reducible apply State.writeSnap_keep
    | with_reducible apply execTileWindowWrite_keep
    | split

end Sys2Proof.Machine
end

