-- ==== Sys2Proof/Laws/Keep/Scalar.lean ====
section
/-! SUPPORT. What the operations of `Machine/Scalar.lean` keep: the queue, the canonical form of memory, the fuses. -/

namespace Sys2Proof.Machine

theorem jumpTo_keep {s0 : State} {t : Tile} {iw : Word64} {s : State} (kp : Keep s0 s) :
    Issued.All (Keep s0) (jumpTo t iw s) := by
  unfold jumpTo
  repeat' first
    | with_reducible assumption
    | with_reducible exact Issued.All.fault
    | with_reducible apply Issued.All.faultIn
    | with_reducible apply Issued.All.done
    | with_reducible apply Issued.All.goto
    | with_reducible apply Issued.All.stall
    | with_reducible apply Issued.All.seam
    | split

theorem bodyScalar_keep {s0 : State} {iw : Word64} {op : ScalarOp} {s : State} {p : Nat} (kp : Keep s0 s) :
    Issued.All (Keep s0) (bodyScalar iw op s p) := by
  unfold bodyScalar
  repeat' first
    | with_reducible assumption
    | with_reducible exact Issued.All.fault
    | with_reducible apply Issued.All.faultIn
    | with_reducible apply Issued.All.done
    | with_reducible apply Issued.All.goto
    | with_reducible apply Issued.All.stall
    | with_reducible apply Issued.All.seam
    | with_reducible apply State.setTile_keep
    | with_reducible apply jumpTo_keep
    | split

theorem execScalarOp_keep {s0 : State} {tile : TileId} {iw : Word64} {op : ScalarOp} {s : State} (kp : Keep s0 s) :
    Res.All (Keep s0) (execScalarOp tile iw op s) := by
  unfold execScalarOp
  repeat' first
    | with_reducible assumption
    | with_reducible exact Res.All.fault
    | with_reducible apply Res.All.next
    | with_reducible apply bodyScalar_keep
    | with_reducible apply issue_keep
    | split

theorem bodyMem_keep {s0 : State} {iw : Word64} {op : MemOp} {s : State} {p : Nat} (kp : Keep s0 s) :
    Issued.All (Keep s0) (bodyMem iw op s p) := by
  unfold bodyMem
  repeat' first
    | with_reducible assumption
    | (intro x; first | (refine (have hx : Keep s0 x := ?_; ?_); dsimp only [x]) | subst x | skip)
    | lift_lets
    | with_reducible exact Issued.All.fault
    | with_reducible apply Issued.All.faultIn
    | with_reducible apply Issued.All.done
    | with_reducible apply Issued.All.goto
    | with_reducible apply Issued.All.stall
    | with_reducible apply Issued.All.seam
    | with_reducible apply State.setTile_keep
    | split

theorem execLoadStore_keep {s0 : State} {tile : TileId} {iw : Word64} {op : MemOp} {s : State} (kp : Keep s0 s) :
    Res.All (Keep s0) (execLoadStore tile iw op s) := by
  unfold execLoadStore
  repeat' first
    | with_reducible assumption
    | with_reducible exact Res.All.fault
    | with_reducible apply Res.All.next
    | with_reducible apply bodyMem_keep
    | with_reducible apply issue_keep
    | split

end Sys2Proof.Machine
end

