-- ==== Sys2Proof/Laws/Keep/TackInstr.lean ====
section
/-! SUPPORT. What the operations of `Machine/TackInstr.lean` keep: the queue, the canonical form of memory, the fuses. -/

namespace Sys2Proof.Machine

theorem bodyTmask_keep {s0 : State} {iw : Word64} {s : State} {p : Nat} (kp : Keep s0 s) :
    Issued.All (Keep s0) (bodyTmask iw s p) := by
  unfold bodyTmask
  repeat' first
    | with_reducible assumption
    | (intro x; first | (refine (have hx : Keep s0 x := ?_; ?_); dsimp only [x]) | subst x | skip)
    | lift_lets
    | with_reducible exact Issued.All.fault
    | with_reducible apply Issued.All.faultIn
    | with_reducible apply Issued.All.done
    | with_reducible apply Issued.All.goto
    | with_reducible apply Issued.All.stall
    | with_reducible apply Issued.All.seam
    | with_reducible apply State.setTile_keep
    | split

theorem execTmask_keep {s0 : State} {tile : TileId} {iw : Word64} {s : State} (kp : Keep s0 s) :
    Res.All (Keep s0) (execTmask tile iw s) := by
  unfold execTmask
  repeat' first
    | with_reducible assumption
    | with_reducible exact Res.All.fault
    | with_reducible apply Res.All.next
    | with_reducible apply bodyTmask_keep
    | with_reducible apply issue_keep
    | split

theorem State.setFlag_keep {s0 : State} {s : State} {p k : Nat} (kp : Keep s0 s) : Keep s0 (State.setFlag s p k) := by
  unfold State.setFlag
  repeat' first
    | with_reducible assumption
    | with_reducible apply State.modTile_keep
    | split

theorem bodyTset_keep {s0 : State} {iw : Word64} {s : State} {p : Nat} (kp : Keep s0 s) :
    Issued.All (Keep s0) (bodyTset iw s p) := by
  unfold bodyTset
  repeat' first
    | with_reducible assumption
    | (intro x; first | (refine (have hx : Keep s0 x := ?_; ?_); dsimp only [x]) | subst x | skip)
    | lift_lets
    | with_reducible exact Issued.All.fault
    | with_reducible apply Issued.All.faultIn
    | with_reducible apply Issued.All.done
    | with_reducible apply Issued.All.goto
    | with_reducible apply Issued.All.stall
    | with_reducible apply Issued.All.seam
    | with_reducible apply State.setFlag_keep
    | with_reducible apply State.setTile_keep
    | split

theorem execTset_keep {s0 : State} {tile : TileId} {iw : Word64} {s : State} (kp : Keep s0 s) :
    Res.All (Keep s0) (execTset tile iw s) := by
  unfold execTset
  repeat' first
    | with_reducible assumption
    | with_reducible exact Res.All.fault
    | with_reducible apply Res.All.next
    | with_reducible apply bodyTset_keep
    | with_reducible apply issue_keep
    | split

theorem bodyTwait_keep {s0 : State} {iw : Word64} {s : State} {p : Nat} (kp : Keep s0 s) :
    Issued.All (Keep s0) (bodyTwait iw s p) := by
  unfold bodyTwait
  repeat' first
    | with_reducible assumption
    | (intro x; first | (refine (have hx : Keep s0 x := ?_; ?_); dsimp only [x]) | subst x | skip)
    | lift_lets
    | with_reducible exact Issued.All.fault
    | with_reducible apply Issued.All.faultIn
    | with_reducible apply Issued.All.done
    | with_reducible apply Issued.All.goto
    | with_reducible apply Issued.All.stall
    | with_reducible apply Issued.All.seam
    | with_reducible apply State.setTile_keep
    | split

theorem execTwait_keep {s0 : State} {tile : TileId} {iw : Word64} {s : State} (kp : Keep s0 s) :
    Res.All (Keep s0) (execTwait tile iw s) := by
  unfold execTwait
  repeat' first
    | with_reducible assumption
    | with_reducible exact Res.All.fault
    | with_reducible apply Res.All.next
    | with_reducible apply bodyTwait_keep
    | with_reducible apply issue_keep
    | split

theorem bodyTseam_keep {s0 : State} {iw : Word64} {s : State} {p : Nat} (kp : Keep s0 s) :
    Issued.All (Keep s0) (bodyTseam iw s p) := by
  unfold bodyTseam
  repeat' first
    | with_reducible assumption
    | (intro x; first | (refine (have hx : Keep s0 x := ?_; ?_); dsimp only [x]) | subst x | skip)
    | lift_lets
    | with_reducible exact Issued.All.fault
    | with_reducible apply Issued.All.faultIn
    | with_reducible apply Issued.All.done
    | with_reducible apply Issued.All.goto
    | with_reducible apply Issued.All.stall
    | with_reducible apply Issued.All.seam
    | with_reducible apply State.setFlag_keep
    | with_reducible apply State.setTile_keep
    | split

theorem execTseam_keep {s0 : State} {tile : TileId} {iw : Word64} {s : State} (kp : Keep s0 s) :
    Res.All (Keep s0) (execTseam tile iw s) := by
  unfold execTseam
  repeat' first
    | with_reducible assumption
    | with_reducible exact Res.All.fault
    | with_reducible apply Res.All.next
    | with_reducible apply bodyTseam_keep
    | with_reducible apply issue_keep
    | split

end Sys2Proof.Machine
end

