-- ==== Sys2Proof/Laws/Time.lean ====
section
/-! SUPPORT. What the operations of the time states leave as it was, and the state that each leads to. -/

namespace Sys2Proof.Machine

variable {fs : List Fld} {ps : List StatePart} {s x : State}

theorem Frame.setParent (h : Frame fs ps s x) (h0 : Reg.AT_STAT_DEPTH ∈ fs) (h1 : Reg.AT_STAT_PARENT ∈ fs)
    (hl : .links ∈ ps) (ht : .time ∈ ps) (n : Nat) : Frame fs ps s (x.setParent n) := by
  unfold State.setParent
  refine Frame.refresh (Frame.modLink (Frame.wr ?_ h1 _) hl ..) h0 ht
  exact h.upd rfl (fun p hq => by cases p <;> first | exact absurd ht hq | rfl)

theorem Frame.chooseParent (h : Frame fs ps s x) (h0 : Reg.AT_STAT_DEPTH ∈ fs) (h1 : Reg.AT_STAT_PARENT ∈ fs)
    (hl : .links ∈ ps) (ht : .time ∈ ps) : Frame fs ps s x.chooseParent := by
  unfold State.chooseParent
  split
  · split
    · exact Frame.ite _ h (h.setParent h0 h1 hl ht _)
    · exact h
  · split
    · split
      · exact Frame.ite _ (h.setParent h0 h1 hl ht _) h
      · exact h
    · exact h

theorem Frame.enterMeasure (h : Frame fs ps s x) (h0 : Reg.AT_STAT_DEPTH ∈ fs) (h1 : Reg.AT_STAT_PARENT ∈ fs)
    (h2 : Reg.AT_STAT_STATE ∈ fs) (hl : .links ∈ ps) (ht : .time ∈ ps) : Frame fs ps s x.enterMeasure := by
  unfold State.enterMeasure
  refine Frame.refresh (Frame.chooseParent ?_ h0 h1 hl ht) h0 ht
  exact Frame.upd (x := (x.wr Reg.AT_STAT_STATE tsMeasure).noParent) ((h.wr h2 _).wr h1 _) rfl
    (fun p hq => by cases p <;> first | exact absurd hl hq | rfl | exact absurd ht hq)

theorem Frame.enterHoldover (h : Frame fs ps s x) (h0 : Reg.AT_STAT_DEPTH ∈ fs) (h1 : Reg.AT_STAT_PARENT ∈ fs)
    (h2 : Reg.AT_STAT_STATE ∈ fs) (hl : .links ∈ ps) (ht : .time ∈ ps) (q : Option Nat) :
    Frame fs ps s (x.enterHoldover q) := by
  have e : ∀ y : TimeSt, Frame fs ps s { (x.wr Reg.AT_STAT_STATE tsHoldover).noParent with time := y } := fun y =>
    Frame.upd (x := (x.wr Reg.AT_STAT_STATE tsHoldover).noParent) ((h.wr h2 _).wr h1 _) rfl
      (fun p hq => by cases p <;> first | exact absurd ht hq | rfl)
  unfold State.enterHoldover
  dsimp only
  split
  · exact ((e _).setParent h0 h1 hl ht _).refresh h0 ht
  · exact ((e _).chooseParent h0 h1 hl ht).refresh h0 ht

/-- A choice of a parent leaves the time state. -/
theorem State.tstate_chooseParent (s : State) : s.chooseParent.tstate = s.tstate :=
  ((Frame.refl [Reg.AT_STAT_DEPTH, Reg.AT_STAT_PARENT] [.links, .time] s).chooseParent (by simp) (by simp) (by simp)
    (by simp)).rd _ (by decide)

theorem State.tstate_refresh (s : State) : s.refresh.tstate = s.tstate := s.rd_refresh (by decide)

/-- Two register reads after the writes of a time state and of the parent. -/
theorem State.tstate_noParent (s : State) : s.noParent.tstate = s.tstate := s.rd_wr_ne _ (by decide)

theorem State.tstate_set (s : State) {n : Nat} (h : n < 16) : (s.wr Reg.AT_STAT_STATE n).tstate = n := by
  unfold State.tstate
  rw [State.rd_wr_same]
  exact Nat.mod_eq_of_lt h

theorem State.tstate_enterMeasure (s : State) : s.enterMeasure.tstate = tsMeasure := by
  unfold State.enterMeasure
  rw [State.tstate_refresh, State.tstate_chooseParent]
  exact (State.tstate_noParent _).trans (State.tstate_set _ (by decide))

theorem State.tstate_enterHoldover (s : State) (q : Option Nat) : (s.enterHoldover q).tstate = tsHoldover := by
  have e : ((s.wr Reg.AT_STAT_STATE tsHoldover).noParent).tstate = tsHoldover :=
    (State.tstate_noParent _).trans (State.tstate_set _ (by decide))
  unfold State.enterHoldover
  dsimp only
  split
  · rw [State.tstate_refresh]
    unfold State.setParent
    rw [State.tstate_refresh]
    exact ((State.rd_wr_ne _ _ (by decide)).trans e)
  · rw [State.tstate_refresh, State.tstate_chooseParent]
    exact e

theorem Frame.selectTable (h : Frame fs ps s x) (h0 : Reg.SM_TT_SEL ∈ fs) (h1 : Reg.SM_FLT_TT_MISSING ∈ fs) (ht : .time ∈ ps)
    (t : Nat) : Frame fs ps s (x.selectTable t) := by
  have h : Frame fs ps s { x with time := { x.time with table := t } } :=
    h.upd rfl (fun p hq => by cases p <;> first | exact absurd ht hq | rfl)
  unfold State.selectTable
  dsimp only
  split
  · exact Frame.ite _ (h.wr h0 _) (h.flag h1)
  · exact h.flag h1

/-- The register fields that the declaration of an epoch writes. -/
def declareFields : List Fld :=
  [Reg.AT_EPOCH_NUM, Reg.SM_TT_SEL, Reg.SM_FLT_TT_MISSING, Reg.AT_EPOCH_START_LO_VALUE, Reg.AT_EPOCH_START_HI_VALUE]

theorem Frame.declareEpoch (h : Frame fs ps s x) (hf : ∀ f ∈ declareFields, f ∈ fs) (hl : .links ∈ ps) (ht : .time ∈ ps) :
    Frame fs ps s x.declareEpoch := by
  simp only [declareFields, List.mem_cons, List.not_mem_nil, or_false, forall_eq_or_imp, forall_eq] at hf
  obtain ⟨h0, h1, h2, h3, h4⟩ := hf
  have h5 := (h.wr h0 (x.rd Reg.AT_EPOCH_NUM + 1)).selectTable h1 h2 ht x.bestTable
  unfold State.declareEpoch
  dsimp only
  generalize (x.wr Reg.AT_EPOCH_NUM (x.rd Reg.AT_EPOCH_NUM + 1)).selectTable x.bestTable = y at h5 ⊢
  refine Frame.floodCtl (Frame.wr (Frame.wr ?_ h3 _) h4 _) hl _
  refine Frame.upd h5 ?_ (fun p hq => ?_)
  · rfl
  cases p <;> first | exact absurd ht hq | rfl

theorem Frame.tryDeclare (h : Frame fs ps s x) (hf : ∀ f ∈ declareFields, f ∈ fs) (hl : .links ∈ ps) (ht : .time ∈ ps) :
    Frame fs ps s x.tryDeclare := Frame.ite _ (h.declareEpoch hf hl ht) h

theorem Frame.noteGen (h : Frame fs ps s x) (h0 : Reg.AT_EPOCH_GEN ∈ fs) (h1 : Reg.AT_STAT_TAKEOVER ∈ fs)
    (ho : .out ∈ ps) (hh : .host ∈ ps) (g : Nat) : Frame fs ps s (x.noteGen g) := by
  unfold State.noteGen
  split
  · exact h
  · exact Frame.foldl _ _ ((h.wr h0 _).flag h1) (fun _ _ hy => hy.sendRoot ho hh _ _)

theorem Frame.enterIsolated (h : Frame fs ps s x) (h0 : Reg.AT_STAT_DEPTH ∈ fs) (h1 : Reg.AT_STAT_PARENT ∈ fs)
    (h2 : Reg.AT_STAT_STATE ∈ fs) (h3 : Reg.TK_STAT_ADMITTED ∈ fs) (h4 : Reg.TK_FLT_ABANDON ∈ fs) (ht : .time ∈ ps)
    (hk : .tacks ∈ ps) (hti : .tiles ∈ ps) (hs : .step ∈ ps) : Frame fs ps s x.enterIsolated := by
  unfold State.enterIsolated
  refine Frame.refresh ?_ h0 ht
  refine Frame.upd ((((h.wr h2 _).wr h1 _).abandonTrees h4 hk hti hs x.memberMask).wr h3 0) rfl (fun p hq => ?_)
  cases p <;> first | exact absurd ht hq | rfl

theorem Frame.reachReady (h : Frame fs ps s x) (h0 : Reg.FW_STAT_STAGE ∈ fs) (h1 : Reg.SC_STAT_SVN_PEND ∈ fs)
    (hs : .sec ∈ ps) : Frame fs ps s x.reachReady := by
  unfold State.reachReady
  split
  · refine Frame.upd ((h.wr h0 8).wr h1 0) rfl (fun p hq => ?_)
    cases p <;> first | exact absurd hs hq | rfl
  · exact h

end Sys2Proof.Machine
end

