-- ==== Sys2Proof/Tests/Slice0.lean ====
section
/-! SUPPORT. For every obligation with hypotheses a state that meets each of its clauses, at boundary values; then the worked
cases of the spec as tests of single operations and steps, and one ill-formed command for each check of `Instr.wf`. -/

namespace Sys2Proof.Tests
open Sys2Proof Sys2Proof.Machine

/-- A state with register fields set. -/
def rg (fs : List (Fld × Nat)) (s : State) : State := fs.foldl (fun s e => s.wr e.1 e.2) s

/-- Time states for the witnesses. -/
def atS (st : Nat) (s : State) : State := rg [(Reg.AT_STAT_STATE, st)] s

/-- A link that is UP. -/
def upS (n : Nat) (s : State) : State := rg [(Reg.LK_STAT_STATE n, lkUp)] s

/-- A link in a state of its training. -/
def lkS (n st : Nat) (s : State) : State := rg [(Reg.LK_STAT_STATE n, st)] s

/-- A link with samples in its window. -/
def sampled (n k : Nat) (s : State) : State := s.modLink n (fun l => { l with samples := List.replicate k ⟨0, 65536, 65536, 131072⟩ })

/-- The phase of the step. -/
def phaseS (p : Nat) (s : State) : State := rg [(Reg.TK_STAT_PHASE, p)] s

/-- A configuration record with a route table, or the reference map where the table is empty. -/
def cfgOf (routes : List Nat) : ConfigRec := ⟨true, 0, 0, 0, 0, 0, 0, [], [], routes, false, 0, 0, 0, 0, 0, 0, [], [], [], []⟩

/-- A job image with no programs: one superstep closed by tree 0, which is the Hem. -/
def image0 : JobImage := ⟨true, 7, 0, false, [1], [2], [], [⟨0, 3, 0, 0⟩], [], [], [], [], [], [], [], [(0, 4096), (65536, 4096)], 0, [], 0, 1, 1,
  [], [], false, false⟩

theorem witness_TimeStartsAndFollowsItsReference :
    (∃ s : State, s.tstate = tsIsolated ∧ (s.rd Reg.AT_CTL_ROLE ≠ roleManager ∨ s.time.wasRoot = true)) ∧
    (∃ s : State, s.tstate = tsIsolated ∧ s.rd Reg.AT_CTL_ROLE = roleManager ∧ s.time.wasRoot = false ∧
      (s.on Reg.AT_CTL_PPS_ALIGN = false ∨ s.time.ref10 = false)) ∧
    (∃ s : State, s.tstate = tsIsolated ∧ s.rd Reg.AT_CTL_ROLE = roleManager ∧ s.time.wasRoot = false ∧
      s.on Reg.AT_CTL_PPS_ALIGN = true ∧ s.time.ref10 = true) ∧
    (∃ s : State, s.isRoot = false ∧ s.time.ppsWait = false) ∧
    (∃ (s : State) (f : BitVec 16), s.isRoot = true ∧ s.time.ppsWait = false ∧
      (secondError s.now f.toNat).natAbs = 100 * 65536) ∧
    (∃ (s : State) (f : BitVec 16), s.isRoot = true ∧ s.time.ppsWait = false ∧
      (secondError s.now f.toNat).natAbs = 100 * 65536 + 1) ∧
    (∃ s : State, s.isRoot = true ∧ s.time.ppsLast + 2000000000 = s.now) ∧
    (∃ s : State, s.tstate ≠ tsOff ∧ s.on Reg.AT_CTL_PPS_OUT_EN = true ∧ s.now % 1000000000 = 0) ∧
    (∃ s : State, s.tstate ≠ tsIsolated) ∧
    (∃ s : State, s.time.ppsWait = true) ∧
    (∃ s : State, s.isRoot = true ∧ s.now + 1 = s.time.ppsLast + 2000000000) ∧
    (∃ s : State, s.now % 1000000000 = 1) :=
  ⟨⟨atS tsIsolated {}, by decide⟩,
    ⟨rg [(Reg.AT_CTL_ROLE, roleManager)] (atS tsIsolated {}), by decide⟩,
    ⟨rg [(Reg.AT_CTL_ROLE, roleManager), (Reg.AT_CTL_PPS_ALIGN, 1)] (atS tsIsolated { time := { ref10 := true } }), by decide⟩,
    ⟨{}, by decide⟩,
    ⟨atS tsRoot { now := 1000000100 }, 0, by decide⟩,
    ⟨atS tsRoot { now := 1000000100 }, 1, by decide⟩,
    ⟨atS tsRoot { now := 2000000000 }, by decide⟩,
    ⟨atS tsRoot { now := 1000000000 }, by decide⟩,
    ⟨{}, by decide⟩,
    ⟨{ time := { ppsWait := true } }, rfl⟩,
    ⟨atS tsRoot { now := 1999999999 }, by decide⟩,
    ⟨{ now := 1 }, rfl⟩⟩

theorem witness_TimeStatesAdvanceAndTheStandbyTakesOver :
    (∃ s : State, s.tstate = tsLock ∧ s.time.lockSince + 1000000 = s.now ∧ s.now ≤ s.time.lockSince + 20000000) ∧
    (∃ s : State, s.tstate = tsLock ∧ s.time.lockSince + 20000000 = s.now) ∧
    (∃ (s : State) (n : Nat), s.parent = some n ∧ (s.link n).lastTime + s.parentLossNs = s.now ∧ s.tstate = tsAlign) ∧
    (∃ (s : State) (n : Nat), s.parent = some n ∧ (s.link n).lastTime + s.parentLossNs = s.now ∧ s.tstate = tsRun) ∧
    (∃ (s : State) (n : Nat), s.parent = some n ∧ s.now + 1 = (s.link n).lastTime + s.parentLossNs) ∧
    (∃ (s : State) (e : BitVec 8), s.tstate = tsHoldover ∧ s.now < s.time.holdSince + 100000000 ∧
      s.rd Reg.AT_LIMIT_HOLD_ERR * 32 < e.toNat * 10) ∧
    (∃ (s : State) (e : BitVec 8), s.tstate = tsHoldover ∧ s.now + 1 = s.time.holdSince + 100000000 ∧
      e.toNat * 10 = s.rd Reg.AT_LIMIT_HOLD_ERR * 32) ∧
    (∃ (s : State) (d : Nat), s.rd Reg.AT_CTL_ROLE = roleStandby ∧ s.tstate = tsHoldover ∧ s.time.mgrDownSince = some d ∧
      max d s.time.rootSeen + 1000 * s.rd Reg.AT_LIMIT_ROOT_LOSS = s.now ∧ s.rd Reg.AT_EPOCH_GEN < 256) ∧
    (∃ s : State, s.tstate ≠ tsLock ∧ s.tstate ≠ tsHoldover) ∧
    (∃ (s : State) (n : Nat), s.parent = some n ∧ s.now < (s.link n).lastTime + s.parentLossNs ∧
      ∀ m ∈ s.upLinks, s.managerLink m = true → s.now < (s.link m).lastTime + s.parentLossNs) ∧
    (∃ (s : State) (n : Nat), n ∈ s.upLinks ∧ s.managerLink n = true ∧ (s.link n).lastTime + s.parentLossNs = s.now ∧
      s.time.mgrDownSince = none) ∧
    (∃ (s : State) (d : Nat), s.rd Reg.AT_CTL_ROLE = roleStandby ∧ s.time.wasRoot = false ∧ s.tstate = tsRun ∧
      s.time.mgrDownSince = some d ∧ max d s.time.rootSeen + 1000 * s.rd Reg.AT_LIMIT_ROOT_LOSS = s.now ∧
      s.rd Reg.AT_EPOCH_GEN = 255 ∧ s.takeoverCovered = true) ∧
    (∀ j ∈ [jbRunning, jbParked], ∃ (s : State) (d : Nat), s.rd Reg.AT_CTL_ROLE = roleStandby ∧ s.time.wasRoot = false ∧
      s.tstate = tsRun ∧ s.time.mgrDownSince = some d ∧ max d s.time.rootSeen + 1000 * s.rd Reg.AT_LIMIT_ROOT_LOSS = s.now ∧
      s.rd Reg.AT_EPOCH_GEN < 256 ∧ s.takeoverCovered = false ∧ s.jobState = j ∧ s.phase ≠ phHem) ∧
    (∃ s : State, s.time.wasRoot = true) ∧
    (∃ (s : State) (d : Nat), s.time.mgrDownSince = some d ∧ s.now + 1 = max d s.time.rootSeen + 1000 * s.rd Reg.AT_LIMIT_ROOT_LOSS) :=
  ⟨⟨atS tsLock { now := 1000000 }, by decide⟩, ⟨atS tsLock { now := 20000000 }, by decide⟩,
    ⟨rg [(Reg.AT_STAT_PARENT, 35)] (atS tsAlign { now := 5000 }), 35, by decide⟩,
    ⟨rg [(Reg.AT_STAT_PARENT, 0)] (atS tsRun { now := 5000 }), 0, by decide⟩,
    ⟨rg [(Reg.AT_STAT_PARENT, 0)] { now := 4999 }, 0, by decide⟩,
    ⟨atS tsHoldover {}, 65, by decide⟩, ⟨atS tsHoldover { now := 99999999 }, 64, by decide⟩,
    ⟨rg [(Reg.AT_CTL_ROLE, roleStandby)] (atS tsHoldover { now := 20007, time := { mgrDownSince := some 7 } }), 7, by decide⟩,
    ⟨{}, by decide⟩,
    ⟨rg [(Reg.AT_STAT_PARENT, 0)] { now := 4999 }, 0, by decide⟩,
    ⟨rg [(Reg.AT_CTL_ROLE, roleStandby)] (upS 35 { now := 5000 }), 35, by decide⟩,
    ⟨rg [(Reg.AT_CTL_ROLE, roleStandby), (Reg.AT_EPOCH_GEN, 255)] (atS tsRun
      { now := 20000, time := { mgrDownSince := some 0 }, host := { img := some { image0 with idle := [0] }, cfg := some (cfgOf [36]) } }),
      0, by decide +kernel⟩,
    fun j h => ⟨rg [(Reg.AT_CTL_ROLE, roleStandby), (Reg.JB_STAT_STATE, j)]
      (atS tsRun { now := 20000, time := { mgrDownSince := some 0 } }), 0, by revert j; decide⟩,
    ⟨{ time := { wasRoot := true } }, rfl⟩,
    ⟨{ now := 19999, time := { mgrDownSince := some 0 } }, 0, by decide⟩⟩

theorem witness_EpochIsFormed :
    (∃ (m : MsgId) (s : State), s.msgSeen m = false ∧ s.tstate = tsPending ∧ s.time.epochHeld = false) ∧
    (∃ (m : MsgId) (s : State), s.msgSeen m = true) ∧
    (∃ (s : State) (a : Nat), s.time.formSince = some a ∧ s.tstate = tsPending ∧ s.time.epochHeld = false ∧
      a + 20000000000 = s.now) ∧
    (∃ (r : EpochRec) (s : State) (p : Nat), s.parent = some p ∧ r.gen.toNat = (s.link p).tree.gen ∧
      s.rd Reg.AT_EPOCH_NUM + 1 = r.num.toNat) ∧
    (∃ s : State, s.tstate = tsPending ∧ s.time.epochHeld = true ∧ s.time.epochStart = s.now) ∧
    (∃ s : State, s.parent = none) ∧
    (∃ (s : State) (a : Nat), s.time.formSince = some a ∧ s.tstate = tsPending ∧ s.time.epochHeld = false ∧ s.now + 1 = a + 20000000000) ∧
    (∀ st ∈ [tsPending, tsReady], ∃ s : State, s.tstate = st ∧ s.time.epochHeld = true ∧ s.time.epochStart = s.now ∧ s.admissible = true ∧
      ∀ n ∈ s.upLinks, s.patternLinks.contains n = false ∨ s.cableLong n = false) ∧
    (∃ s : State, s.tstate = tsPending ∧ s.time.epochHeld = true ∧ s.time.epochStart = s.now ∧ s.admissible = false) :=
  ⟨⟨⟨3, 1⟩, atS tsPending {}, by decide⟩, ⟨⟨3, 1⟩, State.noteMsg {} ⟨3, 1⟩, by decide⟩,
    ⟨atS tsPending { now := 20000000000, time := { formSince := some 0 } }, 0, by decide⟩,
    ⟨⟨1, 0, 64, 0⟩, rg [(Reg.AT_STAT_PARENT, 2)] {}, 2, by decide⟩,
    ⟨atS tsPending { now := 64, time := { epochHeld := true, epochStart := 64 } }, by decide⟩,
    ⟨{}, by decide⟩,
    ⟨atS tsPending { now := 19999999999, time := { formSince := some 0 } }, 0, by decide⟩,
    fun st h => ⟨atS st (upS 35 { now := 64, time := { epochHeld := true, epochStart := 64 } }), by revert st; decide⟩,
    ⟨rg [(Reg.SM_FLT_TT_MISSING, 1)] (atS tsPending { now := 64, time := { epochHeld := true, epochStart := 64 } }), by decide⟩⟩

theorem witness_TimeSampleWindowsClose :
    (∃ (n : LinkId) (s : State), s.linkUp n.val = true ∧ (s.link n.val).samples.length = 15 ∧
      (s.link n.val).winSince + 65536 = s.now ∧ (keptSamples (s.link n.val).samples).length < 16 ∧ s.parent ≠ some n.val) ∧
    (∃ (n : LinkId) (s : State), s.linkUp n.val = true ∧ (s.link n.val).samples.length = 64 ∧
      16 ≤ (keptSamples (s.link n.val).samples).length ∧ s.parent ≠ some n.val ∧ s.tstate ≠ tsMeasure) ∧
    (∃ (n : LinkId) (s : State), s.linkUp n.val = true ∧ (s.link n.val).samples.length = 64 ∧
      16 ≤ (keptSamples (s.link n.val).samples).length ∧ s.parent = some n.val ∧ s.tstate = tsHoldover ∧
      (roundDiv (sumOffset (keptSamples (s.link n.val).samples) * 1000 -
          (keptSamples (s.link n.val).samples).length * s.alpha2000 n.val)
          (2000 * (keptSamples (s.link n.val).samples).length)).natAbs * 10 ≤ s.rd Reg.AT_LIMIT_HOLD_ERR * 65536) ∧
    (∃ s : State, s.time.countHeld = true ∧ s.time.countAt + 1024 = s.now) ∧
    (∃ s : State, s.time.countHeld = true ∧ s.now + 1 = s.time.countAt + 1024) ∧
    (∃ (n : LinkId) (s : State), s.linkUp n.val = true ∧ (s.link n.val).samples.length = 63 ∧ s.now + 1 = (s.link n.val).winSince + 65536) ∧
    (∀ st ∈ [tsRun, tsMeasure, tsReady], ∀ b ∈ [0, 1], ∃ (n : LinkId) (s : State), s.linkUp n.val = true ∧
      (s.link n.val).winSince + 65536 = s.now ∧ (keptSamples (s.link n.val).samples).length < 16 ∧ s.parent = some n.val ∧
      s.time.badWindows = b ∧ s.tstate = st) :=
  ⟨⟨0, sampled 0 15 (upS 0 { now := 65536 }), by decide +kernel⟩, ⟨35, sampled 35 64 (upS 35 {}), by decide +kernel⟩,
    ⟨1, sampled 1 64 (upS 1 (rg [(Reg.AT_STAT_PARENT, 1)] (atS tsHoldover {}))), by decide +kernel⟩,
    ⟨{ now := 1024, time := { countHeld := true } }, by decide⟩, ⟨{ now := 1023, time := { countHeld := true } }, by decide⟩,
    ⟨35, sampled 35 63 (upS 35 { now := 65535 }), by decide +kernel⟩,
    fun st h b k => ⟨1, upS 1 (rg [(Reg.AT_STAT_PARENT, 1)] (atS st { now := 65536, time := { badWindows := b } })), by revert st b; decide⟩⟩

/-- An idle block without acknowledgement, with up levels and a time stamp. -/
def idleBlock : List Byte := blockBytes ⟨bkIdle, false, 0, 0, 0, 0x85, 0x123456, ⟨0, 0⟩⟩ []

set_option maxRecDepth 100000 in
theorem witness_Blocks :
    (∃ (n : LinkId) (s : State), s.linkUp n.val = true) ∧ (∃ (n : LinkId) (s : State), s.linkUp n.val = false) ∧
    (∃ (n : LinkId) (rx : RxBlock) (s : State), rx.bytes.length = 256 ∧ s.linkUp n.val = true ∧ rx.fecOk = false ∧
      s.on Reg.TK_STAT_IN_SEAM = false) ∧
    (∃ (n : LinkId) (rx : RxBlock) (s : State), rx.bytes.length = 256 ∧ s.linkUp n.val = true ∧ rx.fecOk = true ∧
      blockGood rx.bytes = false) ∧
    (∃ (n : LinkId) (rx : RxBlock) (s : State), rx.bytes.length = 256 ∧ s.linkUp n.val = true ∧ rx.fecOk = true ∧
      blockGood rx.bytes = true ∧ (blockCtl (leNat (rx.bytes.take 12))).kind = bkIdle ∧
      (blockCtl (leNat (rx.bytes.take 12))).ak = 0 ∧ (blockCtl (leNat (rx.bytes.take 12))).side.sbk = 0) ∧
    (∃ c : BlockCtl, c.kind = 5 ∧ c.seq = 2 ^ 12 - 1 ∧ c.aseq = 2 ^ 12 - 1 ∧ c.ak = 3 ∧ c.up = 2 ^ 8 - 1 ∧ c.dts = 2 ^ 24 - 1 ∧
      c.side.sbk = 15 ∧ c.side.sbw = 2 ^ 28 - 1) ∧
    (∀ fec ∈ [true, false], ∃ (n : LinkId) (rx : RxBlock) (s : State), s.linkUp n.val = true ∧ rx.fecOk = fec ∧ s.runOf n.val rx = 7 ∧
      blockGood rx.bytes = false ∧ s.on Reg.TK_STAT_IN_SEAM = false) ∧
    (∃ (n : LinkId) (rx : RxBlock) (s : State), s.linkUp n.val = true ∧ 8 = s.runOf n.val rx) ∧
    (∃ (n : LinkId) (rx : RxBlock) (s : State), s.linkUp n.val = true ∧ s.runOf n.val rx = 0 ∧ rx.fecOk = true ∧
      blockGood rx.bytes = true ∧ (blockCtl (leNat (rx.bytes.take 12))).kind = bkTrn) :=
  ⟨⟨35, upS 35 {}, by decide⟩, ⟨0, {}, by decide⟩,
    ⟨0, ⟨List.replicate 256 0, false, 0, 1, 0, 0⟩, upS 0 {}, by decide +kernel⟩,
    ⟨0, ⟨List.replicate 256 0, true, 0, 0, 0, 0⟩, upS 0 {}, by decide +kernel⟩,
    ⟨0, ⟨idleBlock, true, 0, 0, 0, 0⟩, upS 0 {}, by decide +kernel⟩,
    ⟨⟨5, true, 4095, 4095, 3, 255, 2 ^ 24 - 1, ⟨15, 2 ^ 28 - 1⟩⟩, by decide⟩,
    fun fec h => ⟨0, ⟨[], fec, 0, 7, 0, 0⟩, upS 0 {}, by revert fec; decide⟩,
    ⟨0, ⟨[], false, 0, 8, 0, 0⟩, upS 0 {}, by decide⟩,
    ⟨0, ⟨blockBytes ⟨bkTrn, false, 0, 0, 0, 0, 0, ⟨0, 0⟩⟩ [], true, 0, 0, 0, 0⟩, upS 0 {}, by decide +kernel⟩⟩

theorem witness_SidebandTimesAreRecovered :
    (∃ now t : Nat, t % 64 = 0 ∧ t + 64 = now + 2 ^ 21 ∧ now < t + 2 ^ 21 ∧ gridAt now (gridBits t).toNat = t) ∧
    (∃ now t : Nat, t % 64 = 0 ∧ t < now ∧ now + 1 = t + 2 ^ 21 ∧ gridAt now (gridBits t).toNat = t) ∧
    (∃ f : TreeField, f.depth = 15 ∧ f.gen = 255 ∧ f.count = 2 ^ 14 - 1 ∧ treeOfWord (treeWord f) = f) ∧
    (∃ base q : Nat, q + 1 = base + 2 ^ 11 ∧ nearest (2 ^ 12) base (q % 2 ^ 12) = q) ∧
    (∃ base q : Nat, base + 1 = q + 2 ^ 11 ∧ nearest (2 ^ 12) base (q % 2 ^ 12) = q) :=
  ⟨⟨2 ^ 22, 2 ^ 22 + 2 ^ 21 - 64, by decide⟩, ⟨2 ^ 22 + 2 ^ 21 - 1, 2 ^ 22, by decide⟩,
    ⟨{ depth := 15, gen := 255, count := 2 ^ 14 - 1 }, by decide⟩, ⟨4096, 6143, by decide⟩, ⟨6143, 4096, by decide⟩⟩

/-- A word of a tile's program from its class, its opcode and its low bits. -/
def word (cls op lo : Nat) : Word64 := BitVec.ofNat 64 (cls * 2 ^ 60 + op * 2 ^ 54 + lo)

/-- A tile that runs, with a word of its program at address 0. -/
def fetching (iw : Word64) (t : Tile) : Tile := { t with mode := .run, mem := Memory.writeN t.mem 0 (natLe iw.toNat 8) }

/-- A state whose tile at position 0 is `t`. -/
def tl (t : Tile) : State := { tiles := [(0, t)] }

/-- A tile on which nothing is in the way of a quiet access. -/
theorem quiet_of {t : Tile} {now : Nat} (h : t.soft = [] ∧ t.badRegs = [] ∧ t.badBuf = [] ∧ t.cyc = []) : t.Quiet now :=
  ⟨h.1, h.2.1, h.2.2.1, fun _ hw => absurd (h.2.2.2 ▸ hw) (List.not_mem_nil)⟩

/-- An instruction issues where the conditions of `Issues` hold. -/
theorem issues_of {s : State} {tile : TileId} {iw : Word64} {p : Nat}
    (h : (s.physOf tile.val = some p ∧ (s.tile p).mode = .run ∧ (s.tile p).pc % 8 = 0 ∧ (s.tile p).pc < scratchBytes) ∧
      ((s.tile p).soft = [] ∧ (s.tile p).badRegs = [] ∧ (s.tile p).badBuf = [] ∧ (s.tile p).cyc = []) ∧
      (s.tile p).fetchFault (s.tile p).pc = none ∧ (s.tile p).fetch s.now (s.tile p).pc = iw ∧ (s.tile p).guard iw = true) :
    Issues s tile iw p :=
  ⟨h.1.1, h.1.2.1, h.1.2.2.1, h.1.2.2.2, quiet_of h.2.1, h.2.2.1, h.2.2.2.1, h.2.2.2.2⟩

theorem witness_TackInstructionsTakeEffect :
    (∃ (iw : Word64) (s : State), Issues s 0 iw 0 ∧ rowOf iw 7 0 = true ∧ illegalTmask iw = false ∧
      (∀ k < 32, (s.tile 0).isMember k = true → (s.tile 0).flagSet k = true → hasBit (iwImm iw) k = true)) ∧
    (∃ (iw : Word64) (s : State), Issues s 0 iw 0 ∧ rowOf iw 7 1 = true ∧ illegalTree iw 1 true = false ∧
      (s.tack (iwObj iw)).abandoned = false ∧ s.bindKind (iwObj iw) = tkPlain ∧ (s.tile 0).flagSet (iwObj iw) = false ∧
      (s.tile 0).drained = true) ∧
    (∃ (iw : Word64) (s : State), Issues s 0 iw 0 ∧ rowOf iw 7 1 = true ∧ illegalTree iw 1 true = false ∧
      (s.tack (iwObj iw)).abandoned = true) ∧
    (∃ (iw : Word64) (s : State), Issues s 0 iw 0 ∧ rowOf iw 7 2 = true ∧ illegalTree iw 2 false = false ∧
      s.bindKind (iwObj iw) = tkPlain ∧ s.treeEmpty (iwObj iw) = false ∧ (s.tile 0).flagSet (iwObj iw) = false) ∧
    (∃ (iw : Word64) (s : State), Issues s 0 iw 0 ∧ rowOf iw 7 3 = true ∧ illegalTree iw 3 false = false ∧
      (s.tack (iwObj iw)).abandoned = false ∧ s.bindKind (iwObj iw) ≠ tkPlain ∧ s.treeEmpty (iwObj iw) = false ∧
      (s.tile 0).flagSet (iwObj iw) = false ∧ (s.tile 0).drained = true) :=
  ⟨⟨word 7 0 3, tl (fetching (word 7 0 3) { member := 1, flags := 1 }), issues_of (by decide), by decide⟩,
    ⟨word 7 1 (31 * 2 ^ 32), tl (fetching (word 7 1 (31 * 2 ^ 32)) {}), issues_of (by decide), by decide⟩,
    ⟨word 7 1 0, { tl (fetching (word 7 1 0) {}) with tacks := [(0, { abandoned := true })] }, issues_of (by decide), by decide⟩,
    ⟨word 7 2 (2 ^ 45), tl (fetching (word 7 2 (2 ^ 45)) { member := 1 }), issues_of (by decide), by decide⟩,
    ⟨word 7 3 0, rg [(Reg.TK_BIND_KIND 0, 1)] (tl (fetching (word 7 3 0) { member := 1 })), issues_of (by decide), by decide⟩⟩

/-- A tree whose one member has set its flag. -/
def fullTree (kind : Nat) : State :=
  rg [(Reg.TK_BIND_KIND 0, kind)] (tl { member := 1, flags := 1, patIdle := { ready := true } })

theorem witness_ChipRoundsOfTrees :
    (∃ s : State, s.roundFull 0 = true ∧ (s.tack 0).abandoned = false ∧ (s.tack 0).done = false ∧ s.bindKind 0 = tkPlain) ∧
    (∃ s : State, s.roundFull 0 = true ∧ (s.tack 0).abandoned = false ∧ (s.tack 0).done = false ∧ s.bindKind 0 = tkLocal) ∧
    (∃ s : State, s.roundFull 0 = true ∧ (s.tack 0).abandoned = false ∧ (s.tack 0).done = false ∧ s.bindKind 0 = tkHem) ∧
    (∃ s : State, s.roundFull 0 = false) ∧
    (∀ kind ∈ [tkPlain, tkLocal, tkHem], ∃ s : State, s.bindKind 0 = kind ∧ s.roundFull 0 = true ∧
      (s.tack 0).abandoned = true) ∧
    (∃ s : State, s.roundFull 0 = true ∧ (s.tack 0).done = true) ∧
    (∃ s : State, s.roundFull 0 = true ∧ s.bindKind 0 = tkPlain ∧ (s.tile 0).memberAt s.now 0 = true ∧ 0 ∈ s.twaiters 0) ∧
    (∀ x ∈ [(TileMode.wait, 2), (TileMode.seam, 3)], ∃ s : State, s.physOf 0 = some 0 ∧ s.on Reg.TK_CTL_LEND_EN = true ∧ (s.tile 0).mode = x.1 ∧
      (s.tile 0).waitsTack.isSome = true ∧ (s.tile 0).lendSince = none ∧ s.on Reg.TK_STAT_IN_SEAM = false ∧
      (s.tile 0).since + 2000 = s.now) ∧
    (∃ s : State, s.physOf 0 = some 0 ∧ s.on Reg.TK_CTL_LEND_EN = true ∧ (s.tile 0).waitsTack.isSome = true ∧
      (s.tile 0).lendSince = none ∧ s.on Reg.TK_STAT_IN_SEAM = false ∧ s.now + 1 = (s.tile 0).since + 2000) :=
  ⟨⟨fullTree tkPlain, by decide⟩, ⟨fullTree tkLocal, by decide⟩, ⟨fullTree tkHem, by decide⟩, ⟨tl { member := 1 }, by decide⟩,
    fun kind h => ⟨{ fullTree kind with tacks := [(0, { abandoned := true })] }, by revert kind; decide⟩,
    ⟨{ fullTree tkHem with tacks := [(0, { done := true })] }, by decide⟩,
    ⟨tl { member := 1, flags := 1, mode := .wait, blocked := some (word 7 2 0) }, by decide⟩,
    fun x h => ⟨rg [(Reg.TK_CTL_LEND_EN, 1)] { tl { mode := x.1, flags := 1, blocked := some (word 7 x.2 0) } with now := 2000 },
      by revert x; decide⟩,
    ⟨rg [(Reg.TK_CTL_LEND_EN, 1)] { tl { mode := .wait, flags := 1, blocked := some (word 7 2 0) } with now := 1999 }, by decide⟩⟩

/-- A manager without links that is the only admitted device, its fold acknowledged and its job ready to start. -/
def rootS : State := rg [(Reg.TK_STAT_ADMITTED, 1), (Reg.TK_BIND_KIND 0, tkHem)]
  (atS tsRoot { time := { admitted := 1 }, tacks := [(0, { done := true })], commit := { acked := true }, host := { runDone := true } })
theorem witness_HallRoundsAreReleased :
    (∃ s : State, s.tstate = tsRoot ∧ s.upLevel 5 = true ∧ s.subtreeCount = s.time.admitted ∧ s.time.countHeld = false ∧
      s.admitted = true ∧ (s.hallTree 5).isSome = true) ∧
    (∃ s : State, s.tstate = tsRoot ∧ s.time.countHeld = true) ∧
    (∀ c ∈ [(4, jbRunning), (0, jbLoaded), (0, jbParked)], ∃ s : State, s.tstate = tsRoot ∧ s.upLevel 7 = true ∧ s.subtreeCount = s.time.admitted ∧
      s.time.countHeld = false ∧ s.rd Reg.JB_RCV_STAT_STATE = c.1 ∧ s.jobState = c.2 ∧ s.step.startAt = none) ∧
    (∃ s : State, s.tstate = tsRoot ∧ s.upLevel 7 = true ∧ s.subtreeCount = s.time.admitted ∧ s.time.countHeld = false ∧
      s.rd Reg.JB_RCV_STAT_STATE ≠ 4 ∧ s.jobState = jbRunning ∧ s.step.hemAt = none) ∧
    (∃ s : State, s.tstate = tsRoot ∧ s.upLevel 6 = true ∧ s.subtreeCount = s.time.admitted ∧ s.time.countHeld = false ∧
      s.rd Reg.SM_STAT_STATE = 2 ∧ s.seam.resumeAt = none ∧ s.seam.abortAt = none) ∧
    ((∃ s : State, s.tstate ≠ tsRoot) ∧ (∃ s : State, s.tstate = tsRoot ∧ s.upLevel 0 = false) ∧
      (∃ s : State, s.tstate = tsRoot ∧ s.upLevel 5 = true ∧ s.subtreeCount ≠ s.time.admitted)) ∧
    (∀ d ∈ [31, 32], ∃ (r : ReleaseRec) (s : State), r.h.val = 7 ∧ r.start = false ∧ s.step.relAccepted.contains 7 = false ∧
      s.now + d = gridAt s.now r.s.toNat) ∧
    (∃ (r : ReleaseRec) (s : State), r.h.val = 7 ∧ r.start = false ∧ hasBit s.step.round 7 ≠ r.parity ∧
      s.step.relAccepted.contains 7 = true) ∧
    (∃ (r : ReleaseRec) (s : State), r.h.val = 5 ∧ s.step.relAccepted.contains 5 = false ∧ s.now + 32 = gridAt s.now r.s.toNat ∧
      s.admitted = true ∧ (s.hallTree 5).isSome = true) ∧
    (∃ (r : ReleaseRec) (s : State), r.h.val = 6 ∧ hasBit s.step.round 6 ≠ r.parity ∧ gridAt s.now r.s.toNat + 1 = s.now + 32) ∧
    (∃ (r : ReleaseRec) (s : State), hasBit s.step.round r.h.val = r.parity ∧ s.step.relAccepted.contains r.h.val = true) :=
  ⟨⟨rg [(Reg.TK_BIND_KIND 0, tkHall), (Reg.TK_BIND_HALL 0, 5), (Reg.TK_STAT_ADMITTED, 1)]
      (atS tsRoot { tl { member := 1, flags := 1 } with time := { admitted := 1 }, tacks := [(0, { done := true })] }), by decide⟩,
    ⟨atS tsRoot { time := { countHeld := true } }, by decide⟩,
    fun c h => ⟨rg [(Reg.JB_RCV_STAT_STATE, c.1), (Reg.JB_STAT_STATE, c.2)] rootS, by revert c; decide⟩,
    ⟨rg [(Reg.JB_STAT_STATE, jbRunning)] rootS, by decide⟩, ⟨rg [(Reg.SM_STAT_STATE, 2)] rootS, by decide⟩,
    ⟨⟨{}, by decide⟩, ⟨rg [(Reg.TK_BIND_KIND 1, tkHall)] rootS, by decide⟩, ⟨{ rootS with time := { admitted := 2 } }, by decide⟩⟩,
    fun d h => ⟨⟨7, true, true, false, 1⟩, { now := 64 - d }, by revert d; decide⟩,
    ⟨⟨7, true, true, false, 1⟩, { step := { relAccepted := [7] } }, by decide⟩,
    ⟨⟨5, true, false, false, 1⟩, rg [(Reg.TK_BIND_KIND 0, tkHall), (Reg.TK_BIND_HALL 0, 5), (Reg.TK_STAT_ADMITTED, 1)] { now := 32 }, by decide⟩,
    ⟨⟨6, true, false, false, 1⟩, { now := 33 }, by decide⟩,
    ⟨⟨7, true, true, false, 1⟩, { step := { round := 128, relAccepted := [7] } }, by decide⟩⟩

/-- A decision of a Hem, as the log of the last Hems holds it. -/
def logged (commit : Bool) : State := { rcv := { log := [⟨5, commit, 1, 64, 64, false⟩] } }

theorem witness_HemAndWindow :
    (∀ c ∈ [true, false], ∀ h ∈ [64, 63], ∃ s : State, s.step.hemAt = some h ∧ s.step.hemDue = s.now ∧ s.step.hemCommit = c) ∧
    (∃ (s : State) (h : Nat), s.step.hemAt = some h ∧ s.now + 1 = s.step.hemDue) ∧
    (∃ (r : ParamRec) (s : State), s.step.winOpen = true ∧ s.step.param = none ∧ s.hemStep = some r.step) ∧
    (∃ s : State, s.step.winOpen = true ∧ s.step.captured = false ∧
      s.lastHem + s.step.winLen = s.now + s.hemDeadline ∧ s.isRoot = true) ∧
    (∃ s : State, s.step.winOpen = true ∧ s.step.captured = false ∧ s.now + s.hemDeadline + 1 = s.lastHem + s.step.winLen) ∧
    (∃ (s : State) (a : Nat), s.step.startAt = some a ∧ s.jobState = jbParked ∧ a = s.now) ∧
    (∃ (s : State) (a : Nat), s.step.startAt = some a ∧ s.jobState = jbLoaded ∧ s.now + 1 = a) ∧
    (∃ (q : ParamRec) (s : State), s.step.winOpen = true ∧ s.step.param = some q) ∧
    (∃ s : State, s.step.winOpen = true ∧ s.step.captured = false ∧ s.lastHem + s.step.winLen = s.now + s.hemDeadline ∧ s.isRoot = false) ∧
    (∃ s : State, s.step.winOpen = false) ∧
    (∀ r ∈ [some ⟨5, 0, false⟩, none], ∃ s : State, s.step.startAt = none ∧ s.step.winOpen = true ∧ s.on Reg.TK_STAT_LAST_COMMIT = true ∧
      s.rcv.missed = false ∧ s.lastHem + s.step.winLen = s.now ∧ s.jobState = jbRunning ∧ s.step.parkNotice = none ∧
      s.step.param = r) :=
  ⟨fun c _ h _ => ⟨{ now := 64, step := { hemAt := some h, hemDue := 64, hemCommit := c } }, rfl, rfl, rfl⟩,
    ⟨{ now := 63, step := { hemAt := some 64, hemDue := 64 } }, 64, by decide⟩,
    ⟨⟨5, 0, false⟩, { step := { winOpen := true, latched := 5 } }, by decide⟩,
    ⟨atS tsRoot { now := 100000, step := { winOpen := true, winLen := 100000 + State.hemDeadline {} } }, by decide⟩,
    ⟨{ now := 100000, step := { winOpen := true, winLen := 100001 + State.hemDeadline {} } }, by decide⟩,
    ⟨rg [(Reg.JB_STAT_STATE, jbParked)] { now := 7, step := { startAt := some 7 } }, 7, by decide⟩,
    ⟨rg [(Reg.JB_STAT_STATE, jbLoaded)] { now := 6, step := { startAt := some 7 } }, 7, by decide⟩,
    ⟨⟨5, 0, false⟩, { step := { winOpen := true, param := some ⟨5, 0, false⟩ } }, rfl, rfl⟩,
    ⟨{ now := 100000, step := { winOpen := true, winLen := 100000 + State.hemDeadline {} } }, by decide⟩,
    ⟨{}, rfl⟩,
    fun r h => ⟨rg [(Reg.JB_STAT_STATE, jbRunning), (Reg.TK_STAT_LAST_COMMIT, 1)]
      { now := 7, step := { winOpen := true, winLen := 7, param := r } }, by revert r; decide⟩⟩

/-- A Seam that runs, in its Seam state. -/
def seamS (st : Nat) (s : State) : State := rg [(Reg.TK_STAT_IN_SEAM, 1), (Reg.SM_STAT_STATE, st)] s

/-- A receive window of one block whose bytes enter in a span. -/
def rxWin (span : Nat) : WinSt := { link := 0, ord := 0, anchor := 0, blocks := 1, base := 0, ingress := span }
/-- A manager in a pause that has lasted its limit and `d` more. -/
def pausedS (d : Nat) (seam : SeamSt) : State :=
  seamS 2 (atS tsRoot
    { now := 100000 + 1000 * max 1 (State.rd {} Reg.SM_HOLD_LIM_LIMIT) + d, seam := { seam with pausedAt := some 100000 } })
/-- A device whose phase has lasted the limit of the watchdog and an extension. -/
def wdogS (more : Nat) : State :=
  rg [(Reg.TK_CTL_WDOG_EN, 1), (Reg.BB_CTL_MW_EN, 0), (Reg.TK_STAT_PHASE, 1)]
    { now := 1000 * max 1 (State.rd {} Reg.TK_WDOG_LIMIT) + more, step := { timed := true, wdogMore := more } }
theorem witness_Seams :
    (∃ (s : State) (a : Nat), s.seam.seamAt = some a ∧ s.on Reg.TK_STAT_IN_SEAM = false ∧ a = s.now) ∧
    (∃ (s : State) (a : Nat), s.seam.seamAt = some a ∧ s.on Reg.TK_STAT_IN_SEAM = false ∧ a = s.now + 1) ∧
    (∃ (s : State) (a : Nat), s.seam.starts[s.seam.span + 1]? = some a ∧ s.rd Reg.SM_STAT_STATE = 1 ∧
      s.on Reg.TK_STAT_IN_SEAM = true ∧ a = s.now ∧ s.heldSpan (s.seam.span + 1) = false ∧ s.seam.span = 0) ∧
    (∃ (s : State) (a : Nat), s.seam.starts[s.seam.span + 1]? = some a ∧ s.rd Reg.SM_STAT_STATE = 1 ∧
      s.on Reg.TK_STAT_IN_SEAM = true ∧ a = s.now ∧ s.heldSpan (s.seam.span + 1) = true) ∧
    (∃ s : State, s.on Reg.TK_STAT_IN_SEAM = true ∧ s.rd Reg.SM_STAT_STATE = 1 ∧ s.seam.starts.length ≤ s.seam.span + 1 ∧
      s.seam.seamEnd = s.now) ∧
    (∃ (s : State) (a : Nat), s.seam.starts[31]? = some a ∧ s.on Reg.TK_STAT_IN_SEAM = true ∧ s.rd Reg.SM_STAT_STATE = 1 ∧
      s.seam.span < 31 ∧ s.seam.checked.contains 31 = false ∧ a = s.now + s.reach) ∧
    (∃ (r : HoldRec) (s : State), s.on Reg.TK_STAT_IN_SEAM = true ∧ s.seam.seamHall = some r.h.val ∧ s.seam.parity = r.parity ∧
      s.seam.holdsSeen.contains (r.span.val, r.hseq.val) = false ∧ s.seam.span < r.span.val) ∧
    (∃ (r : GridRec) (s : State), s.seam.seamHall = some r.h.val ∧ s.seam.parity = r.parity ∧ s.rd Reg.SM_STAT_STATE = 2 ∧
      s.seam.resumeAt ≠ some (gridAt s.now r.r.toNat) ∧ s.now + 32 = gridAt s.now r.r.toNat) ∧
    (∃ (s : State) (a r : Nat), s.seam.pausedAt = some a ∧ s.seam.resumeAt = some r ∧ s.rd Reg.SM_STAT_STATE = 2 ∧ r = s.now ∧
      s.seam.span = 30) ∧
    (∃ (s : State) (a : Nat), s.seam.pausedAt = some a ∧ s.isRoot = true ∧ s.seam.resumeAt = none ∧ s.seam.abortAt = none ∧
      s.seam.limitMore = none ∧ s.on Reg.TK_STAT_IN_SEAM = true ∧
      a + 1000 * max 1 (s.rd Reg.SM_HOLD_LIM_LIMIT) = s.now) ∧
    (∃ (s : State) (a : Nat), s.seam.seamAt = some a ∧ s.now + 1 = a) ∧
    (∃ (s : State) (a : Nat), s.seam.starts[s.seam.span + 1]? = some a ∧ s.now + 1 = a) ∧
    (∃ s : State, s.now + 1 = s.seam.seamEnd) ∧
    (∃ (ds : List SpanDesc) (a b : Nat) (d : SpanDesc), (spanStarts true 1 1 1 1 1 [] 5 ds)[0]? = some a ∧
      (spanStarts true 1 1 1 1 1 [] 5 ds)[1]? = some b ∧ ds[0]? = some d ∧ a + d.len = b) ∧
    (∀ got ∈ [[], [0]], ∃ s : State, s.seam.starts[1]? = some 9 ∧ s.on Reg.TK_STAT_IN_SEAM = true ∧ s.rd Reg.SM_STAT_STATE = 1 ∧ s.seam.span < 1 ∧
      s.seam.checked.contains 1 = false ∧ 9 ≤ s.now + s.reach ∧
      ∃ w ∈ s.seam.rxWins, w.ingress = 1 ∧ w.whole = (got != []) ∧ s.cableLong w.link = false ∧ s.seam.rxWins = [w]) ∧
    (∃ (s : State) (a : Nat), s.seam.starts[31]? = some a ∧ s.now + s.reach + 1 = a) ∧
    (∃ (r : HoldRec) (s : State), s.on Reg.TK_STAT_IN_SEAM = true ∧ s.seam.seamHall = some r.h.val ∧ s.seam.parity = r.parity ∧
      s.seam.holdsSeen.contains (r.span.val, r.hseq.val) = false ∧ s.lateHold r.span.val = false) ∧
    (∃ (r : HoldRec) (s : State), s.on Reg.TK_STAT_IN_SEAM = true ∧ s.seam.seamHall = some r.h.val ∧ s.seam.parity = r.parity ∧
      s.seam.holdsSeen.contains (r.span.val, r.hseq.val) = false ∧ r.span.val = s.seam.span + 1 ∧
      s.seam.starts[r.span.val]? = some s.now ∧ s.lateHold r.span.val = true) ∧
    (∃ (r : HoldRec) (s : State), s.on Reg.TK_STAT_IN_SEAM = true ∧ s.seam.seamHall = some r.h.val ∧ s.seam.parity = r.parity ∧
      s.seam.holdsSeen.contains (r.span.val, r.hseq.val) = true) ∧
    (∃ (r : GridRec) (s : State), s.seam.seamHall = some r.h.val ∧ s.seam.parity = r.parity ∧ s.rd Reg.SM_STAT_STATE = 2 ∧
      s.seam.resumeAt ≠ some (gridAt s.now r.r.toNat) ∧ gridAt s.now r.r.toNat + 1 = s.now + 32) ∧
    (∃ (r : GridRec) (s : State), s.seam.seamHall = some r.h.val ∧ s.seam.parity = r.parity ∧ s.rd Reg.SM_STAT_STATE = 2 ∧
      s.seam.resumeAt = some (gridAt s.now r.r.toNat)) ∧
    (∃ (s : State) (r : Nat), s.seam.resumeAt = some r ∧ s.now + 1 = r) ∧
    (∃ s : State, s.seam.pausedAt = some 100000 ∧ s.isRoot = true ∧ s.seam.resumeAt = none ∧ s.seam.abortAt = none ∧
      s.on Reg.TK_STAT_IN_SEAM = true ∧ s.seam.limitMore = some 7 ∧
      100000 + 1000 * max 1 (s.rd Reg.SM_HOLD_LIM_LIMIT) + s.seam.limitMore.getD 0 = s.now) ∧
    (∃ (s : State) (n : Nat), s.seam.pausedAt = some 100000 ∧ s.isRoot = true ∧ s.seam.resumeAt = none ∧ s.seam.abortAt = none ∧
      s.on Reg.TK_STAT_IN_SEAM = true ∧ 100000 + 1000 * max 1 (s.rd Reg.SM_HOLD_LIM_LIMIT) = s.now ∧ s.seam.limitMore = none ∧
      (s.seam.rxWins.filter s.awaited).findSome? (fun w => s.linkLeft w.link) = some n) ∧
    (∃ s : State, s.seam.pausedAt = some 100000 ∧ s.isRoot = true ∧ s.seam.resumeAt = none ∧ s.seam.abortAt = none ∧
      s.on Reg.TK_STAT_IN_SEAM = true ∧ s.now + 1 = 100000 + 1000 * max 1 (s.rd Reg.SM_HOLD_LIM_LIMIT) + s.seam.limitMore.getD 0) ∧
    (∀ x ∈ [none, some 64], ∃ (r : GridRec) (s : State), s.seam.seamHall = some r.h.val ∧ s.seam.parity = r.parity ∧
      s.on Reg.TK_STAT_IN_SEAM = true ∧ gridAt s.now r.r.toNat = 64 ∧ s.seam.abortAt = x) ∧
    (∀ d ∈ [0, 1], ∃ (s : State) (a : Nat), s.seam.abortAt = some a ∧ s.on Reg.TK_STAT_IN_SEAM = true ∧ s.now + d = a) ∧
    ((∃ s : State, s.on Reg.TK_CTL_WDOG_EN = false) ∧ (∃ s : State, s.on Reg.TK_CTL_WDOG_EN = true ∧ s.step.timed = false) ∧
      (∃ s : State, s.on Reg.TK_CTL_WDOG_EN = true ∧ s.step.timed = true ∧
        s.now + 1 = s.step.phaseSince + 1000 * max 1 (s.rd Reg.TK_WDOG_LIMIT) + s.step.wdogMore)) ∧
    (∀ more ∈ [0, 7], ∃ s : State, s.on Reg.TK_CTL_WDOG_EN = true ∧ s.step.timed = true ∧ s.phase ≠ phIdle ∧ s.phase ≠ phHem ∧
      s.step.phaseSince + 1000 * max 1 (s.rd Reg.TK_WDOG_LIMIT) + s.step.wdogMore = s.now ∧ s.heldBudget = none ∧
      s.step.wdogMore = more ∧ s.on Reg.BB_CTL_MW_EN = false) ∧
    (∃ s : State, s.on Reg.TK_CTL_WDOG_EN = true ∧ s.step.timed = true ∧ s.phase ≠ phIdle ∧ s.phase ≠ phHem ∧
      s.step.phaseSince + 1000 * max 1 (s.rd Reg.TK_WDOG_LIMIT) = s.now ∧ s.step.wdogMore = 0 ∧ s.heldBudget = some 1) :=
  ⟨⟨{ now := 64, seam := { seamAt := some 64 } }, 64, by decide⟩, ⟨{ now := 63, seam := { seamAt := some 64 } }, 64, by decide⟩,
    ⟨seamS 1 { now := 50, seam := { starts := [0, 50] } }, 50, by decide⟩,
    ⟨seamS 1 { now := 50, seam := { starts := [0, 50], holds := [(1, 0)] } }, 50, by decide⟩,
    ⟨seamS 1 { now := 90, seam := { starts := [0], seamEnd := 90 } }, by decide⟩,
    ⟨seamS 1 { seam := { starts := List.replicate 31 0 ++ [State.reach {}] } }, State.reach {}, by decide⟩,
    ⟨⟨5, false, 31, 0⟩, seamS 1 { seam := { seamHall := some 5, span := 30 } }, by decide⟩,
    ⟨⟨5, false, 1⟩, seamS 2 { now := 32, seam := { seamHall := some 5 } }, by decide⟩,
    ⟨seamS 2 { now := 128, seam := { pausedAt := some 50, resumeAt := some 128, span := 30 } }, 50, 128, by decide⟩,
    ⟨seamS 2 (atS tsRoot { now := 1000 * max 1 (State.rd {} Reg.SM_HOLD_LIM_LIMIT), seam := { pausedAt := some 0 } }), 0, by decide⟩,
    ⟨{ now := 63, seam := { seamAt := some 64 } }, 64, by decide⟩,
    ⟨{ now := 49, seam := { starts := [0, 50] } }, 50, by decide⟩,
    ⟨{ now := 89, seam := { seamEnd := 90 } }, rfl⟩,
    ⟨[⟨10, []⟩, ⟨4, []⟩], 5, 15, ⟨10, []⟩, by decide⟩,
    fun got h => ⟨seamS 1 { now := 9, seam := { starts := [0, 9], rxWins := [{ (rxWin 1) with got := got }] } },
      by revert got; decide⟩,
    ⟨{ seam := { starts := List.replicate 31 0 ++ [State.reach {} + 1] } }, State.reach {} + 1, by decide⟩,
    ⟨⟨5, false, 31, 0⟩, seamS 1 { seam := { seamHall := some 5, span := 30 } }, by decide⟩,
    ⟨⟨5, false, 1, 0⟩, seamS 1 { now := 50, seam := { seamHall := some 5, starts := [0, 50] } }, by decide⟩,
    ⟨⟨5, false, 1, 15⟩, seamS 1 { seam := { seamHall := some 5, holdsSeen := [(1, 15)] } }, by decide⟩,
    ⟨⟨5, false, 1⟩, seamS 2 { now := 33, seam := { seamHall := some 5 } }, by decide⟩,
    ⟨⟨5, false, 1⟩, seamS 2 { now := 33, seam := { seamHall := some 5, resumeAt := some 64 } }, by decide⟩,
    ⟨{ now := 127, seam := { resumeAt := some 128 } }, 128, by decide⟩,
    ⟨pausedS 7 { limitMore := some 7 }, by decide⟩,
    ⟨rg [(Reg.LK_STAT_STATE 0, lkRetrain)] (pausedS 0 { rxWins := [rxWin 1] }), _, by decide, by decide, by decide, by decide, by decide, by decide,
      by decide, rfl⟩,
    ⟨{ (pausedS 0 {}) with now := 99999 + 1000 * max 1 (State.rd {} Reg.SM_HOLD_LIM_LIMIT) }, by decide⟩,
    fun x h => ⟨⟨5, false, 1⟩, seamS 1 { seam := { seamHall := some 5, abortAt := x } }, by revert x; decide⟩,
    fun d h => ⟨seamS 1 { now := 64 - d, seam := { abortAt := some 64 } }, 64, by revert d; decide⟩,
    ⟨⟨rg [(Reg.TK_CTL_WDOG_EN, 0)] {}, by decide⟩, ⟨{}, by decide⟩, ⟨{ (wdogS 0) with now := (wdogS 0).now - 1 }, by decide⟩⟩,
    fun more h => ⟨wdogS more, by revert more; decide⟩,
    ⟨{ (wdogS 0) with seam := { pausedAt := some ((wdogS 0).now + 1 - 1000 * max 1 (State.rd {} Reg.SM_HOLD_LIM_LIMIT)) } }, by decide⟩⟩

theorem witness_EveryTileInstructionIsGuarded :
    (∃ (c : Instr) (tile : TileId) (iw : Word64) (s : State), tileWordOf c = some (tile, iw) ∧ c.wf = true ∧
      s.physOf tile.val = some 0 ∧ (s.tile 0).mode = .run ∧ (s.tile 0).fetch s.now (s.tile 0).pc = iw ∧
      (s.tile 0).fault.valid = false ∧ (s.tile 0).pc % 8 ≠ 0) ∧
    (∃ (c : Instr) (tile : TileId) (iw : Word64) (s : State), tileWordOf c = some (tile, iw) ∧ c.wf = true ∧
      s.physOf tile.val = some 0 ∧ (s.tile 0).mode = .run ∧ (s.tile 0).fetch s.now (s.tile 0).pc = iw ∧
      (s.tile 0).fault.valid = false ∧ (s.tile 0).pc = scratchBytes) ∧
    (∃ (c : Instr) (tile : TileId) (iw : Word64) (s : State), tileWordOf c = some (tile, iw) ∧ c.wf = true ∧
      s.physOf tile.val = some 0 ∧ (s.tile 0).mode = .run ∧ (s.tile 0).fetch s.now (s.tile 0).pc = iw ∧
      (s.tile 0).fault.valid = false ∧ (s.tile 0).pc % 8 = 0 ∧ (s.tile 0).pc < scratchBytes ∧
      (s.tile 0).Quiet s.now ∧ (s.tile 0).fetchFault (s.tile 0).pc = none ∧ (s.tile 0).guard iw = false) ∧
    (∃ (c : Instr) (tile : TileId) (iw : Word64) (s : State), tileWordOf c = some (tile, iw) ∧ c.wf = true ∧
      s.physOf tile.val = some 0 ∧ (s.tile 0).mode = .run ∧ (s.tile 0).fetch s.now (s.tile 0).pc = iw ∧
      (s.tile 0).fault.valid = false ∧ (s.tile 0).pc % 8 = 0 ∧ (s.tile 0).pc < scratchBytes ∧
      (s.tile 0).Quiet s.now ∧ (s.tile 0).fetchFault (s.tile 0).pc = none ∧ classReserved iw = true) :=
  ⟨⟨.scalarOp 0 0 .ret, 0, 0, tl { mode := .run, pc := 4 }, by decide⟩,
    ⟨.scalarOp 0 0 .ret, 0, 0, tl { mode := .run, pc := scratchBytes }, by decide⟩,
    ⟨.fill 0 (word 8 0 (2 ^ 53)), 0, word 8 0 (2 ^ 53), tl (fetching (word 8 0 (2 ^ 53)) {}), by decide, by decide, by decide, by decide,
      by decide, by decide, by decide, by decide, quiet_of (by decide), by decide⟩,
    ⟨.fill 0 (word 11 0 0), 0, word 11 0 0, tl (fetching (word 11 0 0) {}), by decide, by decide, by decide, by decide, by decide,
      by decide, by decide, by decide, quiet_of (by decide), by decide⟩⟩

/-- The target of a branch is left to an outside reference (R87): where it is a multiple of 8 at the third state, that
state meets the hypotheses of the clauses of a transfer. -/
theorem witness_ScalarInstructionsTakeEffect :
    (∃ (iw : Word64) (s : State), Issues s 0 iw 0 ∧ iwClass iw = 0 ∧ iwD iw = 31) ∧
    (∃ (iw : Word64) (s : State), Issues s 0 iw 0 ∧ iwClass iw = 0 ∧ iwD iw = 0) ∧
    (∃ (iw : Word64) (s : State), Issues s 0 iw 0 ∧ iwClass iw = 0 ∧
      (Config.branchTarget 0 (2 ^ 40) 0 196600 % 8 = 0 → (s.tile 0).target iw % 8 = 0)) :=
  ⟨⟨word 0 0 (31 * 2 ^ 45), tl (fetching (word 0 0 (31 * 2 ^ 45)) {}), issues_of (by decide), by decide⟩,
    ⟨word 0 0 0, tl (fetching (word 0 0 0) {}), issues_of (by decide), by decide⟩,
    ⟨word 0 0 (1 * 2 ^ 40), tl (fetching (word 0 0 (1 * 2 ^ 40)) { g := [(1, 196600)] }), issues_of (by decide), by decide,
      fun h => by
        unfold Tile.target
        rw [Nat.mod_mod_of_dvd _ (by decide), show iwOp (word 0 0 (1 * 2 ^ 40)) = 0 by decide,
          show iwBits (word 0 0 (1 * 2 ^ 40)) 49 0 = 2 ^ 40 by decide,
          show ((tl (fetching (word 0 0 (1 * 2 ^ 40)) { g := [(1, 196600)] })).tile 0).pc = 0 by decide,
          show ((tl (fetching (word 0 0 (1 * 2 ^ 40)) { g := [(1, 196600)] })).tile 0).reg (iwA (word 0 0 (1 * 2 ^ 40))) = 196600
            by decide]
        exact h⟩⟩

theorem witness_LoadsAndStoresTakeEffect :
    (∃ (iw : Word64) (s : State), Issues s 0 iw 0 ∧ iwClass iw = 1 ∧ illegalMem iw ⟨true, false, false⟩ = false ∧
      sizeBytes (iwSize iw) = some 8 ∧ (s.tile 0).memAddr iw % 8 = 0 ∧ (s.tile 0).memAddr iw + 8 = scratchBytes ∧
      (s.tile 0).poisonSeen ((s.tile 0).memAddr iw) 8 = none ∧ iwD iw ≠ 0) ∧
    (∃ (iw : Word64) (s : State), Issues s 0 iw 0 ∧ iwClass iw = 1 ∧ illegalMem iw ⟨true, false, true⟩ = false ∧
      sizeBytes (iwSize iw) = some 128 ∧ (s.tile 0).memAddr iw % 128 = 0 ∧ (s.tile 0).memAddr iw + 128 = scratchBytes ∧
      (s.tile 0).poisonSeen ((s.tile 0).memAddr iw) 128 = none) ∧
    (∃ (iw : Word64) (s : State), Issues s 0 iw 0 ∧ iwClass iw = 1 ∧ illegalMem iw ⟨true, false, false⟩ = false ∧
      sizeBytes (iwSize iw) = some 4 ∧ (s.tile 0).memAddr iw % 4 = 0 ∧ (s.tile 0).memAddr iw + 4 ≤ scratchBytes ∧
      (s.tile 0).poisonSeen ((s.tile 0).memAddr iw) 4 = none ∧ iwD iw ≠ 0) ∧
    (∃ (iw : Word64) (s : State), Issues s 0 iw 0 ∧ iwClass iw = 1 ∧ illegalMem iw ⟨true, true, true⟩ = false ∧
      sizeBytes (iwSize iw) = some 16 ∧ (s.tile 0).memAddr iw % 16 = 0 ∧ (s.tile 0).memAddr iw + 16 = scratchBytes) ∧
    (∃ (iw : Word64) (s : State), Issues s 0 iw 0 ∧ iwClass iw = 1 ∧ illegalMem iw ⟨true, true, true⟩ = false ∧
      sizeBytes (iwSize iw) = some 64 ∧ (s.tile 0).memAddr iw % 64 = 0 ∧ (s.tile 0).memAddr iw + 64 ≤ scratchBytes) :=
  let w (d sz off : Nat) := word 1 0 (d * 2 ^ 45 + sz * 2 ^ 37 + off)
  ⟨⟨w 31 1 196600, tl (fetching (w 31 1 196600) {}), issues_of (by decide), by decide⟩,
    ⟨w 0 4 196480, tl (fetching (w 0 4 196480) {}), issues_of (by decide), by decide⟩,
    ⟨w 1 0 4, tl (fetching (w 1 0 4) {}), issues_of (by decide), by decide⟩,
    ⟨w 1 2 196592, tl (fetching (w 1 2 196592) {}), issues_of (by decide), by decide⟩,
    ⟨w 1 3 64, tl (fetching (w 1 3 64) {}), issues_of (by decide), by decide⟩⟩

theorem witness_StoresReadBackThroughThePleatBuffer :
    ∃ (t : Tile) (now a : Nat) (bs : List Byte), PleatOk t ∧ (∀ w ∈ t.cyc, w.at_ ≠ now) ∧ bs ≠ [] ∧ a % 64 + bs.length = 64 ∧ t.pleat.length = 8 :=
  ⟨{ pleat := [⟨0, [(63, 1)], 0⟩, ⟨1, [], 0⟩, ⟨2, [], 0⟩, ⟨3, [], 0⟩, ⟨4, [], 0⟩, ⟨5, [], 0⟩, ⟨6, [], 0⟩, ⟨7, [], 0⟩] },
    0, 60, [1, 2, 3, 4], by constructor <;> decide, by decide⟩

theorem witness_VectorAndConvertInstructionsTakeEffect :
    (∃ (iw : Word64) (s : State) (op : VecOp), Issues s 0 iw 0 ∧ iwClass iw = 2 ∧ op.her = false ∧ op.kind = .other) ∧
    (∃ (iw : Word64) (s : State) (op : VecOp), Issues s 0 iw 0 ∧ iwClass iw = 2 ∧ op.her = true ∧ op.kind = .fma 31) ∧
    (∃ (iw : Word64) (s : State), Issues s 0 iw 0 ∧ iwClass iw = 4 ∧ illegalConvert iw = false ∧ (s.tile 0).cvFault iw = none ∧
      (s.tile 0).poisonSeen ((s.tile 0).cvElem iw) (cvBytes (cvFmt iw)) = none ∧ fmtScaled (cvFmt iw) = true ∧
      (s.tile 0).poisonSeen ((s.tile 0).cvScale iw) (fmtScaleBytes (cvFmt iw)) = none) ∧
    (∃ (iw : Word64) (s : State), Issues s 0 iw 0 ∧ iwClass iw = 4 ∧ illegalConvert iw = false ∧ (s.tile 0).cvFault iw = none ∧
      (s.tile 0).poisonSeen ((s.tile 0).cvElem iw) (cvBytes (cvFmt iw)) = none ∧ fmtScaled (cvFmt iw) = false) :=
  let sc := word 4 0 (30 * 2 ^ 40 + 0xB * 2 ^ 30)
  let un := word 4 0 (2 * 2 ^ 40)
  ⟨⟨word 2 0 0, tl (fetching (word 2 0 0) {}), ⟨.other, false⟩, issues_of (by decide), by decide⟩,
    ⟨word 2 0 0, tl (fetching (word 2 0 0) {}), ⟨.fma 31, true⟩, issues_of (by decide), by decide⟩,
    ⟨sc, tl (fetching sc { g := [(30, 196592), (31, 64)] }), issues_of (by decide), by decide⟩,
    ⟨un, tl (fetching un { g := [(2, 196544)] }), issues_of (by decide), by decide⟩⟩

/-- Eight slots, of which the first has a state, a kind and a count. -/
def slot0 (m : SlotMode) (her : Bool) (n : Nat) : List SlotSt := ⟨m, her, n, []⟩ :: List.replicate 7 {}

theorem witness_MatrixInstructionsUseTheirSlots :
    (∃ (iw : Word64) (s : State), Issues s 0 iw 0 ∧ (s.tile 0).slots.length = 8 ∧ iwClass iw = 3 ∧ iwOp iw = 0 ∧
      iwMode iw = 0 ∧ illegalMma iw = false ∧
      mmaFault iw ((s.tile 0).reg (iwA iw)).toNat ((s.tile 0).reg (iwB iw)).toNat = none ∧
      (s.tile 0).planesPoison (planesA iw ((s.tile 0).reg (iwA iw)).toNat ++
        planesB iw ((s.tile 0).reg (iwB iw)).toNat) = none ∧ (nth (s.tile 0).slots (iwSlot iw) {}).mode = .empty) ∧
    (∃ (iw : Word64) (s : State), Issues s 0 iw 0 ∧ (s.tile 0).slots.length = 8 ∧ iwClass iw = 3 ∧ iwOp iw = 0 ∧
      iwMode iw = 1 ∧ illegalMma iw = false ∧
      mmaFault iw ((s.tile 0).reg (iwA iw)).toNat ((s.tile 0).reg (iwB iw)).toNat = none ∧
      (s.tile 0).planesPoison (planesA iw ((s.tile 0).reg (iwA iw)).toNat ++
        planesB iw ((s.tile 0).reg (iwB iw)).toNat) = none ∧ (nth (s.tile 0).slots (iwSlot iw) {}).mode = .opened ∧
      (nth (s.tile 0).slots (iwSlot iw) {}).heritage = fmtHeritage (iwFA iw) ∧
      (nth (s.tile 0).slots (iwSlot iw) {}).count + iwK iw = 4096) ∧
    (∃ (iw : Word64) (s : State), Issues s 0 iw 0 ∧ (s.tile 0).slots.length = 8 ∧ iwClass iw = 3 ∧ iwOp iw = 0 ∧
      iwMode iw = 2 ∧ iwDMode iw ≠ 3 ∧ iwBits iw 32 0 = 0 ∧ s.linedHeritage 0 iw = false ∧
      (nth (s.tile 0).slots (iwSlot iw) {}).mode = .opened) ∧
    (∃ (s : State) (d : DrainOp) (ds : List DrainOp), s.physOf 0 = some 0 ∧ (s.tile 0).slots.length = 8 ∧
      (s.tile 0).mode = .run ∧ (s.tile 0).blocked = none ∧ (s.tile 0).Quiet s.now ∧ (s.tile 0).drains = d :: ds ∧ d.slot = 0 ∧ d.mode = 0 ∧
      d.dst % 16 = 0 ∧ d.dst + 3088 = scratchBytes) :=
  let st := word 3 0 (7 * 2 ^ 47 + 1 * 2 ^ 40 + 2 * 2 ^ 35 + 4 * 2 ^ 13)
  let ac := word 3 0 (1 * 2 ^ 45 + 1 * 2 ^ 40 + 2 * 2 ^ 35 + 96 * 2 ^ 13)
  let dr := word 3 0 (2 * 2 ^ 45 + 2 * 2 ^ 33)
  ⟨⟨st, tl (fetching st { g := [(1, 64), (2, 4096)] }), issues_of (by decide), by decide⟩,
    ⟨ac, tl (fetching ac { slots := slot0 .opened false 4000, g := [(1, 64), (2, 32768)] }), issues_of (by decide), by decide⟩,
    ⟨dr, tl (fetching dr { slots := slot0 .opened false 4000 }), issues_of (by decide), by decide⟩,
    ⟨tl { mode := .run, slots := slot0 .draining false 1, drains := [⟨0, 193520, 0, 0, 0⟩] }, ⟨0, 193520, 0, 0, 0⟩, [],
      by decide, by decide, by decide, by decide, quiet_of (by decide), by decide⟩⟩

theorem witness_WaitsAndFencesOfTheEngines :
    (∃ (iw : Word64) (s : State), Issues s 0 iw 0 ∧ iwClass iw = 3 ∧ iwOp iw = 2 ∧ wFormOk iw = true ∧ iwObj iw = 7 ∧
      iwImm iw = 0 ∧ (nth (s.tile 0).slots (iwObj iw) {}).mode ≠ .draining ∧ iwPS iw = 7) ∧
    (∃ (iw : Word64) (s : State), Issues s 0 iw 0 ∧ iwClass iw = 8 ∧ iwOp iw = 2 ∧ wFormOk iw = true ∧ iwObj iw = 0 ∧
      iwImm iw = 0 ∧ (s.tile 0).mover = []) ∧
    (∃ (iw : Word64) (s : State), Issues s 0 iw 0 ∧ iwClass iw = 0xA ∧ iwOp iw = 0 ∧ wFormOk iw = true ∧ iwPS iw = 0 ∧
      iwObj iw = 0 ∧ iwImm iw = 15 ∧ (s.tile 0).fenced (iwImm iw) = true ∧ (s.tile 0).pleat ≠ []) ∧
    (∃ (iw : Word64) (s : State), Issues s 0 iw 0 ∧ iwClass iw = 0xA ∧ iwOp iw = 0 ∧ wFormOk iw = true ∧ iwPS iw = 0 ∧
      iwObj iw = 0 ∧ iwImm iw = 0 ∧ (s.tile 0).fenced (iwImm iw) = true) :=
  let xw := word 3 2 (7 * 2 ^ 45 + 7 * 2 ^ 32)
  ⟨⟨xw, tl (fetching xw {}), issues_of (by decide), by decide⟩,
    ⟨word 8 2 0, tl (fetching (word 8 2 0) {}), issues_of (by decide), by decide⟩,
    ⟨word 10 0 15, tl (fetching (word 10 0 15) { pleat := [⟨5, [(0, 1)], 0⟩] }), issues_of (by decide), by decide⟩,
    ⟨word 10 0 0, tl (fetching (word 10 0 0) {}), issues_of (by decide), by decide⟩⟩

theorem witness_MoverFillsAndCopies :
    (∃ (iw : Word64) (s : State), Issues s 0 iw 0 ∧ iwClass iw = 8 ∧ iwOp iw = b2n true ∧ iwFn iw = 0 ∧
      moverFault true ((s.tile 0).moverDst iw) ((s.tile 0).moverSrc iw) ((s.tile 0).moverLen iw) = none ∧
      (s.tile 0).moverDst iw + (s.tile 0).moverLen iw = scratchBytes ∧ (s.tile 0).mover.length = 1) ∧
    (∃ (iw : Word64) (s : State), Issues s 0 iw 0 ∧ iwClass iw = 8 ∧ iwOp iw = b2n false ∧ iwFn iw = 0 ∧
      moverFault false ((s.tile 0).moverDst iw) ((s.tile 0).moverSrc iw) ((s.tile 0).moverLen iw) = none ∧
      (s.tile 0).mover.length < 2) ∧
    (∃ (s : State) (o : MoverOp) (os : List MoverOp), s.physOf 0 = some 0 ∧ (s.tile 0).mode = .run ∧
      (s.tile 0).blocked = none ∧ (s.tile 0).Quiet s.now ∧ (s.tile 0).mover = o :: os ∧ o.len % 4 = 0 ∧ o.copy = true ∧
      (s.tile 0).poisonIn o.src o.len = none ∧ o.src < o.dst ∧ o.dst < o.src + o.len) ∧
    (∃ s : State, s.physOf 6143 ≠ none ∧ (∀ p, s.physOf 6143 = some p → (s.tile p).mover = [])) :=
  let cp := word 8 1 (1 * 2 ^ 45 + 2 * 2 ^ 40 + 3 * 2 ^ 35)
  let fl := word 8 0 (1 * 2 ^ 45 + 2 * 2 ^ 40 + 3 * 2 ^ 35)
  ⟨⟨cp, tl (fetching cp { g := [(1, 196592), (2, 64), (3, 16)], mover := [⟨false, 0, 0, 16, 0, 0, 0⟩] }),
      issues_of (by decide), by decide⟩,
    ⟨fl, tl (fetching fl { g := [(1, 0), (2, 0xFFFFFFFF), (3, 196608)] }), issues_of (by decide), by decide⟩,
    ⟨tl { mode := .run, mover := [⟨true, 16, 0, 32, 0, 0, 0⟩] }, ⟨true, 16, 0, 32, 0, 0, 0⟩, [], by decide, by decide, by decide,
      quiet_of (by decide), by decide⟩,
    ⟨{}, by decide, fun _ _ => rfl⟩⟩

theorem witness_MonitorsFlushesAndScrubs :
    (∃ (iw : Word64) (s : State), Issues s 0 iw 0 ∧ iwClass iw = 9 ∧ wFormOk iw = true ∧ iwPS iw = 0 ∧
      (s.tile 0).mon.length = 4 ∧ iwOp iw = 0 ∧ iwObj iw = 3 ∧ iwBits iw 17 0 % 16 = 0 ∧ iwBits iw 17 0 = 16 ∧
      ((s.tile 0).reg (iwA iw)).toNat + iwBits iw 17 0 = scratchBytes) ∧
    (∃ (iw : Word64) (s : State), Issues s 0 iw 0 ∧ iwClass iw = 9 ∧ wFormOk iw = true ∧ iwPS iw = 0 ∧
      (s.tile 0).mon.length = 4 ∧ iwOp iw = 1 ∧ iwObj iw = 3 ∧ iwImm iw = 0) ∧
    (∃ (iw : Word64) (s : State), Issues s 0 iw 0 ∧ iwClass iw = 9 ∧ wFormOk iw = true ∧ iwPS iw = 0 ∧
      (s.tile 0).mon.length = 4 ∧ iwOp iw = 2 ∧ iwObj iw = 7 ∧ iwImm iw = 0 ∧ (s.tile 0).rd Reg.MN_TILE_DBG_ACC_EN ≠ 0 ∧
      ((s.tile 0).reg (iwA iw)).toNat % 16 = 0 ∧ ((s.tile 0).reg (iwA iw)).toNat + 6160 = scratchBytes ∧
      (nth (s.tile 0).slots (iwObj iw) {}).mode ≠ .draining) ∧
    (∃ (s : State) (e : PleatEnt), s.physOf 0 = some 0 ∧ (s.tile 0).pleat.find? (fun x => x.row == 3071) = some e ∧
      e.last + 16 = s.now) ∧
    (∃ (s : State) (e : PleatEnt), s.physOf 0 = some 0 ∧ (s.tile 0).pleat.find? (fun x => x.row == 3071) = some e ∧
      s.now + 1 = e.last + 16) ∧
    (∃ (u : TileUpsets) (s : State), s.physOf 0 = some 0 ∧ s.on Reg.TK_STAT_IN_SEAM = false ∧
      (s.tile 0).rd Reg.MN_TILE_SCRUB_INTERVAL ≠ 0 ∧
      (s.tile 0).scrubAt + max 64 ((s.tile 0).rd Reg.MN_TILE_SCRUB_INTERVAL) = s.now ∧
      (s.tile 0).rd Reg.MN_TILE_ECC_CE + 1 = 2 ^ Reg.MN_TILE_ECC_CE.width ∧
      ∃ w ∈ u.multi, w.val / 8 = (s.tile 0).scrubNext) ∧
    (∃ s : State, s.physOf 0 = some 0 ∧ s.on Reg.TK_STAT_IN_SEAM = false ∧ (s.tile 0).rd Reg.MN_TILE_SCRUB_INTERVAL = 0) ∧
    (∃ s : State, s.physOf 0 = some 0 ∧ s.on Reg.TK_STAT_IN_SEAM = false ∧ (s.tile 0).rd Reg.MN_TILE_SCRUB_INTERVAL ≠ 0 ∧
      s.now + 1 = (s.tile 0).scrubAt + max 64 ((s.tile 0).rd Reg.MN_TILE_SCRUB_INTERVAL)) ∧
    (∃ (u : TileUpsets) (s : State), s.physOf 0 = some 0 ∧ s.on Reg.TK_STAT_IN_SEAM = true ∧
      ((s.tile 0).badPat || u.pattern) = false) ∧
    (∃ (u : TileUpsets) (s : State), s.physOf 0 = some 0 ∧ s.on Reg.TK_STAT_IN_SEAM = true ∧ u.pattern = true ∧
      (s.tile 0).mode ≠ .stop ∧ (s.tile 0).fault.valid = false) :=
  let on := word 9 0 (1 * 2 ^ 40 + 3 * 2 ^ 32 + 16)
  let off := word 9 1 (3 * 2 ^ 32)
  let ar := word 9 2 (1 * 2 ^ 40 + 7 * 2 ^ 32)
  let sc (t : Tile) := t.wr Reg.MN_TILE_SCRUB_INTERVAL 64
  ⟨⟨on, tl (fetching on { g := [(1, 196592)] }), issues_of (by decide), by decide⟩,
    ⟨off, tl (fetching off {}), issues_of (by decide), by decide⟩,
    ⟨ar, tl (fetching ar (Tile.wr { g := [(1, 190448)] } Reg.MN_TILE_DBG_ACC_EN 1)), issues_of (by decide), by decide⟩,
    ⟨{ tl { pleat := [⟨3071, [(0, 1)], 84⟩] } with now := 100 }, ⟨3071, [(0, 1)], 84⟩, by decide⟩,
    ⟨{ tl { pleat := [⟨3071, [(0, 1)], 85⟩] } with now := 100 }, ⟨3071, [(0, 1)], 85⟩, by decide⟩,
    ⟨⟨[], [5], [], [], false⟩, { tl ((sc {}).wr Reg.MN_TILE_ECC_CE (2 ^ Reg.MN_TILE_ECC_CE.width - 1)) with now := 64 },
      by decide, by decide, by decide, by decide, by decide, 5, List.mem_singleton.mpr rfl, by decide⟩,
    ⟨tl (Tile.wr {} Reg.MN_TILE_SCRUB_INTERVAL 0), by decide⟩, ⟨{ tl (sc {}) with now := 63 }, by decide⟩, ⟨⟨[], [], [], [], false⟩, seamS 1 (tl {}), by decide⟩,
    ⟨⟨[], [], [], [], true⟩, seamS 1 (tl {}), by decide⟩⟩

theorem witness_TileWindowsReadAndWrite :
    (∃ (s : State) (a o : Nat), s.ideDrops .host = false ∧ s.windowOf .host a = some (0, o) ∧ windowShape .host o 4 = true ∧
      o + 4 = 0x30000 ∧ s.on Reg.TK_STAT_IN_SEAM = false ∧ s.jobState ≠ jbScrubbing ∧ (s.tile 0).Quiet s.now ∧
      (s.tile 0).poisonIn o 4 = none ∧ (s.tile 0).mode = .idle) ∧
    (∃ (s : State) (a p o : Nat), s.ideDrops .fw = false ∧ s.windowOf .fw a = some (p, o) ∧ windowShape .fw o 1 = true ∧
      o < 0x30000 ∧ s.on Reg.TK_STAT_IN_SEAM = true) ∧
    (∃ (s : State) (a : Nat), s.ideDrops .host = false ∧ s.windowOf .host a = none ∧ s.on Reg.TK_STAT_IN_SEAM = false ∧
      s.jobState ≠ jbScrubbing) ∧
    (∃ (s : State) (a o : Nat), s.ideDrops .host = false ∧ s.windowOf .host a = some (0, o) ∧ windowShape .host o 4 = true ∧
      o < 0x30000 ∧ (s.tile 0).mode = .run) ∧
    (∀ port ∈ [Port.host, .fw], ∃ (s : State) (a : Nat), s.ideDrops port = false ∧ s.windowOf port a = some (0, 0x30000) ∧
      windowShape port 0x30000 4 = true ∧ s.on Reg.TK_STAT_IN_SEAM = false ∧ s.jobState ≠ jbScrubbing) ∧
    (∃ (s : State) (a o : Nat), s.ideDrops .host = false ∧ s.windowOf .host a = some (0, o) ∧ windowShape .host o 4 = true ∧
      o < 0x30000 ∧ (s.tile 0).mode = .stop ∧ s.jobState ≠ jbScrubbing ∧ (s.tile 0).Quiet s.now) ∧
    (∃ (s : State) (a o : Nat), s.ideDrops .host = false ∧ s.windowOf .host a = some (0, o) ∧ windowShape .host o 4 = true ∧
      o < 0x30000 ∧ (s.tile 0).mode = .idle ∧ s.jobState = jbScrubbing) ∧
    (∃ (s : State) (a : Nat), s.ideDrops .fw = false ∧ s.windowOf .fw a = none ∧ s.on Reg.TK_STAT_IN_SEAM = false ∧
      s.jobState ≠ jbScrubbing ∧ unmapped a = true) ∧
    (∃ s : State, s.ideDrops .host = true) :=
  ⟨⟨{}, 0x82FFFC, 0x2FFFC, by decide, by decide, by decide, by decide, by decide, by decide, quiet_of (by decide), by decide⟩, ⟨seamS 1 {}, 0x4000000000 + 5 * 0x40000 + 3, 5, 3, by decide⟩,
    ⟨rg [(Reg.MN_TWIN_SEL_TILE 0, 8191)] {}, 0x800000, by decide⟩, ⟨tl { mode := .run }, 0x800000, 0, by decide⟩,
    fun port h => ⟨{}, if port = .host then 0x830000 else 0x4000030000, by revert port; decide⟩,
    ⟨tl { mode := .stop }, 0x800000, 0, by decide, by decide, by decide, by decide, by decide, by decide, quiet_of (by decide)⟩,
    ⟨rg [(Reg.JB_STAT_STATE, jbScrubbing)] {}, 0x800000, 0, by decide⟩, ⟨{}, 0x4063000000, by decide⟩,
    ⟨{ host := { features := 16 } }, by decide⟩⟩

theorem witness_PacketHeadersReadBack :
    ∃ h : PktHdr, h.kind = 15 ∧ h.dest = 2 ^ 13 - 1 ∧ h.src = 2 ^ 13 - 1 ∧ h.addr = 2 ^ 18 - 1 ∧ h.len = 255 ∧ h.tag = 255 ∧
      h.etype = 3 ∧ h.ring = 7 ∧ h.cnt = 255 ∧ h.sub = 7 ∧ h.raddr = 2 ^ 18 - 1 ∧ h.mid = 15 :=
  ⟨⟨15, 8191, 8191, 2 ^ 18 - 1, 255, 255, 3, 7, 255, 7, 2 ^ 18 - 1, true, 15⟩, by decide⟩

/-- A packet with a header and a payload of clean words. -/
def pkt (h : PktHdr) (data : List Byte) : Pkt := { hdr := h.word, relay := none, data := data, bad := [] }

/-- Eight thimble registers of which register 7 is `h`. -/
def thim7 (h : ThimSt) : List ThimSt := List.replicate 7 ({ } : ThimSt) ++ [h]

/-- Eight rings of which ring 7 is `r`. -/
def ring7 (r : RingSt) : List RingSt := List.replicate 7 ({ } : RingSt) ++ [r]

/-- A packet of a kind arrives whole, as the next of its way, at the tile at position 0, on which nothing is in the way of a
quiet access. -/
def Arrives (q : Pkt) (s : State) (kind : Nat) : Prop :=
  (pkChecks q = true ∧ s.physOf (pkDest q) = some 0 ∧ pkKind q = kind ∧ pkInRange q = true ∧ pkSized q = true ∧
    s.inOrder (soundPkt q) = true) ∧ (s.tile 0).Quiet s.now

/-- A packet arrives where the conditions of `Arrives` hold. -/
theorem arrives_of {q : Pkt} {s : State} {kind : Nat}
    (h : (pkChecks q = true ∧ s.physOf (pkDest q) = some 0 ∧ pkKind q = kind ∧ pkInRange q = true ∧ pkSized q = true ∧
        s.inOrder (soundPkt q) = true) ∧
      ((s.tile 0).soft = [] ∧ (s.tile 0).badRegs = [] ∧ (s.tile 0).badBuf = [] ∧ (s.tile 0).cyc = [])) :
    Arrives q s kind := ⟨h.1, quiet_of h.2⟩

theorem witness_FabricPacketsArrive :
    (∃ (q : Pkt) (s : State), Arrives q s pkWrite ∧ pkAddr q + q.data.length = scratchBytes) ∧
    (∃ (q : Pkt) (s : State), Arrives q s pkRdreq ∧ pkLen q = 255) ∧
    (∃ (q : Pkt) (s : State), Arrives q s pkRdrsp ∧ (s.tile 0).thims.length = 8 ∧
      ((s.tile 0).thim (pkTag q % 8)).form = 3 ∧ ((s.tile 0).thim (pkTag q % 8)).mode = .draining) ∧
    (∃ (q : Pkt) (s : State), Arrives q s pkRdrsp ∧ (s.tile 0).thims.length = 8 ∧
      ((s.tile 0).thim (pkTag q % 8)).mode = .free) ∧
    (∃ (q : Pkt) (s : State) (k : Nat), Arrives q s pkAck ∧ pkMrg q = false ∧ (s.tile 0).thims.length = 8 ∧
      (s.tile 0).ackReg q = some k ∧ ((s.tile 0).thim k).mode = .draining ∧ ((s.tile 0).thim k).acks = 1) ∧
    (∃ (q : Pkt) (s : State), Arrives q s pkAck ∧ pkMrg q = false ∧ (s.tile 0).ackReg q = none) ∧
    (∃ (q : Pkt) (s : State), Arrives q s pkAck ∧ pkMrg q = true ∧
      ∃ m ∈ s.fab.merges, m.router = 0 ∧ m.mid = pkMid q ∧ m.parts.length = 2) ∧
    (∀ seen ∈ [none, some 40], ∃ (q : Pkt) (s : State) (p : Nat), pkChecks q = false ∧ q.seenAt = seen ∧ s.finder q = some p ∧
      (s.logicalOf p).isSome = true ∧ (s.tile p).fault.valid = false ∧ (s.tile p).mode ≠ .stop) ∧
    (∃ (q : Pkt) (s : State), pkChecks q = false ∧ s.finder q = none) ∧
    (∀ kind ∈ [pkWrite, pkRdreq, pkRdrsp, pkMsg, pkAdd, pkAck], ∃ (q : Pkt) (s : State), pkChecks q = true ∧
      s.physOf (pkDest q) = some 0 ∧ pkKind q = kind ∧ pkInRange q = true ∧ pkSized q = true ∧ s.inOrder (soundPkt q) = false) :=
  let d : List Byte := List.replicate 16 7
  ⟨⟨pkt { kind := pkWrite, addr := 196592 } d, {}, arrives_of (by decide +kernel), by decide +kernel⟩,
    ⟨pkt { kind := pkRdreq, len := 255, raddr := 64 } [], {}, arrives_of (by decide +kernel), by decide +kernel⟩,
    ⟨pkt { kind := pkRdrsp, tag := 7 } d, tl { thims := thim7 { mode := .draining, form := 3 } }, arrives_of (by decide +kernel),
      by decide +kernel⟩,
    ⟨pkt { kind := pkRdrsp, tag := 7 } d, {}, arrives_of (by decide +kernel), by decide +kernel⟩,
    ⟨pkt { kind := pkAck, tag := 7, src := 5, ring := 3 } [], tl { thims := thim7 { mode := .draining, acks := 1, tile := 5, ring := 3 } },
      7, arrives_of (by decide +kernel), by decide +kernel⟩,
    ⟨pkt { kind := pkAck, tag := 7 } [], {}, arrives_of (by decide +kernel), by decide +kernel⟩,
    ⟨pkt { kind := pkAck, mrg := true, mid := 15 } [],
      { fab := { merges := [⟨0, 15, [pkt { kind := pkAdd } d, pkt { kind := pkAdd } d]⟩] } },
      arrives_of (by decide +kernel), by decide +kernel, _, List.mem_singleton.mpr rfl, by decide +kernel⟩,
    List.forall_mem_cons.mpr ⟨⟨⟨1, none, [], [], none⟩, {}, 0, by decide +kernel⟩,
      List.forall_mem_singleton.mpr ⟨⟨1, none, [], [], some 40⟩, {}, 40, by decide +kernel⟩⟩,
    ⟨⟨({ kind := 0, dest := 8191 } : PktHdr).word ^^^ 1, none, [], [], none⟩, {}, by decide +kernel⟩,
    fun kind h => ⟨pkt { kind := kind, tag := 1 } (if kind = pkRdreq ∨ kind = pkAck then [] else d),
      { out := [.packet (pkt { kind := kind } d), .packet (pkt { kind := kind, tag := 1 }
          (if kind = pkRdreq ∨ kind = pkAck then [] else d))] }, by revert kind; decide +kernel⟩⟩

/-- A message ring of 256 B with one open record of two units, which tile 5 of this device fills from its register 1. -/
def openRing : RingSt :=
  { kind := rkMessage, size := 0, base := 0, resv := 2,
    recs := [{ units := 2, marker := false, done := false, stile := 5, reg := 1 }] }

/-- A combining ring of four 64 B slots, of which slot 3 is `c`. -/
def combRing (c : CombSt) : RingSt := { kind := rkCombining, size := 0, slotSz := 0, etype := 0, base := 0, slots := [(3, c)] }

theorem witness_RingsTakeRecordsAndContributions :
    (∃ (q : Pkt) (s : State) (x : RingRec), Arrives q s pkMsg ∧ q.relay = none ∧ (s.tile 0).rings.length = 8 ∧
      ((s.tile 0).ring (pkRing q)).kind = rkMessage ∧ ((s.tile 0).ring (pkRing q)).recs = [x] ∧ x.done = false ∧
      x.remote = false ∧ x.sdev = s.devId.toNat ∧ x.stile = pkSrc q ∧ x.reg = pkTag q ∧ x.units = pkLen q + 2) ∧
    (∃ (q : Pkt) (s : State) (r : RingSt), Arrives q s pkAdd ∧ (s.tile 0).rings.length = 8 ∧ (s.tile 0).ring (pkRing q) = r ∧
      r.kind = rkCombining ∧ r.base ≤ pkAddr q ∧ r.slotAt (pkAddr q) = 3 ∧ r.slotCount = 4 ∧ (r.comb 3).mode = .armed ∧
      (r.comb 3).arrived + pkCnt q = (r.comb 3).expected) ∧
    (∃ (q : Pkt) (s : State) (r : RingSt), Arrives q s pkAdd ∧ (s.tile 0).rings.length = 8 ∧ (s.tile 0).ring (pkRing q) = r ∧
      r.kind = rkCombining ∧ r.base ≤ pkAddr q ∧ r.slotAt (pkAddr q) = 3 ∧ r.slotCount = 4 ∧ (r.comb 3).mode = .zeroing) ∧
    (∃ (q : Pkt) (s : State) (r : RingSt), Arrives q s pkAdd ∧ (s.tile 0).rings.length = 8 ∧ (s.tile 0).ring (pkRing q) = r ∧
      r.kind = rkCombining ∧ r.base ≤ pkAddr q ∧ r.slotAt (pkAddr q) = 3 ∧ r.slotCount = 4 ∧ (r.comb 3).mode ≠ .zeroing ∧
      (r.comb 3).expected + 1 = (r.comb 3).arrived + pkCnt q ∧ (s.tile 0).fault.valid = false ∧ (s.tile 0).mode ≠ .stop) ∧
    (∃ (s : State) (r : RingSt), s.physOf 0 = some 0 ∧ (s.tile 0).rings.length = 8 ∧ (s.tile 0).ring 7 = r ∧
      r.kind = rkCombining ∧ (r.comb 3).mode = .zeroing ∧ (r.comb 3).held.length = 1 ∧ (s.tile 0).Quiet s.now) ∧
    (∃ s : State, s.physOf 0 = some 0 ∧ (s.tile 0).rings.length = 8 ∧ ((s.tile 0).ring 7).kind ≠ rkCombining) :=
  let d : List Byte := List.replicate 16 7
  let a := pkt { kind := pkAdd, ring := 7, addr := 240, cnt := 2 } d
  ⟨⟨pkt { kind := pkMsg, ring := 7, src := 5, tag := 1, addr := 16 } d, tl { rings := ring7 openRing },
      { units := 2, marker := false, done := false, stile := 5, reg := 1 }, arrives_of (by decide +kernel), by decide +kernel⟩,
    ⟨a, tl { rings := ring7 (combRing { mode := .armed, expected := 5, arrived := 3 }) }, _, arrives_of (by decide +kernel),
      by decide +kernel, rfl, by decide +kernel⟩,
    ⟨a, tl { rings := ring7 (combRing { mode := .zeroing, expected := 5 }) }, _, arrives_of (by decide +kernel),
      by decide +kernel, rfl, by decide +kernel⟩,
    ⟨a, tl { rings := ring7 (combRing { mode := .armed, expected := 5, arrived := 4 }) }, _, arrives_of (by decide +kernel),
      by decide +kernel, rfl, by decide +kernel⟩,
    ⟨tl { rings := ring7 (combRing { mode := .zeroing, expected := 5, held := [a] }) }, _, by decide +kernel, by decide +kernel,
      rfl, by decide +kernel, by decide +kernel, by decide +kernel, quiet_of (by decide +kernel)⟩, ⟨{}, by decide⟩⟩

theorem witness_BobbinInstructionsTakeEffect :
    (∃ (iw : Word64) (s : State), Issues s 0 iw 0 ∧ rowOf iw 6 4 = true ∧ cfgIllegal iw = false ∧
      (s.tile 0).rings.length = 8 ∧ (s.tile 0).ringBusy (iwObj iw) = false ∧ cfgKind iw = rkCombining ∧ cfgSize iw = 8 ∧
      ((s.tile 0).reg (iwA iw)).toNat % 256 = 0 ∧ ((s.tile 0).reg (iwA iw)).toNat + 256 * 2 ^ cfgSize iw = scratchBytes ∧
      (s.tile 0).ringOverlaps (iwObj iw) ((s.tile 0).reg (iwA iw)).toNat (256 * 2 ^ cfgSize iw) = false ∧
      64 * 2 ^ cfgSlot iw ≤ 256 * 2 ^ cfgSize iw ∧ 256 * 2 ^ cfgSize iw / (64 * 2 ^ cfgSlot iw) ≤ 64) ∧
    (∃ (iw : Word64) (s : State), Issues s 0 iw 0 ∧ rowOf iw 6 4 = true ∧ cfgIllegal iw = false ∧
      (s.tile 0).rings.length = 8 ∧ (s.tile 0).ringBusy (iwObj iw) = false ∧ cfgKind iw = rkNone) ∧
    (∃ (iw : Word64) (s : State), Issues s 0 iw 0 ∧ rowOf iw 6 4 = true ∧ cfgIllegal iw = false ∧ cfgKind iw = rkNone ∧
      (s.tile 0).ringBusy (iwObj iw) = true ∧ (s.tile 0).fault.valid = false) ∧
    (∀ f ∈ [0, 1, 2], ∃ (iw : Word64) (s : State), Issues s 0 iw 0 ∧ rowOf iw 6 0 = true ∧ treqIllegal iw = false ∧ treqForm iw = f ∧
      iwBits ((s.tile 0).reg (iwA iw)) 63 48 = 0 ∧ (s.physOf (tgTile ((s.tile 0).reg (iwA iw)))).isSome = true ∧
      (s.tile 0).thims.length = 8 ∧ ((s.tile 0).thim (iwObj iw)).mode = .free) ∧
    (∃ (iw : Word64) (s : State), Issues s 0 iw 0 ∧ rowOf iw 6 0 = true ∧ treqIllegal iw = false ∧ treqForm iw = 3 ∧
      iwBits ((s.tile 0).reg (iwA iw)) 63 48 = 0 ∧ tgRemote ((s.tile 0).reg (iwA iw)) = true ∧
      readFault iw ((s.tile 0).reg (iwA iw)) = none ∧ treqUnits iw = 256 ∧ (s.tile 0).thims.length = 8 ∧
      ((s.tile 0).thim (iwObj iw)).mode = .free ∧ (s.tile 0).readsOut < 2) ∧
    (∀ last ∈ [true, false], ∃ (iw : Word64) (s : State) (h : ThimSt), Issues s 0 iw 0 ∧ rowOf iw 6 1 = true ∧ sendIllegal iw = false ∧
      sendFault (s.tile 0) iw = none ∧ (s.tile 0).thims.length = 8 ∧ (s.tile 0).thim (iwObj iw) = h ∧ sendLast iw = last) ∧
    (∀ ready ∈ [true, false], ∃ (iw : Word64) (s : State), Issues s 0 iw 0 ∧ rowOf iw 6 2 = true ∧ waitIllegal iw = false ∧ iwObj iw < 8 ∧
      iwImm iw < 2 ^ (if ((s.tile 0).ring (iwObj iw)).kind = rkCombining then 6 else 13) ∧
      waitBad ((s.tile 0).ring (iwObj iw)) (iwImm iw) = false ∧ (s.tile 0).ringReady (iwObj iw) (iwImm iw) = ready ∧
      (s.tile 0).blocked = none) ∧
    (∀ r ∈ [some true, some false, none], ∃ (iw : Word64) (s : State), Issues s 0 iw 0 ∧ rowOf iw 6 2 = true ∧ waitIllegal iw = false ∧
      iwObj iw = 15 ∧ iwImm iw ≤ 1 ∧ (s.tile 0).thimReady (iwObj iw - 8) (iwImm iw) = r ∧ (s.tile 0).blocked = none) ∧
    (∀ k ∈ [rkMessage, rkWindow, rkCombining], ∃ (iw : Word64) (s : State), Issues s 0 iw 0 ∧ rowOf iw 6 3 = true ∧ advIllegal iw = false ∧
      (s.tile 0).rings.length = 8 ∧ ((s.tile 0).ring (iwObj iw)).kind = k ∧ (s.tile 0).reqs = [] ∧
      (k = rkMessage → iwImm iw < 2 ^ 13 ∧ iwImm iw ≠ 0 ∧
        iwImm iw = ((s.tile 0).ring (iwObj iw)).dist ((s.tile 0).ring (iwObj iw)).wp ((s.tile 0).ring (iwObj iw)).rp) ∧
      (k = rkWindow → iwImm iw < 2 ^ 26 ∧ iwImm iw / 2 ^ 13 = ((s.tile 0).ring (iwObj iw)).landed ∧
        ((s.tile 0).ring (iwObj iw)).credit + iwImm iw % 2 ^ 13 = ((s.tile 0).ring (iwObj iw)).units) ∧
      (k = rkCombining → iwImm iw < 2 ^ 26 ∧ iwImm iw % 64 + 1 = ((s.tile 0).ring (iwObj iw)).slotCount ∧
        bitsOf (iwImm iw) 25 6 ≠ 0 ∧ (((s.tile 0).ring (iwObj iw)).comb (iwImm iw % 64)).mode = .complete)) := by
  let cf := word 6 4 (1 * 2 ^ 40 + 7 * 2 ^ 32 + 1 + 8 * 4 + 4 * 64)
  let un := word 6 4 (7 * 2 ^ 32 + 3)
  let rq (f : Nat) := word 6 0 (1 * 2 ^ 40 + 7 * 2 ^ 32 + f + 2 * 4)
  let rd := word 6 0 (1 * 2 ^ 40 + 7 * 2 ^ 32 + 3 + 255 * 4)
  let sd (last : Nat) := word 6 1 (1 * 2 ^ 40 + 7 * 2 ^ 32 + last * 2 ^ 31 + 1)
  let wt := word 6 2 (7 * 2 ^ 45 + 7 * 2 ^ 32 + 2)
  let th := word 6 2 (7 * 2 ^ 45 + 15 * 2 ^ 32)
  let ad (n : Nat) := word 6 3 (7 * 2 ^ 32 + n)
  refine ⟨⟨cf, tl (fetching cf { g := [(1, 131072)] }), issues_of (by decide), by decide⟩,
    ⟨un, tl (fetching un {}), issues_of (by decide), by decide⟩,
    ⟨un, tl (fetching un { rings := ring7 openRing }), issues_of (by decide), by decide⟩, ?_,
    ⟨rd, tl (fetching rd { g := [(1, 2 ^ 26)] }), issues_of (by decide), by decide⟩, ?_, ?_, ?_, ?_⟩
  · intro f hf
    simp only [List.mem_cons, List.not_mem_nil, or_false] at hf
    obtain rfl | rfl | rfl := hf
    · exact ⟨rq 0, tl (fetching (rq 0) { g := [(1, 6143)] }), issues_of (by decide), by decide⟩
    · exact ⟨rq 1, tl (fetching (rq 1) { g := [(1, 6143)] }), issues_of (by decide), by decide⟩
    · exact ⟨rq 2, tl (fetching (rq 2) { g := [(1, 6143)] }), issues_of (by decide), by decide⟩
  · intro l hl
    simp only [List.mem_cons, List.not_mem_nil, or_false] at hl
    obtain rfl | rfl := hl
    · exact ⟨sd 1, tl (fetching (sd 1) { g := [(1, 196592)], thims := thim7 { mode := .held, form := 2, left := 9 } }),
        { mode := .held, form := 2, left := 9 }, issues_of (by decide), by decide⟩
    · exact ⟨sd 0, tl (fetching (sd 0) { g := [(1, 196592)], thims := thim7 { mode := .held, form := 2, left := 9 } }),
        { mode := .held, form := 2, left := 9 }, issues_of (by decide), by decide⟩
  · intro r hr
    simp only [List.mem_cons, List.not_mem_nil, or_false] at hr
    obtain rfl | rfl := hr
    · exact ⟨wt, tl (fetching wt { rings := ring7 { openRing with wp := 2 } }), issues_of (by decide), by decide⟩
    · exact ⟨wt, tl (fetching wt { rings := ring7 { openRing with wp := 1 } }), issues_of (by decide), by decide⟩
  · intro r hr
    simp only [List.mem_cons, List.not_mem_nil, or_false] at hr
    obtain rfl | rfl | rfl := hr
    · exact ⟨th, tl (fetching th { thims := thim7 { mode := .held, granted := true } }), issues_of (by decide), by decide⟩
    · exact ⟨th, tl (fetching th { thims := thim7 { abandoned := true } }), issues_of (by decide), by decide⟩
    · exact ⟨th, tl (fetching th { thims := thim7 { mode := .requested } }), issues_of (by decide), by decide⟩
  · intro k hk
    simp only [List.mem_cons, List.not_mem_nil, or_false] at hk
    obtain rfl | rfl | rfl := hk
    · exact ⟨ad 2, tl (fetching (ad 2) { rings := ring7 { openRing with wp := 2 } }), issues_of (by decide), by decide⟩
    · exact ⟨ad (3 * 2 ^ 13 + 5), tl (fetching (ad (3 * 2 ^ 13 + 5)) { rings := ring7 { kind := rkWindow, credit := 11, landed := 3 } }),
        issues_of (by decide), by decide⟩
    · exact ⟨ad (3 + 5 * 2 ^ 6), tl (fetching (ad (3 + 5 * 2 ^ 6)) { rings := ring7 (combRing { mode := .complete }) }),
        issues_of (by decide), by decide⟩

/-- A thimble packet of a sub-kind arrives whole, as the next of its way, at the tile at position 0. -/
def Asks (q : Pkt) (s : State) (sub : Nat) : Prop :=
  pkChecks q = true ∧ s.physOf (pkDest q) = some 0 ∧ pkKind q = pkThimble ∧ pkSub q = sub ∧ pkSized q = true ∧
    s.inOrder (soundPkt q) = true

set_option maxRecDepth 100000 in
theorem witness_ThimblePacketsAreAnswered :
    (∀ k ∈ [rkMessage, rkWindow, rkCombining], ∃ (q : Pkt) (s : State), Asks q s suRequest ∧ (s.tile 0).rings.length = 8 ∧
      ((s.tile 0).ring (pkRing q)).verdict q = .grant ∧ ((s.tile 0).ring (pkRing q)).kind = k ∧ (s.tile 0).reqs = []) ∧
    (∃ (q : Pkt) (s : State), Asks q s suRequest ∧ (s.tile 0).rings.length = 8 ∧
      ((s.tile 0).ring (pkRing q)).verdict q = .refuse) ∧
    (∃ (q : Pkt) (s : State), Asks q s suRequest ∧ (s.tile 0).rings.length = 8 ∧
      ((s.tile 0).ring (pkRing q)).verdict q = .wait ∧ (s.tile 0).mode = .stop) ∧
    (∀ n ∈ [63, 64], ∃ (q : Pkt) (s : State), Asks q s suRequest ∧ (s.tile 0).rings.length = 8 ∧
      ((s.tile 0).ring (pkRing q)).verdict q = .wait ∧ (s.tile 0).mode ≠ .stop ∧ (s.tile 0).reqs.length = n) ∧
    (∀ sub ∈ [suGrant, suRefuse, suAbandoned, suRetry], ∀ m ∈ [ThimMode.requested, ThimMode.free, ThimMode.held],
      ∃ (q : Pkt) (s : State), Asks q s sub ∧ (s.tile 0).thims.length = 8 ∧ ((s.tile 0).thim (pkTag q % 8)).mode = m ∧
        (s.tile 0).mode ≠ .stop ∧ (s.tile 0).fault.valid = false) ∧
    (∃ (q : Pkt) (s : State), Asks q s suGrant ∧ (s.tile 0).thims.length = 8 ∧
      ((s.tile 0).thim (pkTag q % 8)).mode = .requested ∧ (s.tile 0).mode = .stop) ∧
    (∃ (q : Pkt) (s : State) (g : GrantSt), Asks q s suRelease ∧ (s.tile 0).rings.length = 8 ∧
      ((s.tile 0).ring (pkRing q)).kind = rkWindow ∧ (s.tile 0).reqs = [] ∧ q.relay = none ∧
      ((s.tile 0).ring (pkRing q)).grants = [g] ∧ g.remote = false ∧ g.sdev = s.devId.toNat ∧ g.stile = pkSrc q ∧ g.reg = pkTag q) ∧
    (∃ (q : Pkt) (s : State) (x : RingRec), Asks q s suRelease ∧ (s.tile 0).rings.length = 8 ∧
      ((s.tile 0).ring (pkRing q)).kind = rkMessage ∧ (s.tile 0).reqs = [] ∧ q.relay = none ∧
      ((s.tile 0).ring (pkRing q)).recs = [x] ∧ x.done = false ∧ x.remote = false ∧ x.sdev = s.devId.toNat ∧
      x.stile = pkSrc q ∧ x.reg = pkTag q) ∧
    (∃ (s : State) (a : Nat), s.physOf 0 = some 0 ∧ (s.tile 0).thims.length = 8 ∧ ((s.tile 0).thim 7).retryAt = some a ∧
      a = s.now ∧ ((s.tile 0).thim 7).mode = .requested ∧ (s.tile 0).mode ≠ .stop) ∧
    (∃ (s : State) (a : Nat), s.physOf 0 = some 0 ∧ (s.tile 0).thims.length = 8 ∧ ((s.tile 0).thim 7).retryAt = some a ∧
      a = s.now + 1) ∧
    (∀ sub ∈ [suRefuse, suAbandoned], ∃ (q : Pkt) (s : State), Asks q s sub ∧ (s.tile 0).thims.length = 8 ∧
      ((s.tile 0).thim (pkTag q % 8)).mode = .draining ∧ ((s.tile 0).thim (pkTag q % 8)).form = 3 ∧
      (s.tile 0).fault.valid = false ∧ (s.tile 0).mode ≠ .stop) ∧
    (∃ s : State, s.physOf 0 = some 0 ∧ ((s.tile 0).thim 7).retryAt = none) ∧
    (∃ (s : State) (a : Nat), s.physOf 0 = some 0 ∧ (s.tile 0).thims.length = 8 ∧ ((s.tile 0).thim 7).retryAt = some a ∧
      a = s.now ∧ (s.tile 0).mode = .stop) := by
  let rq (f u : Nat) := pkt { kind := pkThimble, sub := suRequest, ring := 7, raddr := u - 1 + 2 ^ 12 * f } []
  let tg (sub : Nat) := pkt { kind := pkThimble, sub := sub, tag := 7, src := 5, ring := 3 } []
  refine ⟨?_, ⟨rq 0 9, tl { rings := ring7 openRing }, by unfold Asks; decide +kernel⟩,
    ⟨rq 2 2, tl { mode := .stop, rings := ring7 { kind := rkWindow, credit := 1 } }, by unfold Asks; decide +kernel⟩, ?_, ?_,
    ⟨tg suGrant, tl { mode := .stop, thims := thim7 { mode := .requested } }, by unfold Asks; decide +kernel⟩,
    ⟨pkt { kind := pkThimble, sub := suRelease, tag := 1, src := 5, ring := 7 } [],
      tl { rings := ring7 { kind := rkWindow, grants := [⟨false, 0, 5, 1, 3⟩] } }, ⟨false, 0, 5, 1, 3⟩, by unfold Asks; decide +kernel⟩,
    ⟨pkt { kind := pkThimble, sub := suRelease, tag := 1, src := 5, ring := 7 } [], tl { rings := ring7 openRing },
      { units := 2, marker := false, done := false, stile := 5, reg := 1 }, by unfold Asks; decide +kernel⟩,
    ⟨{ tl { thims := thim7 { mode := .requested, retryAt := some 9 } } with now := 9 }, 9, by decide⟩,
    ⟨{ tl { thims := thim7 { mode := .requested, retryAt := some 9 } } with now := 8 }, 9, by decide⟩,
    fun sub h => ⟨tg sub, tl { thims := thim7 { mode := .draining, form := 3 } }, by revert sub; unfold Asks; decide +kernel⟩,
    ⟨{}, by decide⟩, ⟨{ tl { mode := .stop, thims := thim7 { retryAt := some 9 } } with now := 9 }, 9, by decide⟩⟩
  · intro k hk
    simp only [List.mem_cons, List.not_mem_nil, or_false] at hk
    obtain rfl | rfl | rfl := hk
    · exact ⟨rq 0 8, tl { rings := ring7 { kind := rkMessage } }, by unfold Asks; decide +kernel⟩
    · exact ⟨rq 2 5, tl { rings := ring7 { kind := rkWindow, credit := 5 } }, by unfold Asks; decide +kernel⟩
    · exact ⟨rq 1 4, tl { rings := ring7 { combRing {} with slots := [(0, { mode := .armed })] } }, by unfold Asks; decide +kernel⟩
  · intro n hn
    simp only [List.mem_cons, List.not_mem_nil, or_false] at hn
    obtain rfl | rfl := hn
    · exact ⟨rq 2 2, tl { rings := ring7 { kind := rkWindow, credit := 1 }, reqs := List.replicate 63 (rq 2 2) },
        by unfold Asks; decide +kernel⟩
    · exact ⟨rq 2 2, tl { rings := ring7 { kind := rkWindow, credit := 1 }, reqs := List.replicate 64 (rq 2 2) },
        by unfold Asks; decide +kernel⟩
  · intro sub hs m _
    refine ⟨tg sub, tl { thims := thim7 { mode := m } }, ?_⟩
    simp only [List.mem_cons, List.not_mem_nil, or_false] at hs
    unfold Asks
    obtain rfl | rfl | rfl | rfl := hs <;> cases m <;> decide +kernel

/-- A relayed packet of a kind for a tile of a device. -/
def relayed (kind dev tile : Nat) : Pkt := { hdr := ({ kind := kind } : PktHdr).word, relay := some (relayWord dev tile 9 5 false), data := [], bad := [] }

/-- A relayed packet whose header check holds is taken at the first X die. -/
def Relays (q : Pkt) (w : BitVec 128) (s : State) : Prop := q.relay = some w ∧ pkChecks q = true ∧ (s.takeAtX 0 q).isSome = true

set_option maxRecDepth 100000 in
theorem witness_RoutersForwardUnderTheRowMap :
    (∃ (a b : Pkt) (s : State), pkChecks a = true ∧ pkChecks b = true ∧ s.partOk a = true ∧
      (s.land (soundPkt a)).partOk b = true ∧ s.on Reg.MN_FAB_CTL_MERGE_EN = true ∧ mergeable a b = true ∧
      pkCnt a + pkCnt b = 255 ∧ s.logicalOf 0 = some 0 ∧ s.freeMid 0 = some 15) ∧
    (∀ on ∈ [0, 1], ∃ (a b : Pkt) (s : State), pkChecks a = true ∧ pkChecks b = true ∧ s.rd Reg.MN_FAB_CTL_MERGE_EN = on ∧
      (mergeable a b = false ↔ on = 1)) ∧
    (∃ (a b : Pkt) (s : State), pkChecks a = false ∧ pkChecks b = true ∧ (s.logicalOf 0).isSome = true ∧
      (s.tile 0).fault.valid = false ∧ (s.tile 0).mode ≠ .stop) ∧
    (∃ (q : Pkt) (w : BitVec 128) (s : State), Relays q w s ∧ pkAsks q = false ∧ (rlTarget w).1 = s.devId.toNat ∧
      (s.physOf (rlTarget w).2).isSome = true) ∧
    (∃ (q : Pkt) (w : BitVec 128) (s : State), Relays q w s ∧ pkAsks q = true ∧ pkKind q ≠ pkThimble ∧
      (rlTarget w).1 = s.devId.toNat ∧ s.physOf (rlTarget w).2 = none) ∧
    (∀ st ∈ [lkUp, lkRetrain, lkDown], ∃ (q : Pkt) (w : BitVec 128) (s : State) (n : Nat), Relays q w s ∧ pkAsks q = true ∧
      pkKind q ≠ pkThimble ∧ (rlTarget w).1 ≠ s.devId.toNat ∧ s.routeTo (rlTarget w).1 = some n ∧ s.xOf n = 0 ∧ s.lkState n = st) ∧
    (∃ (q : Pkt) (w : BitVec 128) (s : State) (n : Nat), Relays q w s ∧ pkAsks q = true ∧ pkKind q ≠ pkThimble ∧
      (rlTarget w).1 ≠ s.devId.toNat ∧ s.routeTo (rlTarget w).1 = some n ∧ s.xOf n = 1) ∧
    (∃ (q : Pkt) (w : BitVec 128) (s : State), Relays q w s ∧ pkAsks q = true ∧ pkKind q ≠ pkThimble ∧
      (rlTarget w).1 ≠ s.devId.toNat ∧ s.routeTo (rlTarget w).1 = none) ∧
    (∃ (q : Pkt) (w : BitVec 128) (s : State), Relays q w s ∧ pkAsks q = true ∧ pkKind q = pkThimble ∧
      s.on Reg.BB_CTL_REMOTE_EN = false) ∧
    (∃ (q : Pkt) (s : State), pkChecks q = true ∧ q.relay.isSome = true ∧ s.takeAtX 0 q = none) ∧
    (∃ (q : Pkt) (s : State), pkChecks q = false ∧ s.heldBy 0 q = some 0) ∧
    (∃ s : State, 48 ≤ s.rd Reg.MN_FAB_ROWSEL_PROW) ∧
    (∃ (v : Word32) (s : State), s.rd Reg.MN_FAB_ROWSEL_PROW = 0 ∧ v.toNat % 4 = 1 ∧ bitsOf v.toNat 7 2 = 0 ∧
      (s.badCols (s.rd Reg.MN_FAB_ROWSEL_DIE) 0).contains 32 = false ∧ s.fab.staged = [] ∧
      s.rowMode (s.rd Reg.MN_FAB_ROWSEL_DIE) 0 = 0 ∧ s.phase = phIdle ∧ s.jobState = jbEmpty ∧
      (s.claimSpare (s.rd Reg.MN_FAB_ROWSEL_DIE) 0 0).mapOk = false) ∧
    (∃ (v : Word32) (s : State), s.rd Reg.MN_FAB_ROWSEL_PROW = 0 ∧ v.toNat % 4 = 0 ∧ s.fab.staged = [] ∧ s.phase = phIdle ∧
      s.jobState = jbEmpty ∧ (s.setRow (s.rd Reg.MN_FAB_ROWSEL_DIE) 0 (v.toNat % 4 + 4 * bitsOf v.toNat 7 2)).mapOk = true) ∧
    (∃ (v : Word32) (s : State), s.rd Reg.MN_FAB_ROWSEL_PROW = 47 ∧ v.toNat % 4 = 1 ∧ bitsOf v.toNat 7 2 = 31 ∧
      (s.badCols (s.rd Reg.MN_FAB_ROWSEL_DIE) (s.rd Reg.MN_FAB_ROWSEL_PROW)).contains 32 = false ∧ s.fab.staged = [] ∧
      s.rowMode (s.rd Reg.MN_FAB_ROWSEL_DIE) (s.rd Reg.MN_FAB_ROWSEL_PROW) = 0 ∧ s.phase = phIdle) ∧
    (∃ (v : Word32) (s : State), s.rd Reg.MN_FAB_ROWSEL_PROW = 0 ∧ v.toNat % 4 = 1 ∧ bitsOf v.toNat 7 2 = 32) ∧
    (∃ (v : Word32) (s : State), s.rd Reg.MN_FAB_ROWSEL_PROW = 0 ∧ v.toNat % 4 = 1 ∧ bitsOf v.toNat 7 2 = 0 ∧
      (s.badCols (s.rd Reg.MN_FAB_ROWSEL_DIE) (s.rd Reg.MN_FAB_ROWSEL_PROW)).contains 32 = false ∧ s.fab.staged = [] ∧
      s.rowMode (s.rd Reg.MN_FAB_ROWSEL_DIE) (s.rd Reg.MN_FAB_ROWSEL_PROW) = 0 ∧ s.phase = phHem ∧ s.on Reg.TK_STAT_LAST_COMMIT = false) ∧
    (∃ (v : Word32) (s : State), s.rd Reg.MN_FAB_ROWSEL_PROW = 0 ∧ v.toNat % 4 = 1 ∧ bitsOf v.toNat 7 2 = 0 ∧ s.fab.staged = [] ∧
      (s.badCols (s.rd Reg.MN_FAB_ROWSEL_DIE) (s.rd Reg.MN_FAB_ROWSEL_PROW)).contains 32 = false ∧
      s.rowMode (s.rd Reg.MN_FAB_ROWSEL_DIE) (s.rd Reg.MN_FAB_ROWSEL_PROW) = 0 ∧ s.phase = phHem ∧ s.on Reg.TK_STAT_LAST_COMMIT = true) ∧
    (∃ (v : Word32) (s : State), s.rd Reg.MN_FAB_ROWSEL_PROW = 0 ∧ v.toNat % 4 = 2 ∧ s.fab.staged = [] ∧ s.phase = phIdle ∧
      s.jobState = jbEmpty) ∧
    (∃ (v : Word32) (s : State), s.rd Reg.MN_FAB_ROWSEL_PROW = 0 ∧ v.toNat % 4 = 0 ∧ s.fab.staged = [] ∧ s.phase ≠ phIdle) := by
  let d : List Byte := List.replicate 16 7
  let a (n : Nat) := pkt { kind := pkAdd, cnt := n } d
  let ro := cfgOf []
  refine ⟨⟨a 127, a 128, rg [(Reg.MN_FAB_CTL_MERGE_EN, 1)]
      { fab := { merges := (List.range 15).map (fun i => ⟨0, i, []⟩) } }, by decide +kernel⟩,
    fun on h => ⟨a 127, a (128 + on), rg [(Reg.MN_FAB_CTL_MERGE_EN, on)] {}, by revert on; decide +kernel⟩,
    ⟨⟨1, none, [], [], none⟩, a 1, {}, by decide +kernel⟩,
    ⟨relayed pkMsg 0 6143, relayWord 0 6143 9 5 false, {}, by unfold Relays; decide +kernel⟩,
    ⟨relayed pkRdreq 0 6144, relayWord 0 6144 9 5 false, {}, by unfold Relays; decide +kernel⟩,
    fun st h => ⟨relayed pkRdreq 1 5, relayWord 1 5 9 5 false, lkS 0 st { host := { cfg := some ro } }, 0,
      by revert st; unfold Relays; decide +kernel⟩,
    ⟨relayed pkRdreq 1 5, relayWord 1 5 9 5 false, { host := { cfg := some { ro with routes := [63, 18] } } }, 18,
      by unfold Relays; decide +kernel⟩,
    ⟨relayed pkRdreq 1 5, relayWord 1 5 9 5 false, {}, by unfold Relays; decide +kernel⟩,
    ⟨relayed pkThimble 1 5, relayWord 1 5 9 5 false, rg [(Reg.BB_CTL_REMOTE_EN, 0)] {}, by unfold Relays; decide +kernel⟩,
    ⟨relayed pkRdreq 1 5, { out := [.packet (relayed pkRdreq 2 5), .packet (relayed pkRdreq 1 5)] }, by decide +kernel⟩,
    ⟨⟨1, none, [], [], none⟩, ({} : State).modLink 0 (fun l => { l with rxPkts := [⟨1, none, [], [], none⟩] }), by decide +kernel⟩,
    ⟨rg [(Reg.MN_FAB_ROWSEL_PROW, 48)] {}, by decide⟩,
    ⟨1, { fab := { rows := [(1, 2)] } }, by decide +kernel⟩, ⟨0, {}, by decide +kernel⟩,
    ⟨125, rg [(Reg.MN_FAB_ROWSEL_PROW, 47)] {}, by decide +kernel⟩, ⟨129, {}, by decide +kernel⟩,
    ⟨1, phaseS phHem {}, by decide +kernel⟩, ⟨1, rg [(Reg.TK_STAT_PHASE, phHem), (Reg.TK_STAT_LAST_COMMIT, 1)] {}, by decide +kernel⟩, ⟨2, {}, by decide +kernel⟩, ⟨0, phaseS phHem {}, by decide +kernel⟩⟩

/-- Four spools of which spool `k` is `x`. -/
def spoolAtK (k : Nat) (x : SpoolSt) : List SpoolSt := modNth [{}, {}, {}, {}] k (fun _ => x)

/-- A word of 64 equal bytes. -/
def spw (b : Byte) (last : Bool) : SpoolWord := ⟨List.replicate 64 b, last, []⟩

theorem witness_SpoolInstructionsMoveWords :
    (∃ (iw : Word64) (s : State), Issues s 0 iw 0 ∧ rowOf iw 5 0 = true ∧ opIllegal iw 0 = false ∧ wFormOk iw = true ∧
      iwBits iw 31 17 = 0 ∧ spoolFault (s.tile 0) iw 2 3 = none ∧ (s.tile 0).spools.length = 4 ∧
      ((s.tile 0).spool (iwObj iw)).stopped = false ∧ ((s.tile 0).spool (iwObj iw)).done = 0 ∧
      ((s.tile 0).spool (iwObj iw)).room s.now = spoolN iw ∧ ((s.tile 0).spool (iwObj iw)).credit = 1) ∧
    (∃ (iw : Word64) (s : State), Issues s 0 iw 0 ∧ rowOf iw 5 0 = true ∧ opIllegal iw 0 = false ∧ wFormOk iw = true ∧
      iwBits iw 31 17 = 0 ∧ spoolFault (s.tile 0) iw 2 3 = none ∧ (s.tile 0).spools.length = 4 ∧
      ((s.tile 0).spool (iwObj iw)).stopped = false ∧ ((s.tile 0).spool (iwObj iw)).done = 0 ∧
      ((s.tile 0).spool (iwObj iw)).credit = 0 ∧ ((s.tile 0).spool (iwObj iw)).goneAt ≠ s.now ∧
      ((s.tile 0).spool (iwObj iw)).words.length + spoolN iw = 33 ∧
      (s.tile 0).blocked = none) ∧
    (∃ (iw : Word64) (s : State), Issues s 0 iw 0 ∧ rowOf iw 5 0 = true ∧ opIllegal iw 0 = false ∧ wFormOk iw = true ∧
      iwBits iw 31 17 = 0 ∧ spoolFault (s.tile 0) iw 2 3 = none ∧ (s.tile 0).spools.length = 4 ∧
      ((s.tile 0).spool (iwObj iw)).stopped = true) ∧
    (∀ x ∈ [some 2, some 1, none], ∃ (iw : Word64) (s : State), Issues s 0 iw 0 ∧ rowOf iw 5 1 = true ∧ opIllegal iw 1 = false ∧
      wFormOk iw = true ∧ iwBits iw 31 16 = 0 ∧ spoolFault (s.tile 0) iw 0 1 = none ∧ (s.tile 0).spools.length = 4 ∧
      spoolN iw = 2 ∧ (s.tile 0).blocked = none ∧ ((s.tile 0).spool (iwObj iw)).stopped = x.isNone ∧
      x.all (fun n => (((s.tile 0).spool (iwObj iw)).seen s.now).length == n) = true) ∧
    (∀ x ∈ [some true, some false, none], ∃ (iw : Word64) (s : State), Issues s 0 iw 0 ∧ rowOf iw 5 2 = true ∧
      opIllegal iw 2 = false ∧ wFormOk iw = true ∧ iwBits iw 31 16 = 0 ∧ spoolDirFault iw 0 3 = none ∧ (s.tile 0).blocked = none ∧
      ((s.tile 0).spool (iwObj iw)).stopped = x.isNone ∧ x.all (fun b => (s.tile 0).spoolReady s.now iw == b) = true) := by
  let pu (n : Nat) := word 5 0 (1 * 2 ^ 40 + 3 * 2 ^ 32 + 2 ^ 16 + n)
  let po := word 5 1 (1 * 2 ^ 40 + 1 * 2 ^ 32 + 2)
  let wt := word 5 2 (7 * 2 ^ 45 + 1)
  refine ⟨⟨pu 31, tl (fetching (pu 31) { g := [(1, 64)], spools := spoolAtK 3 { stopped := false, credit := 1, words := [spw 1 false] } }),
      issues_of (by decide), by decide⟩,
    ⟨pu 32, { tl (fetching (pu 32) { g := [(1, 64)], spools := spoolAtK 3 { stopped := false, words := [spw 1 false] } }) with now := 1 },
      issues_of (by decide), by decide⟩,
    ⟨pu 1, tl (fetching (pu 1) { g := [(1, 196544)] }), issues_of (by decide), by decide⟩, ?_, ?_⟩
  · intro x hx
    simp only [List.mem_cons, List.not_mem_nil, or_false] at hx
    obtain rfl | rfl | rfl := hx
    · exact ⟨po, tl (fetching po { g := [(1, 64)], spools := spoolAtK 1 { stopped := false, words := [spw 1 false, spw 2 true] } }),
        issues_of (by decide), by decide⟩
    · exact ⟨po, tl (fetching po { g := [(1, 64)], spools := spoolAtK 1 { stopped := false, words := [spw 1 false] } }),
        issues_of (by decide), by decide⟩
    · exact ⟨po, tl (fetching po { g := [(1, 64)] }),
        issues_of (by decide), by decide⟩
  · intro x hx
    simp only [List.mem_cons, List.not_mem_nil, or_false] at hx
    obtain rfl | rfl | rfl := hx
    · exact ⟨wt, tl (fetching wt { spools := spoolAtK 0 { stopped := false, words := [spw 2 true] } }),
        issues_of (by decide), by decide⟩
    · exact ⟨wt, tl (fetching wt { spools := spoolAtK 0 { stopped := false, words := [spw 2 false] } }),
        issues_of (by decide), by decide⟩
    · exact ⟨wt, tl (fetching wt {}),
        issues_of (by decide), by decide⟩

/-- A spool packet of a sub-kind for spool 1, from tile 0, with a number of words. -/
def spk (dest sub n : Nat) : Pkt :=
  pkt { kind := pkSpool, dest := dest, tag := 1, sub := sub, cnt := 2, len := 4 * n - 1 } (List.replicate (64 * n) 5)

/-- A tile that waits in an SPOP of two words of its spool 1. -/
def popS (ws : List SpoolWord) : State :=
  tl { mode := .wait, blocked := some (word 5 1 (1 * 2 ^ 32 + 2)), spools := spoolAtK 1 { stopped := false, words := ws } }
theorem witness_SpoolPacketsArrive :
    (∀ sub ∈ [0, 1, 2, 3], ∃ (q : Pkt) (s : State), pkChecks q = true ∧ pkKind q = pkSpool ∧ s.inOrder (soundPkt q) = true ∧ pkDest q ≠ mCode 0 ∧ pkDest q ≠ mCode 1 ∧
      s.physOf (pkDest q) = some 0 ∧ (s.tile 0).spools.length = 4 ∧ (s.tile 0).blocked = none ∧ pkSub q = sub ∧
      (sub ≤ 1 → spoolSized q = true) ∧ (2 ≤ sub → q.data = [])) ∧
    (∃ (q : Pkt) (s : State) (iw : Word64), pkChecks q = true ∧ pkKind q = pkSpool ∧ s.inOrder (soundPkt q) = true ∧ pkDest q ≠ mCode 0 ∧ pkDest q ≠ mCode 1 ∧
      s.physOf (pkDest q) = some 0 ∧ (s.tile 0).spools.length = 4 ∧ (s.tile 0).blocked = some iw ∧ (s.tile 0).mode = .wait ∧
      iwClass iw = 5 ∧ iwObj iw = pkTag q % 4 ∧ pkSub q ≤ 1 ∧ spoolSized q = true ∧ iwOp iw = 1 ∧
      ((s.tile 0).spool (pkTag q % 4)).words = [] ∧ ((s.tile 0).spool (pkTag q % 4)).stopped = false ∧
      spoolN iw = (pktWords q).length) ∧
    (∃ (q : Pkt) (s : State) (iw : Word64), pkChecks q = true ∧ pkKind q = pkSpool ∧ s.inOrder (soundPkt q) = true ∧ pkDest q ≠ mCode 0 ∧ pkDest q ≠ mCode 1 ∧
      s.physOf (pkDest q) = some 0 ∧ (s.tile 0).spools.length = 4 ∧ (s.tile 0).blocked = some iw ∧ (s.tile 0).mode = .wait ∧
      iwClass iw = 5 ∧ iwObj iw = pkTag q % 4 ∧ pkSub q = spStop ∧ q.data = []) ∧
    (∀ sub ∈ [0, 1, 2, 3], ∃ (q : Pkt) (s : State), pkChecks q = true ∧ pkKind q = pkSpool ∧ s.inOrder (soundPkt q) = true ∧ pkDest q = mCode 1 ∧ pkSub q = sub ∧
      (sub ≤ 1 → spoolSized q = true) ∧ (2 ≤ sub → q.data = []) ∧ (s.stream (pkSrc q) (pkTag q % 4)).state ≠ 0) ∧
    (∀ sub ∈ [0, 2], ∃ (q : Pkt) (s : State), pkChecks q = true ∧ pkKind q = pkSpool ∧ s.inOrder (soundPkt q) = true ∧
      pkDest q = mCode 0 ∧ pkSub q = sub ∧ (sub ≤ 1 → spoolSized q = true) ∧ (2 ≤ sub → q.data = []) ∧
      (s.stream (pkSrc q) (pkTag q % 4)).state = 0) ∧
    (∀ sub ∈ [1, 2, 3], ∃ (q : Pkt) (s : State), pkChecks q = true ∧ pkKind q = pkSpool ∧ s.inOrder (soundPkt q) = false ∧
      (s.physOf (pkDest q)).isSome = true ∧ pkSub q = sub ∧ (sub ≤ 1 → spoolSized q = true) ∧ (2 ≤ sub → q.data = [])) ∧
    (∃ q : Pkt, pkChecks q = false) ∧
    (∀ n ∈ [1, 2], ∃ (s : State) (iw : Word64), s.fab.wakes = [(0, 1)] ∧ (s.tile 0).spools.length = 4 ∧
      (s.tile 0).blocked = some iw ∧ (s.tile 0).mode = .wait ∧ (s.tile 0).Quiet s.now ∧ iwClass iw = 5 ∧ iwOp iw = 1 ∧
      iwObj iw = 1 ∧ ((s.tile 0).spool 1).stopped = false ∧ (((s.tile 0).spool 1).seen s.now).length = n ∧ spoolN iw = 2) := by
  refine ⟨?_, ⟨spk 0 1 4, tl { mode := .wait, blocked := some (word 5 1 (1 * 2 ^ 32 + 4)), spools := spoolAtK 1 { stopped := false } },
      word 5 1 (1 * 2 ^ 32 + 4), by decide +kernel⟩,
    ⟨spk 0 3 0, tl { mode := .wait, blocked := some (word 5 1 (1 * 2 ^ 32 + 4)) }, word 5 1 (1 * 2 ^ 32 + 4), by decide +kernel⟩, ?_,
    fun sub h => ⟨spk 0x1800 sub (if sub ≤ 1 then 1 else 0), {}, by revert sub; decide +kernel⟩,
    fun sub h => ⟨spk 0 sub (if sub ≤ 1 then 4 else 0),
      { out := [.packet (spk 0 0 1), .packet (spk 0 sub (if sub ≤ 1 then 4 else 0))] }, by revert sub; decide +kernel⟩,
    ⟨⟨1, none, [], [], none⟩, by decide +kernel⟩,
    fun n h => ⟨{ (popS (List.replicate n (spw 1 false))) with fab := { wakes := [(0, 1)] }, now := 1 }, word 5 1 (1 * 2 ^ 32 + 2), rfl, rfl, rfl, rfl, quiet_of ⟨rfl, rfl, rfl, rfl⟩,
      by revert n; decide⟩⟩
  · intro sub hs
    simp only [List.mem_cons, List.not_mem_nil, or_false] at hs
    obtain rfl | rfl | rfl | rfl := hs
    · exact ⟨spk 0 0 1, {}, by decide +kernel⟩
    · exact ⟨spk 0 1 4, {}, by decide +kernel⟩
    · exact ⟨spk 0 2 0, {}, by decide +kernel⟩
    · exact ⟨spk 0 3 0, {}, by decide +kernel⟩
  · intro sub hs
    simp only [List.mem_cons, List.not_mem_nil, or_false] at hs
    obtain rfl | rfl | rfl | rfl := hs
    · exact ⟨spk 0x1801 0 1, { streams := [(spoolKey 0 1, { state := 1 })] }, by decide +kernel⟩
    · exact ⟨spk 0x1801 1 4, { streams := [(spoolKey 0 1, { state := 1 })] }, by decide +kernel⟩
    · exact ⟨spk 0x1801 2 0, { streams := [(spoolKey 0 1, { state := 1 })] }, by decide +kernel⟩
    · exact ⟨spk 0x1801 3 0, { streams := [(spoolKey 0 1, { state := 1 })] }, by decide +kernel⟩

/-- A clean access. -/
def env0 : MemEnv := ⟨[], [], [], true⟩

/-- A state with a descriptor at address 0 of GDDR7, at which the stream of spool `k` of tile 0 stands; slot 0 has one page
and one token. -/
def streamS (k : Nat) (d : List Word64) (y : StreamSt) : State :=
  { mem := Memory.writeN [] 0 (d.flatMap (fun w => natLe w.toNat 8)), streams := [(spoolKey 0 k, { y with state := 1 })],
    seqs := [(0, { w0 := BitVec.ofNat 64 (1 + 2 ^ 8 + 2 ^ 20 + 2 ^ 44), w1 := 4096 })] }

/-- The next descriptor of a stream, where nothing goes wrong. -/
theorem descriptor_of {s : State} {env : MemEnv} {t k : Nat} {d : List Word64}
    (h : ((s.stream t k).state = 1 ∧ (s.stream t k).desc = [] ∧ s.words4 ((s.stream t k).base + 32 * (s.stream t k).idx) = d ∧
        (s.stream t k).m < 2) ∧ env.errs = [] ∧ s.poison = [] ∧ ∀ x ∈ s.mdies, x.zero = []) : Descriptor s env t k d :=
  ⟨h.1.1, h.1.2.1, h.1.2.2.1, ⟨h.2.1, h.2.2.1, h.2.2.2⟩, h.1.2.2.2⟩

/-- A descriptor of one row of one word of GDDR7, with an operation and other bits of its first word, and one of a page. -/
def rdD (b : Nat) : List Word64 := [BitVec.ofNat 64 b, 64, 0x10001, 0]
def pgD (b : Nat) : List Word64 := [BitVec.ofNat 64 b, 0, 1, 0x1000000]

set_option maxRecDepth 100000 in
theorem witness_DescriptorStreamsRun :
    ((∃ s : State, (s.stream 0 1).state ≠ 1) ∧
      (∃ s : State, (s.stream 0 1).desc ≠ [] ∧ dOp (s.stream 0 1).desc ≠ opRd) ∧
      (∃ (s : State) (d : List Word64), Descriptor s env0 0 1 d ∧ dOp d ≠ opEnd ∧ dOp d ∈ [opRd, opRdp, opWr, opWrp, opMark, opEnd]) ∧
      (∃ (s : State) (d : List Word64), Descriptor s env0 0 1 d ∧ dOp d ∉ [opRd, opRdp, opWr, opWrp, opMark, opEnd])) ∧
    (∀ op ∈ [opRd, opRdp, opWr, opWrp, opMark, opEnd], ∃ (s : State) (d : List Word64), Descriptor s env0 0 1 d ∧ dOp d = op ∧
      s.descCode (s.stream 0 1).m d = 1 ∧ s.on (Reg.SP_ERR_VALID (s.stream 0 1).m) = false) ∧
    (∃ (s : State) (d : List Word64), Descriptor s env0 0 1 d ∧ dOp d = opRd ∧ s.descCode (s.stream 0 1).m d = 2) ∧
    (∀ k ∈ [1, 3], ∃ (s : State) (d : List Word64), Descriptor s env0 0 k d ∧ (dOp d = opWr ↔ k = 1) ∧ (dOp d = opRd ↔ k = 3) ∧
      s.descCode (s.stream 0 k).m d = 0) ∧
    (∀ op ∈ [opRd, opRdp, opMark, opEnd], ∃ (s : State) (d : List Word64), Descriptor s env0 0 1 d ∧ dOp d = op ∧
      s.descCode (s.stream 0 1).m d = 0 ∧ dTgt d = 0) ∧
    (∀ ok ∈ [true, false], ∃ (s : State) (d : List Word64), Descriptor s { env0 with extOk := ok } 0 1 d ∧ dOp d = opRd ∧
      s.descCode (s.stream 0 1).m d = 0 ∧ dTgt d ≠ 0 ∧ s.extRefused d { env0 with extOk := ok } = !ok) ∧
    (∃ (s : State) (d : List Word64), Descriptor s env0 0 3 d ∧ s.descCode (s.stream 0 3).m d = 0 ∧ dOp d = opWr ∧ dTgt d = 0 ∧
      dCmp d = false ∧ dRows d = 1 ∧ (s.stream 0 3).tails = [] ∧ (s.stream 0 3).landing.length = dWords d ∧
      (∀ w ∈ (s.stream 0 3).landing, w.data.length = 64 ∧ w.bad = []) ∧
      (∀ i w, (s.stream 0 3).landing[i]? = some w → w.last = (i + 1 == dWords d)) ∧ (∀ h ∈ s.harvest, h.banked = [])) ∧
    (∃ (s : State) (d : List Word64) (w : SpoolWord), Descriptor s env0 0 3 d ∧ s.descCode (s.stream 0 3).m d = 0 ∧ dOp d = opWrp ∧
      dCount d = 1 ∧ dWords d = 1 ∧ (s.stream 0 3).tails = [] ∧ (∀ h ∈ s.harvest, h.banked = []) ∧
      (s.stream 0 3).landing = [w] ∧ w.data.length = 64 ∧ w.bad = [] ∧ w.last = true) ∧
    ((∃ s : State, (s.stream 0 3).state = 1 ∧ s.descDone (s.stream 0 3) = true ∧ dOp (s.stream 0 3).desc = opWrp) ∧
      (∃ s : State, (s.stream 0 3).state = 1 ∧ s.descDone (s.stream 0 3) = false)) ∧
    (∀ tgt ∈ [0, 1], ∀ e ∈ [0, 1], ∃ s : State, (s.stream 0 3).state = 1 ∧ (s.stream 0 3).tails ≠ [] ∧ s.mdies.length = 2 ∧
      (s.stream 0 3).m < 2 ∧ (s.stream 0 3).last + s.staleNs (s.stream 0 3).m + e = s.now ∧ dTgt (s.stream 0 3).desc = tgt ∧
      (∀ x ∈ (s.stream 0 3).tails, x.bad = []) ∧ s.poison = [] ∧ (∀ x ∈ s.mdies, x.zero = [])) ∧
    (∀ e ∈ [0, 1], ∃ s : State, s.physOf 0 = some 0 ∧ ((s.tile 0).spool 1).words ≠ [] ∧ (s.tile 0).spools.length = 4 ∧
      s.mdies.length = 2 ∧ (s.stream 0 1).m < 2 ∧ ((s.tile 0).spool 1).counted = false ∧
      ((s.tile 0).spool 1).last + s.staleNs (s.stream 0 1).m = s.now + e) := by
  refine ⟨⟨⟨{}, by decide⟩, ⟨streamS 1 [] { desc := rdD opEnd }, by decide⟩,
      ⟨streamS 1 (rdD opRd) {}, rdD opRd, descriptor_of (by decide +kernel), by decide⟩,
      ⟨streamS 1 (rdD 2) {}, rdD 2, descriptor_of (by decide +kernel), by decide⟩⟩, ?_,
    ⟨streamS 1 [0, 65, 0x10001, 0] {}, [0, 65, 0x10001, 0], descriptor_of (by decide +kernel), by decide +kernel⟩, ?_, ?_, ?_,
    ⟨streamS 3 [4, 64, 0x10002, 0] { landing := [spw 1 false, spw 2 true] }, [4, 64, 0x10002, 0], descriptor_of (by decide +kernel),
      by decide +kernel, by decide, by decide, by decide, by decide, by decide, by decide, by decide, ?_, by decide⟩,
    ⟨streamS 3 (pgD 5) { landing := [spw 1 true] }, pgD 5, spw 1 true, descriptor_of (by decide +kernel), by decide +kernel⟩,
    ⟨⟨streamS 3 [] { desc := pgD 5, pos := 1 }, by decide +kernel⟩, ⟨streamS 3 [] {}, by decide +kernel⟩⟩, ?_, ?_⟩
  · intro op ho
    simp only [List.mem_cons, List.not_mem_nil, or_false] at ho
    refine ⟨streamS 1 (rdD (op + 2 ^ 28)) {}, rdD (op + 2 ^ 28), ?_⟩
    obtain rfl | rfl | rfl | rfl | rfl | rfl := ho <;> exact ⟨descriptor_of (by decide +kernel), by decide +kernel⟩
  · intro k hk
    simp only [List.mem_cons, List.not_mem_nil, or_false] at hk
    refine ⟨streamS k (rdD (if k = 1 then opWr else opRd)) {}, rdD (if k = 1 then opWr else opRd), ?_⟩
    obtain rfl | rfl := hk <;> exact ⟨descriptor_of (by decide +kernel), by decide +kernel⟩
  · intro op ho
    simp only [List.mem_cons, List.not_mem_nil, or_false] at ho
    refine ⟨streamS 1 (if op = opRdp then pgD op else rdD op) {}, if op = opRdp then pgD op else rdD op, ?_⟩
    obtain rfl | rfl | rfl | rfl := ho <;> exact ⟨descriptor_of (by decide +kernel), by decide +kernel⟩
  · intro ok ho
    refine ⟨streamS 1 (rdD (2 ^ 4)) {}, rdD (2 ^ 4), ?_⟩
    cases ok <;> exact ⟨descriptor_of (by decide +kernel), by decide +kernel⟩
  · intro i w h
    rcases i with _ | _ | i
    · cases h; decide
    · cases h; decide
    · cases h
  · intro tgt ht e he
    refine ⟨{ streamS 3 [] { desc := rdD (4 + tgt * 2 ^ 4), tails := [⟨64, [1], [], 1⟩] } with now := State.staleNs {} 0 + e }, ?_⟩
    revert tgt e; decide +kernel
  · intro e he
    refine ⟨{ tl { spools := spoolAtK 1 { words := [spw 1 true] } } with now := State.staleNs {} 0 - e }, ?_⟩
    revert e; decide +kernel

theorem witness_DeviceMemoryAccessesAreChecked :
    (∃ (off : Nat) (size : Fin 8) (data : List Byte) (s : State), inBar2 off data.length size = true ∧ s.ideDrops .host = false ∧
      s.bar2Addr off size + data.length = fwRegion ∧ CleanMem s env0) ∧
    (∃ (off : Nat) (size : Fin 8) (data : List Byte) (s : State), inBar2 off data.length size = true ∧ s.ideDrops .host = false ∧
      s.bar2Addr off size < memLimit ∧ s.bar2Addr off size + data.length = fwRegion + 1 ∧ data ≠ []) ∧
    (∃ (off : Nat) (size : Fin 8) (s : State), inBar2 off 1 size = true ∧ s.ideDrops .host = false ∧ s.bar2Addr off size = memLimit) ∧
    (∃ (off len : Nat) (size : Fin 8) (s : State), inBar2 off len size = true ∧ s.ideDrops .host = true ∧ 0 < len ∧
      s.on Reg.BI_XARM_DONE = true ∧ s.test.dropAt = some 1 ∧ s.now = 20) ∧
    (∃ (off len : Nat) (size : Fin 8), inBar2 off len size = false ∧ off + len = 2 ^ (30 + size.val) + 1) ∧
    (∃ (addr : Nat) (data : List Byte), addr % 64 = 0 ∧ inHalf 1 addr data.length = true ∧ addr + data.length = halfBase 1 + halfBytes) ∧
    ((∃ addr len : Nat, addr % 64 = 0 ∧ inHalf 1 addr len = false) ∧ (∃ s : State, s.on (Reg.SP_ERR_VALID 1) = false)) ∧
    (∃ (b : Nat) (env : MemEnv) (s : State), s.on (Reg.MM_CTL_PATROL_EN 1) = true ∧ inHalf 1 (b * 256) 256 = true ∧
      s.on (Reg.MM_ERR_HI_VALID 1) = false ∧ (s.readBlock env 1 b).found = none) ∧
    (∀ bad ∈ [true, false], ∃ (b : Nat) (env : MemEnv) (s : State), s.on (Reg.MM_CTL_PATROL_EN 1) = true ∧
      inHalf 1 (b * 256) 256 = true ∧ (s.readBlock env 1 b).found.map Prod.snd = some bad ∧ (s.readBlock env 1 b).failed ≠ 0) ∧
    (∃ s : State, s.on (Reg.MM_CTL_PATROL_EN 1) = false) ∧ (∃ b : Nat, inHalf 1 (b * 256) 256 = false) ∧
    (∃ s : State, s.on (Reg.MM_ZCTL_BUSY 1) = false ∧ s.rd (Reg.MM_ZBASE_PAGES 1) + s.rd (Reg.MM_ZLEN_PAGES 1) = 1032192 ∧
      0 < s.rd (Reg.MM_ZLEN_PAGES 1)) ∧
    (∃ s : State, s.on (Reg.MM_ZCTL_BUSY 1) = false ∧ s.rd (Reg.MM_ZBASE_PAGES 1) + s.rd (Reg.MM_ZLEN_PAGES 1) = 1032193) ∧
    (∃ s : State, s.on (Reg.MM_ZCTL_BUSY 1) = true) :=
  ⟨⟨fwRegion - 2, 7, [1, 2], {}, by decide +kernel, by decide +kernel, by decide +kernel, rfl, rfl, by decide⟩,
    ⟨fwRegion - 1, 7, [1, 2], {}, by decide +kernel⟩, ⟨memLimit, 7, {}, by decide +kernel⟩,
    ⟨5, 1, 0, rg [(Reg.BI_XARM_DONE, 1)] { now := 20, host := { features := 16 }, test := { dropAt := some 1 } }, by decide +kernel⟩, ⟨2 ^ 31, 1, 1, by decide⟩,
    ⟨halfBase 1 + halfBytes - 64, List.replicate 64 1, by decide +kernel⟩, ⟨⟨0, 64, by decide +kernel⟩, ⟨{}, by decide⟩⟩,
    ⟨halfBase 1 / 256, { env0 with errs := [⟨halfBase 1 / 256, false, List.replicate 4 ⟨1000, []⟩⟩] },
      rg [(Reg.MM_CTL_PATROL_EN 1, 1)] {}, by decide +kernel⟩,
    fun bad h => ⟨halfBase 1 / 256, { env0 with errs := [⟨halfBase 1 / 256, false, [⟨1000, []⟩]⟩] },
      rg [(Reg.MM_CTL_PATROL_EN 1, 1)] { poison := if bad then [halfBase 1 / 256] else [] }, by revert bad; decide +kernel⟩,
    ⟨rg [(Reg.MM_CTL_PATROL_EN 1, 0)] {}, by decide +kernel⟩, ⟨0, by decide +kernel⟩,
    ⟨rg [(Reg.MM_ZBASE_PAGES 1, 1032191), (Reg.MM_ZLEN_PAGES 1, 1)] {}, by decide +kernel⟩,
    ⟨rg [(Reg.MM_ZBASE_PAGES 1, 1032191), (Reg.MM_ZLEN_PAGES 1, 2)] {}, by decide +kernel⟩,
    ⟨rg [(Reg.MM_ZCTL_BUSY 1, 1)] {}, by decide +kernel⟩⟩

theorem witness_SequenceSlotCommandsApply :
    (∃ s : State, s.mdies.length = 2 ∧ (s.rd (Reg.SQ_SEL_SLOT 0)) = 2047 ∧ s.phase = phIdle ∧ s.rd (Reg.SQ_ENT_VALUE 0 0) < 2 ^ 32) ∧
    (∀ n ∈ [255, 256], ∃ s : State, s.mdies.length = 2 ∧ (s.rd (Reg.SQ_SEL_SLOT 1)) / 2048 = 1 ∧ s.phase ≠ phIdle ∧
      (nth s.mdies 1 {}).waiting.length = n) ∧
    (∃ s : State, s.mdies.length = 2 ∧ (s.rd (Reg.SQ_SEL_SLOT 0)) = 2048) ∧
    (∃ (s : State) (a b : SeqCmd), s.mdies.length = 2 ∧ (nth s.mdies 1 {}).waiting = [a, b] ∧ a.slot = b.slot ∧ b.cmd = 1) := by
  refine ⟨⟨rg [(Reg.SQ_SEL_SLOT 0, 2047)] {}, by decide⟩, ?_, ⟨rg [(Reg.SQ_SEL_SLOT 0, 2048)] {}, by decide⟩,
    ⟨{ mdies := [{}, { waiting := [⟨2, 5, {}⟩, ⟨1, 5, {}⟩] }] }, ⟨2, 5, {}⟩, ⟨1, 5, {}⟩, by decide⟩⟩
  intro n hn
  simp only [List.mem_cons, List.not_mem_nil, or_false] at hn
  obtain rfl | rfl := hn
  · exact ⟨rg [(Reg.SQ_SEL_SLOT 1, 2048)] (phaseS phHem { mdies := [{}, { waiting := List.replicate 255 ⟨2, 5, {}⟩ }] }), by decide +kernel⟩
  · exact ⟨rg [(Reg.SQ_SEL_SLOT 1, 2048)] (phaseS phHem { mdies := [{}, { waiting := List.replicate 256 ⟨2, 5, {}⟩ }] }), by decide +kernel⟩

/-- A part of a pattern without records, with the CRC field `c`. -/
def partBytes (c : Nat) : List Byte := natLe (c * 2 ^ 64) 16

theorem witness_PatternPartsAreChecked :
    (∃ s : State, s.rd Reg.PT_STAT_LOADER = 0) ∧ (∃ s : State, s.rd Reg.PT_STAT_LOADER = 2) ∧
    (∃ (data : List Byte) (s : State), s.rd Reg.PT_STAT_LOADER = 1 ∧ s.physOf 6143 ≠ none ∧ (parseHalf false data).1 = true ∧
      (parseHalf true data).1 = true ∧ (parseDesc data).1 = true ∧ s.seam.xhalfNext.length = 2 ∧ s.seam.routesNext.length = 2 ∧
      s.seam.failed = []) ∧
    (∃ (data : List Byte) (s : State), s.rd Reg.PT_STAT_LOADER = 3 ∧ s.physOf 6143 ≠ none ∧ (parseHalf false data).1 = false ∧
      (parseHalf true data).1 = false ∧ (parseDesc data).1 = false ∧ s.seam.reloaded.contains (partKey .desc) = false ∧
      s.seam.failed = []) ∧
    (∃ (data : List Byte) (s : State), s.rd Reg.PT_STAT_LOADER = 1 ∧ (parseDesc data).1 = false ∧
      s.seam.reloaded.contains (partKey .desc) = true ∧ s.on Reg.PT_ERR_VALID = false ∧
      s.seam.failed.contains (partKey .desc) = false) ∧
    (∃ s : State, s.seam.failed.contains (partKey .desc) = true) ∧
    (∃ (data : List Byte) (s : State), s.rd Reg.PT_STAT_LOADER = 3 ∧ (parseHalf true data).1 = false ∧
      s.seam.reloaded.contains (partKey (.xhalf 1)) = true ∧ s.on Reg.PT_ERR_VALID = true ∧ s.rd Reg.PT_ERR_CODE = 1 ∧
      partKey (.xhalf 1) < s.rd Reg.PT_ERR_WHERE ∧ s.rd Reg.PT_ERR_WHERE < 2 ^ Reg.PT_ERR_WHERE.width ∧
      s.seam.failed.contains (partKey (.xhalf 1)) = false) :=
  ⟨⟨{}, by decide⟩, ⟨rg [(Reg.PT_STAT_LOADER, 2)] {}, by decide⟩,
    ⟨partBytes (crc32c []), rg [(Reg.PT_STAT_LOADER, 1)] {}, by decide +kernel⟩,
    ⟨partBytes (crc32c [] + 1), rg [(Reg.PT_STAT_LOADER, 3)] {}, by decide +kernel⟩,
    ⟨[], rg [(Reg.PT_STAT_LOADER, 1)] { seam := { reloaded := [0x1FFF] } }, by decide +kernel⟩,
    ⟨{ seam := { failed := [0x1FFF] } }, by decide⟩,
    ⟨[], rg [(Reg.PT_STAT_LOADER, 3), (Reg.PT_ERR_VALID, 1), (Reg.PT_ERR_CODE, 1), (Reg.PT_ERR_WHERE, 0x1FFF)]
      { seam := { reloaded := [partKey (.xhalf 1), 0x1FFF], failed := [0x1FFF] } }, by decide +kernel⟩⟩

/-- A peer as the map of link 35 names it in the reset state. -/
def peer0 : AuthPeer := ⟨[], 0, 0, 0, []⟩

theorem witness_LinksTrainStageByStage :
    (∃ s : State, s.on (Reg.LK_CTL_LOCK 35) = false ∧ s.armed 35 = true ∧ s.lkState 35 = lkDown ∧ (s.link 35).retryAt = none) ∧
    (∃ (s : State) (lanes : List (Fin 4)), s.lkState 35 = lkPhy ∧ lanes.eraseDups.length = 3) ∧
    (∃ (s : State) (lanes : List (Fin 4)), s.lkState 35 = lkPhy ∧ lanes.eraseDups.length = 2 ∧ (s.link 35).tries = 7) ∧
    (∃ (s : State) (lanes : List (Fin 4)), s.lkState 35 = lkPhy ∧ lanes.eraseDups.length = 2 ∧ (s.link 35).tries = 6) ∧
    (∃ s : State, s.lkState 35 = lkLock) ∧
    (∃ (s : State) (p : AuthPeer), s.lkState 35 = lkAuth ∧ p.domain ≠ s.domainId) ∧
    (∀ b ∈ [true, false], ∃ (s : State) (p : AuthPeer), s.lkState 35 = lkAuth ∧ p.dev.toNat = s.rd (Reg.LK_MAP_PEER_DEV 35) ∧
      p.link.val = s.rd (Reg.LK_MAP_PEER_LINK 35) ∧ p.domain = s.domainId ∧ s.on (Reg.LK_CTL_AUTH_EN 35) = b) ∧
    (∃ (s : State) (p : AuthPeer), s.lkState 35 = lkAuth ∧ (s.link 35).peer = some p ∧ s.canAuth = false) ∧
    (∃ (s : State) (p : AuthPeer), s.lkState 35 = lkAuth ∧ (s.link 35).peer = some p ∧ s.canAuth = true) ∧
    (∃ s : State, s.lkState 35 = lkCal ∧ (s.link 35).lanes.length = 3) ∧
    (∃ s : State, (s.link 35).retryAt = some s.now ∧ s.lkState 35 = lkDown ∧ s.on (Reg.LK_CTL_EN 35) = true ∧ s.armed 35 = true) ∧
    (∃ s : State, (s.link 35).retryAt = some (s.now + 1)) ∧ (∃ s : State, s.lkState 35 = lkRetrain) ∧ (∃ s : State, s.lkState 35 = lkUp) ∧
    (∃ s : State, s.on (Reg.LK_CTL_LOCK 35) = true ∧ s.on (Reg.LK_CTL_EN 35) = true ∧ s.armed 35 = true ∧ s.lkState 35 = lkDown ∧
      (s.link 35).retryAt = none) ∧
    (∃ s : State, s.on (Reg.LK_CTL_LOCK 35) = true ∧ s.on (Reg.LK_CTL_EN 35) = false) ∧
    (∃ s : State, s.on (Reg.LK_CTL_LOCK 35) = false ∧ (s.link 35).retryAt ≠ none) ∧
    (∃ (s : State) (lanes : List (Fin 4)), s.lkState 35 = lkPhy ∧
      (lanes.eraseDups.filter (fun x => (s.link 35).spared != some x.val)).length = 3 ∧ lanes.length = 4) ∧
    (∃ s : State, s.lkState 35 = lkAuth ∧ (s.link 35).peer = none) ∧
    (∃ (s : State) (p : AuthPeer), s.lkState 35 = lkCal ∧ (s.link 35).peer = some p ∧ (s.link 35).lanes.length = 4) ∧
    (∃ s : State, (s.link 35).retryAt = some s.now ∧ s.lkState 35 = lkDown ∧ s.on (Reg.LK_CTL_EN 35) = true ∧ s.armed 35 = false) := by
  refine ⟨⟨rg [(Reg.LK_XARM_DONE 35, 1)] {}, by decide⟩, ⟨lkS 35 lkPhy {}, [0, 2, 3, 2], by decide⟩,
    ⟨lkS 35 lkPhy { links := [(35, { tries := 7 })] }, [0, 2, 2], by decide⟩,
    ⟨lkS 35 lkPhy { links := [(35, { tries := 6 })] }, [0, 2, 2], by decide⟩, ⟨lkS 35 lkLock {}, by decide⟩,
    ⟨lkS 35 lkAuth {}, { peer0 with domain := 1 }, by decide⟩, ?_, ⟨lkS 35 lkAuth { links := [(35, { peer := some peer0 })] }, peer0, by decide⟩,
    ⟨lkS 35 lkAuth (rg [(Reg.SC_STAT_IDCERT_OK, 1)] { links := [(35, { peer := some peer0 })] }), peer0, by decide⟩,
    ⟨lkS 35 lkCal { links := [(35, { lanes := [0, 1, 3] })] }, by decide⟩,
    ⟨rg [(Reg.LK_XARM_DONE 35, 1), (Reg.LK_CTL_EN 35, 1)] { now := 9, links := [(35, { retryAt := some 9 })] }, by decide⟩,
    ⟨{ now := 9, links := [(35, { retryAt := some 10 })] }, by decide⟩, ⟨lkS 35 lkRetrain {}, by decide⟩, ⟨lkS 35 lkUp {}, by decide⟩,
    ⟨rg [(Reg.LK_XARM_DONE 35, 1), (Reg.LK_CTL_LOCK 35, 1), (Reg.LK_CTL_EN 35, 1)] {}, by decide⟩,
    ⟨rg [(Reg.LK_CTL_LOCK 35, 1)] {}, by decide⟩, ⟨{ links := [(35, { retryAt := some 9 })] }, by decide⟩,
    ⟨lkS 35 lkPhy { links := [(35, { spared := some 1 })] }, [0, 1, 2, 3], by decide⟩, ⟨lkS 35 lkAuth {}, by decide⟩,
    ⟨lkS 35 lkCal { links := [(35, { peer := some peer0, lanes := [0, 1, 2, 3] })] }, peer0, by decide⟩,
    ⟨rg [(Reg.LK_CTL_EN 35, 1), (Reg.LK_XARM_DONE 35, 0)] { now := 9, links := [(35, { retryAt := some 9 })] }, by decide⟩⟩
  intro b hb
  simp only [List.mem_cons, List.not_mem_nil, or_false] at hb
  obtain rfl | rfl := hb
  · exact ⟨lkS 35 lkAuth (rg [(Reg.LK_CTL_AUTH_EN 35, 1)] {}), peer0, by decide⟩
  · exact ⟨lkS 35 lkAuth (rg [(Reg.LK_CTL_AUTH_EN 35, 0)] {}), peer0, by decide⟩

theorem witness_LinksLeaveUpAndReturn :
    (∃ s : State, s.linkUp 35 = true) ∧ (∃ s : State, s.linkUp 35 = false) ∧
    (∃ (s : State) (lanes : List (Fin 4)), s.linkUp 35 = true ∧ (s.link 35).lanes.filter (fun l => lanes.contains l) = [3] ∧
      s.canSpare 35 = true) ∧
    (∃ (s : State) (lanes : List (Fin 4)), s.linkUp 35 = true ∧ (s.link 35).lanes.filter (fun l => lanes.contains l) = [3] ∧
      s.canSpare 35 = false) ∧
    (∃ (s : State) (lanes : List (Fin 4)), s.linkUp 35 = true ∧ (s.link 35).lanes.filter (fun l => lanes.contains l) = []) ∧
    (∃ (s : State) (e : LaneErrs), s.linkUp 35 = true ∧ s.canSpare 35 = true ∧
      nth e.toList 3 0 = 1024 * max 1 (s.rd (Reg.LK_CTL_SPARE_THR 35)) + 1 ∧
      (∀ j < 3, nth e.toList j 0 = 1024 * max 1 (s.rd (Reg.LK_CTL_SPARE_THR 35)))) ∧
    (∃ (s : State) (e : LaneErrs), ∀ j < 4, nth e.toList j 0 = 1024 * max 1 (s.rd (Reg.LK_CTL_SPARE_THR 35))) ∧
    (∃ s : State, s.lkState 35 = lkRetrain) ∧
    (∃ s : State, s.linkUp 35 = true ∧ s.budgetOver 35 = true) ∧ (∃ s : State, s.linkUp 35 = true ∧ s.budgetOver 35 = false) ∧
    (∃ s : State, s.phase = phIdle ∧ s.on (Reg.LK_CTL_EN 35) = true ∧ s.armed 35 = true) ∧ (∃ s : State, s.phase ≠ phIdle) ∧
    (∃ s : State, s.lkState 35 = lkDown) ∧
    (∃ s : State, (s.link 35).arming = true ∧ s.on (Reg.LK_CTL_EN 35) = true ∧ s.lkState 35 = lkDown ∧ (s.link 35).retryAt = none) ∧
    (∃ s : State, (s.link 35).arming = false) ∧
    (∃ (s : State) (lanes : List (Fin 4)), s.linkUp 35 = true ∧ ((s.link 35).lanes.filter (fun l => lanes.contains l)).length = 2 ∧
      s.canSpare 35 = true) ∧
    (∃ (s : State) (e : LaneErrs), s.linkUp 35 = true ∧ s.canSpare 35 = false ∧
      1024 * max 1 (s.rd (Reg.LK_CTL_SPARE_THR 35)) < nth e.toList 0 0) ∧
    (∃ s : State, s.phase = phIdle ∧ s.on (Reg.LK_CTL_EN 35) = true ∧ s.armed 35 = false) := by
  let four : State := { links := [(35, { lanes := [0, 1, 2, 3] })] }
  let spare : State := rg [(Reg.LK_CTL_SPARE_EN 35, 1)] (upS 35 four)
  exact ⟨⟨upS 35 {}, by decide⟩, ⟨{}, by decide⟩, ⟨spare, [3, 3], by decide⟩,
    ⟨rg [(Reg.LK_CTL_SPARE_EN 35, 0)] (upS 35 four), [3], by decide⟩, ⟨upS 35 four, [], by decide⟩,
    ⟨rg [(Reg.LK_CTL_SPARE_THR 35, 0)] spare, #v[1024, 1024, 1024, 1025], by decide⟩,
    ⟨rg [(Reg.LK_CTL_SPARE_THR 35, 0)] {}, #v[1024, 1024, 1024, 1024], by decide⟩, ⟨lkS 35 lkRetrain {}, by decide⟩,
    ⟨rg [(Reg.LK_BUDGET_RESENDS 35, 4), (Reg.LK_BUDGET_TIME 35, 4000)]
      (upS 35 { now := 3999, links := [(35, { budgets := [⟨false, 7, 4, 0, 0⟩] })] }), by decide⟩,
    ⟨rg [(Reg.LK_BUDGET_RESENDS 35, 4), (Reg.LK_BUDGET_TIME 35, 4000)]
      (upS 35 { now := 3999, links := [(35, { budgets := [⟨false, 7, 3, 0, 0⟩] })] }), by decide⟩,
    ⟨rg [(Reg.LK_XARM_DONE 35, 1), (Reg.LK_CTL_EN 35, 1)] {}, by decide⟩, ⟨phaseS phHem {}, by decide⟩, ⟨{}, by decide⟩,
    ⟨rg [(Reg.LK_CTL_EN 35, 1)] { links := [(35, { arming := true })] }, by decide⟩, ⟨{}, by decide⟩,
    ⟨spare, [3, 1], by decide⟩, ⟨rg [(Reg.LK_CTL_SPARE_EN 35, 0), (Reg.LK_CTL_SPARE_THR 35, 0)] (upS 35 four), #v[1025, 0, 0, 0], by decide⟩,
    ⟨rg [(Reg.LK_CTL_EN 35, 1), (Reg.LK_XARM_DONE 35, 0)] {}, by decide⟩⟩

/-- An engine M0 that runs and stands at the command `c` at address 0, with the tensor descriptor `d` of TID 0 at 0x1000, the
schedule at 0x3000, and pages 1 and 2 banked with TID 0. -/
def engineS (c d : List Word64) : State :=
  rg [(Reg.HV_TDESC_LO_VALUE 0, 0x1000), (Reg.HV_SCHED_LO_VALUE 0, 0x3000)]
    { mem := Memory.writeN (Memory.writeN [] 0 (c.flatMap (fun w => natLe w.toNat 8))) 0x1000 (d.flatMap (fun w => natLe w.toNat 8)),
      harvest := [{ state := 1, banked := [(1, 0), (2, 0)] }, {}] }

/-- A tensor descriptor: flags, then a shard of 1 × `cols`, weights in page 1, momentum and residues in page 2, the gradient
and `n` noise inputs at 0x2000. -/
def tdesc (flags cols n : Nat) : List Word64 :=
  [BitVec.ofNat 64 flags, BitVec.ofNat 64 (1 + cols * 2 ^ 32), 0x10000, 0x20000, 0, 0x2000, 0, 0x20000,
    BitVec.ofNat 64 (0x2000 + n * 2 ^ 40)] ++ List.replicate 7 0

/-- A command of four words. -/
def hcmd (w0 w1 w2 w3 : Nat) : List Word64 := [w0, w1, w2, w3].map (BitVec.ofNat 64)

set_option maxRecDepth 100000 in
theorem engineS_commanded (op : Nat) (h : op ∈ [1, 2, 3, 5, 6, 7, 13, 14]) (flags : Nat) (hf : flags ∈ [0, 2 ^ 14]) :
    Commanded (engineS (hcmd op 0 0 0) (tdesc flags 64 1)) env0 0 (hcmd op 0 0 0) ∧ cmdClean (hcmd op 0 0 0) = true ∧
      cOp (hcmd op 0 0 0) = op ∧ Described (engineS (hcmd op 0 0 0) (tdesc flags 64 1)) 0 0 (tdesc flags 64 1) := by
  simp only [List.mem_cons, List.not_mem_nil, or_false] at h hf
  obtain rfl | rfl | rfl | rfl | rfl | rfl | rfl | rfl := h <;> obtain rfl | rfl := hf <;>
    exact ⟨by constructor <;> decide +kernel, by decide +kernel, by decide +kernel, by constructor <;> decide +kernel⟩

/-- A tensor descriptor whose word `i` is no address of a region: it is not a multiple of 256. -/
def oddDesc (i : Nat) : List Word64 := modNth (tdesc 0 64 1) i (fun w => w + 128)
set_option maxRecDepth 100000 in
theorem witness_HarvestCommandsRun :
    (∀ op ∈ [opTap, opTouch, opNoise], ∃ (s : State) (c d : List Word64), Commanded s env0 0 c ∧ cmdClean c = true ∧ cOp c = op ∧
      Described s 0 (cTid c) d ∧ s.regionOk 0 (cTid c) (tdG d) (4 * tdElems d) false = true ∧ tdFrost d = false ∧
      s.regionOk 0 (cTid c) (tdN d) (4 * tdNcnt d) false = true ∧ tdNcnt d = 1 ∧
      (∀ w ∈ leWords32 (s.view (tdN d) (4 * tdNcnt d)), (exact149 (fp32 w)).isSome = true)) ∧
    (∀ op ∈ [opTouch, opNoise], ∃ (s : State) (c d : List Word64), Commanded s env0 0 c ∧ cmdClean c = true ∧ cOp c = op ∧
      Described s 0 (cTid c) d ∧ tdFrost d = true) ∧
    (∀ op ∈ [opSync, opHMark, opHEnd, opNorm], ∃ (s : State) (c : List Word64), Commanded s env0 0 c ∧ cmdClean c = true ∧ cOp c = op ∧
      (s.hv 0).normAb = false ∧ (s.hv (1 - 0)).state = hvIdle) ∧
    (∃ (s : State) (c : List Word64), Commanded s env0 0 c ∧ cmdClean c = true ∧ cOp c = opNorm ∧ (s.hv 0).normAb = false ∧
      (s.hv (1 - 0)).normed = false ∧ (s.hv (1 - 0)).state ≠ hvIdle) ∧
    (∃ (s : State) (c : List Word64), Commanded s env0 0 c ∧ cmdClean c = true ∧ cOp c = opNorm ∧ (s.hv 0).normAb = true ∧
      s.on (Reg.HV_ERR_VALID 0) = false) ∧
    (∃ s : State, (s.hv 1).state ≠ hvRun) ∧
    (∃ (s : State) (c : List Word64), Commanded s env0 0 c ∧ cOp c = opThin ∧ cmdClean c = false ∧ s.on (Reg.HV_ERR_VALID 0) = false) ∧
    (∃ (s : State) (c d : List Word64), Commanded s env0 0 c ∧ cmdClean c = true ∧ cOp c = opTap ∧ Described s 0 (cTid c) d ∧
      s.regionOk 0 (cTid c) (tdG d) (4 * tdElems d) false = false) ∧
    (∃ (s : State) (c d : List Word64), Commanded s env0 0 c ∧ cmdClean c = true ∧ cOp c = opNoise ∧ Described s 0 (cTid c) d ∧
      tdFrost d = false ∧ s.regionOk 0 (cTid c) (tdN d) (4 * tdNcnt d) false = false) ∧
    (∃ (s : State) (c : List Word64), Commanded s env0 0 c ∧ cmdClean c = true ∧ cOp c = opNorm ∧ (s.hv 0).normAb = false ∧
      (s.hv (1 - 0)).normed = true ∧ (s.hv (1 - 0)).state = hvWait) ∧
    (∃ (s : State) (c : List Word64), Commanded s env0 0 c ∧ cmdListed (cOp c) = true ∧ cOp c ≠ opTap) ∧
    (∃ (s : State) (c : List Word64), Commanded s env0 0 c ∧ cmdListed (cOp c) = false) ∧
    (∃ (s : State) (c : List Word64), Commanded s env0 0 c ∧ cOp c = opThin ∧ cmdClean c = true ∧
      inHalf 0 (s.hvTdesc 0 + 128 * cTid c) 128 = true ∧
      tdReserved (cTid c) (leWords (s.view (s.hvTdesc 0 + 128 * cTid c) 128)) = true) := by
  have cm {s : State} {c : List Word64} (h : (s.harvest.length = 2 ∧ (s.hv 0).state = hvRun ∧ s.poison = [] ∧
      (∀ x ∈ s.mdies, x.zero = [])) ∧ inHalf 0 (s.hvCmd 0 + 32 * (s.hv 0).idx) 32 = true ∧
      leWords (s.view (s.hvCmd 0 + 32 * (s.hv 0).idx) 32) = c) : Commanded s env0 0 c :=
    ⟨h.1.1, h.1.2.1, rfl, h.1.2.2.1, h.1.2.2.2, h.2.1, h.2.2⟩
  refine ⟨?_, ?_, ?_,
    ⟨{ engineS (hcmd 2 0 0 0) [] with harvest := [{ state := 1 }, { state := 1 }] }, hcmd 2 0 0 0, cm (by decide +kernel),
      by decide +kernel⟩,
    ⟨{ engineS (hcmd 2 0 0 0) [] with harvest := [{ state := 1, normAb := true }, {}] }, hcmd 2 0 0 0, cm (by decide +kernel),
      by decide +kernel⟩,
    ⟨{}, by decide⟩, ⟨engineS (hcmd 4 0 0 (2 ^ 36)) [], hcmd 4 0 0 (2 ^ 36), cm (by decide +kernel), by decide +kernel⟩,
    ⟨engineS (hcmd 1 0 0 0) (oddDesc 5), hcmd 1 0 0 0, oddDesc 5, cm (by decide +kernel), by decide +kernel, by decide +kernel,
      by constructor <;> decide +kernel, by decide +kernel⟩,
    ⟨engineS (hcmd 5 0 0 0) (oddDesc 8), hcmd 5 0 0 0, oddDesc 8, cm (by decide +kernel), by decide +kernel, by decide +kernel,
      by constructor <;> decide +kernel, by decide +kernel⟩,
    ⟨{ engineS (hcmd 2 0 0 0) [] with harvest := [{ state := 1 }, { state := hvWait, normed := true }] }, hcmd 2 0 0 0,
      cm (by decide +kernel), by decide +kernel⟩,
    ⟨engineS (hcmd 2 0 0 0) [], hcmd 2 0 0 0, cm (by decide +kernel), by decide +kernel⟩,
    ⟨engineS (hcmd 8 0 0 0) [], hcmd 8 0 0 0, cm (by decide +kernel), by decide +kernel⟩,
    ⟨engineS (hcmd 4 0 0 0) (tdesc 1 64 1), hcmd 4 0 0 0, cm (by decide +kernel), by decide +kernel⟩⟩
  · intro op ho
    have h : op ∈ [1, 2, 3, 5, 6, 7, 13, 14] := by
      simp only [List.mem_cons, List.not_mem_nil, or_false] at ho ⊢
      unfold opTap opTouch opNoise at ho
      omega
    have k := engineS_commanded op h 0 (by decide)
    refine ⟨_, _, tdesc 0 64 1, k.1, k.2.1, k.2.2.1, ?_⟩
    simp only [List.mem_cons, List.not_mem_nil, or_false] at ho
    obtain rfl | rfl | rfl := ho <;> exact ⟨by constructor <;> decide +kernel, by decide +kernel⟩
  · intro op ho
    have h : op ∈ [1, 2, 3, 5, 6, 7, 13, 14] := by
      simp only [List.mem_cons, List.not_mem_nil, or_false] at ho ⊢
      unfold opTouch opNoise at ho
      omega
    have k := engineS_commanded op h (2 ^ 14) (by decide)
    refine ⟨_, _, tdesc (2 ^ 14) 64 1, k.1, k.2.1, k.2.2.1, ?_⟩
    simp only [List.mem_cons, List.not_mem_nil, or_false] at ho
    obtain rfl | rfl := ho <;> exact ⟨by constructor <;> decide +kernel, by decide +kernel⟩
  · intro op ho
    have h : op ∈ [1, 2, 3, 5, 6, 7, 13, 14] := by
      simp only [List.mem_cons, List.not_mem_nil, or_false] at ho ⊢
      unfold opSync opHMark opHEnd opNorm at ho
      omega
    have k := engineS_commanded op h 0 (by decide)
    exact ⟨_, _, k.1, k.2.1, k.2.2.1, rfl, rfl⟩

set_option maxRecDepth 100000 in
theorem witness_UpdatesAndThinningWriteTheAlternateView :
    (∃ (s : State) (c d : List Word64), Commanded s env0 0 c ∧ cmdClean c = true ∧ cOp c = opUpdate ∧ Described s 0 (cTid c) d ∧
      tdFrost d = false ∧ tdElems d = 64 ∧ tdMirror d = false ∧ s.updateError 0 (cTid c) d = none ∧
      inHalf 0 (s.hvSched 0 + 32 * s.schedIndex 0) 32 = true ∧
      dBits (leWords (s.view (s.hvSched 0 + 32 * s.schedIndex 0) 32)) 3 63 8 = 0 ∧ (fp32 (tdTau d)).isZero = true ∧ tdMtype d = 0) ∧
    (∃ (s : State) (c d : List Word64), Commanded s env0 0 c ∧ cmdClean c = true ∧ cOp c = opUpdate ∧ Described s 0 (cTid c) d ∧
      tdFrost d = true) ∧
    (∃ (s : State) (c d : List Word64), Commanded s env0 0 c ∧ cmdClean c = true ∧ cOp c = opUpdate ∧ Described s 0 (cTid c) d ∧
      tdFrost d = false ∧ s.updateError 0 (cTid c) d = none ∧ tdElems d = 0) ∧
    (∃ (s : State) (c d : List Word64), Commanded s env0 0 c ∧ cmdClean c = true ∧ cOp c = opThin ∧ Described s 0 (cTid c) d ∧
      tdFrost d = false ∧ s.thinError (cTid c) ⟨0, d, dBits c 1 63 0, dBits c 2 63 0, dBits c 3 35 0, dBits c 0 22 18⟩ = none ∧
      tdMirror d = false) ∧
    (∀ e ∈ [2, 6], ∃ (s : State) (c d : List Word64), Commanded s env0 0 c ∧ cmdClean c = true ∧ cOp c = opThin ∧
      Described s 0 (cTid c) d ∧ tdFrost d = false ∧
      s.thinError (cTid c) ⟨0, d, dBits c 1 63 0, dBits c 2 63 0, dBits c 3 35 0, dBits c 0 22 18⟩ = some e) ∧
    (∃ (s : State) (c d : List Word64), Commanded s env0 0 c ∧ cmdClean c = true ∧ cOp c = opUpdate ∧ Described s 0 (cTid c) d ∧
      tdFrost d = false ∧ s.updateError 0 (cTid c) d = some 2) ∧
    (∃ (s : State) (c d : List Word64), Commanded s env0 0 c ∧ cmdClean c = true ∧ cOp c = opThin ∧ Described s 0 (cTid c) d ∧
      tdFrost d = true) ∧
    (∃ (a : Nat) (data : List Byte) (s : State), dieOf a = some 1 ∧ s.mirrorPages a data.length = true ∧
      inHalf 1 a data.length = true ∧ data.length = 64) ∧
    (∃ (a : Nat) (s : State), dieOf a = some 1 ∧ s.mirrorPages a 1 = false ∧ s.on (Reg.HV_ERR_VALID 1) = false ∧
      s.harvest.length = 2) := by
  let tn := hcmd (4 + 9 * 2 ^ 18) 0x2000 0x4000 1
  let th := hcmd (4 + 4 * 2 ^ 18) 0x2000 0x4000 1
  refine ⟨⟨engineS (hcmd 3 0 0 0) (tdesc 0 64 1), hcmd 3 0 0 0, tdesc 0 64 1, ?_⟩,
    ⟨engineS (hcmd 3 0 0 0) (tdesc (2 ^ 14) 64 1), hcmd 3 0 0 0, tdesc (2 ^ 14) 64 1, ?_⟩,
    ⟨engineS (hcmd 3 0 0 0) (tdesc 0 0 1), hcmd 3 0 0 0, tdesc 0 0 1, ?_⟩,
    ⟨engineS th (tdesc (2 ^ 28) 1 1), th, tdesc (2 ^ 28) 1 1, ?_⟩,
    ?_, ⟨engineS (hcmd 3 0 0 0) (oddDesc 2), hcmd 3 0 0 0, oddDesc 2, ?_⟩,
    ⟨engineS th (tdesc (2 ^ 14 + 2 ^ 28) 1 1), th, tdesc (2 ^ 14 + 2 ^ 28) 1 1, ?_⟩,
    ⟨halfBase 1 + 65536 - 64, List.replicate 64 1, { harvest := [{}, { mirror := [(0, 5)] }] }, by decide +kernel⟩,
    ⟨halfBase 1, {}, by decide +kernel⟩⟩
  case refine_5 =>
    intro e he
    refine ⟨engineS (if e = 2 then th else tn) (tdesc 0 1 1), if e = 2 then th else tn, tdesc 0 1 1, ?_⟩
    simp only [List.mem_cons, List.not_mem_nil, or_false] at he
    obtain rfl | rfl := he <;>
      exact ⟨by constructor <;> decide +kernel, by decide +kernel, by decide +kernel, by constructor <;> decide +kernel, by decide +kernel⟩
  all_goals exact ⟨by constructor <;> decide +kernel, by decide +kernel, by decide +kernel, by constructor <;> decide +kernel, by decide +kernel⟩

/-- A device whose own conditions for a Hem fold hold. -/
def foldS : State :=
  rg [(Reg.JB_STAT_STATE, jbRunning), (Reg.TK_BIND_KIND 0, tkHem)] { tl { member := 1 } with tacks := [(0, { done := true })] }

/-- A fault record. -/
def rec0 : FaultRec := ⟨5, 1, false, 0, 0, 0, 0, 0⟩

theorem witness_FoldsReportsAndDecisions :
    (∃ (m : MsgId) (s : State), s.msgSeen m = true) ∧
    (∃ (m : MsgId) (s : State), s.msgSeen m = false ∧
      s.childLinks.find? (fun k => s.rd (Reg.LK_PEER_DEV k) == m.src.toNat) = some 35) ∧
    (∃ s : State, s.foldReady = true ∧ s.childLinks.all (fun n => (s.childFold n).isSome) = true ∧ s.commit.own ≠ some s.makeFold ∧
      s.parent = none ∧ s.isRoot = true) ∧
    (∃ s : State, s.foldReady = true ∧ s.childLinks.all (fun n => (s.childFold n).isSome) = true ∧ s.commit.own ≠ some s.makeFold ∧
      s.parent = some 3 ∧ s.linkUp 3 = true) ∧
    (∃ s : State, s.foldReady = false) ∧ (∃ s : State, s.childLinks = []) ∧
    (∃ (m : MsgId) (s : State), s.msgSeen m = false ∧ s.normRuns = false) ∧
    (∃ (m : MsgId) (s : State), s.msgSeen m = false ∧ s.isRoot = true ∧ s.jobState = jbRunning ∧ s.stepNo < 2 ^ 64 ∧
      s.step.hemAt = none ∧ s.step.winOpen = false ∧ s.rcv.reportStep ≠ some s.stepNo) ∧
    (∃ (m : MsgId) (s : State), s.msgSeen m = false ∧ s.isRoot = true ∧ s.jobState = jbRunning ∧ s.rcv.reportStep = some s.stepNo) ∧
    (∃ (m : MsgId) (s : State), s.msgSeen m = false ∧ s.isRoot = true ∧ (s.rcv.log.find? (fun d => d.step == 5)).isSome = true) ∧
    (∃ (m : MsgId) (s : State), s.msgSeen m = false ∧ s.isRoot = true ∧ s.rcv.log.find? (fun d => d.step == 6) = none) ∧
    (∃ (m : MsgId) (s : State), s.msgSeen m = false ∧ s.rcv.missed = true ∧ (0 : Word64).toNat = s.stepNo ∧ s.step.winOpen = false) ∧
    (∃ (m : MsgId) (s : State), s.msgSeen m = false ∧ s.rcv.missed = false) ∧
    (∃ (m : MsgId) (q : MwPair) (s : State) (h : ThimSt), s.msgSeen m = false ∧ s.physOf q.tile.val = some 0 ∧ (s.tile 0).waitsOn = some (7, h) ∧
      h.remote = true ∧ h.dev = q.dev.toNat ∧ h.tile = q.peer.val ∧ (s.tile 0).queuedFrom q.dev.toNat q.peer.val = true ∧ q.confirmed = true) ∧
    (∃ (m : MsgId) (q : MwPair) (s : State), s.msgSeen m = false ∧ s.physOf q.tile.val = some 0 ∧ (s.tile 0).waitsOn = none ∧
      q.confirmed = false) ∧
    (∃ (m : MsgId) (q : MwPair) (s : State), s.msgSeen m = false ∧ s.physOf q.tile.val = some 0 ∧ (s.tile 0).waitsOn ≠ none ∧
      (s.tile 0).queuedFrom q.dev.toNat q.peer.val = false) ∧
    (∃ (m : MsgId) (s : State), s.msgSeen m = false ∧ s.childLinks.find? (fun k => s.rd (Reg.LK_PEER_DEV k) == m.src.toNat) = none) ∧
    (∃ s : State, s.foldReady = true ∧ s.childLinks.all (fun n => (s.childFold n).isSome) = true ∧ s.commit.own = some s.makeFold ∧
      s.commit.ownTo ≠ s.parent ∧ s.parent = some 3 ∧ s.linkUp 3 = true) ∧
    (∃ s : State, s.childLinks.all (fun n => (s.childFold n).isSome) = false) ∧
    (∃ s : State, s.commit.own = some s.makeFold ∧ s.commit.ownTo = s.parent) ∧
    (∃ (m : MsgId) (s : State), s.msgSeen m = false ∧ s.normRuns = true) ∧
    (∃ (m : MsgId) (s : State), s.msgSeen m = false ∧ s.isRoot = false) ∧
    (∀ l ∈ [6, 10], ∃ (m : MsgId) (s : State), s.msgSeen m = false ∧ s.isRoot = true ∧ s.jobState = jbRunning ∧ s.stepNo < 2 ^ 64 ∧
      s.step.winOpen = true ∧ s.on Reg.TK_STAT_LAST_COMMIT = false ∧
      (faultIsP (State.faultRec {} l 1) || faultIsLoss (State.faultRec {} l 1)) = decide (l = 6)) ∧
    (∃ (m : MsgId) (s : State), s.msgSeen m = false ∧ s.isRoot = true ∧ s.jobState = jbRunning ∧ s.step.hemAt = none ∧
      s.step.winOpen = true ∧ s.on Reg.TK_STAT_LAST_COMMIT = true ∧ s.rcv.reportStep ≠ some s.stepNo) ∧
    (∃ (m : MsgId) (s : State), s.msgSeen m = false ∧ s.jobState ≠ jbRunning) := by
  let asks : Pkt := { (pkt { kind := pkThimble, raddr := 2 ^ 13 } []) with relay := some (relayWord 0 0 3 7 false) }
  let h : ThimSt := { mode := .requested, remote := true, dev := 3, tile := 7 }
  exact ⟨⟨⟨3, 1⟩, State.noteMsg {} ⟨3, 1⟩, by decide⟩,
    ⟨⟨3, 1⟩, rg [(Reg.LK_PEER_DEV 35, 3)] (upS 35 { links := [(35, { tree := { count := 1 } })] }), by decide +kernel⟩,
    ⟨atS tsRoot foldS, by decide +kernel⟩, ⟨atS tsRun (rg [(Reg.AT_STAT_PARENT, 3)] (upS 3 foldS)), by decide +kernel⟩,
    ⟨{}, by decide⟩, ⟨{}, by decide +kernel⟩, ⟨⟨3, 1⟩, { harvest := [{ state := 1 }, {}] }, by decide⟩,
    ⟨⟨3, 1⟩, atS tsRoot foldS, by decide +kernel⟩, ⟨⟨3, 1⟩, atS tsRoot { foldS with rcv := { reportStep := some 0 } }, by decide +kernel⟩,
    ⟨⟨3, 1⟩, atS tsRoot (logged true), by decide⟩, ⟨⟨3, 1⟩, atS tsRoot (logged true), by decide⟩,
    ⟨⟨3, 1⟩, { rcv := { missed := true } }, by decide⟩, ⟨⟨3, 1⟩, {}, by decide⟩,
    ⟨⟨3, 1⟩, ⟨0, 3, 7, true⟩, tl { blocked := some (word 6 2 (15 * 2 ^ 32)), thims := thim7 h, reqs := [asks] }, h, by decide +kernel⟩,
    ⟨⟨3, 1⟩, ⟨0, 3, 7, false⟩, {}, by decide⟩,
    ⟨⟨3, 1⟩, ⟨0, 3, 7, false⟩, tl { blocked := some (word 6 2 (15 * 2 ^ 32)), thims := thim7 h }, by decide⟩,
    ⟨⟨3, 1⟩, {}, by decide +kernel⟩,
    ⟨atS tsRun (rg [(Reg.AT_STAT_PARENT, 3)] (upS 3 { foldS with commit := { own := some (State.makeFold foldS) } })), by decide +kernel⟩,
    ⟨upS 35 { links := [(35, { tree := { count := 1 } })] }, by decide +kernel⟩,
    ⟨{ commit := { own := some (State.makeFold {}) } }, by decide +kernel⟩,
    ⟨⟨3, 1⟩, {}, by decide⟩, ⟨⟨3, 1⟩, {}, by decide⟩,
    fun l h => ⟨⟨3, 1⟩, atS tsRoot { foldS with step := { winOpen := true } }, by revert l; decide +kernel⟩,
    ⟨⟨3, 1⟩, atS tsRoot (rg [(Reg.TK_STAT_LAST_COMMIT, 1)] { foldS with step := { winOpen := true } }), by decide +kernel⟩,
    ⟨⟨3, 1⟩, {}, by decide⟩⟩

/-- A root in a roll-back window with a recovery state. -/
def recoverS (st : Nat) (s : State) : State := rg [(Reg.JB_RCV_STAT_STATE, st)] (phaseS phHem (atS tsRoot s))

theorem witness_RewindsAndThawsEnd :
    (∃ s : State, s.phase = phHem ∧ s.rd Reg.JB_RCV_STAT_STATE = 2 ∧ s.endingFault 0 = none) ∧
    (∃ (s : State) (r : FaultRec), s.phase = phHem ∧ s.rd Reg.JB_RCV_STAT_STATE = 3 ∧ s.endingFault 0 = some r) ∧
    (∃ s : State, s.phase ≠ phHem) ∧
    (∃ s : State, s.isRoot = true ∧ s.phase = phHem ∧ s.rd Reg.JB_RCV_STAT_STATE = 4 ∧ s.step.startAt = none ∧
      s.rcv.rewindBy = s.now ∧ s.heldBudget = none) ∧
    (∃ (s : State) (n : Nat), s.isRoot = true ∧ s.phase = phHem ∧ s.rd Reg.JB_RCV_STAT_STATE = 2 ∧ s.step.startAt = none ∧
      s.rcv.rewindBy = s.now ∧ s.heldBudget = some n ∧ n ≠ 0 ∧ s.rcv.rewindMore = false) ∧
    (∃ s : State, s.isRoot = true ∧ s.phase = phHem ∧ s.rd Reg.JB_RCV_STAT_STATE = 2 ∧ s.step.startAt = none ∧
      s.now + 1 = s.rcv.rewindBy) ∧
    (∀ e ∈ [0, 1], ∃ (s : State) (a : Nat), s.host.cores.length = 20 ∧ (nth s.host.cores 5 {}).thawAt = some a ∧
      a + 50000000 = s.now + e ∧ ownsObjects 5 = true) ∧
    (∃ s : State, s.phase = phHem ∧ s.rd Reg.JB_RCV_STAT_STATE ≠ 2 ∧ s.rd Reg.JB_RCV_STAT_STATE ≠ 3) ∧
    (∀ x ∈ [(0, false), (1, true)], ∃ s : State, s.isRoot = true ∧ s.phase = phHem ∧ s.rd Reg.JB_RCV_STAT_STATE = 3 ∧
      s.step.startAt = none ∧ s.rcv.rewindBy = s.now ∧ s.heldBudget = some x.1 ∧ s.rcv.rewindMore = x.2) ∧
    (∃ s : State, s.isRoot = false) ∧
    (∃ (s : State) (a : Nat), s.host.cores.length = 20 ∧ (nth s.host.cores 6 {}).thawAt = some a ∧ a + 50000000 = s.now ∧
      ownsObjects 6 = false) ∧
    (∃ s : State, (nth s.host.cores 6 {}).thawAt = none) ∧
    (∀ more ∈ [false, true], ∃ (s : State) (a n : Nat), s.host.cores.length = 20 ∧ (nth s.host.cores 5 {}).thawAt = some a ∧
      a + 50000000 = s.now ∧ ownsObjects 5 = true ∧ s.heldBudget = some n ∧ n ≠ 0 ∧ (nth s.host.cores 5 {}).thawMore = more) := by
  let lim := 1000 * max 1 (State.rd {} Reg.SM_HOLD_LIM_LIMIT)
  refine ⟨⟨recoverS 2 {}, by decide +kernel⟩,
    ⟨recoverS 3 { rcv := { opens := [State.faultRec {} 11 3] } }, State.faultRec {} 11 3, by decide +kernel⟩, ⟨{}, by decide⟩, ⟨recoverS 4 { now := 9, rcv := { rewindBy := 9 } }, by decide +kernel⟩,
    ⟨recoverS 2 { now := 9, rcv := { rewindBy := 9 }, seam := { pausedAt := some 9 } },
      1000 * max 1 (State.rd {} Reg.SM_HOLD_LIM_LIMIT), by decide +kernel⟩,
    ⟨recoverS 2 { now := 8, rcv := { rewindBy := 9 } }, by decide⟩, ?_, ⟨recoverS 4 {}, by decide⟩,
    fun x h => ⟨recoverS 3 { now := lim + 7, rcv := { rewindBy := lim + 7, rewindMore := x.2 }, seam := { pausedAt := some (7 + x.1) } },
      by revert x; decide +kernel⟩,
    ⟨{}, by decide⟩,
    ⟨{ now := 50000003, host := { cores := modNth (List.replicate 20 {}) 6 (fun c => { c with thawAt := some 3 }) } }, 3, by decide⟩,
    ⟨{}, by decide⟩,
    fun more h => ⟨{ now := 50000003, seam := { pausedAt := some 50000003 }, host := { cores := modNth (List.replicate 20 {}) 5 (fun c => { c with thawAt := some 3, thawMore := more }) } },
      3, lim, by revert more; decide +kernel⟩⟩
  intro e he
  simp only [List.mem_cons, List.not_mem_nil, or_false] at he
  obtain rfl | rfl := he
  · exact ⟨{ now := 50000003, host := { cores := modNth (List.replicate 20 {}) 5 (fun c => { c with thawAt := some 3 }) } }, 3, by decide⟩
  · exact ⟨{ now := 50000002, host := { cores := modNth (List.replicate 20 {}) 5 (fun c => { c with thawAt := some 3 }) } }, 3, by decide⟩

/-- Temperatures of every die and of the GDDR7 devices. -/
def heat (d g : Nat) : TempReadings := ⟨List.replicate 8 [d], [g], 30, 40, 50⟩

/-- An object of a type whose slot is 0, with SVN 0 and no certificate. -/
def obj0 (ty : Nat) (target payload : List Byte) (cfg : Option ConfigRec) : SignedObj :=
  ⟨natLe 0x435A534F 4 ++ natLe ty 1 ++ natLe 0 3 ++ natLe payload.length 4 ++ natLe 0 4 ++ target ++ List.replicate 32 0,
    payload, none, [1], [2], cfg⟩

/-- No target. -/
def noTarget : List Byte := List.replicate 16 0

/-- The signatures of an object verify under the root keys of slot 0. -/
def Verifies (o : SignedObj) : Prop := bothVerify (Config.rootKey 0) (Config.rootKey 1) (objDigest o) o.sigE o.sigL = true

theorem obj0_accepts (ty : Nat) (target payload : List Byte) (cfg : Option ConfigRec) (s : State)
    (h1 : headShape (obj0 ty target payload cfg).head payload ty = true) (h2 : s.slotLive 0 = true)
    (h3 : hdSlot (obj0 ty target payload cfg).head = 0) (h4 : hdFlags (obj0 ty target payload cfg).head = 0)
    (h5 : (if ty = 4 then ((obj0 ty target payload cfg).head.drop 16).take 16 == s.ownTarget
      else zeroAt (obj0 ty target payload cfg).head 16 16) = true)
    (h6 : s.svnOk (obj0 ty target payload cfg) ty = true) (hv : Verifies (obj0 ty target payload cfg)) :
    s.accepts (obj0 ty target payload cfg) ty = true := by
  unfold State.accepts State.sigsOk
  rw [h3]
  simp only [h2, h5, h6, Bool.and_true]
  have e : (obj0 ty target payload cfg).payload = payload := rfl
  rw [e, h1, h4]
  exact hv

/-- A device in its reset state, before its bulk charge, whose NVM holds a firmware image and perhaps a configuration. -/
def imaged (c : List (Option SignedObj)) : State :=
  { power := { closed := true, mated := true }, sec := { images := [some (obj0 1 noTarget [] none), none], configs := c } }

/-- A device whose bulk is charged. -/
def charged (s : State) : State := { s with power := { s.power with bulk := true } }

theorem pickImage_first (s : State) (o : SignedObj) (x : Option SignedObj) (h : s.sec.images = [some o, x])
    (ha : s.accepts o 1 = true) : s.pickImage = some (0, o) := by
  simp [State.pickImage, h, nth, ha, List.range_succ]

theorem pickConfig_first (s : State) (o : SignedObj) (c : ConfigRec) (h : s.sec.configs = [some o, none]) (hc : o.cfg = some c)
    (ha : s.accepts o 2 = true) : s.pickConfig = some (0, o, c) := by
  simp [State.pickConfig, h, nth, ha, hc, List.range_succ]

theorem bootConfig_none (s : State) (h : s.sec.configs = [none, none]) : s.bootConfig = none := by
  simp [State.bootConfig, State.pickConfig, h, nth, List.range_succ]

theorem tests_of_any (s : State) (hs : s.power.closed = true ∧ s.power.bulk = false) (h : (State.bootRom (charged s) quietBoot).bootImage.any (fun u =>
    ((u.wr Reg.PW_EVT_PREV (u.power.cause.head?.getD 0)).logRec 3 0 (u.power.cause.head?.getD 0)).bootConfig.any (fun v =>
      ((v.wr Reg.FW_STAT_STAGE 4).selfTest quietBoot).rd Reg.BI_STAT_STOP == 0)) = true) :
    ∃ u v : State, (s.power.closed = true ∧ s.power.bulk = false) ∧ (State.bootRom (charged s) quietBoot).bootImage = some u ∧
      ((u.wr Reg.PW_EVT_PREV (u.power.cause.head?.getD 0)).logRec 3 0 (u.power.cause.head?.getD 0)).bootConfig = some v ∧
      ((v.wr Reg.FW_STAT_STAGE 4).selfTest quietBoot).rd Reg.BI_STAT_STOP = 0 := by
  cases hu : (State.bootRom (charged s) quietBoot).bootImage with
  | none => rw [hu] at h; cases h
  | some u =>
    simp only [hu, Option.any_some] at h
    cases hv : ((u.wr Reg.PW_EVT_PREV (u.power.cause.head?.getD 0)).logRec 3 0 (u.power.cause.head?.getD 0)).bootConfig with
    | none => simp [hv] at h
    | some v => simp only [hv, Option.any_some] at h; exact ⟨u, v, hs, rfl, hv, by simpa using h⟩

/-- What the spec leaves to cryptography is assumed: where the signature of the image verifies under the root keys of slot 0,
the boot runs it, and where that of the configuration does too, it is in use. -/
theorem witness_boot (hi : Verifies (obj0 1 noTarget [] none)) (hc : Verifies (obj0 2 noTarget [] (some (cfgOf [])))) :
    (∃ s u : State, (s.power.closed = true ∧ s.power.bulk = false) ∧ (State.bootRom (charged s) quietBoot).bootImage = some u ∧
      ((u.wr Reg.PW_EVT_PREV (u.power.cause.head?.getD 0)).logRec 3 0 (u.power.cause.head?.getD 0)).bootConfig = none) ∧
    (∃ s u v : State, (s.power.closed = true ∧ s.power.bulk = false) ∧ (State.bootRom (charged s) quietBoot).bootImage = some u ∧
      ((u.wr Reg.PW_EVT_PREV (u.power.cause.head?.getD 0)).logRec 3 0 (u.power.cause.head?.getD 0)).bootConfig = some v ∧
      ((v.wr Reg.FW_STAT_STAGE 4).selfTest quietBoot).rd Reg.BI_STAT_STOP = 0) := by
  refine ⟨⟨imaged [none, none], ?_⟩, ⟨imaged [some (obj0 2 noTarget [] (some (cfgOf []))), none], ?_⟩⟩
  · have a := obj0_accepts 1 noTarget [] none (State.bootRom (charged (imaged [none, none])) quietBoot)
      (by decide) (by decide +kernel) (by decide) (by decide) (by decide) (by decide +kernel) hi
    unfold State.bootImage
    rw [pickImage_first _ _ none rfl a]
    exact ⟨_, ⟨rfl, rfl⟩, rfl, bootConfig_none _ rfl⟩
  · have a := obj0_accepts 1 noTarget [] none (State.bootRom (charged (imaged [some (obj0 2 noTarget [] (some (cfgOf []))), none])) quietBoot)
      (by decide) (by decide +kernel) (by decide) (by decide) (by decide) (by decide +kernel) hi
    refine tests_of_any _ ⟨rfl, rfl⟩ ?_
    unfold State.bootImage
    rw [pickImage_first _ _ none rfl a]
    change (State.bootConfig _).any _ = true
    unfold State.bootConfig
    rw [pickConfig_first _ _ (cfgOf []) rfl rfl
      (obj0_accepts 2 noTarget [] (some (cfgOf [])) _ (by decide) rfl (by decide) (by decide) (by decide) rfl hc)]
    decide +kernel

theorem witness_InputFaultsAndResetsClearTheDevice :
    (∃ s : State, s.power.closed = false ∧ s.sec.gradeB = false) ∧ (∃ s : State, s.power.closed = true) ∧
    (∃ s : State, s.powered = true ∧ s.power.trip = true ∧ s.sec.gradeB = false) ∧ (∃ s : State, s.powered = false) ∧
    (∃ (v : Word32) (s : State), Reg.BI_RST_WARM.pick v.toNat = 1 ∧ Reg.BI_RST_KEY.pick v.toNat = 0x5754 ∧ s.power.trip = false ∧
      s.power.bulk = true) ∧
    (∃ (v : Word32) (s : State), Reg.BI_RST_WARM.pick v.toNat = 1 ∧ Reg.BI_RST_KEY.pick v.toNat = 0x5754 ∧ s.power.trip = true) ∧
    (∃ v : Word32, ¬(Reg.BI_RST_WARM.pick v.toNat = 1 ∧ Reg.BI_RST_KEY.pick v.toNat = 0x5754)) ∧
    (∃ (x : TempReadings) (s : State), s.power.trip = true ∧ s.safeHeat x = true ∧ dieHeat x 0 + 10 = s.dieLimit) ∧
    (∃ (x : TempReadings) (s : State), s.power.trip = true ∧ s.safeHeat x = false ∧ dieHeat x 0 + 9 = s.dieLimit) ∧
    (∃ (x : TempReadings) (s : State), s.powered = true ∧ s.power.trip = false ∧ dieHeat x 7 = 105) ∧
    (∃ (x : TempReadings) (s : State), s.powered = true ∧ s.power.trip = false ∧ gddrHeat x = 100) ∧
    (∃ x : TempReadings, (∀ d < 8, dieHeat x d = 104) ∧ gddrHeat x = 99) ∧
    (∃ s : State, s.power.closed = true ∧ s.power.bulk = false ∧
      (State.bootRom { s with power := { s.power with bulk := true } } quietBoot).bootImage = none) ∧
    (∃ s : State, s.test.pcieArming = true) ∧ (∃ s : State, s.test.pcieArming = false) ∧
    (∃ (v : Word32) (s : State), Reg.BI_RST_WARM.pick v.toNat = 1 ∧ Reg.BI_RST_KEY.pick v.toNat = 0x5754 ∧ s.power.trip = false ∧
      s.power.bulk = false) :=
  ⟨⟨{}, by decide⟩, ⟨State.reset, by decide⟩, ⟨{ power := { closed := true, trip := true } }, by decide⟩, ⟨{}, by decide⟩,
    ⟨0x57540001, { power := { bulk := true } }, by decide⟩, ⟨0x57540001, { power := { trip := true } }, by decide⟩, ⟨0x57540000, by decide⟩,
    ⟨heat (State.dieLimit {} - 10) 20, { power := { trip := true } }, by decide⟩,
    ⟨heat (State.dieLimit {} - 9) 20, { power := { trip := true } }, by decide⟩,
    ⟨heat 105 20, State.reset, by decide⟩, ⟨heat 50 100, State.reset, by decide⟩, ⟨heat 104 99, by decide⟩, ⟨State.reset, by decide, by decide, rfl⟩,
    ⟨{ test := { pcieArming := true } }, by decide⟩, ⟨{}, by decide⟩,
    ⟨0x57540001, {}, by decide⟩⟩

theorem witness_PowerFollowsItsBudget :
    (∃ (x : PowerSample) (s : State), s.now % 1000 = 0 ∧ s.power.evalAt ≠ some s.now ∧ (∀ d < 8, nth x.dies.toList d 0 = 1000000) ∧
      s.on Reg.TK_STAT_IN_SEAM = false ∧ s.seam.seamAt ≠ some s.now ∧ s.computeCycles = 500 ∧ s.on Reg.PW_CTL_LEND_EN = false ∧ s.power.credits = []) ∧
    (∃ (x : PowerSample) (s : State), s.now % 1000 = 0 ∧ s.power.evalAt ≠ some s.now ∧ (∀ d < 8, nth x.dies.toList d 0 ≤ 1000000) ∧
      s.computeCycles = 499) ∧
    (∃ s : State, s.now % 1000 = 1) ∧ (∃ s : State, s.phase = phIdle) ∧ (∃ s : State, s.phase = phHem) ∧
    (∃ s : State, s.phase ≠ phIdle ∧ s.phase ≠ phHem) ∧
    (∃ (x : TempReadings) (s : State), s.throttles x 3 = true ∧ dieHeat x 3 = s.dieLimit) ∧
    (∃ (x : TempReadings) (s : State), (∀ d < 4, s.throttles x d = false) ∧ s.cooled x 3 = false ∧ dieHeat x 3 + 1 = s.dieLimit) ∧
    (∃ (x : TempReadings) (s : State), (∀ d < 4, s.throttles x d = false) ∧ s.cooled x 3 = true ∧ dieHeat x 3 + 3 = s.dieLimit) ∧
    (∃ s : State, s.powered = true) ∧ (∃ s : State, s.power.stutter.length = 4) ∧
    (∃ s : State, s.on Reg.PW_STAT_TRANS = false ∧ s.rd Reg.PW_REQ_STATE ≠ s.rd Reg.PW_STAT_STATE ∧
      s.mayEnter (s.rd Reg.PW_REQ_STATE) = true) ∧
    (∃ s : State, s.on Reg.PW_STAT_TRANS = false ∧ s.rd Reg.PW_REQ_STATE ≠ s.rd Reg.PW_STAT_STATE ∧
      s.mayEnter (s.rd Reg.PW_REQ_STATE) = false) ∧
    (∃ s : State, s.on Reg.PW_STAT_TRANS = true) ∧ (∃ s : State, s.power.target = none) ∧
    (∃ s : State, s.power.target = some 2 ∧ s.rd Reg.PW_STAT_STATE < 2) ∧
    (∃ s : State, s.power.target = some 1 ∧ s.rd Reg.PW_STAT_STATE = 0) ∧
    (∃ s : State, s.power.target = some 0 ∧ s.rd Reg.PW_STAT_STATE = 2) ∧
    (∃ (x : PowerSample) (s : State), s.now % 1000 = 0 ∧ s.power.evalAt ≠ some s.now ∧ (∀ d < 8, nth x.dies.toList d 0 ≤ 1000000) ∧
      s.on Reg.TK_STAT_IN_SEAM = true) ∧
    (∃ (x : PowerSample) (s : State), s.now % 1000 = 0 ∧ s.power.evalAt ≠ some s.now ∧ (∀ d < 8, nth x.dies.toList d 0 ≤ 1000000) ∧
      s.seam.seamAt = some s.now) ∧
    (∃ s : State, s.now % 1000 = 0 ∧ s.power.evalAt = some s.now) ∧
    (∀ b ∈ [true, false], ∃ s : State, s.powered = b) ∧
    (∃ s : State, s.on Reg.PW_STAT_TRANS = false ∧ s.rd Reg.PW_REQ_STATE = s.rd Reg.PW_STAT_STATE) ∧
    (∀ r ∈ [0, 2], ∃ s : State, s.power.target = some r ∧ s.rd Reg.PW_STAT_STATE = 3) :=
  let run : State := rg [(Reg.PW_CTL_LEND_EN, 0)] (phaseS 1 { now := 1000, step := { phaseSince := 500 } })
  ⟨⟨⟨Vector.replicate 8 1000000, 4800, 100, 4800⟩, run, by decide⟩,
    ⟨⟨Vector.replicate 8 0, 4800, 100, 4800⟩, { run with step := { phaseSince := 501 } }, by decide⟩, ⟨{ now := 2001 }, by decide⟩,
    ⟨{}, by decide⟩, ⟨phaseS phHem {}, by decide⟩, ⟨phaseS 1 {}, by decide⟩, ⟨heat (State.dieLimit {}) 20, {}, by decide⟩,
    ⟨heat (State.dieLimit {} - 1) 20, {}, by decide⟩, ⟨heat (State.dieLimit {} - 3) 20, {}, by decide⟩, ⟨State.reset, by decide⟩,
    ⟨{}, by decide⟩, ⟨rg [(Reg.PW_REQ_STATE, 3)] {}, by decide⟩, ⟨rg [(Reg.PW_REQ_STATE, 3), (Reg.JB_STAT_STATE, jbLoaded)] {}, by decide⟩,
    ⟨rg [(Reg.PW_STAT_TRANS, 1)] {}, by decide⟩, ⟨{}, by decide⟩, ⟨{ power := { target := some 2 } }, by decide⟩,
    ⟨{ power := { target := some 1 } }, by decide⟩, ⟨rg [(Reg.PW_STAT_STATE, 2)] { power := { target := some 0 } }, by decide⟩,
    ⟨⟨Vector.replicate 8 0, 4800, 100, 4800⟩, seamS 1 {}, by decide⟩,
    ⟨⟨Vector.replicate 8 0, 4800, 100, 4800⟩, { seam := { seamAt := some 0 } }, by decide⟩,
    ⟨{ power := { evalAt := some 0 } }, by decide⟩,
    fun b h => ⟨if b then State.reset else {}, by revert b; decide⟩,
    ⟨{}, by decide⟩,
    fun r h => ⟨rg [(Reg.PW_STAT_STATE, 3)] { power := { target := some r } }, by revert r; decide⟩⟩

/-- The cores of which core 5 is `c`. -/
def core5 (c : CoreSt) : State := { now := 60000000000, host := { cores := modNth (List.replicate 20 {}) 5 (fun _ => c) } }

theorem witness_UnitTestsAndCoreThaws :
    (∃ s : State, s.jobState = jbEmpty ∧ s.phase = phIdle ∧ s.test.running = none ∧ s.rd Reg.BI_REQ_TEST ≠ 3) ∧
    (∃ s : State, s.jobState ≠ jbEmpty ∧ s.test.running = none) ∧ (∃ s : State, s.rd Reg.BI_REQ_TEST = 3 ∧ s.test.running = none) ∧
    (∃ s : State, s.test.running ≠ none) ∧
    (∀ b ∈ [true, false], ∃ (r : TestResult) (s : State), s.test.running = some r.unit.toNat ∧ r.kind = .tile ∧ r.logicFail = b ∧
      r.memFail = false) ∧
    (∃ s : State, s.host.cores.length = 20 ∧ (nth s.host.cores 5 {}).state = 0 ∧ s.jobState ≠ jbScrubbing ∧
      ((nth s.host.cores 5 {}).lately s.now).length + 1 = 8) ∧
    (∃ s : State, s.host.cores.length = 20 ∧ (nth s.host.cores 5 {}).state = 0 ∧ ((nth s.host.cores 5 {}).lately s.now).length + 1 = 7 ∧
      (nth s.host.cores 5 {}).recent.length = 7) ∧
    (∃ s : State, s.host.cores.length = 20 ∧ (nth s.host.cores 5 {}).state = 1) ∧
    (∃ (r : TestResult) (s : State) (u : Nat), s.test.running = some u ∧ u ≠ r.unit.toNat) ∧
    (∀ b ∈ [true, false], ∃ (r : TestResult) (s : State), s.test.running = some r.unit.toNat ∧ r.kind ≠ .tile ∧ s.unusable r = b) ∧
    (∀ b ∈ [true, false], ∃ (r : TestResult) (s : State), s.test.running = some r.unit.toNat ∧ r.kind = .xLink 35 ∧ s.unusable r = b) ∧
    (∃ s : State, s.host.cores.length = 20 ∧ (nth s.host.cores 5 {}).state = 0 ∧ s.jobState = jbScrubbing) := by
  refine ⟨⟨{}, by decide⟩, ⟨rg [(Reg.JB_STAT_STATE, jbLoaded)] {}, by decide⟩, ⟨rg [(Reg.BI_REQ_TEST, 3)] {}, by decide⟩,
    ⟨{ test := { running := some 7 } }, by decide⟩, ?_,
    ⟨core5 { recent := List.replicate 7 0 }, by decide⟩,
    ⟨{ core5 { recent := List.replicate 6 1 ++ [0] } with now := 60000000001 }, by decide⟩, ⟨core5 { state := 1 }, by decide⟩,
    ⟨⟨8, .tile, false, false, false, 0, 0, 0, 0, 0⟩, { test := { running := some 7 } }, 7, by decide⟩,
    fun b h => ⟨⟨7, .router, b, false, false, 0, 0, 0, 0, 0⟩, { test := { running := some 7 } }, by revert b; decide⟩,
    fun b h => ⟨⟨7, .xLink 35, b, false, false, 0, 0, 0, 0, 0⟩, { test := { running := some 7 } }, by revert b; decide⟩,
    ⟨rg [(Reg.JB_STAT_STATE, jbScrubbing)] (core5 {}), by decide⟩⟩
  intro b _
  exact ⟨⟨7, .tile, b, false, false, 0, 0, 0, 0, 0⟩, { test := { running := some 7 } }, rfl, rfl, rfl, rfl⟩

/-- A device whose driver has asked for `r`, with these driver words. -/
def asked (r : Nat) (b4 : SMap Word32) (s : State) : State := rg [(Reg.BI_XARM_DONE, 1)] { s with host := { s.host with request := r, bar4 := b4 } }

set_option maxRecDepth 100000 in
theorem witness_HostsAttachAndBeatsAreWritten :
    (∃ s : State, s.host.request = 1 ∧ s.on Reg.BI_XARM_DONE = true ∧ s.host.lossDue = false ∧ s.b4 b4DrvVer / 65536 = 2) ∧
    (∀ us ∈ [9, 10001], ∃ s : State, s.host.request = 1 ∧ s.on Reg.BI_XARM_DONE = true ∧ s.host.lossDue = false ∧
      s.b4 b4DrvVer / 65536 = 1 ∧ s.b4 b4BeatAddr % 256 = 0 ∧ s.b4 b4BeatUs = us) ∧
    (∃ s : State, s.host.request = 1 ∧ s.on Reg.BI_XARM_DONE = true ∧ s.host.lossDue = false ∧ s.b4 b4DrvVer / 65536 = 1 ∧
      s.b4 b4BeatAddr % 256 = 128 ∧ s.b4 b4BeatUs = 10) ∧
    (∀ us ∈ [10, 10000], ∃ s : State, s.host.request = 1 ∧ s.on Reg.BI_XARM_DONE = true ∧ s.host.lossDue = false ∧
      s.b4 b4DrvVer / 65536 = 1 ∧ s.b4 b4BeatAddr % 256 = 0 ∧ s.b4 b4BeatUs = us) ∧
    (∃ s : State, s.host.request = 1 ∧ s.on Reg.BI_XARM_DONE = true ∧ s.host.lossDue = true ∧ s.b4 b4DrvVer / 65536 ≠ 1) ∧
    (∃ s : State, s.host.request ≠ 1) ∧ (∃ s : State, s.host.request = 1 ∧ s.on Reg.BI_XARM_DONE = false) ∧
    (∀ b ∈ [true, false], ∃ s : State, s.host.request = 2 ∧ s.on Reg.JB_STAT_ATTACHED = b ∧ s.on Reg.JB_STAT_HB_LOST = false) ∧
    (∃ s : State, s.host.lossDue = true ∧ s.on Reg.JB_CTL_UNATTENDED = false ∧ s.jobState = jbLoading) ∧
    (∃ s : State, s.host.lossDue = true ∧ s.on Reg.JB_CTL_UNATTENDED = false ∧ s.jobState = jbParked) ∧
    (∃ s : State, s.host.lossDue = true ∧ s.on Reg.JB_CTL_UNATTENDED = true) ∧
    (∃ s : State, s.heartOverdue = true ∧ s.jobState = jbEmpty ∧ s.now = s.host.hbAt + s.grace) ∧
    (∃ s : State, s.host.lossDue = false ∧ s.heartOverdue = false ∧ s.host.beatSince = some 0 ∧ s.now + 1 = s.grace) ∧
    (∃ s : State, s.host.beatSince ≠ none ∧ s.now % (s.host.beatUs * 1000) = 0 ∧ s.host.beatLast ≠ some s.now ∧ s.host.beatUs = 10) ∧
    (∃ s : State, s.host.beatSince = none) ∧ (∃ s : State, s.now % (s.host.beatUs * 1000) ≠ 0) ∧
    (∃ s : State, s.host.beatLast = some s.now) ∧
    (∃ s : State, s.host.request = 1 ∧ s.on Reg.BI_XARM_DONE = true ∧ s.host.lossDue = true ∧ s.b4 b4DrvVer / 65536 = 1 ∧
      s.b4 b4BeatAddr % 256 = 0 ∧ s.b4 b4BeatUs = 10) := by
  refine ⟨⟨asked 1 [(0, 0x20000)] {}, by decide⟩, ?_, ⟨asked 1 [(0, 0x10000), (0x18, 128), (0x20, 10)] {}, by decide⟩, ?_,
    ⟨asked 1 [] { host := { lossDue := true } }, by decide⟩, ⟨{}, by decide⟩, ⟨rg [(Reg.BI_XARM_DONE, 0)] { host := { request := 1 } }, by decide⟩, ?_,
    ⟨rg [(Reg.JB_STAT_STATE, jbLoading), (Reg.JB_CTL_UNATTENDED, 0)] { host := { lossDue := true } }, by decide⟩,
    ⟨rg [(Reg.JB_STAT_STATE, jbParked), (Reg.JB_CTL_UNATTENDED, 0)] { host := { lossDue := true } }, by decide⟩,
    ⟨rg [(Reg.JB_CTL_UNATTENDED, 1)] { host := { lossDue := true } }, by decide⟩,
    ⟨rg [(Reg.JB_CTL_GRACE, 1)] { now := 1000000000, host := { beatSince := some 0 } }, by decide⟩,
    ⟨rg [(Reg.JB_CTL_GRACE, 1)] { now := 999999999, host := { beatSince := some 0 } }, by decide⟩,
    ⟨{ now := 10000, host := { beatSince := some 3, beatUs := 10 } }, by decide⟩, ⟨{}, by decide⟩,
    ⟨{ now := 10001, host := { beatUs := 10 } }, by decide⟩, ⟨{ host := { beatLast := some 0 } }, by decide⟩,
    ⟨asked 1 [(0, 0x10000), (0x20, 10)] { host := { lossDue := true } }, by decide⟩⟩
  · intro us h
    simp only [List.mem_cons, List.not_mem_nil, or_false] at h
    obtain rfl | rfl := h
    · exact ⟨asked 1 [(0, 0x10000), (0x20, 9)] {}, by decide⟩
    · exact ⟨asked 1 [(0, 0x10000), (0x20, 10001)] {}, by decide⟩
  · intro us h
    simp only [List.mem_cons, List.not_mem_nil, or_false] at h
    obtain rfl | rfl := h
    · exact ⟨asked 1 [(0, 0x10000), (0x20, 10)] {}, by decide⟩
    · exact ⟨asked 1 [(0, 0x1FFFF), (0x20, 10000)] {}, by decide⟩
  · intro b h
    simp only [List.mem_cons, List.not_mem_nil, or_false] at h
    obtain rfl | rfl := h
    · exact ⟨rg [(Reg.JB_STAT_ATTACHED, 1)] { host := { request := 2 } }, by decide⟩
    · exact ⟨{ host := { request := 2 } }, by decide⟩

/-- Slot 2 holds one command, of OP `op` and with these further words of its entry, for job 7. -/
def slot2 (op : Nat) (ws : List (Nat × Word32)) (s : State) : State :=
  { s with host := { s.host with bar4 := [(0x12000, 7), (0x12008, 1), (0x12040, BitVec.ofNat 32 op)] ++ ws } }

/-- The registers of job 7 in slot `k`, in state `st`. -/
def job7 (st k : Nat) (s : State) : State :=
  rg [(Reg.JB_STAT_STATE, st), (Reg.JB_STAT_SLOT, k), (Reg.JB_ID_LO_VALUE, 7)] s

/-- The manager. -/
def manager (s : State) : State := rg [(Reg.AT_STAT_STATE, tsRoot)] s

set_option maxRecDepth 100000 in
theorem witness_JobsLoadOnceEveryDeviceAgrees :
    (∃ (g : JobImage) (s : State) (o : Nat), SlotHolds s 2 opLoad o ∧ s.host.loading ≠ some 2 ∧ s.jobState = jbEmpty ∧ s.test.running = none ∧
      s.host.queued = [] ∧ s.loadStatus 2 g (s.cmdWord o 2) (s.cmdWord o 4) = 0 ∧ s.isRoot = false) ∧
    (∃ (g : JobImage) (s : State) (o : Nat), SlotHolds s 2 opLoad o ∧ s.host.loading ≠ some 2 ∧ s.jobState = jbEmpty ∧ s.test.running = none ∧
      s.host.queued = [] ∧ s.loadStatus 2 g (s.cmdWord o 2) (s.cmdWord o 4) = 0 ∧ s.isRoot = true ∧ s.time.admitted ≤ 1 ∧ s.host.digests = []) ∧
    (∀ st ∈ [stState, stFeature, stRange, stJobId, stCheck], ∃ (g : JobImage) (s : State) (o : Nat), SlotHolds s 2 opLoad o ∧
      s.host.loading ≠ some 2 ∧ s.jobState = jbEmpty ∧ s.test.running = none ∧ s.host.queued = [] ∧
      s.loadStatus 2 g (s.cmdWord o 2) (s.cmdWord o 4) = st) ∧
    (∃ (s : State) (o : Nat), SlotHolds s 2 opLoad o ∧ s.host.loading ≠ some 2 ∧ s.jobState = jbScrubbing) ∧
    (∃ (s : State) (o : Nat), SlotHolds s 2 opLoad o ∧ s.host.loading ≠ some 2 ∧ s.jobState = jbRunning ∧ s.rd Reg.JB_STAT_SLOT ≠ 2) ∧
    (∃ (s : State) (o : Nat), SlotHolds s 2 opLoad o ∧ s.host.loading ≠ some 2 ∧ s.jobState = jbEnded ∧ s.rd Reg.JB_STAT_SLOT = 2) ∧
    (∃ (msg : MsgId) (s : State), s.msgSeen msg = false ∧ s.isRoot = false) ∧
    (∃ (msg : MsgId) (s : State), s.msgSeen msg = false ∧ s.isRoot = true ∧
      (s.host.digests.filter (fun e => e.1 != msg.src)).length + 1 < s.time.admitted) ∧
    (∃ (msg : MsgId) (s : State), s.msgSeen msg = false ∧ s.isRoot = true ∧
      s.time.admitted ≤ (s.host.digests.filter (fun e => e.1 != msg.src)).length + 1) ∧
    (∃ (msg : MsgId) (job : Word64) (s : State) (k : Nat) (g : JobImage), s.msgSeen msg = false ∧ s.jobState = jbLoading ∧ s.jobId = job.toNat ∧
      s.host.loading = some k ∧ s.host.staged = some g) ∧
    (∃ (msg : MsgId) (job : Word64) (s : State), s.msgSeen msg = false ∧ s.jobState = jbLoading ∧ s.jobId ≠ job.toNat) ∧
    (∃ (s : State) (j : Word64) (d : List Byte) (k : Nat), s.host.digestSince = some 0 ∧ s.isRoot = true ∧ s.now = 10000000000 ∧
      s.host.digests = [(s.devId, j, d)] ∧ s.jobState = jbLoading ∧ s.jobId = j.toNat ∧ s.host.loading = some k) ∧
    (∃ s : State, s.host.digestSince = none) ∧ (∃ s : State, s.host.digestSince = some 0 ∧ s.now = 9999999999) ∧
    (∃ s : State, s.host.digestSince ≠ none ∧ s.isRoot = false) ∧
    (∀ a ∈ [0, 1], ∃ (s : State) (o : Nat), SlotHolds s 2 opLoad o ∧ s.host.loading ≠ some 2 ∧ s.jobState = jbEmpty ∧ s.test.running ≠ none ∧
      s.test.since + a = s.now) := by
  refine ⟨⟨image0, slot2 1 [(0x12050, 1)] {}, 0x12040, by constructor <;> decide +kernel, by decide +kernel⟩,
    ⟨image0, manager (slot2 1 [(0x12050, 1)] {}), 0x12040, by constructor <;> decide +kernel, by decide +kernel⟩, ?_,
    ⟨job7 jbScrubbing 0 (slot2 1 [] {}), 0x12040, by constructor <;> decide +kernel, by decide +kernel⟩,
    ⟨job7 jbRunning 1 (slot2 1 [] {}), 0x12040, by constructor <;> decide +kernel, by decide +kernel⟩,
    ⟨job7 jbEnded 2 (slot2 1 [] {}), 0x12040, by constructor <;> decide +kernel, by decide +kernel⟩,
    ⟨⟨1, 0⟩, {}, by decide⟩, ⟨⟨1, 0⟩, manager { time := { admitted := 2 } }, by decide⟩,
    ⟨⟨1, 0⟩, manager { time := { admitted := 2 }, host := { digests := [(0, 7, [])] } }, by decide⟩,
    ⟨⟨1, 0⟩, 7, job7 jbLoading 2 { host := { loading := some 2, staged := some image0 } }, 2, image0, by decide⟩,
    ⟨⟨1, 0⟩, 8, job7 jbLoading 2 {}, by decide⟩,
    ⟨manager (job7 jbLoading 2 { now := 10000000000, host := { digestSince := some 0, digests := [(0, 7, [])], loading := some 2 } }), 7, [], 2, by decide⟩,
    ⟨{}, by decide⟩, ⟨{ now := 9999999999, host := { digestSince := some 0 } }, by decide⟩,
    ⟨{ host := { digestSince := some 0 } }, by decide⟩,
    fun a h => ⟨slot2 1 [] { now := a, test := { running := some 7 } }, 0x12040, by constructor <;> (revert a; decide +kernel), by revert a; decide +kernel⟩⟩
  intro st h
  simp only [List.mem_cons, List.not_mem_nil, or_false] at h
  obtain rfl | rfl | rfl | rfl | rfl := h
  · exact ⟨image0, rg [(Reg.BI_STAT_STOP, 1)] (slot2 1 [] {}), 0x12040, by constructor <;> decide +kernel, by decide +kernel⟩
  · exact ⟨{ image0 with serving := true }, slot2 1 [] {}, 0x12040, by constructor <;> decide +kernel, by decide +kernel⟩
  · exact ⟨image0, slot2 1 [] {}, 0x12040, by constructor <;> decide +kernel, by decide +kernel⟩
  · exact ⟨{ image0 with jobId := 8 }, slot2 1 [(0x12050, 1)] {}, 0x12040, by constructor <;> decide +kernel, by decide +kernel⟩
  · exact ⟨{ image0 with sound := false }, slot2 1 [(0x12050, 1)] {}, 0x12040, by constructor <;> decide +kernel, by decide +kernel⟩

set_option maxRecDepth 100000 in
theorem witness_JobCommandsTakeEffect :
    (∃ (c : Instr) (k op : Nat) (s : State), slotOpOf c = some (k, op) ∧ s.cmdAt k = none) ∧
    (∀ q ∈ [1, 9], ∃ (c : Instr) (k op : Nat) (s : State) (o : Nat), slotOpOf c = some (k, op) ∧ SlotHolds s k q o ∧ q ≠ op) ∧
    (∀ q ∈ [0, 10], ∃ (c : Instr) (k op : Nat) (s : State) (o : Nat), slotOpOf c = some (k, op) ∧ SlotHolds s k q o ∧
      s.slotHead k = (s.slotTail k + 1) % 63) ∧
    (∀ q ∈ [opRun, opPark, opResume, opStop], ∃ (s : State) (o : Nat), SlotHolds s 2 q o ∧ s.jobState = jbEmpty) ∧
    (∀ q ∈ [opRun, opPark, opResume, opStop], ∃ (s : State) (o : Nat), SlotHolds s 2 q o ∧ s.jobState ≠ jbEmpty ∧ s.slotJob 2 ≠ s.jobId) ∧
    (∀ q ∈ [opRun, opPark, opResume, opStop], ∃ (s : State) (o : Nat), SlotHolds s 2 q o ∧ s.jobState = jbEnded ∧ s.slotJob 2 = s.jobId) ∧
    (∀ q ∈ [opRun, opPark, opResume, opStop], ∃ (s : State) (o : Nat), SlotHolds s 2 q o ∧ s.slotJob 2 = s.jobId ∧ s.jobState = jbLoaded) ∧
    (∃ (s : State) (o : Nat), SlotHolds s 2 opAdopt o ∧ s.on Reg.JB_STAT_ATTACHED = true ∧ hasBit s.host.features 1 = true ∧
      s.slotJob 2 = s.jobId ∧ s.jobState = jbParked) ∧
    (∃ (s : State) (o : Nat), SlotHolds s 2 opAdopt o ∧ s.on Reg.JB_STAT_ATTACHED = false) ∧
    (∃ (s : State) (o : Nat), SlotHolds s 2 opScrub o ∧ s.slotJob 2 = s.jobId ∧ s.jobState = jbEnded ∧ s.host.scrubSlot ≠ some 2 ∧
      ∃ g, s.host.img = some g ∧ ∃ r ∈ g.regions, dieOf r.1 = some 1) ∧
    (∃ (s : State) (o : Nat), SlotHolds s 2 opSeq o ∧ hasBit s.host.features 2 = false) ∧
    (∀ n ∈ [0, 4], ∃ (s : State) (o : Nat), SlotHolds s 2 opSeq o ∧ hasBit s.host.features 2 = true ∧ s.cmdWord o 1 % 65536 = n) ∧
    (∀ n ∈ [1, 3], ∃ (s : State) (o : Nat), SlotHolds s 2 opSeq o ∧ hasBit s.host.features 2 = true ∧ s.cmdWord o 1 % 65536 = n ∧
      s.slotJob 2 = s.jobId ∧ s.jobState = jbRunning ∧ s.phase ≠ phIdle ∧ s.mdies.length = 2 ∧
      (nth s.mdies (s.cmdWord o 1 / 65536 % 4096 / 2048) {}).waiting.length < 256) ∧
    (∃ (s : State) (o : Nat), SlotHolds s 2 opBatch o ∧ s.host.batchFill ≠ none) ∧
    (∃ (s : State) (o n : Nat) (g : JobImage), SlotHolds s 2 opBatch o ∧ s.host.batchFill = none ∧ s.slotJob 2 = s.jobId ∧ s.jobState = jbLoaded ∧
      s.host.img = some g ∧ g.batches ≠ [] ∧ n = s.cmdWord o 1 ∧ n = s.stepNo + 1 ∧ s.cmdWord o 2 + s.cmdWord o 3 = s.host.winLen ∧
      s.cmdWord o 3 = (nth g.batches (n % 2) (0, 0)).2 ∧ nth s.host.batches (n % 2) none = none) ∧
    (∃ (s : State) (o : Nat), SlotHolds s 2 opBatch o ∧ s.host.batchFill = none ∧
      s.batchStatus 2 (s.cmdWord o 1) (s.cmdWord o 2) (s.cmdWord o 3) ≠ stDone) ∧
    (∃ s : State, s.host.batchFill = none) ∧
    (∃ (data : List Byte) (s : State) (k n : Nat) (g : JobImage), s.host.batchFill = some (k, n, data.length) ∧ s.host.img = some g ∧
      s.host.batches.length = 2) ∧
    (∃ (data : List Byte) (s : State) (k n len : Nat), s.host.batchFill = some (k, n, len) ∧ len ≠ data.length) ∧
    (∃ s : State, s.jobState = jbScrubbing ∧ s.on (Reg.MM_ZCTL_BUSY 0) = false ∧ s.on (Reg.MM_ZCTL_BUSY 1) = false ∧ s.host.heldT = []) ∧
    (∃ s : State, s.jobState = jbScrubbing ∧ s.on (Reg.MM_ZCTL_BUSY 0) = false ∧ s.on (Reg.MM_ZCTL_BUSY 1) = false ∧ s.host.cores.length = 20 ∧
      s.host.heldT = [19]) ∧
    (∃ s : State, s.jobState ≠ jbScrubbing) ∧ (∃ s : State, s.jobState = jbScrubbing ∧ s.on (Reg.MM_ZCTL_BUSY 1) = true) ∧
    (∃ (msg : MsgId) (s : State), s.msgSeen msg = true) ∧ (∃ (msg : MsgId) (s : State), s.msgSeen msg = false ∧ s.isRoot = true) ∧
    (∃ (msg : MsgId) (s : State), s.msgSeen msg = false ∧ s.isRoot = false) ∧
    (∃ (step : Word64) (s : State), s.step.winOpen = true ∧ s.step.parkNotice = none ∧ s.hemStep = some step) ∧
    (∃ s : State, s.step.winOpen = false) ∧
    (∃ (s : State) (o : Nat), SlotHolds s 2 opScrub o ∧ s.host.scrubSlot = some 2) ∧
    (∃ (s : State) (o : Nat), SlotHolds s 2 opScrub o ∧ s.host.scrubSlot ≠ some 2 ∧ s.jobStatus 2 [jbEnded] ≠ stDone) ∧
    (∃ (s : State) (o : Nat), SlotHolds s 2 opAdopt o ∧ s.on Reg.JB_STAT_ATTACHED = true ∧ hasBit s.host.features 1 = false) ∧
    (∃ s : State, s.jobState = jbScrubbing ∧ s.on (Reg.MM_ZCTL_BUSY 0) = true) ∧
    (∃ s : State, s.jobState = jbScrubbing ∧ s.on (Reg.MM_ZCTL_BUSY 0) = false ∧ s.on (Reg.MM_ZCTL_BUSY 1) = false ∧ s.host.scrubSlot = some 2) ∧
    (∃ s : State, s.step.winOpen = true ∧ s.step.parkNotice ≠ none) ∧
    (∃ (step : Word64) (s : State), s.step.winOpen = true ∧ s.step.parkNotice = none ∧ s.hemStep ≠ some step) := by
  have e : ∀ q ∈ [opRun, opPark, opResume, opStop], q = 2 ∨ q = 4 ∨ q = 5 ∨ q = 6 := by decide
  refine ⟨⟨.run 2, 2, 2, {}, by decide +kernel⟩, ?_, ?_, ?_, ?_, ?_, ?_,
    ⟨rg [(Reg.JB_STAT_ATTACHED, 1)] (job7 jbParked 0 (slot2 7 [] { host := { features := 2 } })), 0x12040, by constructor <;> decide +kernel,
      by decide +kernel⟩,
    ⟨slot2 7 [] {}, 0x12040, by constructor <;> decide +kernel, by decide +kernel⟩,
    ⟨job7 jbEnded 2 (slot2 8 [] { host := { img := some { image0 with regions := [(halfBase 1, 256)] } } }), 0x12040,
      by constructor <;> decide +kernel, by decide +kernel, by decide +kernel, by decide +kernel, _, rfl, _, List.mem_singleton.2 rfl, by decide⟩,
    ⟨slot2 9 [] {}, 0x12040, by constructor <;> decide +kernel, by decide +kernel⟩, ?_, ?_,
    ⟨slot2 3 [] { host := { batchFill := some (2, 0, 1) } }, 0x12040, by constructor <;> decide +kernel, by decide +kernel⟩,
    ⟨job7 jbLoaded 2 (slot2 3 [(0x12048, 1), (0x12058, 4096)] { host := { img := some image0, winLen := 4096 } }), 0x12040, 1, image0,
      by constructor <;> decide +kernel, by decide +kernel⟩,
    ⟨slot2 3 [] {}, 0x12040, by constructor <;> decide +kernel, by decide +kernel⟩, ⟨{}, by decide⟩,
    ⟨[5], { host := { batchFill := some (2, 1, 1), img := some image0 } }, 2, 1, image0, by decide⟩,
    ⟨[], { host := { batchFill := some (2, 1, 1) } }, 2, 1, 1, by decide⟩,
    ⟨rg [(Reg.JB_STAT_STATE, jbScrubbing)] {}, by decide⟩,
    ⟨rg [(Reg.JB_STAT_STATE, jbScrubbing)] { host := { cores := List.replicate 20 {}, heldT := [19] } }, by decide⟩, ⟨{}, by decide⟩,
    ⟨rg [(Reg.JB_STAT_STATE, jbScrubbing), (Reg.MM_ZCTL_BUSY 1, 1)] {}, by decide⟩, ⟨⟨1, 2⟩, { host := { seen := [(1, 2)] } }, by decide⟩,
    ⟨⟨1, 2⟩, manager {}, by decide⟩, ⟨⟨1, 2⟩, {}, by decide⟩, ?_, ⟨{}, by decide⟩,
    ⟨slot2 8 [] { host := { scrubSlot := some 2 } }, 0x12040, by constructor <;> decide +kernel, by decide +kernel⟩,
    ⟨slot2 8 [] {}, 0x12040, by constructor <;> decide +kernel, by decide +kernel⟩,
    ⟨rg [(Reg.JB_STAT_ATTACHED, 1)] (slot2 7 [] {}), 0x12040, by constructor <;> decide +kernel, by decide +kernel⟩,
    ⟨rg [(Reg.JB_STAT_STATE, jbScrubbing), (Reg.MM_ZCTL_BUSY 0, 1)] {}, by decide⟩,
    ⟨rg [(Reg.JB_STAT_STATE, jbScrubbing)] { host := { scrubSlot := some 2 } }, by decide⟩,
    ⟨{ step := { winOpen := true, parkNotice := some true } }, by decide⟩,
    ⟨5, { step := { winOpen := true } }, by decide⟩⟩
  · intro q h
    simp only [List.mem_cons, List.not_mem_nil, or_false] at h
    obtain rfl | rfl := h
    · exact ⟨.run 2, 2, 2, slot2 1 [] {}, 0x12040, rfl, by constructor <;> decide +kernel, by decide⟩
    · exact ⟨.run 2, 2, 2, slot2 9 [] {}, 0x12040, rfl, by constructor <;> decide +kernel, by decide⟩
  · intro q h
    simp only [List.mem_cons, List.not_mem_nil, or_false] at h
    obtain rfl | rfl := h
    · exact ⟨.run 2, 2, 2, slot2 0 [] {}, 0x12040, rfl, by constructor <;> decide +kernel, by decide +kernel⟩
    · exact ⟨.run 2, 2, 2, slot2 10 [] {}, 0x12040, rfl, by constructor <;> decide +kernel, by decide +kernel⟩
  · intro q h
    refine ⟨slot2 q [] {}, 0x12040, ?_⟩
    obtain rfl | rfl | rfl | rfl := e q h <;> exact ⟨by constructor <;> decide +kernel, by decide +kernel⟩
  · intro q h
    refine ⟨rg [(Reg.JB_STAT_STATE, jbLoaded)] (slot2 q [] {}), 0x12040, ?_⟩
    obtain rfl | rfl | rfl | rfl := e q h <;> exact ⟨by constructor <;> decide +kernel, by decide +kernel⟩
  · intro q h
    refine ⟨job7 jbEnded 2 (slot2 q [] {}), 0x12040, ?_⟩
    obtain rfl | rfl | rfl | rfl := e q h <;> exact ⟨by constructor <;> decide +kernel, by decide +kernel⟩
  · intro q h
    refine ⟨job7 jbLoaded 2 (slot2 q [] {}), 0x12040, ?_⟩
    obtain rfl | rfl | rfl | rfl := e q h <;> exact ⟨by constructor <;> decide +kernel, by decide +kernel⟩
  · intro n h
    simp only [List.mem_cons, List.not_mem_nil, or_false] at h
    obtain rfl | rfl := h
    · exact ⟨slot2 9 [] { host := { features := 4 } }, 0x12040, by constructor <;> decide +kernel, by decide +kernel⟩
    · exact ⟨slot2 9 [(0x12048, 4)] { host := { features := 4 } }, 0x12040, by constructor <;> decide +kernel, by decide +kernel⟩
  · intro n h
    simp only [List.mem_cons, List.not_mem_nil, or_false] at h
    obtain rfl | rfl := h
    · exact ⟨phaseS 1 (job7 jbRunning 2 (slot2 9 [(0x12048, 1)] { host := { features := 4 } })), 0x12040,
        by constructor <;> decide +kernel, by decide +kernel⟩
    · exact ⟨phaseS 1 (job7 jbRunning 2 (slot2 9 [(0x12048, 0x08000003)] { host := { features := 4 } })), 0x12040,
        by constructor <;> decide +kernel, by decide +kernel⟩
  · exact ⟨5, { step := { winOpen := true, latched := 5 } }, by decide⟩

/-- A revocation order of slot 0 with mask `k`. -/
def order0 (k : Byte) : SignedObj := obj0 6 noTarget [k] none

/-- The payload of a token: the nonce, the scope, and zeros (R499). -/
def tokenBytes (n : Byte) (scope : Nat) : List Byte := List.replicate 16 n ++ natLe scope 4 ++ List.replicate 12 0

/-- A token for the device whose identity fuses are all 0. -/
def token0 (n : Byte) (scope : Nat) : SignedObj := obj0 4 (State.ownTarget {}) (tokenBytes n scope) none

set_option maxRecDepth 100000 in
/-- What the spec leaves to cryptography is assumed, as in `witness_boot`: where the signatures of an order, an image, a
configuration and a token verify, they are accepted. -/
theorem witness_accepted (h6 : Verifies (order0 6)) (h6' : Verifies (order0 1)) (h6a : Verifies (order0 14)) (h1 : Verifies (obj0 1 noTarget [] none))
    (h2 : Verifies (obj0 2 noTarget [] (some (cfgOf [])))) (h4 : Verifies (token0 9 4)) :
    (∃ (o : SignedObj) (s : State), s.accepts o 6 = true ∧ o.payload.length = 1 ∧ hasBit (orderMask o) (hdSlot o.head) = false ∧
      ∃ k < 4, hasBit (orderMask o) k = false ∧ hasBit s.sec.revoked k = false) ∧
    (∃ (o : SignedObj) (s : State), s.accepts o 6 = true ∧ o.payload.length = 1 ∧ hasBit (orderMask o) (hdSlot o.head) = true) ∧
    (∃ (o : SignedObj) (s : State), s.accepts o 6 = true ∧ o.payload.length = 1 ∧ hasBit (orderMask o) (hdSlot o.head) = false ∧
      hasBit (orderMask o) 1 = true) ∧
    (∃ (o : SignedObj) (s : State), s.accepts o 1 = true ∧ s.sec.images.length = 2) ∧
    (∃ (o : SignedObj) (s : State), s.accepts o 2 = true ∧ s.sec.configs.length = 2) ∧
    (∃ (o : SignedObj) (s : State), s.sec.session = true ∧ s.tokenOk o = true) := by
  have a6 : ∀ k, headShape (order0 k).head (order0 k).payload 6 = true → Verifies (order0 k) → State.accepts {} (order0 k) 6 = true :=
    fun k e h => obj0_accepts 6 noTarget [k] none {} e rfl rfl rfl rfl rfl h
  refine ⟨⟨order0 6, {}, a6 6 (by decide +kernel) h6, rfl, by decide +kernel, 0, by decide +kernel⟩, ⟨order0 1, {}, a6 1 (by decide +kernel) h6', rfl, by decide +kernel⟩,
    ⟨order0 14, {}, a6 14 (by decide +kernel) h6a, rfl, by decide +kernel⟩, ⟨obj0 1 noTarget [] none, {}, ?_, rfl⟩,
    ⟨obj0 2 noTarget [] (some (cfgOf [])), {}, ?_, rfl⟩, ⟨token0 9 4, { sec := { session := true, nonce := List.replicate 16 9 } }, rfl, ?_⟩⟩
  · exact obj0_accepts 1 noTarget [] none {} (by decide) (by decide) (by decide) (by decide) (by decide) (by decide) h1
  · exact obj0_accepts 2 noTarget [] _ {} (by decide) (by decide) (by decide) (by decide) (by decide) (by decide) h2
  · have a := obj0_accepts 4 (State.ownTarget {}) (tokenBytes 9 4) none { sec := { session := true, nonce := List.replicate 16 9 } } (by decide +kernel)
      (by decide +kernel) (by decide +kernel) (by decide +kernel) (by decide +kernel) (by decide +kernel) h4
    unfold State.tokenOk
    rw [show State.accepts _ (token0 9 4) 4 = true from a]
    decide +kernel

set_option maxRecDepth 100000 in
theorem witness_SecurityRequestsAreChecked :
    (∃ (o : SignedObj) (s : State), s.accepts o 6 = false) ∧
    (∃ (u : UpdateObj) (s : State), u.image = true ∧ s.accepts u.obj 1 = false) ∧
    (∃ (u : UpdateObj) (s : State), u.image = false ∧ s.accepts u.obj 2 = false) ∧
    (∃ s : State, s.inScan = true) ∧ (∃ s : State, s.inScan = false ∧ s.sec.mark = 16384) ∧
    (∃ s : State, s.inScan = false ∧ s.sec.mark = 16383 ∧ s.sec.lastSign = some 0 ∧ s.now + 1 = 1000000000 * max 30 (s.rd Reg.SC_CTL_LMS_INT)) ∧
    (∃ s : State, s.inScan = false ∧ s.sec.mark < 16384 ∧ s.sec.lastSign = some 0 ∧ s.now = 1000000000 * max 30 (s.rd Reg.SC_CTL_LMS_INT) ∧
      s.sec.lmsIdx = s.sec.mark * 1024) ∧
    (∃ s : State, s.inScan = false ∧ s.sec.mark < 16384 ∧ s.sec.lastSign = none ∧ s.sec.lmsIdx < s.sec.mark * 1024) ∧
    (∃ msg : List Byte, msg.length = 48) ∧ (∃ msg : List Byte, msg.length ≠ 48) ∧
    (∃ s : State, s.sec.session = false) ∧ (∃ s : State, s.sec.session = true) ∧
    (∃ s : State, s.unlockScope 4 = true ∧ s.jobState = jbEmpty) ∧ (∃ s : State, s.unlockScope 4 = false) ∧
    (∃ s : State, s.unlockScope 4 = true ∧ s.jobState = jbEnded) := by
  refine ⟨⟨⟨[], [], none, [], [], none⟩, {}, by decide⟩, ⟨⟨true, 0, ⟨[], [], none, [], [], none⟩⟩, {}, by decide⟩,
    ⟨⟨false, 0, ⟨[], [], none, [], [], none⟩⟩, {}, by decide⟩, ⟨rg [(Reg.SC_DBG_STAT_SCAN, 1)] {}, by decide⟩,
    ⟨{ sec := { mark := 16384 } }, by decide⟩,
    ⟨rg [(Reg.SC_CTL_LMS_INT, 0)] { now := 29999999999, sec := { mark := 16383, lastSign := some 0 } }, by decide⟩,
    ⟨rg [(Reg.SC_CTL_LMS_INT, 31)] { now := 31000000000, sec := { mark := 2, lmsIdx := 2048, lastSign := some 0 } }, by decide⟩,
    ⟨{ sec := { mark := 2, lmsIdx := 2047 } }, by decide⟩, ⟨List.replicate 48 0, by decide⟩, ⟨[], by decide⟩, ⟨{}, by decide⟩,
    ⟨{ sec := { session := true } }, by decide⟩, ⟨{ sec := { unlocked := some 16 } }, by decide⟩, ⟨{}, by decide⟩,
    ⟨rg [(Reg.JB_STAT_STATE, jbEnded)] { sec := { unlocked := some 16 } }, by decide⟩⟩

theorem witness_SnapshotsAreCapturedForTheirPort :
    (∃ (port q : Port) (s : State), q ≠ port ∧ ∀ y ∈ s.snaps, y.port ≠ port) ∧
    (∃ (port q : Port) (s : State), q ≠ port ∧ (∀ y ∈ s.snaps, y.blk = .hv 1 → y.port ≠ port) ∧ s.snaps ≠ []) ∧
    (∃ (port q : Port) (s : State), q ≠ port ∧ ∃ y ∈ s.snaps, y.blk = .at_ ∧ y.port = port) :=
  ⟨⟨.fw, .host, {}, by decide⟩, ⟨.fw, .host, { snaps := [⟨.hv 0, .fw, [], 0⟩] }, by decide⟩, ⟨.host, .fw, { snaps := [⟨.at_, .host, [], 0⟩] }, by decide⟩⟩

set_option maxRecDepth 100000 in
theorem witness_RegisterAccessesFollowTheirTypes :
    (∃ (addr : Nat) (s : State), addr % 4 = 0 ∧ s.ideDrops .host = false ∧ addr < bar4Base ∧ inAperture addr = false) ∧
    (∃ addr : Nat, addr % 4 = 0 ∧ inAperture addr = true ∧ inAperture (addr + 4) = false) ∧
    (∃ (addr : Nat) (s : State), addr % 4 = 0 ∧ s.ideDrops .host = false ∧ bar4Base = addr) ∧
    (∃ (addr : Nat) (s : State), addr % 4 = 0 ∧ s.ideDrops .host = true) ∧
    (∃ f ∈ Reg.fieldsAt Reg.AT_LIMIT_ALIGN.addr, f.ty ≠ .rc) ∧ (∃ addr : Nat, Reg.fieldsAt addr = []) ∧ (∃ f : Fld, f.ty = .wo) ∧
    (∃ f : Fld, f.ty = .rc ∧ f.reset = 0 ∧ f ∈ Reg.fieldsAt Reg.FW_CNT_RANGE_HOST.addr ∧ f ≠ Reg.AT_LSTAT_REJ ∧ f ≠ Reg.FW_CORE_STAT_THAWS) ∧
    (∃ (addr : Nat) (s : State), s.ideDrops .host = false ∧ addr < bar4Base ∧ inAperture addr = false ∧ hostMayWrite addr = false ∧ addr ≠ Reg.BI_RST_KEY.addr ∧
      addr ≠ Reg.SC_DBG_CTL_REQ.addr ∧ ∀ e ∈ snapRegs, e.1 ≠ addr) ∧
    (∃ (addr : Nat) (s : State), idleOnly addr = true ∧ addr % 4 = 0 ∧ s.phase ≠ phIdle) ∧
    (∀ b ∈ [true, false], ∃ s : State, s.on Reg.AT_CTL_LOCK = b) ∧ (∀ b ∈ [true, false], ∃ s : State, s.on Reg.JB_CTL_LOCK = b) ∧
    (∃ v : Word32, v.toNat / 2 ^ 31 % 2 = 1) ∧ (∃ (port q : Port) (s : State), q ≠ port ∧ s.ideDrops port = false) ∧
    (∃ o : Nat, o % 4 = 0 ∧ driverWord o = false) ∧
    (∀ o ∈ [b4DrvVer, b4Attach, b4Heartbeat, 0x10000, 0x1FFFC], o % 4 = 0 ∧ driverWord o = true ∧ (o < 0x10000 ∨ o % 0x1000 ≠ 8)) ∧
    (∀ k < 16, driverWord (slotBase k + 8) = true) := by
  refine ⟨⟨0xC00000, {}, by decide⟩, ⟨0xBFFFFC, by decide⟩, ⟨bar4Base, {}, by decide⟩, ⟨0, { host := { features := 16 } }, by decide⟩, ⟨Reg.AT_LIMIT_ALIGN, by decide +kernel⟩,
    ⟨0xFFFFFC, by decide +kernel⟩, ⟨Reg.AT_SNAP_SNAP, by decide +kernel⟩, ⟨Reg.FW_CNT_RANGE_HOST, by decide +kernel⟩,
    ⟨0xFFFFFC, {}, by decide +kernel⟩, ⟨Reg.TK_HEM_WIN.addr, phaseS 1 {}, by decide +kernel⟩, ?_, ?_, ⟨0x80000000, by decide⟩,
    ⟨.fw, .host, {}, by decide⟩, ⟨0x10010, by decide⟩, by decide, by decide⟩
  · intro b h
    simp only [List.mem_cons, List.not_mem_nil, or_false] at h
    obtain rfl | rfl := h
    · exact ⟨rg [(Reg.AT_CTL_LOCK, 1)] {}, by decide⟩
    · exact ⟨{}, by decide⟩
  · intro b h
    simp only [List.mem_cons, List.not_mem_nil, or_false] at h
    obtain rfl | rfl := h
    · exact ⟨rg [(Reg.JB_CTL_LOCK, 1)] {}, by decide⟩
    · exact ⟨{}, by decide⟩

/-- The magnitude 12 = 3 · 2^2 lies in [8, 16), and 1 and 2^28 are the lowest magnitudes of bins 8 and 15. -/
theorem witness_HistogramBinsCoverTheirMagnitudes :
    (∃ (m : Nat) (e L : Int), m ≠ 0 ∧ pow2Num L * pow2Den e ≤ m * pow2Num e * pow2Den L ∧
      m * pow2Num e * pow2Den (L + 1) < pow2Num (L + 1) * pow2Den e ∧ histBin m e = 8) ∧
    (∀ x ∈ [((1 : Nat), (0 : Int), 8), (15, 0, 8), (16, 0, 9), (1, 28, 15), (1, 27, 14), (1, -28, 1), (1, -29, 0)], histBin x.1 x.2.1 = x.2.2) :=
  ⟨⟨3, 2, 3, by decide⟩, by decide⟩

/-- An image with one program, of tile 0. -/
def imageT : JobImage := { image0 with tiles := [⟨0, 0, []⟩] }

theorem witness_TileRegistersStartEveryStepAtZero :
    (∀ st ∈ [jbLoaded, jbParked, jbRunning], ∃ (s : State) (a p : Nat) (g : JobImage), s.step.startAt = some a ∧ a ≤ s.now ∧
      s.jobState = st ∧ s.step.winOpen = true ∧ s.host.img = some g ∧ (⟨0, 0, []⟩ : TileProg) ∈ g.tiles ∧ s.physOf 0 = some p) ∧
    (∃ (s : State) (p : Nat) (g : JobImage), s.step.startAt = none ∧ s.step.winOpen = true ∧ s.on Reg.TK_STAT_LAST_COMMIT = true ∧
      s.lastHem + s.step.winLen ≤ s.now ∧ s.rcv.missed = false ∧ s.jobState = jbRunning ∧ s.step.parkNotice = none ∧ s.host.img = some g ∧
      (⟨0, 0, []⟩ : TileProg) ∈ g.tiles ∧ s.physOf 0 = some p) := by
  refine ⟨?_, ⟨rg [(Reg.JB_STAT_STATE, jbRunning), (Reg.TK_STAT_LAST_COMMIT, 1)] { step := { winOpen := true }, host := { img := some imageT } }, 0, imageT,
    by decide +kernel⟩⟩
  intro st h
  simp only [List.mem_cons, List.not_mem_nil, or_false] at h
  obtain rfl | rfl | rfl := h
  · exact ⟨rg [(Reg.JB_STAT_STATE, jbLoaded)] { step := { startAt := some 0, winOpen := true }, host := { img := some imageT } }, 0, 0, imageT,
      by decide +kernel⟩
  · exact ⟨rg [(Reg.JB_STAT_STATE, jbParked)] { step := { startAt := some 0, winOpen := true }, host := { img := some imageT } }, 0, 0, imageT,
      by decide +kernel⟩
  · exact ⟨rg [(Reg.JB_STAT_STATE, jbRunning)] { step := { startAt := some 0, winOpen := true }, host := { img := some imageT } }, 0, 0, imageT,
      by decide +kernel⟩

theorem witness_RevocationIsPermanent :
    ∃ (s t : State), step s = .next t ∧ hasBit s.sec.revoked 1 = true :=
  ⟨{ sec := { revoked := 2 } }, _, rfl, by decide⟩

/-- A step with a canonical, non-empty memory before it. -/
theorem witness_StepKeepsMemoryCanonicalAndFusesBurnt : ∃ s t : State, step s = .next t ∧ s.Canonical ∧ s.mem ≠ [] :=
  ⟨{ mem := [⟨5, 1⟩, ⟨9, 2⟩] }, _, rfl, by unfold State.Canonical; decide, by decide⟩

theorem witness_StepRunsTheFrontCommand :
    (∃ s : State, s.pending = [] ∧ s.tstate = tsOff ∧ s.fab.wakes = [] ∧ s.on Reg.TK_STAT_IN_SEAM = false) ∧ (∃ s : State, s.pending = [] ∧ s.tstate ≠ tsOff ∧ s.fab.wakes = [] ∧ s.on Reg.TK_STAT_IN_SEAM = false) ∧
    (∃ c : Instr, c.wf = false) :=
  ⟨⟨{}, by decide⟩, ⟨rg [(Reg.AT_STAT_STATE, tsRoot)] {}, by decide⟩, ⟨.tmask 0 0, by decide⟩⟩

/- ### The worked cases of the spec -/

/-- The state `r` leads to. -/
def got (r : Res) : State := match r with
  | .next t => t
  | _ => {}

/-- The fault of `r`. -/
def faultOf (r : Res) : Option Fault := match r with
  | .fault f => some f
  | _ => none

/-- Bytes from address `a` on. -/
def bytesFrom : Nat → List Byte → List Host.Cell
  | _, [] => []
  | a, b :: bs => if b = 0 then bytesFrom (a + 1) bs else (a, b) :: bytesFrom (a + 1) bs

/-- 00_scope.md, worked case: with p2:17:03 bad, tile 2:17:05 is flat 3,621 and sits at the flat physical number 3,735. -/
theorem test_row_map_moves_tile :
    State.physOf { fab := { rows := [(2 * 48 + 17, 1 + 4 * 3)] } } 3621 = some 3735 ∧ State.physOf {} 3621 = some 3734 := by decide

/-- 10_afpen_links.md, worked case: the hops of a request from 5.2.11.6 (5,470) to 1.7.3.0 (1,944), and of its grant. -/
theorem test_reference_routes :
    [5470, 1024 + 256 + 88 + 6, 1024 + 896 + 88 + 6, 1024 + 896 + 24 + 6, 1944].map (fun d => refRoute d 1944) =
      [some 30, some 28, some 10, some 0, none] ∧
    [1944, 5120 + 896 + 24, 5120 + 256 + 24, 5120 + 256 + 88].map (fun d => refRoute d 5470) = [some 33, some 24, some 17, some 5] := by decide

/-- 07_seams_and_patterns.md, worked case: the span starts under both tables and with three lanes, by the register defaults. -/
theorem test_span_starts :
    let d : SeamDesc := { pid := 0, spans := [⟨300, []⟩, ⟨100, []⟩, ⟨280, [⟨0, 40, 160⟩]⟩], hall := true }
    State.schedule (rg [(Reg.SM_TT_SEL, 1)] {}) d true 0 = [0, 300, 1487] ∧
      State.schedule (rg [(Reg.SM_TT_SEL, 2)] {}) d true 0 = [0, 300, 1453] ∧
      State.schedule (rg [(Reg.SM_TT_SEL, 1), (Reg.SM_TT_LANE3, 1)] {}) d true 0 = [0, 300, 1645] := by decide

/-- 02_steps_tacks_hems.md and 07_seams_and_patterns.md, worked cases: release instants on the 64 ns grid. -/
theorem test_release_grid : gridAfter 12000003510 512 = 12000004032 ∧ gridAfter 12000021988 512 = 12000022528 ∧
    gridAfter 340000640320 512 = 340000640832 := by decide

/-- 04_number_formats.md, worked case: the TS4 block of 9.0, −4.2, 0.3, 2.6, −1.1 and 7.0. -/
theorem test_ts4_block :
    let l := [0x41100000, 0xC0866666, 0x3E99999A, 0, 0, 0, 0, 0, 0x40266666, 0xBF8CCCCD] ++ List.replicate 17 0 ++ [0x40E00000] ++ List.replicate 4 0
    let b := narrowBlock 0xB .rne (fun _ => 0) (l.map fp32)
    b.scale = [0x7F, 0x42] ∧ b.elems.map (fun e => e.code) = [0x7, 0xD, 0, 0, 0, 0, 0, 0, 0x5, 0xA] ++ List.replicate 17 0 ++ [0x7] ++ List.replicate 4 0 := by
  decide +kernel

/-- 04_number_formats.md, worked case: 0x3F80_6000 to BF16 under stochastic rounding with two draws. -/
theorem test_stochastic_rounding :
    (narrowElem 0x0 .sr 0xB42E17 false (fp32 0x3F806000)).code = 0x3F81 ∧ (narrowElem 0x0 .sr 0x7FFFFF false (fp32 0x3F806000)).code = 0x3F80 := by
  decide +kernel

/-- 05_accumulation_and_order.md, worked case: the tag after the 1,025th unlined drain of 4,096 products. -/
theorem test_longsum_tag :
    tagWord { nextTag 1 4096 ⟨1024 * 4096, 1024, false, false, false⟩ false with longsum := decide (State.sumLimit {} false < 1025 * 4096) } =
      0x00000002000004010000000000401000 := by decide

/-- The tile of the worked case of 03_tile.md: its SPUSH at PC 0x0_2A48 names the read spool 1. -/
def spushTile : State :=
  { now := 12000000517, tiles := [(1761, { mode := .run, pc := 0x2A48, mem := bytesFrom 0x2A48 (natLe 0x5000690100010004 8) })],
    streams := [(spoolKey 1708 1, { state := 1 })] }

/-- 03_tile.md, worked case: SPUSH on a read spool stops the tile with SPOOL_DIR, and the fault record holds these words. -/
theorem test_spool_dir_record :
    (List.range 8).map (fun k => (got (exec (.spush 1708 0x5000690100010004) spushTile)).tileWord 1761 (0x3F020 + 4 * k)) =
      [0x8000050B, 0x00DC26AC, 0x2A48, 0x00010004, 0x50006901, 0xCB417A05, 2, 0x11] := by decide +kernel

/-- 08_bobbins_and_thimbles.md, worked case: word 0 of the header of the 75-unit message and of the 24-unit marker. -/
theorem test_ring_headers :
    (RingRec.header { units := 76, marker := false, done := true, remote := false, sdev := 0x155E, stile := 0xE45, utag := 0x2C } 0x1A5).take 8 =
      natLe 0x002C02ABCE450131 8 ∧
    (RingRec.header { units := 24, marker := true, done := true } 0x1A4).take 10 = natLe 0x62 8 ++ natLe 0x1A4 2 := by decide

/-- The slot of the worked case of 09_spools_and_memory.md: SERVE, rows of 1,024 B, 1,000 tokens over 16 pages, with its page list
at 0x1000. -/
def servedSlot : SeqEnt := { w0 := BitVec.ofNat 64 (2 + 16 * 2 ^ 8 + 1000 * 2 ^ 20 + 16 * 2 ^ 44), w1 := 0x1000 }

def servedPages : State := { mem := bytesFrom (0x1000 + 40) (natLe 0x04A21 4) ++ bytesFrom (0x1000 + 60) (natLe 0x04A26 4) }

/-- 09_spools_and_memory.md, worked case: the rows of tokens 640 and 999 on M1, and the lead word of the RDP. -/
theorem test_paged_read :
    servedPages.tokenAddr 1 servedSlot 640 = 0x100A210000 ∧ servedPages.tokenAddr 1 servedSlot 999 = 0x100A269C00 ∧
    (let d : List Word64 := [BitVec.ofNat 64 (1 + 2 ^ 13 + 2100 * 2 ^ 16), 0, 16, BitVec.ofNat 64 (640 + 360 * 2 ^ 24)]
     (servedPages.leadWord d servedSlot).data.take 8 = natLe 0x0001680002800834 8 ∧ servedPages.follow d servedSlot = 5760) := by
  decide +kernel

/-- A PASS record of one slot at a tile. -/
def passAt (t slot inp out : Nat) : Nat × List Word64 := (t, [BitVec.ofNat 64 (3 + 2 ^ 9 * slot + 2 ^ 33 * inp + 2 ^ 37 * out)])

/-- The SEND and the routers of the worked case of 06_on_chip_fabric.md: east along row 3 of C0 and of C1 to column 20, and south to row 10. -/
def eightyThree : SpanCtx :=
  { nr := 48, dead := [], sent := [(sentKey 100 1 0 0, ⟨[7], []⟩)],
    recs := [(100, [0x20000000000001])] ++ (List.range 27).map (fun i => passAt (101 + i) (5 + i) 3 1) ++ (List.range 20).map (fun j => passAt (1632 + j) (39 + j) 3 1) ++
      [passAt 1652 59 3 2] ++ (List.range 6).map (fun r => passAt (1684 + 32 * r) (63 + 3 * r) 0 2) }

/-- 06_on_chip_fabric.md, worked case: the stitch that tile 0:03:04 sends in slot 0 is at 1:10:20 in slot 81, two cycles before it
is written, and in no slot beside it. -/
theorem test_stitch_route :
    traceRow eightyThree traceFuel false 1876 0 81 0 = some ⟨[7], []⟩ ∧ traceRow eightyThree traceFuel false 1876 0 80 0 = none ∧
    traceRow eightyThree traceFuel false 1876 0 82 0 = none := by decide +kernel

/-- 14_module_power_cooling.md, worked case: the stutter of C0 and C2 after each evaluation. -/
theorem test_stutter : nextStutter 440000 430000 0 = 2 ∧ nextStutter 470000 430000 0 = 6 ∧ nextStutter 426000 430000 2 = 2 ∧
    nextStutter 408000 430000 2 = 1 := by decide

/-- 14_module_power_cooling.md, worked case: C0 at 380 W lends 40 W to C2 at 470 W, which then draws what it may. -/
theorem test_power_lending :
    let s := State.evaluate (rg [(Reg.PW_CTL_LEND_EN, 1), (Reg.PW_CTL_STUT_EN, 1), (Reg.PW_CTL_MARGIN, 10), (Reg.PW_LIMIT_MODULE, 2600)]
      { power := { power := [380000, 428000, 470000, 425000, 80000, 80000, 140000, 140000] } })
    s.power.credits = [(0, 2, 40000)] ∧ s.power.stutter = [0, 0, 0, 0] := by decide

/-- 15_reset_and_selftest.md, worked case: a repaired memory failure of p1:30:11 reads 0x8020_3E91 in BI_FAIL_UNIT, and the unit
of p1:30:19 is 0x3F11. -/
theorem test_failing_unit :
    (State.noteFailure (rg [(Reg.BI_CTL_SOFTREP_EN, 1)] {}) ⟨0x3E91, .tile, false, true, true, 1, 0x12340, 0, 37, 0⟩).readWord .fw Reg.BI_FAIL_UNIT_UNIT.addr =
      0x80203E91 ∧ unitIndex 0x3F11 = 30 * 33 + 19 ∧ unitDie 0x3F11 = 1 := by decide +kernel

/-- 16_security_identity.md, worked case: the signature at index 37,888 blows mark 38 before it is used. -/
theorem test_signature_mark :
    let t := got (exec (.csign (List.replicate 48 0)) { sec := { mark := 37, lmsIdx := 37888 } })
    t.sec.mark = 38 ∧ t.sec.lmsIdx = 37889 ∧ t.sec.journal = some 37888 := ⟨rfl, rfl, rfl⟩

/-- 12_faults_and_replay.md, worked case: JB_RCV_LAST of the PORT fault of tile 1:22:07 on device 460. -/
theorem test_recovery_record :
    let s := State.writeLast {} ⟨4, 0x13, true, 460, 2247, 2317, 63, 20131072117⟩ false
    [Reg.JB_RCV_LAST_0_CODE, Reg.JB_RCV_LAST_1_LTILE, Reg.JB_RCV_LAST_2_VALUE, Reg.JB_RCV_LAST_3_VALUE].map (fun f => s.readWord .fw f.addr) =
      [0x80731134, 0xFD21A8C7, 0xAFE7C875, 4] := by decide +kernel

/-- 01_almanac_time.md, worked case, in units of 1 ps: 2 d = 73.520 ns and twice the offset before α is 1.304 ns. -/
theorem test_time_sample :
    let l : List Sample := [⟨1000000000, 1000037412, 1000040000, 1000076108⟩]
    sumDelay l = 2 * 36760 ∧ sumOffset l = 2 * 652 := by decide

/-- R155: 1.90234375 × 2^-7 rounds to 1.875 × 2^-7, which is below 2^-6 and so zero; 1.95 × 2^-7 rounds up to 2^-6. -/
theorem test_t5_f8_flush : narrowT5 0xE 0x3C738000 = ⟨0, false, false⟩ ∧ narrowT5 0xE 0x3C799999 = ⟨8, false, false⟩ := by
  decide +kernel

/-- 04_number_formats.md, R134: the planes of an MXFP4 A operand and its B operand with K = 256. -/
theorem test_operand_strides : 32 * elemStride 0xA 256 = 4096 ∧ 32 * scaleStride 0xA 256 = 512 ∧ 24 * elemStride 0xA 256 = 3072 ∧
    24 * scaleStride 0xA 256 = 384 := by decide

/-- 11_harvest_update.md, worked case: κ = 0.5 for N = 1,024, gs = 2^-6 and TAU 0.25. -/
theorem test_clip_factor : clipFactor 0x3E800000 0x3F90000000000000 0x4090000000000000 = 0x3FE0000000000000 := by decide +kernel

/-- 11_harvest_update.md, worked case: the edge block in FALLBACK; element 128 becomes 0x3F7F_E4D9. -/
theorem test_fallback_update :
    let u : UpdCtx := ⟨⟨0x3A800000, 0x3D800000, 0x3F600000, 0x3F7FBE77, 0, 0x3F800000, 0⟩, 1, 128, false, true, 20, 0⟩
    let b : BlockIn := ⟨0, 128, 1, 4, [[0x3F400000, 0xBE800000, 0, 0]], [[0x3F080000, 0xBE800000, 0, 0x3E600000]],
      [[0x3F800000, 0, 0, 0]], 1 + 256, [[], []]⟩
    ((blockUpdate u b).w.get 0 0, (blockUpdate u b).fallback) = (0x3F7FE4D9, true) := by decide +kernel

/-- 13_firmware_and_host.md, worked case: with GRACE 10 s the heartbeat that changed at 300 s is lost at 310 s, not before. -/
theorem test_driver_loss :
    let s : State := rg [(Reg.JB_CTL_GRACE, 10)] { host := { hbAt := 300000000000, beatSince := some 0 } }
    State.heartOverdue { s with now := 310000000000 } = true ∧ State.heartOverdue { s with now := 309999999999 } = false := by decide

/-- 17_register_map.md, worked case: the addresses of `LK_23_RETRY` and of `HV_TSEL` and `HV_T_KAPPA` on M1. -/
theorem test_register_addresses : (Reg.LK_RETRY_RESENT 23).addr = 0x217014 ∧ (Reg.HV_TSEL_TID 1).addr = 0x1B0048 ∧
    (Reg.HV_T_KAPPA_VALUE 1).addr = 0x1B0064 := by decide

/- ### Ill-formed commands -/

/-- A packet of a kind that is no row's. -/
def wrongRow : Pkt := pkt { kind := 15 } []

/-- One ill-formed command for each check of `Instr.wf`. -/
def illFormed : List Instr :=
  [.tmask 0 0, .tset 0 0, .twait 0 0, .tseam 0 0, .scalarOp 0 0x1000000000000000 .ret,
    .loadStore 0 0 ⟨true, false, false⟩, .vectorOp 0 0 ⟨.add, false⟩, .convertWiden 0 0 ⟨true, true⟩, .convertNarrow 0 0 ⟨true, true⟩, .mmaStart 0 0, .mmaAcc 0 0, .mmaDrain 0 0, .xwait 0 0, .fill 0 0, .copy 0 0,
    .mwait 0 0, .fence 0 0, .mnon 0 0, .mnoff 0 0, .accrd 0 0, .bcfg 0 0, .bcfgUnconfigure 0 0, .treqMessage 0 0, .treqCombining 0 0,
    .treqWrite 0 0, .treqRead 0 0, .bsend 0 0, .bwait 0 0, .bwaitThimble 0 0, .badv 0 0, .spush 0 0, .spop 0 0, .swait 0 0,
    .write wrongRow, .rdreq wrongRow, .rdrsp wrongRow, .msg wrongRow, .add wrongRow, .ack wrongRow, .thimbleRequest wrongRow,
    .thimbleGrant wrongRow, .thimbleRelease wrongRow, .thimbleRefuse wrongRow, .thimbleAbandoned wrongRow, .thimbleRetry wrongRow,
    .spoolData wrongRow, .spoolCredit wrongRow, .spoolStopped wrongRow]

theorem test_ill_formed_commands_are_refused :
    ∀ c ∈ illFormed, c.wf = false ∧ faultOf (exec c {}) = some .malformed := by decide +kernel

/-- R437, R438, R505: a firmware read of an unmapped address is logged in the first record of the ring, with its AT, level 1 and
trace point 1; the record's number is 0. -/
theorem test_unmapped_access_is_logged :
    ∃ t, exec (.tileWindowRead .fw 0x4063000000 4) (rg [(Reg.MM_STAT_STATE 1, 2)] { now := 9 }) = .next t ∧
      Memory.readN t.mem 0x1F7FC00000 16 = [9, 0, 0, 0, 0, 0, 0, 0, 0x2C, 1, 0, 0, 0, 0, 0, 0] ∧ t.rd Reg.FW_LOG_WP_SEQ = 1 :=
  ⟨_, rfl, by decide +kernel, by decide +kernel⟩

/-- R481, R497: a second host access that is dropped 19 ns after another sets the overrun bit; 20 ns after it, it is counted. -/
theorem test_drops_overrun :
    ∀ x ∈ [(19, 0, 1), (20, 1, 0)], ∃ t, exec (.bar2Read 0 1 0 env0) (rg [(Reg.BI_XARM_DONE, 1)]
      { now := 7 + x.1, host := { features := 16 }, test := { dropAt := some 7 } }) = .next t ∧
      t.rd Reg.SC_IDE_DROP = x.2.1 ∧ t.rd Reg.BI_XARM_OVR = x.2.2 :=
  fun x h => ⟨_, rfl, by revert x; decide +kernel, by revert x; decide +kernel⟩

end Sys2Proof.Tests
end

section
/-! SUPPORT. The two ports' copies of a register field (R515): the key under which each is stored, and what a write of the one
leaves of the other. -/

namespace Sys2Proof.Machine

/-- The keys of the fields lie below this bound, and those of the host's copies in the next range of this size. -/
def keyBound : Nat := 0x20000000

theorem Fld.portKey_mod {f : Fld} (p : Port) (hf : f.key < keyBound) : f.portKey p % keyBound = f.key := by
  unfold keyBound at hf ⊢
  cases p with
  | host => simp only [Fld.portKey, Fld.hostKey]; omega
  | fw => simp only [Fld.portKey]; split <;> omega

theorem Fld.portKey_div {f : Fld} (p : Port) (hf : f.key < keyBound) : f.portKey p / keyBound = 1 ↔ p = .host := by
  unfold keyBound at hf ⊢
  cases p with
  | host => simp only [Fld.portKey, Fld.hostKey, iff_true]; omega
  | fw => simp only [Fld.portKey, reduceCtorEq, iff_false]; split <;> omega

/-- Fields with different keys have different copies. -/
theorem Fld.portKey_ne {f g : Fld} (p q : Port) (hf : f.key < keyBound) (hg : g.key < keyBound) (h : f.key ≠ g.key) :
    f.portKey p ≠ g.portKey q := fun e =>
  h (by rw [← Fld.portKey_mod p hf, ← Fld.portKey_mod q hg, e])

/-- The copies of different ports are different. -/
theorem Fld.portKey_ne_of_port {f g : Fld} {p q : Port} (hf : f.key < keyBound) (hg : g.key < keyBound) (h : q ≠ p) :
    f.portKey q ≠ g.portKey p := fun e => by
  have hq := Fld.portKey_div q hf
  rw [e, Fld.portKey_div p hg] at hq
  cases p <;> cases q <;> simp_all

theorem State.wrPort_eq (s : State) (p : Port) {f : Fld} (v : Nat) (hf : f.isSnap = false) :
    s.wrPort p f v = { s with regs := smSet s.regs (f.portKey p) (v % 2 ^ f.width) f.reset } := by
  cases p <;> simp [State.wrPort, State.wr, State.wrHost, Fld.portKey, hf]

theorem State.rdPort_eq (s : State) (p : Port) {f : Fld} (hf : f.isSnap = false) :
    s.rdPort p f = smGet s.regs (f.portKey p) f.reset := by
  cases p <;> simp [State.rdPort, State.rd, State.rdHost, Fld.portKey, hf]

theorem State.rdAt_eq (s : State) (p : Port) {f : Fld} (hf : f.dual = true) :
    s.rdAt p f = smGet s.regs (f.portKey p) f.reset := by simp [State.rdAt, hf]

@[simp] theorem State.rdPort_wrPort_same (s : State) (p : Port) (f : Fld) (v : Nat) :
    (s.wrPort p f v).rdPort p f = v % 2 ^ f.width := by
  cases p
  · exact s.rdHost_wrHost_same f v
  · exact s.rd_wr_same f v

/-- A write of one port's copy leaves the other's. -/
theorem State.rdPort_wrPort_other (s : State) {p q : Port} (f : Fld) (v : Nat) (h : q ≠ p) :
    (s.wrPort p f v).rdPort q f = s.rdPort q f := by
  have hk : f.hostKey ≠ f.key := by simp [Fld.hostKey]
  match p, q with
  | .host, .fw => exact smGet_set_ne s.regs _ f.reset f.reset hk.symm
  | .fw, .host => exact smGet_set_ne s.regs _ f.reset f.reset hk
  | .host, .host | .fw, .fw => exact absurd rfl h

/-- A write of a port's copy changes no part of the state but the registers. -/
theorem State.wrPort_parts (s : State) (p : Port) (f : Fld) (v : Nat) (q : StatePart) : q.Same s (s.wrPort p f v) := by
  cases p <;> cases q <;> rfl

end Sys2Proof.Machine
end

section
/-! Snapshots (R17, R480, R515): the fields of each block's set, what SNAP and SNAPSHOT_READY do, and the obligation on them. -/

namespace Sys2Proof.Machine

/-- The entries of a captured set are stored one by one. -/
def putCaptured (m : SMap Nat) (l : List (Nat × Nat × Nat)) : SMap Nat := l.foldl (fun m e => smSet m e.1 e.2.1 e.2.2) m

theorem smFind_putCaptured_ne (m : SMap Nat) (l : List (Nat × Nat × Nat)) {k : Nat} (h : ∀ e ∈ l, k ≠ e.1) :
    smFind (putCaptured m l) k = smFind m k := by
  induction l generalizing m with
  | nil => rfl
  | cons e l ih =>
    exact (ih _ (fun x hx => h x (List.mem_cons_of_mem _ hx))).trans
      (smFind_set_ne m _ _ (h e List.mem_cons_self))

theorem smGet_putCaptured (m : SMap Nat) {l : List (Nat × Nat × Nat)} (hl : (l.map Prod.fst).Nodup)
    {e : Nat × Nat × Nat} (he : e ∈ l) : smGet (putCaptured m l) e.1 e.2.2 = e.2.1 := by
  induction l generalizing m with
  | nil => exact absurd he List.not_mem_nil
  | cons x l ih =>
    obtain ⟨hx, hl⟩ := List.nodup_cons.mp hl
    rcases List.mem_cons.mp he with rfl | he
    · have : smFind (putCaptured m (e :: l)) e.1 = smFind (smSet m e.1 e.2.1 e.2.2) e.1 :=
        smFind_putCaptured_ne _ l (fun y hy h => hx (h ▸ List.mem_map_of_mem hy))
      simp only [smGet, this]
      exact smGet_set_same m e.1 e.2.1 e.2.2
    · exact ih _ hl he

/- ### The fields of a set -/

def snapBlocks : List SnapBlock := [.at_, .tk, .mn, .bb, .sp 0, .sp 1, .sq 0, .sq 1, .hv 0, .hv 1, .pw, .sc]

theorem mem_snapBlocks (b : SnapBlock) : b ∈ snapBlocks := by
  cases b with
  | sp m | sq m | hv m => revert m; decide
  | _ => decide

/-- The fields of the set of a block, whatever the state. -/
def snapFields (b : SnapBlock) : List Fld := (State.captureBlock {} b .fw).map Prod.fst

theorem captureBlock_fields (s : State) (b : SnapBlock) (p : Port) : (s.captureBlock b p).map Prod.fst = snapFields b := by
  cases b <;> rfl

/-- Each field of a set has a copy for each port. -/
theorem snapFields_dual {b : SnapBlock} {f : Fld} (h : f ∈ snapFields b) : f.dual = true ∧ f.key < keyBound := by
  have : ∀ b ∈ snapBlocks, ∀ f ∈ snapFields b, f.dual = true ∧ f.key < keyBound := by decide +kernel
  exact this b (mem_snapBlocks b) f h

theorem snapFields_nodup (b : SnapBlock) : ((snapFields b).map Fld.key).Nodup := by
  have : ∀ b ∈ snapBlocks, ((snapFields b).map Fld.key).Nodup := by decide +kernel
  exact this b (mem_snapBlocks b)

/-- READY is a field of one bit with a copy for each port, and no field of the set. -/
structure IsReady (b : SnapBlock) (f : Fld) : Prop where
  live : f.isSnap = false
  width : f.width = 1
  key : f.key < keyBound
  apart : f.key ∉ (snapFields b).map Fld.key

theorem readyField_isReady (b : SnapBlock) : IsReady b (readyField b) := by
  have : ∀ b ∈ snapBlocks, (readyField b).isSnap = false ∧ (readyField b).width = 1 ∧ (readyField b).key < keyBound ∧
    (readyField b).key ∉ (snapFields b).map Fld.key := by decide +kernel
  obtain ⟨h1, h2, h3, h4⟩ := this b (mem_snapBlocks b)
  exact ⟨h1, h2, h3, h4⟩

theorem mem_snapFields {s : State} {b : SnapBlock} {p : Port} {e : Fld × Nat} (h : e ∈ s.captureBlock b p) : e.1 ∈ snapFields b :=
  captureBlock_fields s b p ▸ List.mem_map_of_mem h

/-- No two entries of a captured set have one key. -/
theorem captured_nodup (s : State) (b : SnapBlock) (p : Port) : ((s.captured b p).map Prod.fst).Nodup := by
  have e : (s.captured b p).map Prod.fst = (snapFields b).map (fun f => f.portKey p) := by
    rw [← captureBlock_fields s b p]
    simp [State.captured]
  rw [e]
  have hn : ((snapFields b).map Fld.key).Nodup := snapFields_nodup b
  refine List.Pairwise.of_map (S := (· ≠ ·)) (· % keyBound) (fun _ _ h e => h (congrArg (· % keyBound) e)) ?_
  have hm : (snapFields b).map ((· % keyBound) ∘ fun f => f.portKey p) = (snapFields b).map Fld.key :=
    List.map_congr_left (fun f hf => Fld.portKey_mod p (snapFields_dual hf).2)
  rwa [List.map_map, hm]

/-- A port's copy of READY is no copy of a field of the set. -/
theorem readyKey_ne (b : SnapBlock) (p q : Port) {f : Fld} (hf : f ∈ snapFields b) :
    (readyField b).portKey p ≠ f.portKey q :=
  have h := readyField_isReady b
  Fld.portKey_ne p q h.key (snapFields_dual hf).2 (fun e => h.apart (e ▸ List.mem_map_of_mem hf))

/- ### SNAP and SNAPSHOT_READY -/

/-- While a capture is under way a further SNAP is ignored. -/
theorem State.snap_pending {s : State} {b : SnapBlock} {p : Port} (h : ∃ y ∈ s.snaps, y.blk = b ∧ y.port = p) :
    s.snap b p = s := by
  obtain ⟨y, hy, hb, hp⟩ := h
  exact if_pos (List.any_eq_true.mpr ⟨y, hy, by simp [hb, hp]⟩)

variable {s : State} {b : SnapBlock} {p : Port} (hs : ∀ y ∈ s.snaps, y.blk = b → y.port ≠ p)
include hs

theorem noCapture (y : SnapPend) (hy : y ∈ s.snaps) : (y.blk == b && y.port == p) = false := by
  simpa using hs y hy

theorem State.snap_fresh : s.snap b p = { s.wrPort p (readyField b) 0 with
    snaps := s.snaps ++ [{ blk := b, port := p, vals := s.captured b p, at_ := s.now }] } := by
  refine if_neg (fun h => ?_)
  obtain ⟨y, hy, e⟩ := List.any_eq_true.mp h
  exact absurd e (by simp [noCapture hs y hy])

/-- An arrival with no capture under way changes nothing. -/
theorem execSnapshotReady_none : execSnapshotReady b p s = .next s := by
  have : s.snaps.find? (fun x => x.blk == b && x.port == p) = none :=
    List.find?_eq_none.mpr (fun y hy => by simp [noCapture hs y hy])
  simp only [execSnapshotReady, this]

omit hs in
/-- The state after the arrival of the set that is captured of `s`. -/
def State.arrived (s : State) (b : SnapBlock) (p : Port) : State :=
  State.wrPort { s with regs := putCaptured (s.wrPort p (readyField b) 0).regs (s.captured b p) } p (readyField b) 1

theorem execSnapshotReady_snap : execSnapshotReady b p (s.snap b p) = .next (s.arrived b p) := by
  have hn : s.snaps.find? (fun x => x.blk == b && x.port == p) = none :=
    List.find?_eq_none.mpr (fun y hy => by simp [noCapture hs y hy])
  have hk : ∀ y ∈ s.snaps, ¬y.blk = b ∨ ¬y.port = p := fun y hy => Decidable.not_or_of_imp (hs y hy)
  have hr := (readyField_isReady b).live
  rw [State.snap_fresh hs]
  simpa [execSnapshotReady, State.arrived, State.wrPort_eq _ _ _ hr, List.find?_append, hn, putCaptured] using hk

omit hs

/- ### The state after the arrival -/

/-- The arrival changes no part of the state but the registers. -/
theorem State.arrived_parts (s : State) (b : SnapBlock) (p : Port) (q : StatePart) : q.Same s (s.arrived b p) :=
  StatePart.Same.trans (t := { s with regs := putCaptured (s.wrPort p (readyField b) 0).regs (s.captured b p) })
    (by cases q <;> rfl) (State.wrPort_parts ..)

/-- What is stored under other keys than those of the port's copies of READY and of the set stays. -/
theorem State.arrived_find_ne (s : State) {b : SnapBlock} {p : Port} {k : Nat} (hr : k ≠ (readyField b).portKey p)
    (hc : ∀ e ∈ s.captureBlock b p, k ≠ e.1.portKey p) : smFind (s.arrived b p).regs k = smFind s.regs k := by
  have hl := (readyField_isReady b).live
  have hk : ∀ e ∈ s.captured b p, k ≠ e.1 := by
    intro e he
    obtain ⟨c, hm, rfl⟩ := List.mem_map.mp he
    exact hc c hm
  simp only [State.arrived, State.wrPort_eq _ _ _ hl]
  rw [smFind_set_ne _ _ _ hr, smFind_putCaptured_ne _ _ hk, smFind_set_ne _ _ _ hr]

/-- Each captured field reads as captured. -/
theorem State.arrived_rdAt (s : State) {b : SnapBlock} {p : Port} {e : Fld × Nat} (h : e ∈ s.captureBlock b p) :
    (s.arrived b p).rdAt p e.1 = e.2 % 2 ^ e.1.width := by
  have hf := mem_snapFields h
  rw [State.rdAt_eq _ _ (snapFields_dual hf).1, State.arrived, State.wrPort_eq _ _ _ (readyField_isReady b).live]
  have he : (e.1.portKey p, e.2 % 2 ^ e.1.width, e.1.reset) ∈ s.captured b p := List.mem_map_of_mem h
  exact (smGet_set_ne _ _ _ _ (readyKey_ne b p p hf).symm).trans (smGet_putCaptured _ (captured_nodup s b p) he)

/-- READY of the port reads 1. -/
theorem State.arrived_ready (s : State) (b : SnapBlock) (p : Port) : (s.arrived b p).rdPort p (readyField b) = 1 := by
  calc (s.arrived b p).rdPort p (readyField b) = 1 % 2 ^ (readyField b).width := State.rdPort_wrPort_same ..
    _ = 1 % 2 ^ 1 := congrArg (fun w => 1 % 2 ^ w) (readyField_isReady b).width
    _ = 1 := rfl

/-- The other port's copy of READY reads as before. -/
theorem State.arrived_ready_other (s : State) (b : SnapBlock) {p q : Port} (h : q ≠ p) :
    (s.arrived b p).rdPort q (readyField b) = s.rdPort q (readyField b) := by
  have hr := readyField_isReady b
  simp only [State.rdPort_eq _ _ hr.live, smGet]
  rw [s.arrived_find_ne (Fld.portKey_ne_of_port hr.key hr.key h) (fun e he => readyKey_ne b q p (mem_snapFields he))]

/-- The other port's copies of the set read as before. -/
theorem State.arrived_rdAt_other (s : State) (b : SnapBlock) {p q : Port} (h : q ≠ p) {f : Fld} (hf : f ∈ snapFields b) :
    (s.arrived b p).rdAt q f = s.rdAt q f := by
  obtain ⟨hd, hk⟩ := snapFields_dual hf
  simp only [State.rdAt_eq _ _ hd, smGet]
  rw [s.arrived_find_ne (readyKey_ne b p q hf).symm
    (fun e he => Fld.portKey_ne_of_port hk (snapFields_dual (mem_snapFields he)).2 h)]

/- ### The obligation -/

/-- The SNAP commands of a port, each with its block. -/
def snapCommands (p : Port) : List (SnapBlock × Instr) :=
  [(.at_, .atSnap p), (.tk, .tkSnap p), (.mn, .mnSnap p), (.bb, .bbSnap p), (.sp 0, .spSnap p 0), (.sp 1, .spSnap p 1),
    (.sq 0, .sqSnap p 0), (.sq 1, .sqSnap p 1), (.hv 0, .hvSnap p 0), (.hv 1, .hvSnap p 1), (.pw, .pwSnap p), (.sc, .scSnap p)]

/-- Each SNAP command captures the set of its block. -/
theorem exec_snapCommand (s : State) (p : Port) : ∀ x ∈ snapCommands p, exec x.2 s = .next (s.snap x.1 p) := by
  simp only [snapCommands, List.forall_mem_cons]
  exact ⟨rfl, rfl, rfl, rfl, rfl, rfl, rfl, rfl, rfl, rfl, rfl, rfl, List.forall_mem_nil _⟩

/-- SNAP changes READY of its port and the captures under way, and nothing else. -/
theorem State.snap_fresh_effect {s : State} {b : SnapBlock} {p q : Port} (hq : q ≠ p)
    (hs : ∀ y ∈ s.snaps, y.blk = b → y.port ≠ p) :
    (s.snap b p).rdPort p (readyField b) = 0 ∧ (s.snap b p).rdPort q (readyField b) = s.rdPort q (readyField b) ∧
      (∀ k, k ≠ (readyField b).portKey p → smFind (s.snap b p).regs k = smFind s.regs k) ∧
      (∀ r : StatePart, r ≠ .snaps → r.Same s (s.snap b p)) := by
  have hl := (readyField_isReady b).live
  have hrd : ∀ r, (s.snap b p).rdPort r (readyField b) = (s.wrPort p (readyField b) 0).rdPort r (readyField b) := by
    intro r
    simp only [State.snap_fresh hs, State.rdPort_eq _ _ hl]
  refine ⟨?_, ?_, fun k hk => ?_, fun r hr => ?_⟩
  · rw [hrd, State.rdPort_wrPort_same, Nat.zero_mod]
  · rw [hrd, State.rdPort_wrPort_other _ _ _ hq]
  · rw [State.snap_fresh hs, State.wrPort_eq _ _ _ hl]
    exact smFind_set_ne _ _ _ hk
  · rw [State.snap_fresh hs]
    refine StatePart.Same.trans (State.wrPort_parts s p (readyField b) 0 r) ?_
    cases r
    case snaps => exact absurd rfl hr
    all_goals rfl

/-- AT in the set of the AT_ block. -/
theorem State.arrived_at (s : State) (p : Port) : (s.arrived .at_ p).rdAt p Reg.AT_NOW_LO_VALUE = s.now % 2 ^ 32 ∧
    (s.arrived .at_ p).rdAt p Reg.AT_NOW_HI_VALUE = s.now / 2 ^ 32 % 2 ^ 32 :=
  ⟨s.arrived_rdAt (b := .at_) (e := (Reg.AT_NOW_LO_VALUE, s.now)) (by simp [State.captureBlock, State.captureAt, pair64]),
    s.arrived_rdAt (b := .at_) (e := (Reg.AT_NOW_HI_VALUE, s.now / 2 ^ 32)) (by simp [State.captureBlock, State.captureAt, pair64])⟩

theorem leNat_lt (l : List Byte) : leNat l < 256 ^ l.length := by
  induction l with
  | nil => simp [leNat]
  | cons b l ih =>
    have := b.isLt
    rw [leNat, List.length_cons, Nat.pow_succ]
    omega

theorem leNat_take_lt (l : List Byte) (n : Nat) : leNat (l.take n) < 256 ^ n :=
  Nat.lt_of_lt_of_le (leNat_lt _) (Nat.pow_le_pow_right (by decide) (List.length_take_le ..))

/-- The selected measurement in the set of the SC_ block. -/
theorem State.arrived_sc (s : State) (p : Port) {k : Nat} (hk : k < 12) : (s.arrived .sc p).rdAt p (Reg.SC_MDATA_VALUE k) =
    leNat (((s.measurement (s.rdPort p Reg.SC_MSEL_INDEX)).drop (4 * k)).take 4) := by
  have hm : (Reg.SC_MDATA_VALUE k, leNat (((s.measurement (s.rdPort p Reg.SC_MSEL_INDEX)).drop (4 * k)).take 4)) ∈
      s.captureBlock .sc p := List.mem_map.mpr ⟨k, List.mem_range.mpr hk, rfl⟩
  exact (s.arrived_rdAt hm).trans (Nat.mod_eq_of_lt (leNat_take_lt _ 4))

/-- Settles O51: a SNAP with no capture under way leads to `State.arrived` of the state it was written in, whose reads the
lemmas above give. -/
theorem snapshotsAreCapturedForTheirPort : Obligations.SnapshotsAreCapturedForTheirPort := by
  refine ⟨fun port q s hq x hx => ⟨fun hs => ?_, fun hp => ?_, execSnapshotReady_none⟩, fun port s hs => ⟨?_, ?_⟩⟩
  · obtain ⟨h0, h1, h2, h3⟩ := State.snap_fresh_effect hq hs
    refine ⟨s.snap x.1 port, s.arrived x.1 port, exec_snapCommand s port x hx, h0, h1, h2, h3, execSnapshotReady_snap hs,
      s.arrived_parts x.1 port .snaps, fun k => s.arrived_find_ne, s.arrived_ready x.1 port, s.arrived_ready_other x.1 hq,
      fun e he => ⟨s.arrived_rdAt he, s.arrived_rdAt_other x.1 hq (mem_snapFields he)⟩,
      fun p _ => s.arrived_parts x.1 port p⟩
  · rw [exec_snapCommand s port x hx, State.snap_pending hp]
  · exact ⟨s.snap .at_ port, s.arrived .at_ port, rfl, execSnapshotReady_snap (fun y hy _ => hs y hy), s.arrived_at port⟩
  · exact ⟨s.snap .sc port, s.arrived .sc port, rfl, execSnapshotReady_snap (fun y hy _ => hs y hy), fun k hk => s.arrived_sc port hk⟩

end Sys2Proof.Machine
end

section
/-! SUPPORT. Log records and dropped requests: what `State.logRec` writes is the record that R437 describes, and a dropped request
is counted as R478, R481 and R497 say. -/

namespace Sys2Proof.Machine

theorem leNat_natLe (x n : Nat) : leNat (natLe x n) = x % 256 ^ n := by
  induction n generalizing x with
  | zero => simp [natLe, leNat, Nat.mod_one]
  | succ n ih =>
    rw [natLe, leNat, ih, BitVec.toNat_ofNat, show 256 ^ (n + 1) = 256 * 256 ^ n from Nat.pow_succ', Nat.mod_mul]

/-- A part of what has been written reads back. -/
theorem Memory.readN_writeN (m : List Host.Cell) (a : Nat) (bs : List Byte) (i n : Nat) (h : i + n ≤ bs.length) :
    Memory.readN (Memory.writeN m a bs) (a + i) n = (bs.drop i).take n := by
  induction n generalizing i with
  | zero => simp [Memory.readN]
  | succ n ih =>
    have hi : i < bs.length := by omega
    rw [Memory.readN, Memory.read_writeN_in m a bs i hi, List.drop_eq_getElem_cons hi, List.take_succ_cons]
    exact congrArg _ (ih (i + 1) (by omega))

/-- A log record spells its AT, its core, level, trace point and code, and its number. -/
theorem leNat_logBytes (at_ core level point code seq : Nat) (payload : List Nat) :
    leNat ((logBytes at_ core level point code seq payload).take 8) = at_ % 2 ^ 64 ∧
    leNat (((logBytes at_ core level point code seq payload).drop 8).take 4) =
      (core % 2 ^ 5 + 2 ^ 5 * (level % 2 ^ 3) + 2 ^ 8 * (point % 2 ^ 8) + 2 ^ 16 * code) % 2 ^ 32 ∧
    leNat (((logBytes at_ core level point code seq payload).drop 12).take 4) = seq % 2 ^ 32 := by
  simp only [logBytes, List.append_assoc]
  refine ⟨?_, ?_, ?_⟩
  · rw [List.take_left' (natLe_length _ _)]
    exact leNat_natLe _ 8
  · rw [List.drop_left' (natLe_length _ _), List.take_left' (natLe_length _ _)]
    exact leNat_natLe _ 4
  · rw [← List.append_assoc, List.drop_left' (by simp), List.take_left' (natLe_length _ _)]
    exact leNat_natLe _ 4

/-- A log record at a trace point that is always enabled is written, or dropped and counted. -/
theorem State.logRec_logged (s : State) {level point : Nat} (code : Nat) (payload : List Nat) (core : Nat) (hl : level < 8)
    (hp : point < 16) : Logged s (s.logRec level point code payload core) level point := by
  have hen : point < 16 ∨ hasBit (s.rd (Reg.FW_TRACE_EN_EN (point / 32))) (point % 32) = true := .inl hp
  constructor
  · intro hm
    obtain ⟨h1, h2, h3⟩ := leNat_logBytes s.now core level point code s.host.logSeq payload
    have hlen := logBytes_length s.now core level point code s.host.logSeq payload
    simp only [State.logRec, if_pos hen, if_pos hm]
    refine ⟨_, rfl, ?_, ?_, ?_, rfl, State.rd_wr_same .., fun x hx => Memory.read_writeN_out _ _ _ _ (by rwa [hlen])⟩
    · exact (congrArg leNat (Memory.readN_writeN _ _ _ 0 8 (by omega))).trans h1
    · rw [State.wr_mem, Memory.readN_writeN _ _ _ 8 4 (by omega), h2]
      omega
    · rw [State.wr_mem, Memory.readN_writeN _ _ _ 12 4 (by omega), h3]
  · intro hm
    simp only [State.logRec, if_pos hen, if_neg hm]
    exact ⟨rfl, rfl, State.rd_bump_same ..⟩

/-- An output beside the record changes nothing of it. -/
theorem Logged.emit {s t : State} {level point : Nat} (h : Logged s t level point) (o : Out) :
    Logged s (t.emit o) level point := ⟨h.written, h.dropped⟩

theorem unmapped_behind_csr {a : Nat} (h : bar4Base ≤ a) : unmapped (csrBase + a) = true := by
  unfold bar4Base at h
  exact decide_eq_true (by unfold csrBase; omega)

/-- A firmware access behind the CSR space is logged (R505). -/
theorem State.logUnmapped_csr (s : State) {a : Nat} (h : bar4Base ≤ a) :
    Logged s (s.logUnmapped .fw (csrBase + a)) 1 1 ∧
      Frame [Reg.FW_LOG_WP_SEQ, Reg.FW_CNT_LOGDROP_COUNT] [.host, .ring] s (s.logUnmapped .fw (csrBase + a)) := by
  rw [State.logUnmapped, if_pos ⟨rfl, unmapped_behind_csr h⟩]
  exact ⟨s.logRec_logged _ _ _ (by decide) (by decide),
    (Frame.refl ..).logRec (by simp) (by simp) (by simp) (by simp) ..⟩

theorem State.countDrop_frame (s : State) : Frame [Reg.SC_IDE_DROP, Reg.BI_XARM_OVR] [.test] s s.countDrop := by
  have hx : Frame [Reg.SC_IDE_DROP, Reg.BI_XARM_OVR] [.test] s { s with test := { s.test with dropAt := some s.now } } := by
    refine (Frame.refl ..).upd rfl (fun p hp => ?_)
    cases p
    case test => exact absurd (by simp) hp
    all_goals rfl
  exact Frame.ite _ (Frame.refl ..) (Frame.ite _ (hx.flag (by simp)) (hx.bump (by simp) 1))

theorem State.countDrop_disarmed {s : State} (h : s.on Reg.BI_XARM_DONE = false) : s.countDrop = s := by
  simp [State.countDrop, h]

/-- A drop less than four cycles after another sets the overrun bit. -/
theorem State.countDrop_close {s : State} {d : Nat} (h : s.on Reg.BI_XARM_DONE = true) (hd : s.test.dropAt = some d)
    (hn : s.now < d + 20) : s.countDrop = State.flag { s with test := { s.test with dropAt := some s.now } } Reg.BI_XARM_OVR := by
  simp [State.countDrop, h, hd, hn]

/-- Any other drop is counted. -/
theorem State.countDrop_apart {s : State} (h : s.on Reg.BI_XARM_DONE = true) (hd : ∀ d, s.test.dropAt = some d → d + 20 ≤ s.now) :
    s.countDrop = State.bump { s with test := { s.test with dropAt := some s.now } } Reg.SC_IDE_DROP 1 := by
  cases ht : s.test.dropAt with
  | none => simp [State.countDrop, h, ht]
  | some d => simp [State.countDrop, h, ht, Nat.not_lt.mpr (hd d ht)]

theorem State.countDrop_dropCounted (s : State) : DropCounted s s.countDrop where
  counted h hd := by
    rw [State.countDrop_apart h hd]
    exact State.rd_bump_same ..
  overrun d h hd hn := by
    rw [State.countDrop_close h hd hn]
    exact ⟨by simp [State.on, State.flag, Reg.BI_XARM_OVR], State.rd_flag_ne _ (by decide)⟩
  disarmed h := by rw [State.countDrop_disarmed h]
  frame := s.countDrop_frame.mono (fun _ h => h) (by simp)

theorem State.countDrop_out (s : State) : s.countDrop.out = s.out := s.countDrop_frame.parts .out (by decide)

/-- An answer beside the count changes nothing of it. -/
theorem DropCounted.emit {s t : State} (h : DropCounted s t) (o : Out) : DropCounted s (t.emit o) :=
  ⟨h.counted, h.overrun, h.disarmed, h.frame.emit (by decide) o⟩

end Sys2Proof.Machine
end

section
/-! SUPPORT. Register reads (R14, R16, R510): what a read by firmware does to RC fields. -/

namespace Sys2Proof.Machine

theorem State.clearRc_of_ne {s : State} {f : Fld} (h : f.ty ≠ .rc) : s.clearRc f = s := if_pos h

/-- An RC field of `regs` restarts from 0. -/
theorem State.clearRc_stored {s : State} {f : Fld} (h : f.ty = .rc) (h1 : f ≠ Reg.AT_LSTAT_REJ) (h2 : f ≠ Reg.FW_CORE_STAT_THAWS) :
    s.clearRc f = s.wr f 0 := by simp [State.clearRc, h, h1, h2]

theorem Frame.clearRc {fs : List Fld} {ps : List StatePart} {s x : State} (h : Frame fs ps s x) {f : Fld} (hf : f ∈ fs)
    (hl : .links ∈ ps) (hh : .host ∈ ps) : Frame fs ps s (x.clearRc f) := by
  refine Frame.ite _ h (Frame.ite _ (Frame.ite _ (h.modLink hl ..) h) (Frame.ite _ (h.upd rfl (fun p hp => ?_)) (h.wr hf 0)))
  cases p
  case host => exact absurd hh hp
  all_goals rfl

/-- An RC field that restarts is one of `regs`, or the registers stay. -/
theorem State.clearRc_regs (s : State) (f : Fld) : (s.clearRc f).regs = s.regs ∨ s.clearRc f = s.wr f 0 := by
  unfold State.clearRc
  split
  · exact .inl rfl
  split
  · dsimp only
    split <;> exact .inl rfl
  split
  · exact .inl rfl
  · exact .inr rfl

/-- A key that reads 0 still does after an RC field has restarted. -/
theorem State.clearRc_keeps_zero {s : State} {k : Nat} (f : Fld) (h : smGet s.regs k 0 = 0) :
    smGet (s.clearRc f).regs k 0 = 0 := by
  rcases s.clearRc_regs f with e | e
  · rwa [e]
  rw [e, State.wr, Nat.zero_mod]
  by_cases hk : k = f.key
  · subst hk
    unfold smSet
    split
    · simp [smGet, smFind_del_same]
    · exact smGet_put_same ..
  · rwa [smGet_set_ne s.regs _ _ _ hk]

/-- Restarting a list of fields leaves its RC fields at 0. -/
theorem State.rd_foldl_clearRc (l : List Fld) (s : State) {f : Fld} (hf : f ∈ l) (hty : f.ty = .rc) (hr : f.reset = 0)
    (h1 : f ≠ Reg.AT_LSTAT_REJ) (h2 : f ≠ Reg.FW_CORE_STAT_THAWS) : (l.foldl State.clearRc s).rd f = 0 := by
  have hrd : ∀ x : State, x.rd f = smGet x.regs f.key 0 := fun x => by rw [State.rd, hr]
  induction l generalizing s with
  | nil => exact absurd hf List.not_mem_nil
  | cons g l ih =>
    rcases List.mem_cons.mp hf with rfl | hf
    · rw [List.foldl_cons, hrd]
      refine List.foldlRecOn (motive := fun x : State => smGet x.regs f.key 0 = 0) l State.clearRc ?_
        (fun x hx g _ => State.clearRc_keeps_zero g hx)
      rw [← hrd, State.clearRc_stored hty h1 h2, State.rd_wr_same, Nat.zero_mod]
    · exact ih _ hf

theorem Frame.foldl_clearRc (l : List Fld) (s : State) : Frame l [.links, .host] s (l.foldl State.clearRc s) :=
  List.foldlRecOn (motive := Frame l [.links, .host] s) l State.clearRc (Frame.refl ..)
    (fun _ hx _ hf => hx.clearRc hf (by simp) (by simp))

/-- Without an RC field nothing restarts. -/
theorem State.foldl_clearRc_id (l : List Fld) (s : State) (h : ∀ f ∈ l, f.ty ≠ .rc) : l.foldl State.clearRc s = s :=
  List.foldlRecOn (motive := (· = s)) l State.clearRc rfl (fun _ hx f hf => hx ▸ State.clearRc_of_ne (h f hf))

theorem ideDrops_fw (s : State) : s.ideDrops .fw = false := rfl

theorem not_aperture {a : Nat} (h : bar4Base ≤ a) : inAperture a = false := by
  unfold bar4Base at h
  simp only [inAperture, decide_eq_false_iff_not]
  omega

variable {s : State} {addr : Nat}

/-- A host access in the aperture is one of the tile window. -/
theorem exec_read_aperture (h : inAperture addr = true) :
    exec (.rcFieldRead .host addr) s = exec (.tileWindowRead .host addr 4) s := if_pos ⟨rfl, h⟩

theorem exec_read_dropped (h : s.ideDrops .host = true) :
    exec (.rcFieldRead .host addr) s = .next (s.countDrop.emit (.answer .host [] false)) := by
  show execRcFieldRead .host addr s = _
  by_cases ha : inAperture addr = true
  · simp [execRcFieldRead, execTileWindowRead, ha, h, State.answer]
  · simp [execRcFieldRead, ha, h, State.answer]

/-- Firmware reads behind the CSR space what is not mapped. -/
theorem exec_read_unmapped (h4 : addr % 4 = 0) (h : bar4Base ≤ addr) : exec (.rcFieldRead .fw addr) s =
    .next ((s.logUnmapped .fw (csrBase + addr)).emit (.answer .fw (natLe 0 4) false)) := by
  show execRcFieldRead .fw addr s = _
  simp [execRcFieldRead, ideDrops_fw, h4, h, State.answer]

/-- Firmware reads a register, and its RC fields restart. -/
theorem exec_read_fw (h4 : addr % 4 = 0) (h : addr < bar4Base) : exec (.rcFieldRead .fw addr) s =
    .next ((Reg.fieldsAt addr).foldl State.clearRc (s.emit (.answer .fw (natLe (s.readWord .fw addr) 4) false))) := by
  show execRcFieldRead .fw addr s = _
  simp [execRcFieldRead, ideDrops_fw, h4, Nat.not_le.mpr h, State.answer]

theorem exec_read_host (hd : s.ideDrops .host = false) (h4 : addr % 4 = 0) (h : addr < bar4Base) (ha : inAperture addr = false) :
    exec (.rcFieldRead .host addr) s = .next (s.emit (.answer .host (natLe (s.readWord .host addr) 4) false)) := by
  show execRcFieldRead .host addr s = _
  simp [execRcFieldRead, hd, ha, h4, Nat.not_le.mpr h, State.answer]

theorem exec_read_b4 (hd : s.ideDrops .host = false) (h4 : addr % 4 = 0) (h : bar4Base ≤ addr) :
    exec (.rcFieldRead .host addr) s = .next (s.emit (.answer .host (natLe (s.readB4 (addr - bar4Base)) 4) false)) := by
  show execRcFieldRead .host addr s = _
  simp [execRcFieldRead, hd, not_aperture h, h4, h, State.answer]

end Sys2Proof.Machine
end

section
/-! SUPPORT. Register writes (R14, R509–R515): where an access goes, what a stored word changes, and what the words of BAR4 are
after the driver has written one. -/

namespace Sys2Proof.Machine

/- ### Where a write goes -/

theorem exec_write_dropped {s : State} {port : Port} {addr size : Nat} {v : Word32} (h : s.ideDrops port = true) :
    exec (.registerWrite port addr size v) s = .next s.countDrop := by
  show execRegisterWrite port addr size v s = _
  by_cases ha : port = .host ∧ inAperture addr = true
  · simp [execRegisterWrite, execTileWindowWrite, ha, ha.1 ▸ h]
  · simp [execRegisterWrite, ha, h]

theorem exec_write_unmapped {s : State} {addr size : Nat} {v : Word32} (h : bar4Base ≤ addr) :
    exec (.registerWrite .fw addr size v) s = .next (s.logUnmapped .fw (csrBase + addr)) := by
  show execRegisterWrite .fw addr size v s = _
  simp [execRegisterWrite, ideDrops_fw, h]

theorem exec_write_b4 {s : State} {addr size : Nat} {v : Word32} (hd : s.ideDrops .host = false) (h : bar4Base ≤ addr) :
    exec (.registerWrite .host addr size v) s = .next (s.writeB4 (addr - bar4Base) size v.toNat) := by
  show execRegisterWrite .host addr size v s = _
  simp [execRegisterWrite, not_aperture h, hd, h]

/-- An access to the registers that reaches them: it is not dropped, and is none of the tile windows or of what lies behind. -/
structure ReachesCsr (s : State) (port : Port) (addr : Nat) : Prop where
  taken : s.ideDrops port = false
  below : addr < bar4Base
  window : port = .fw ∨ inAperture addr = false

/-- Below the aperture each port's accesses reach the registers. -/
theorem ReachesCsr.low {s : State} {port : Port} {addr : Nat} (hd : s.ideDrops port = false) (h : addr < 0x800000) :
    ReachesCsr s port addr where
  taken := hd
  below := Nat.lt_trans h (by decide)
  window := .inr (decide_eq_false (by omega))

section Reached

variable {s : State} {port : Port} {addr size : Nat} {v : Word32} (hr : ReachesCsr s port addr)
include hr

theorem ReachesCsr.not_window : ¬(port = .host ∧ inAperture addr = true) := by
  rintro ⟨rfl, ha⟩
  rcases hr.window with h | h
  · cases h
  · rw [h] at ha
    cases ha

/-- A write that is not one aligned word changes nothing. -/
theorem exec_write_misshaped (h : size ≠ 4 ∨ addr % 4 ≠ 0) : exec (.registerWrite port addr size v) s = .next s := by
  show execRegisterWrite port addr size v s = _
  simp [execRegisterWrite, hr.not_window, hr.taken, Nat.not_le.mpr hr.below, h]

/-- A write of SNAP captures the set, other values of the register do nothing. -/
theorem exec_write_snap {b : SnapBlock} (h4 : addr % 4 = 0) (hb : snapRegs.find? (fun e => e.1 == addr) = some (addr, b)) :
    exec (.registerWrite port addr 4 v) s = .next (if v.toNat % 2 = 1 then s.snap b port else s) := by
  have hw : s.writeSnap port addr v.toNat = some (if v.toNat % 2 = 1 then s.snap b port else s) := by
    simp [State.writeSnap, hb, hasBit, Nat.testBit_zero]
  show execRegisterWrite port addr 4 v s = _
  simp [execRegisterWrite, hr.not_window, hr.taken, Nat.not_le.mpr hr.below, h4, hw]

omit hr in
theorem writeSnap_none (s : State) (port : Port) {a : Nat} (v : Nat) (hs : ∀ e ∈ snapRegs, e.1 ≠ a) :
    s.writeSnap port a v = none := by
  have : snapRegs.find? (fun e => e.1 == a) = none := List.find?_eq_none.mpr (by simpa using hs)
  simp only [State.writeSnap, this]

end Reached

/-- Firmware writes a word to a register. -/
theorem exec_write_fw (s : State) {addr : Nat} (v : Word32) (ha : addr < bar4Base) (h4 : addr % 4 = 0)
    (hs : ∀ e ∈ snapRegs, e.1 ≠ addr) : exec (.registerWrite .fw addr 4 v) s = s.writeFw addr v.toNat := by
  show execRegisterWrite .fw addr 4 v s = _
  simp [execRegisterWrite, ideDrops_fw, Nat.not_le.mpr ha, h4, writeSnap_none s .fw _ hs]

/-- The host writes a word to a register. -/
theorem exec_write_host {s : State} {addr : Nat} (v : Word32) (hr : ReachesCsr s .host addr) (h4 : addr % 4 = 0)
    (hs : ∀ e ∈ snapRegs, e.1 ≠ addr) : exec (.registerWrite .host addr 4 v) s = s.writeHost addr v.toNat := by
  have ha : inAperture addr = false := hr.window.resolve_left (by decide)
  show execRegisterWrite .host addr 4 v s = _
  simp [execRegisterWrite, ha, hr.taken, Nat.not_le.mpr hr.below, h4, writeSnap_none s .host _ hs]

/- ### Every access completes -/

theorem Completes.next (s : State) : Completes (.next s) := ⟨s, rfl⟩

theorem Completes.ite {c : Prop} [Decidable c] {a b : Res} (ha : Completes a) (hb : Completes b) :
    Completes (if c then a else b) := by split <;> assumption

theorem Completes.dite {c : Prop} [Decidable c] {a : c → Res} {b : ¬c → Res} (ha : ∀ h, Completes (a h)) (hb : ∀ h, Completes (b h)) :
    Completes (if h : c then a h else b h) := by
  split
  · exact ha _
  · exact hb _

theorem State.writeLink_completes (s : State) (n : Fin 36) (a v : Nat) : Completes (s.writeLink n a v) :=
  .ite (.ite (.next _) (.ite (.next _) (.ite (.next _) (.next _)))) (.ite (.next _) (.next _))

theorem State.writeRecovery_completes (s : State) (v : Nat) : Completes (s.writeRecovery v) :=
  .ite (.next _) (.ite (.next _) (.next _))

theorem State.writeEngine_completes (s : State) (m : Fin 2) (a v : Nat) : Completes (s.writeEngine m a v) :=
  .ite (.ite (.next _) (.next _)) (.ite (.next _) (.next _))

theorem State.writeFw_completes (s : State) (a v : Nat) : Completes (s.writeFw a v) := by
  unfold State.writeFw
  refine .ite (.next _) (.dite (fun _ => s.writeLink_completes _ a v) (fun _ => ?_))
  refine .ite (.ite (.next _) (.next _)) (.ite (.next _) (.ite (.next _) (.ite (.next _) (.ite (.next _) (.ite (.next _) ?_)))))
  refine .ite (.ite (.next _) (.next _)) (.ite (.ite (.next _) (.next _)) (.ite (.next _) (.ite (s.writeRecovery_completes v) ?_)))
  exact .ite (.next _) (.ite (s.writeEngine_completes 0 a v) (.ite (s.writeEngine_completes 1 a v) (.next _)))

theorem State.writeHost_completes (s : State) (a v : Nat) : Completes (s.writeHost a v) :=
  .ite (.next _) (.ite (.next _) (.ite (.next _) (.next _)))

theorem exec_read_completes (port : Port) (addr : Nat) (s : State) : Completes (exec (.rcFieldRead port addr) s) :=
  .ite (.next _) (.next _)

theorem exec_write_completes (port : Port) (addr size : Nat) (v : Word32) (s : State) :
    Completes (exec (.registerWrite port addr size v) s) := by
  show Completes (execRegisterWrite port addr size v s)
  unfold execRegisterWrite
  refine .ite (.next _) (.ite (.next _) (.ite (.next _) (.ite (.next _) (.ite (.next _) ?_))))
  split
  · exact .next _
  · cases port
    · exact s.writeHost_completes _ _
    · exact s.writeFw_completes _ _

end Sys2Proof.Machine
end

section
/-! SUPPORT. What a stored word changes (R14, R513, R514): the fields of its register by their types, the record whose VALID it
clears, and the LOCK bits of the JB_ block, which are one. -/

namespace Sys2Proof.Machine

/- ### Fields by their types -/

section Fields

variable {locked : Bool} {port : Port} {v : Nat} {s : State} {f : Fld}

/-- An RWL field takes its value unless its block is locked. -/
theorem State.writeField_rwl (hty : f.ty = .rwl) (hlo : f.lo ≠ 31) :
    s.writeField locked port v f = if locked = true then s else s.wr f (f.pick v) := by
  simp [State.writeField, hty, hlo]

/-- A LOCK bit is set by a 1, and no write clears it. -/
theorem State.writeField_lock (hty : f.ty = .rwl) (hlo : f.lo = 31) (hw : f.width = 1) :
    s.writeField locked port v f = if locked = true ∨ f.pick v = 0 then s else s.wr f (f.pick v) := by
  cases locked <;> simp [State.writeField, hty, hlo, hw]

theorem State.writeField_ro (hty : f.ty = .ro) : s.writeField locked port v f = s := by
  simp only [State.writeField, hty]

theorem State.writeField_w1c (hty : f.ty = .w1c) : s.writeField locked port v f = s.wr f (s.rd f - (s.rd f &&& f.pick v)) := by
  simp only [State.writeField, hty]

/-- A select register takes the value for the port that writes it. -/
theorem State.writeField_select (hty : f.ty = .rw) (hd : f.dual = true) :
    s.writeField locked port v f = s.wrPort port f (f.pick v) := by
  simp [State.writeField, hty, hd]

end Fields

/-- A flag that is written with a 1 reads 0 (R14). -/
theorem mod_two_sub_and_one (x : Nat) : (x - (x &&& 1)) % 2 = 0 := by
  rw [Nat.and_one_is_mod]
  omega

/- ### The LOCK bits of the JB_ block -/

def jbLocks : List Fld := [Reg.JB_CTL_LOCK, Reg.JB_RCV_CTL_LOCK]

theorem Frame.tieLocks {fs : List Fld} {ps : List StatePart} {s x : State} (h : Frame fs ps s x) (hf : ∀ f ∈ jbLocks, f ∈ fs) :
    Frame fs ps s x.tieLocks :=
  have h0 : Reg.JB_CTL_LOCK ∈ fs := hf _ (by simp [jbLocks])
  have h1 : Reg.JB_RCV_CTL_LOCK ∈ fs := hf _ (by simp [jbLocks])
  Frame.ite _ ((h.flag h0).flag h1) h

theorem State.tieLocks_frame (s : State) : Frame jbLocks [] s s.tieLocks := (Frame.refl ..).tieLocks (fun _ h => h)

/-- The locks' tie leaves every other field. -/
theorem State.rd_tieLocks (s : State) {f : Fld} (hf : f.key ∉ jbLocks.map Fld.key) : s.tieLocks.rd f = s.rd f :=
  s.tieLocks_frame.rd f hf

/-- A set LOCK bit of the block is both. -/
theorem State.tieLocks_locked {s : State} (h : s.on Reg.JB_CTL_LOCK = true) :
    s.tieLocks.on Reg.JB_CTL_LOCK = true ∧ s.tieLocks.on Reg.JB_RCV_CTL_LOCK = true := by
  have e : s.tieLocks = (s.flag Reg.JB_CTL_LOCK).flag Reg.JB_RCV_CTL_LOCK := if_pos (by simp [h])
  rw [e, State.on, State.rd_flag_ne _ (by decide)]
  simp [State.on, State.flag, Reg.JB_CTL_LOCK, Reg.JB_RCV_CTL_LOCK]

/- ### Words without a guard and without a record -/

/-- Select registers, of which each port has a copy (R515). -/
def selectFields : List Fld := [Reg.AT_LSEL_LINK, Reg.TK_SEL_TREE, Reg.MN_TSEL_TID, Reg.SC_MSEL_INDEX, Reg.ID_SEL_DIE]

/-- Fields of registers that firmware writes with no effect beside the store, and of which only PT_ERR holds a record. -/
def plainFields : List Fld := Reg.AT_LIMIT_ALIGN :: Reg.JB_CTL_GRACE :: Reg.PT_ERR_VALID :: selectFields

/-- The registers of these fields lie among the registers, and none is a SNAP register. -/
theorem plainFields_place {f : Fld} (hf : f ∈ plainFields) :
    f.addr < 0x800000 ∧ f.addr % 4 = 0 ∧ ∀ e ∈ snapRegs, e.1 ≠ f.addr := by
  have : ∀ f ∈ plainFields, f.addr < 0x800000 ∧ f.addr % 4 = 0 ∧ ∀ e ∈ snapRegs, e.1 ≠ f.addr := by decide
  exact this f hf

theorem State.writeFw_plain (s : State) (v : Nat) : ∀ f ∈ plainFields, s.writeFw f.addr v = .next (s.storeWord .fw f.addr v) := by
  simp only [plainFields, selectFields, List.forall_mem_cons]
  exact ⟨rfl, rfl, rfl, rfl, rfl, rfl, rfl, rfl, List.forall_mem_nil _⟩

theorem exec_write_plain {f : Fld} (hf : f ∈ plainFields) (v : Word32) (s : State) :
    exec (.registerWrite .fw f.addr 4 v) s = .next (s.storeWord .fw f.addr v.toNat) := by
  obtain ⟨ha, h4, hs⟩ := plainFields_place hf
  rw [exec_write_fw s v (Nat.lt_trans ha (by decide)) h4 hs, State.writeFw_plain s _ f hf]

/-- No part of such a word is guarded. -/
theorem State.guardWord_plain (s : State) (v : Nat) : ∀ f ∈ plainFields, s.guardWord f.addr v = v := by
  simp only [plainFields, selectFields, List.forall_mem_cons]
  exact ⟨rfl, rfl, rfl, rfl, rfl, rfl, rfl, rfl, List.forall_mem_nil _⟩

theorem State.clearRecord_plain (s : State) : ∀ f ∈ plainFields, f ≠ Reg.PT_ERR_VALID → s.clearRecord f.addr = s := by
  simp only [plainFields, selectFields, List.forall_mem_cons]
  exact ⟨fun _ => rfl, fun _ => rfl, fun h => absurd rfl h, fun _ => rfl, fun _ => rfl, fun _ => rfl, fun _ => rfl, fun _ => rfl,
    List.forall_mem_nil _⟩

theorem State.storeWord_plain (s : State) (port : Port) (v : Nat) {f : Fld} (hf : f ∈ plainFields) (hn : f ≠ Reg.PT_ERR_VALID) :
    s.storeWord port f.addr v =
      ((Reg.fieldsAt f.addr).foldl (fun x f' => x.writeField (s.lockedAt f.addr) port v f') s).tieLocks := by
  rw [State.storeWord, State.guardWord_plain s v f hf]
  exact congrArg State.tieLocks (State.clearRecord_plain _ f hf hn)

/- ### What each of these words stores -/

theorem Fld.pick_mod (f : Fld) (v : Nat) : f.pick v % 2 ^ f.width = f.pick v := Nat.mod_mod _ _

/-- A field without a copy for the host is all that a write of it changes. -/
theorem Frame.writeField {fs : List Fld} {ps : List StatePart} {s x : State} (h : Frame fs ps s x) {f : Fld} (hf : f ∈ fs)
    (hd : f.dual = false) (locked : Bool) (port : Port) (v : Nat) : Frame fs ps s (x.writeField locked port v f) := by
  unfold State.writeField
  cases f.ty with
  | rw =>
    rw [hd]
    exact h.wr hf _
  | rwl => exact Frame.ite _ h (Frame.ite _ h (h.wr hf _))
  | w1c => exact h.wr hf _
  | ro | wo | rc => exact h

theorem Frame.foldl_writeField {l : List Fld} (hl : ∀ f ∈ l, f.dual = false) (locked : Bool) (port : Port) (v : Nat) (s : State) :
    Frame l [] s (l.foldl (fun x f => x.writeField locked port v f) s) :=
  List.foldlRecOn (motive := Frame l [] s) l _ (Frame.refl ..) (fun _ hx f hf => hx.writeField hf (hl f hf) locked port v)

/-- RWL fields none of which is a LOCK bit: each takes its part of the word, or while locked none does. -/
theorem State.rd_foldl_writeField_rwl {l : List Fld} (hl : ∀ f ∈ l, f.ty = .rwl ∧ f.lo ≠ 31 ∧ f.dual = false)
    (hn : (l.map Fld.key).Nodup) (locked : Bool) (port : Port) (v : Nat) (s : State) {f : Fld} (hf : f ∈ l) :
    (l.foldl (fun x f' => x.writeField locked port v f') s).rd f = if locked = true then s.rd f else f.pick v := by
  induction l generalizing s with
  | nil => exact absurd hf List.not_mem_nil
  | cons g l ih =>
    obtain ⟨⟨hty, hlo, -⟩, htail⟩ := List.forall_mem_cons.mp hl
    obtain ⟨hg, hnt⟩ := List.nodup_cons.mp hn
    rcases List.mem_cons.mp hf with rfl | hf
    · have hframe := Frame.foldl_writeField (fun f' h' => (htail f' h').2.2) locked port v (s.writeField locked port v f)
      rw [List.foldl_cons, hframe.rd f hg, State.writeField_rwl hty hlo]
      split
      · rfl
      · rw [State.rd_wr_same, Fld.pick_mod]
    · rw [List.foldl_cons, ih htail hnt _ hf, State.writeField_rwl hty hlo]
      split <;> rfl

def limitFields : List Fld := [Reg.AT_LIMIT_ALIGN, Reg.AT_LIMIT_HOLD_ERR, Reg.AT_LIMIT_PARENT_LOSS, Reg.AT_LIMIT_ROOT_LOSS]

theorem fieldsAt_limit : Reg.fieldsAt Reg.AT_LIMIT_ALIGN.addr = limitFields := by decide +kernel

theorem limitFields_types : ∀ f ∈ limitFields, f.ty = .rwl ∧ f.lo ≠ 31 ∧ f.dual = false := by decide

/-- A write of the time limits (R46): each takes its part of the word, or while AT_CTL is locked none does. -/
theorem State.storeWord_limit (s : State) (v : Nat) :
    (∀ f ∈ limitFields, (s.storeWord .fw Reg.AT_LIMIT_ALIGN.addr v).rd f =
      if s.on Reg.AT_CTL_LOCK = true then s.rd f else f.pick v) ∧
    Frame (limitFields ++ jbLocks) [] s (s.storeWord .fw Reg.AT_LIMIT_ALIGN.addr v) := by
  rw [State.storeWord_plain s .fw v (by simp [plainFields]) (by decide), fieldsAt_limit]
  refine ⟨fun f hf => ?_, ?_⟩
  · have hk : ∀ f ∈ limitFields, f.key ∉ jbLocks.map Fld.key := by decide
    rw [State.rd_tieLocks _ (hk f hf), State.rd_foldl_writeField_rwl limitFields_types (by decide) _ _ _ _ hf]
    rfl
  · exact ((Frame.foldl_writeField (fun f hf => (limitFields_types f hf).2.2) _ _ _ s).mono
      (fun _ h => List.mem_append_left _ h) (by simp)).tieLocks (fun _ h => List.mem_append_right _ h)

theorem fieldsAt_grace : Reg.fieldsAt Reg.JB_CTL_GRACE.addr = [Reg.JB_CTL_GRACE, Reg.JB_CTL_UNATTENDED, Reg.JB_CTL_LOCK] := by
  decide +kernel

/-- The write of JB_CTL that locks the block also writes its fields (R513). -/
theorem State.storeWord_jbCtl_unlocked {s : State} {v : Nat} (hl : s.on Reg.JB_CTL_LOCK = false) (hv : v / 2 ^ 31 % 2 = 1) :
    s.storeWord .fw Reg.JB_CTL_GRACE.addr v = (((s.wr Reg.JB_CTL_GRACE (Reg.JB_CTL_GRACE.pick v)).wr Reg.JB_CTL_UNATTENDED
      (Reg.JB_CTL_UNATTENDED.pick v)).wr Reg.JB_CTL_LOCK 1).tieLocks := by
  have hlock : s.lockedAt Reg.JB_CTL_GRACE.addr = false := hl
  have hp : Reg.JB_CTL_LOCK.pick v = 1 := hv
  rw [State.storeWord_plain s .fw v (by simp [plainFields]) (by decide), fieldsAt_grace, hlock]
  simp only [List.foldl]
  rw [State.writeField_rwl (f := Reg.JB_CTL_GRACE) rfl (by decide), State.writeField_rwl (f := Reg.JB_CTL_UNATTENDED) rfl (by decide),
    State.writeField_lock (f := Reg.JB_CTL_LOCK) rfl rfl rfl, hp]
  rfl

/-- Once locked, a write of JB_CTL changes nothing but the tie of the locks. -/
theorem State.storeWord_jbCtl_locked {s : State} (v : Nat) (hl : s.on Reg.JB_CTL_LOCK = true) :
    s.storeWord .fw Reg.JB_CTL_GRACE.addr v = s.tieLocks := by
  have hlock : s.lockedAt Reg.JB_CTL_GRACE.addr = true := hl
  rw [State.storeWord_plain s .fw v (by simp [plainFields]) (by decide), fieldsAt_grace, hlock]
  simp only [List.foldl]
  rw [State.writeField_rwl (f := Reg.JB_CTL_GRACE) rfl (by decide), State.writeField_rwl (f := Reg.JB_CTL_UNATTENDED) rfl (by decide),
    State.writeField_lock (f := Reg.JB_CTL_LOCK) rfl rfl rfl]
  rfl

def ptErrFields : List Fld := [Reg.PT_ERR_CODE, Reg.PT_ERR_WHERE, Reg.PT_ERR_VALID]

theorem fieldsAt_ptErr : Reg.fieldsAt Reg.PT_ERR_VALID.addr = ptErrFields := by decide +kernel

/-- PT_ERR with VALID at 0 is cleared. -/
theorem State.clearRecord_ptErr {s : State} (h : s.on Reg.PT_ERR_VALID = false) :
    s.clearRecord Reg.PT_ERR_VALID.addr = ((s.wr Reg.PT_ERR_CODE 0).wr Reg.PT_ERR_WHERE 0).wr Reg.PT_ERR_VALID 0 := by
  unfold State.clearRecord
  rw [if_neg (fun e => absurd e.1 (by decide)), if_pos ⟨rfl, by simp [h]⟩, fieldsAt_ptErr]
  rfl

/-- Of a word with bit 31 set PT_ERR takes that VALID is cleared. -/
theorem State.foldl_writeField_ptErr (s : State) (locked : Bool) {v : Nat} (hv : v / 2 ^ 31 % 2 = 1) :
    ptErrFields.foldl (fun x f => x.writeField locked .fw v f) s =
      s.wr Reg.PT_ERR_VALID (s.rd Reg.PT_ERR_VALID - (s.rd Reg.PT_ERR_VALID &&& 1)) := by
  have hp : Reg.PT_ERR_VALID.pick v = 1 := hv
  simp only [ptErrFields, List.foldl]
  rw [State.writeField_ro (f := Reg.PT_ERR_CODE) rfl, State.writeField_ro (f := Reg.PT_ERR_WHERE) rfl,
    State.writeField_w1c (f := Reg.PT_ERR_VALID) rfl, hp]

/-- Clearing VALID of PT_ERR clears the record (R514). -/
theorem State.storeWord_ptErr {s : State} {v : Nat} (hv : v / 2 ^ 31 % 2 = 1) :
    (∀ f ∈ ptErrFields, (s.storeWord .fw Reg.PT_ERR_VALID.addr v).rd f = 0) ∧
    Frame (ptErrFields ++ jbLocks) [] s (s.storeWord .fw Reg.PT_ERR_VALID.addr v) := by
  have hoff : (s.wr Reg.PT_ERR_VALID (s.rd Reg.PT_ERR_VALID - (s.rd Reg.PT_ERR_VALID &&& 1))).on Reg.PT_ERR_VALID = false := by
    rw [State.on, State.rd_wr_same, show 2 ^ Reg.PT_ERR_VALID.width = 2 from rfl, mod_two_sub_and_one]
    rfl
  have hmem : ∀ f ∈ ptErrFields, f ∈ ptErrFields ++ jbLocks := fun _ h => List.mem_append_left _ h
  rw [State.storeWord, State.guardWord_plain s v _ (by simp [plainFields]), fieldsAt_ptErr, s.foldl_writeField_ptErr _ hv,
    State.clearRecord_ptErr hoff]
  refine ⟨?_, Frame.tieLocks (((((Frame.refl ..).wr (hmem _ (by decide)) _).wr (hmem _ (by decide)) _).wr (hmem _ (by decide)) _).wr
    (hmem _ (by decide)) _) (fun _ h => List.mem_append_right _ h)⟩
  have hk : ∀ f ∈ ptErrFields, f.key ∉ jbLocks.map Fld.key := by decide
  intro f hf
  rw [State.rd_tieLocks _ (hk f hf)]
  simp only [ptErrFields, List.mem_cons, List.not_mem_nil, or_false] at hf
  rcases hf with rfl | rfl | rfl
  · rw [State.rd_wr_ne _ _ (by decide), State.rd_wr_ne _ _ (by decide), State.rd_wr_same, Nat.zero_mod]
  · rw [State.rd_wr_ne _ _ (by decide), State.rd_wr_same, Nat.zero_mod]
  · rw [State.rd_wr_same, Nat.zero_mod]

/- ### Select registers -/

/-- A select register: one field in its word, which each port holds and writes for itself, and no part of a LOCK bit. -/
structure IsSelect (f : Fld) : Prop where
  alone : Reg.fieldsAt f.addr = [f]
  ty : f.ty = .rw
  dual : f.dual = true
  live : f.isSnap = false
  fwKey : f.portKey .fw ∉ jbLocks.map Fld.key
  hostKey : f.portKey .host ∉ jbLocks.map Fld.key
  host : hostMayWrite f.addr = true
  key : f.addr ≠ Reg.BI_RST_KEY.addr
  debug : f.addr ≠ Reg.SC_DBG_CTL_REQ.addr

theorem selectFields_isSelect {f : Fld} (h : f ∈ selectFields) : IsSelect f := by
  have : ∀ f ∈ selectFields, Reg.fieldsAt f.addr = [f] ∧ f.ty = .rw ∧ f.dual = true ∧ f.isSnap = false ∧
      f.portKey .fw ∉ jbLocks.map Fld.key ∧ f.portKey .host ∉ jbLocks.map Fld.key ∧ hostMayWrite f.addr = true ∧
      f.addr ≠ Reg.BI_RST_KEY.addr ∧ f.addr ≠ Reg.SC_DBG_CTL_REQ.addr := by decide +kernel
  obtain ⟨h1, h2, h3, h4, h5, h6, h7, h8, h9⟩ := this f h
  exact ⟨h1, h2, h3, h4, h5, h6, h7, h8, h9⟩

/-- A write of a select register is one of the port's copy. -/
theorem exec_write_select {s : State} {port : Port} {f : Fld} (hf : f ∈ selectFields) (hd : s.ideDrops port = false) (v : Word32) :
    exec (.registerWrite port f.addr 4 v) s = .next (s.wrPort port f (f.pick v.toNat)).tieLocks := by
  have hs := selectFields_isSelect hf
  have hp : f ∈ plainFields := List.mem_cons_of_mem _ (List.mem_cons_of_mem _ (List.mem_cons_of_mem _ hf))
  obtain ⟨ha, h4, hsnap⟩ := plainFields_place hp
  have hn : f ≠ Reg.PT_ERR_VALID := fun e => absurd hs.ty (by rw [e]; decide)
  have hw : s.storeWord port f.addr v.toNat = (s.wrPort port f (f.pick v.toNat)).tieLocks := by
    rw [State.storeWord_plain s port _ hp hn, hs.alone]
    simp only [List.foldl]
    rw [State.writeField_select hs.ty hs.dual]
  cases port with
  | fw => rw [exec_write_plain hp, hw]
  | host =>
    rw [exec_write_host v (.low hd ha) h4 hsnap, State.writeHost, if_neg hs.key, if_neg hs.debug, if_pos hs.host, hw]

/-- The locks' tie leaves each port's copy of a select register. -/
theorem State.rdPort_tieLocks (s : State) (p : Port) {f : Fld} (hf : IsSelect f) : s.tieLocks.rdPort p f = s.rdPort p f := by
  simp only [State.rdPort_eq _ _ hf.live, smGet]
  cases p with
  | host => rw [s.tieLocks_frame.regs _ hf.hostKey]
  | fw => rw [s.tieLocks_frame.regs _ hf.fwKey]

end Sys2Proof.Machine
end

section
/-! SUPPORT. The words of BAR4 after the driver has written one (R421–R423, R426). -/

namespace Sys2Proof.Machine

theorem State.b4_setB4_same (s : State) (o : Nat) {w : Nat} (hw : w < 2 ^ 32) : (s.setB4 o w).b4 o = w := by
  simp only [State.b4, State.setB4, smGet_set_same, BitVec.toNat_ofNat]
  exact Nat.mod_eq_of_lt hw

theorem State.b4_setB4_ne (s : State) {o p : Nat} (w : Nat) (h : p ≠ o) : (s.setB4 o w).b4 p = s.b4 p :=
  congrArg BitVec.toNat (smGet_set_ne s.host.bar4 _ _ _ h)

/-- A word whose bytes are all the driver's is taken as it is written. -/
theorem mergeB4_whole (old : Nat) {o v : Nat} (h : ∀ i, driverByte o i = true) (hv : v < 2 ^ 32) : mergeB4 old o 0 4 v = v := by
  simp [mergeB4, List.range_succ, h]
  omega

/-- Of a word whose low half is the driver's the high half stays. -/
theorem mergeB4_low {old o v : Nat} (h : ∀ i, driverByte o i = decide (i < 2)) (ho : old < 2 ^ 32) :
    mergeB4 old o 0 4 v = v % 65536 + 65536 * (old / 65536) := by
  simp [mergeB4, List.range_succ, h]
  omega

/-- Only the half-word TAIL of a slot is not the driver's in a driver's word (R426). -/
theorem driverByte_whole {o : Nat} (hw : driverWord o = true) (h : o < 0x10000 ∨ o % 0x1000 ≠ 8) (i : Nat) :
    driverByte o i = true := by
  have : ¬(0x10000 ≤ o ∧ o % 0x1000 = 8) := by omega
  simp only [driverByte, hw, this, decide_false, Bool.false_and, Bool.not_false, Bool.and_self]

/-- HEAD and TAIL share a driver's word, of which HEAD is the driver's. -/
theorem slotHead_driver {k : Nat} (hk : k < 16) : driverWord (slotBase k + 8) = true ∧
    ∀ i, driverByte (slotBase k + 8) i = decide (i < 2) := by
  have hh : 0x10000 ≤ slotBase k + 8 ∧ slotBase k + 8 < 0x20000 ∧ (slotBase k + 8) % 0x1000 = 8 := by
    unfold slotBase
    omega
  have hw : driverWord (slotBase k + 8) = true := by simp [driverWord, hh]
  refine ⟨hw, fun i => ?_⟩
  simp [driverByte, hw, hh, ← decide_not]

/-- The driver's write of a word of BAR4: the word, and what a heartbeat and a request leave. -/
structure DriverWrote (s t : State) (o w : Nat) : Prop where
  word : t.b4 o = w
  others : ∀ p, p ≠ o → t.b4 p = s.b4 p
  beat : t.host.hbAt = if o = b4Heartbeat ∧ w ≠ s.b4 o then s.now else s.host.hbAt
  request : t.host.request = if o = b4Attach ∧ (w = 1 ∨ w = 2) then w else s.host.request
  frame : Frame [] [.host] s t

theorem Frame.host {fs : List Fld} {ps : List StatePart} {s x : State} (h : Frame fs ps s x) (hp : .host ∈ ps) (y : HostSt) :
    Frame fs ps s { x with host := y } := by
  refine h.upd rfl (fun p hq => ?_)
  cases p
  case host => exact absurd hp hq
  all_goals rfl

theorem State.writeB4_driver (s : State) {o v w : Nat} (h4 : o % 4 = 0) (hw : driverWord o = true)
    (hm : mergeB4 (s.b4 o) o 0 4 v = w) (hlt : w < 2 ^ 32) : DriverWrote s (s.writeB4 o 4 v) o w := by
  have ho : o / 4 * 4 = o := by omega
  have hword := s.b4_setB4_same o hlt
  have hothers : ∀ p, p ≠ o → (s.setB4 o w).b4 p = s.b4 p := fun p hp => s.b4_setB4_ne w hp
  have hframe : Frame [] [.host] s (s.setB4 o w) := (Frame.refl ..).host (by simp) _
  unfold State.writeB4
  simp only [ho, h4, hm]
  rw [if_neg (by simp [hw])]
  split
  case isTrue hb =>
    have : ¬(o = b4Attach ∧ (w = 1 ∨ w = 2)) := fun e => absurd (hb.1.symm.trans e.1) (by decide)
    exact ⟨hword, hothers, (if_pos hb).symm, (if_neg this).symm, hframe.host (by simp) _⟩
  case isFalse hb =>
    split
    case isTrue ha => exact ⟨hword, hothers, (if_neg hb).symm, (if_pos ha).symm, hframe.host (by simp) _⟩
    case isFalse ha => exact ⟨hword, hothers, (if_neg hb).symm, (if_neg ha).symm, hframe⟩

theorem State.writeB4_other (s : State) {o : Nat} (size v : Nat) (h4 : o % 4 = 0) (hw : driverWord o = false) :
    s.writeB4 o size v = s := by
  have ho : o / 4 * 4 = o := by omega
  simp only [State.writeB4, ho]
  exact if_pos (.inr (by simp [hw]))

variable {s : State} {o : Nat} (hd : s.ideDrops .host = false)
include hd

/-- A host write behind the CSR space is one of BAR4. -/
theorem exec_write_b4_offset (o size : Nat) (v : Word32) :
    exec (.registerWrite .host (bar4Base + o) size v) s = .next (s.writeB4 o size v.toNat) := by
  rw [exec_write_b4 hd (Nat.le_add_right ..), Nat.add_sub_cancel_left]

/-- The driver's write of HEAD leaves TAIL (R426). -/
theorem exec_write_slotHead {k : Nat} (hk : k < 16) (v : Word32) :
    ∃ t, exec (.registerWrite .host (bar4Base + (slotBase k + 8)) 4 v) s = .next t ∧ t.slotHead k = v.toNat % 65536 ∧
      t.slotTail k = s.slotTail k ∧ (∀ p, p ≠ slotBase k + 8 → t.b4 p = s.b4 p) ∧ Frame [] [.host] s t := by
  obtain ⟨hw, hb⟩ := slotHead_driver hk
  have hold : s.b4 (slotBase k + 8) < 2 ^ 32 := BitVec.isLt _
  have h4 : (slotBase k + 8) % 4 = 0 := by
    unfold slotBase
    omega
  have h := s.writeB4_driver (v := v.toNat) h4 hw (mergeB4_low hb hold) (by omega)
  refine ⟨_, exec_write_b4_offset hd _ _ v, ?_, ?_, h.others, h.frame⟩
  · rw [State.slotHead, h.word]
    omega
  · rw [State.slotTail, State.slotTail, h.word]
    omega

end Sys2Proof.Machine
end

section
/-! Register accesses (R14, R16, R509–R515): the registers whose write is a command, and the obligation on all accesses. -/

namespace Sys2Proof.Machine

/- ### Registers of a command -/

/-- The registers whose write is the command of a row. -/
def commandRegs : List Nat := [Reg.BI_RST_KEY.addr, Reg.SC_DBG_CTL_REQ.addr, Reg.MN_FAB_ROW_MODE.addr, Reg.PW_LIMIT_MODULE.addr]

theorem commandRegs_place {a : Nat} (h : a ∈ commandRegs) : a < 0x800000 ∧ a % 4 = 0 ∧ ∀ e ∈ snapRegs, e.1 ≠ a := by
  have : ∀ a ∈ commandRegs, a < 0x800000 ∧ a % 4 = 0 ∧ ∀ e ∈ snapRegs, e.1 ≠ a := by decide
  exact this a h

theorem exec_write_command_fw (s : State) {a : Nat} (h : a ∈ commandRegs) (v : Word32) :
    exec (.registerWrite .fw a 4 v) s = s.writeFw a v.toNat := by
  obtain ⟨ha, h4, hs⟩ := commandRegs_place h
  exact exec_write_fw s v (Nat.lt_trans ha (by decide)) h4 hs

/-- A write of BI_RST is a warm reset, on both ports. -/
theorem exec_write_key {s : State} {port : Port} (hd : s.ideDrops port = false) (v : Word32) :
    exec (.registerWrite port Reg.BI_RST_KEY.addr 4 v) s = exec (.warmReset v quietBoot) s := by
  have hm : Reg.BI_RST_KEY.addr ∈ commandRegs := by decide
  obtain ⟨ha, h4, hs⟩ := commandRegs_place hm
  have hv : execWarmReset (BitVec.ofNat 32 v.toNat) quietBoot s = execWarmReset v quietBoot s := by
    rw [BitVec.ofNat_toNat, BitVec.setWidth_eq]
  cases port with
  | fw => exact (exec_write_command_fw s hm v).trans hv
  | host => exact ((exec_write_host v (.low hd ha) h4 hs).trans (if_pos rfl)).trans hv

/-- A write of SC_DBG_CTL is what its bits request, on both ports. -/
theorem exec_write_debug {s : State} {port : Port} (hd : s.ideDrops port = false) (v : Word32) :
    exec (.registerWrite port Reg.SC_DBG_CTL_REQ.addr 4 v) s = .next (s.writeDebug v.toNat) := by
  have hm : Reg.SC_DBG_CTL_REQ.addr ∈ commandRegs := by decide
  obtain ⟨ha, h4, hs⟩ := commandRegs_place hm
  cases port with
  | fw => exact exec_write_command_fw s hm v
  | host =>
    rw [exec_write_host v (.low hd ha) h4 hs, State.writeHost, if_neg (by decide), if_pos rfl]

/-- Each bit of SC_DBG_CTL alone is its command. -/
theorem State.writeDebug_bits (s : State) : s.writeDebug 1 = s.issueNonce ∧ s.writeDebug 2 = s.requestScan ∧ s.writeDebug 4 = s.endUnlock :=
  ⟨rfl, rfl, rfl⟩

theorem exec_write_rowMap (s : State) (v : Word32) :
    exec (.registerWrite .fw Reg.MN_FAB_ROW_MODE.addr 4 v) s = exec (.rowMapWrite v) s := by
  have hv : execRowMapWrite (BitVec.ofNat 32 v.toNat) s = execRowMapWrite v s := by rw [BitVec.ofNat_toNat, BitVec.setWidth_eq]
  exact (exec_write_command_fw s (by decide) v).trans hv

theorem exec_write_powerLimit (s : State) (v : Word32) :
    exec (.registerWrite .fw Reg.PW_LIMIT_MODULE.addr 4 v) s = exec (.powerLimitWrite v) s := by
  have hv : execPowerLimitWrite (BitVec.ofNat 32 v.toNat) s = execPowerLimitWrite v s := by rw [BitVec.ofNat_toNat, BitVec.setWidth_eq]
  exact (exec_write_command_fw s (by decide) v).trans hv

/-- The SNAP register of each block. -/
def snapField : SnapBlock → Fld
  | .at_ => Reg.AT_SNAP_SNAP
  | .tk => Reg.TK_SNAP_SNAP
  | .mn => Reg.MN_SNAP_SNAP
  | .bb => Reg.BB_SNAP_SNAP
  | .sp m => Reg.SP_SNAP_SNAP m.val
  | .sq m => Reg.SQ_SNAP_SNAP m.val
  | .hv m => Reg.HV_SNAP_SNAP m.val
  | .pw => Reg.PW_SNAP_SNAP
  | .sc => Reg.SC_SNAP_SNAP

theorem snapField_place (b : SnapBlock) : (snapField b).addr < 0x800000 ∧ (snapField b).addr % 4 = 0 ∧
    snapRegs.find? (fun e => e.1 == (snapField b).addr) = some ((snapField b).addr, b) := by
  have : ∀ b ∈ snapBlocks, (snapField b).addr < 0x800000 ∧ (snapField b).addr % 4 = 0 ∧
    snapRegs.find? (fun e => e.1 == (snapField b).addr) = some ((snapField b).addr, b) := by decide
  exact this b (mem_snapBlocks b)

/-- A write of a SNAP register is the SNAP command of its block when it sets SNAP, and nothing else. -/
theorem exec_write_snapCommand {s : State} {port : Port} (hd : s.ideDrops port = false) (v : Word32) {x : SnapBlock × Instr}
    (hx : x ∈ snapCommands port) :
    exec (.registerWrite port (snapField x.1).addr 4 v) s = if v.toNat % 2 = 1 then exec x.2 s else .next s := by
  obtain ⟨ha, h4, hb⟩ := snapField_place x.1
  rw [exec_write_snap (.low hd ha) h4 hb, exec_snapCommand s port x hx]
  exact apply_ite _ _ _ _

/- ### Registers of the idle phase -/

theorem idleOnly_place {a : Nat} (h : idleOnly a = true) : a < bar4Base ∧ ∀ e ∈ snapRegs, e.1 ≠ a := by
  have hsnap : ∀ e ∈ snapRegs, idleOnly e.1 = false := by decide
  refine ⟨?_, fun e he ea => Bool.false_ne_true ((hsnap e he).symm.trans (ea ▸ h))⟩
  have hlist : ∀ x ∈ [Reg.TK_LEAD_HALL.addr, Reg.TK_HEM_WIN.addr, Reg.TK_WDOG_LIMIT.addr, Reg.MN_SR_SEED_LO_VALUE.addr,
    Reg.MN_SR_SEED_HI_VALUE.addr, Reg.MN_NUM_CTL_LIMIT.addr], x < bar4Base := by decide
  have hbind : (Reg.TK_BIND_KIND 31).addr < bar4Base := by decide
  rcases Bool.or_eq_true_iff.mp h with h | h
  · exact hlist a (List.contains_iff_mem.mp h)
  · exact Nat.lt_of_le_of_lt (of_decide_eq_true h).2 hbind

/-- Outside the idle phase a write of such a register is only counted. -/
theorem exec_write_idleOnly {s : State} {a : Nat} (v : Word32) (h : idleOnly a = true) (h4 : a % 4 = 0) (hp : s.phase ≠ phIdle) :
    exec (.registerWrite .fw a 4 v) s = .next (s.bump Reg.FW_CNT_RANGE_HOST 1) := by
  obtain ⟨ha, hs⟩ := idleOnly_place h
  exact (exec_write_fw s v ha h4 hs).trans (if_pos ⟨h, hp⟩)

/-- The host writes nothing outside what it may write (R510). -/
theorem exec_write_forbidden {s : State} {addr : Nat} (size : Nat) (v : Word32) (hr : ReachesCsr s .host addr)
    (hm : hostMayWrite addr = false) (hk : addr ≠ Reg.BI_RST_KEY.addr) (hg : addr ≠ Reg.SC_DBG_CTL_REQ.addr)
    (hs : ∀ e ∈ snapRegs, e.1 ≠ addr) : exec (.registerWrite .host addr size v) s = .next s := by
  by_cases hshape : size ≠ 4 ∨ addr % 4 ≠ 0
  · exact exec_write_misshaped hr hshape
  · obtain ⟨rfl, h4⟩ : size = 4 ∧ addr % 4 = 0 := by omega
    rw [exec_write_host v hr h4 hs, State.writeHost, if_neg hk, if_neg hg, if_neg (by simp [hm])]

/- ### The obligation -/

/-- A firmware read of a register: its answer, its RC fields, and what it leaves (R14, R510). -/
theorem exec_read_fw_effect (s : State) {addr : Nat} (h4 : addr % 4 = 0) (h : addr < bar4Base) :
    ∃ t, exec (.rcFieldRead .fw addr) s = .next t ∧ t.out = s.out ++ [.answer .fw (natLe (s.readWord .fw addr) 4) false] ∧
      (∀ f ∈ Reg.fieldsAt addr, f.ty = .rc → f.reset = 0 → f ≠ Reg.AT_LSTAT_REJ → f ≠ Reg.FW_CORE_STAT_THAWS → t.rd f = 0) ∧
      ((∀ f ∈ Reg.fieldsAt addr, f.ty ≠ .rc) → Frame [] [.out] s t) ∧ Frame (Reg.fieldsAt addr) [.out, .links, .host] s t := by
  have hclear := Frame.foldl_clearRc (Reg.fieldsAt addr) (s.emit (.answer .fw (natLe (s.readWord .fw addr) 4) false))
  have hemit : ∀ fs ps, .out ∈ ps → Frame fs ps s (s.emit (.answer .fw (natLe (s.readWord .fw addr) 4) false)) :=
    fun fs ps hp => (Frame.refl ..).emit hp _
  refine ⟨_, exec_read_fw h4 h, hclear.parts .out (by decide), fun f hf => State.rd_foldl_clearRc _ _ hf, fun hn => ?_, ?_⟩
  · rw [State.foldl_clearRc_id _ _ hn]
    exact hemit _ _ (by simp)
  · exact (hemit _ _ (by simp)).trans (hclear.mono (fun _ h => h) (by simp))

theorem readWord_empty (s : State) (port : Port) {addr : Nat} (h : Reg.fieldsAt addr = []) : s.readWord port addr = 0 := by
  simp only [State.readWord, h, List.foldl]

theorem readField_wo (s : State) (port : Port) {f : Fld} (h : f.ty = .wo) : s.readField port f = 0 := if_pos h

/-- A firmware read behind the registers is logged and reads 0 (R505). -/
theorem exec_read_unmapped_effect (s : State) {addr : Nat} (h4 : addr % 4 = 0) (h : bar4Base ≤ addr) :
    ∃ t, exec (.rcFieldRead .fw addr) s = .next t ∧ t.out = s.out ++ [.answer .fw (natLe 0 4) false] ∧
      Logged s t 1 1 ∧ Frame [Reg.FW_LOG_WP_SEQ, Reg.FW_CNT_LOGDROP_COUNT] [.out, .host, .ring] s t := by
  obtain ⟨hlog, hframe⟩ := s.logUnmapped_csr h
  exact ⟨_, exec_read_unmapped h4 h, congrArg (· ++ _) (hframe.parts .out (by decide)), hlog.emit _,
    (hframe.mono (fun _ h => h) (by simp)).emit (by simp) _⟩

/-- The write of JB_CTL that locks also writes (R513). -/
theorem exec_write_jbCtl_locking {s : State} {v : Word32} (hl : s.on Reg.JB_CTL_LOCK = false) (hv : v.toNat / 2 ^ 31 % 2 = 1) :
    ∃ t, exec (.registerWrite .fw Reg.JB_CTL_GRACE.addr 4 v) s = .next t ∧ t.rd Reg.JB_CTL_GRACE = v.toNat % 256 ∧
      t.on Reg.JB_CTL_LOCK = true ∧ t.on Reg.JB_RCV_CTL_LOCK = true ∧
      Frame [Reg.JB_CTL_GRACE, Reg.JB_CTL_UNATTENDED, Reg.JB_CTL_LOCK, Reg.JB_RCV_CTL_LOCK] [] s t := by
  refine ⟨_, exec_write_plain (by simp [plainFields]) v s, ?_⟩
  rw [State.storeWord_jbCtl_unlocked hl hv]
  have hlock := State.tieLocks_locked (s := ((s.wr Reg.JB_CTL_GRACE (Reg.JB_CTL_GRACE.pick v.toNat)).wr Reg.JB_CTL_UNATTENDED
    (Reg.JB_CTL_UNATTENDED.pick v.toNat)).wr Reg.JB_CTL_LOCK 1) (by simp [State.on, Reg.JB_CTL_LOCK])
  refine ⟨?_, hlock.1, hlock.2, Frame.tieLocks ((((Frame.refl ..).wr (by simp) _).wr (by simp) _).wr (by simp) _) (by simp [jbLocks])⟩
  rw [State.rd_tieLocks _ (by decide), State.rd_wr_ne _ _ (by decide), State.rd_wr_ne _ _ (by decide), State.rd_wr_same, Fld.pick_mod]
  simp [Fld.pick, Reg.JB_CTL_GRACE]

/-- No write unlocks the JB_ block or changes its locked fields (R513). -/
theorem exec_write_jbCtl_locked {s : State} (v : Word32) (hl : s.on Reg.JB_CTL_LOCK = true) :
    ∃ t, exec (.registerWrite .fw Reg.JB_CTL_GRACE.addr 4 v) s = .next t ∧ t.on Reg.JB_CTL_LOCK = true ∧
      Frame [Reg.JB_CTL_LOCK, Reg.JB_RCV_CTL_LOCK] [] s t := by
  refine ⟨_, exec_write_plain (by simp [plainFields]) v s, ?_⟩
  rw [State.storeWord_jbCtl_locked _ hl]
  exact ⟨(State.tieLocks_locked hl).1, s.tieLocks_frame⟩

/-- A write of a select register is for the port that writes it alone (R515). -/
theorem exec_write_select_effect {s : State} {port q : Port} {f : Fld} (hf : f ∈ selectFields) (hq : q ≠ port)
    (hd : s.ideDrops port = false) (v : Word32) :
    ∃ t, exec (.registerWrite port f.addr 4 v) s = .next t ∧ t.rdPort port f = f.pick v.toNat ∧
      t.rdPort q f = s.rdPort q f ∧ ∀ p : StatePart, p.Same s t := by
  have hs := selectFields_isSelect hf
  refine ⟨_, exec_write_select hf hd v, ?_, ?_, fun p => ?_⟩
  · rw [State.rdPort_tieLocks _ _ hs, State.rdPort_wrPort_same, Fld.pick_mod]
  · rw [State.rdPort_tieLocks _ _ hs, State.rdPort_wrPort_other _ _ _ hq]
  · exact (s.wrPort_parts port f _ p).trans ((State.tieLocks_frame _).parts p List.not_mem_nil)

/-- The driver's write of a word that is all its own. -/
theorem exec_write_driver {s : State} {o : Nat} (hd : s.ideDrops .host = false) (h4 : o % 4 = 0) (hw : driverWord o = true)
    (ho : o < 0x10000 ∨ o % 0x1000 ≠ 8) (v : Word32) :
    ∃ t, exec (.registerWrite .host (bar4Base + o) 4 v) s = .next t ∧ DriverWrote s t o v.toNat :=
  ⟨_, exec_write_b4_offset hd o 4 v, s.writeB4_driver h4 hw (mergeB4_whole _ (driverByte_whole hw ho) v.isLt) v.isLt⟩

/-- Settles O52, an access at a time: where it goes (`exec_read_…`, `exec_write_…`), and what the operation there changes. -/
theorem registerAccessesFollowTheirTypes : Obligations.RegisterAccessesFollowTheirTypes := by
  refine ⟨fun port addr size v s => ⟨exec_read_completes port addr s, exec_write_completes port addr size v s⟩,
    fun addr s h4 => ⟨exec_read_aperture, fun hd hb ha => exec_read_host hd h4 hb ha, fun hd hb => exec_read_b4 hd h4 hb,
      fun hd => ⟨_, exec_read_dropped hd, congrArg (· ++ _) s.countDrop_out, s.countDrop_dropCounted.emit _⟩,
      exec_read_unmapped_effect s h4, exec_read_fw_effect s h4, fun port => readWord_empty s port, fun port f => readField_wo s port⟩,
    fun port addr size v s => ⟨fun hd => ⟨_, exec_write_dropped hd, s.countDrop_out, s.countDrop_dropCounted⟩,
      fun hd hb ha => exec_write_misshaped ⟨hd, hb, ha⟩, fun ha => if_pos ⟨rfl, ha⟩,
      fun hb => ⟨_, exec_write_unmapped hb, s.logUnmapped_csr hb⟩,
      fun hd hb ha => exec_write_forbidden size v ⟨hd, hb, .inr ha⟩,
      fun hi ha hp => ⟨_, exec_write_idleOnly v hi ha hp, State.rd_bump_same .., (Frame.refl ..).bump (by simp) 1⟩⟩,
    fun v s => ⟨⟨_, exec_write_plain (by simp [plainFields]) v s, s.storeWord_limit v.toNat⟩, exec_write_jbCtl_locking,
      exec_write_jbCtl_locked v, fun hv => ?_, fun port q hq hd f hf => exec_write_select_effect hf hq hd v, fun port hd => ?_,
      exec_write_rowMap s v, exec_write_powerLimit s v⟩,
    fun o v s hd h4 => ⟨fun hw => ?_, fun hw ho => ?_, fun k hk ho => ho ▸ exec_write_slotHead hd hk v⟩⟩
  · obtain ⟨hrd, hframe⟩ := s.storeWord_ptErr hv
    exact ⟨_, exec_write_plain (by simp [plainFields]) v s, hrd _ (by simp [ptErrFields]), hrd _ (by simp [ptErrFields]),
      hrd _ (by simp [ptErrFields]), hframe.mono (by simp [ptErrFields, jbLocks]) (by simp)⟩
  · obtain ⟨hnonce, hscan, hrelock⟩ := s.writeDebug_bits
    refine ⟨exec_write_key hd v, (exec_write_debug hd 1).trans (congrArg _ hnonce), (exec_write_debug hd 2).trans (congrArg _ hscan),
      (exec_write_debug hd 4).trans (congrArg _ hrelock), ?_⟩
    have hsnap := fun x hx => exec_write_snapCommand (x := x) hd v hx
    simp only [snapCommands, List.forall_mem_cons] at hsnap
    obtain ⟨hat, htk, hmn, hbb, -, hsp, hsq, -, -, hhv, hpw, hsc, -⟩ := hsnap
    simp only [List.forall_mem_cons]
    exact ⟨hat, htk, hmn, hbb, hsp, hsq, hhv, hpw, hsc, List.forall_mem_nil _⟩
  · rw [exec_write_b4_offset hd, s.writeB4_other 4 _ h4 hw]
  · obtain ⟨t, ht, hword, hothers, hbeat, hrequest, hframe⟩ := exec_write_driver hd h4 hw ho v
    exact ⟨t, ht, hword, hothers, hbeat, hrequest, hframe⟩

end Sys2Proof.Machine
end
